-- ==== Sys2Proof/Word.lean ====
section
/-! DEFINITION. The word types of the Iluril A4 and the two kinds of table that the state is made of. -/

namespace Sys2Proof

/-- A byte of memory (R6). -/
abbrev Byte := BitVec 8
/-- A scalar register, an address or an instruction word (R75, R84). -/
abbrev Word := BitVec 64
/-- One lane of a vector register, or a mask of 32 lanes (R75). -/
abbrev Lane := BitVec 32
/-- An encoded 6-bit register field (R85). -/
abbrev Reg := BitVec 6
/-- A run of bytes, lowest address first. -/
abbrev Bytes := List Byte
/-- Start-up steps that fail, each with its attempt (R325, R326). -/
abbrev Failures := List (Nat × Nat)

/-- A sparse map from numbers to words, read as 0 where unlisted; its one canonical form is `SMap.wf` (Machine/Bits.lean). -/
abbrev SMap (w : Nat) := List (Nat × BitVec w)
/-- A table of records by number. -/
abbrev Tab (α : Type) := List (Nat × α)

/-- The predicate fields of an R, I, M or H instruction (R87). -/
structure Pred where
  m : BitVec 3
  pn : Bool
deriving DecidableEq, Repr

/-- The encoding without a clause: m 0, pn 0, which selects every lane (R87, R95). -/
def Pred.all : Pred := { m := 0, pn := false }

end Sys2Proof
end

