-- ==== Sys2Proof/Machine/Bits.lean ====
section
/-! DEFINITION. Sparse maps and tables, byte order (R6), and the small bit operations that the rest of the model uses. -/

namespace Sys2Proof

/-! ## Sparse maps: an unlisted key reads 0 -/

/-- The canonical form: keys strictly rising from `lo`, no zero listed. -/
def SMap.wfFrom {w : Nat} (lo : Nat) : SMap w → Bool
  | [] => true
  | (k, x) :: m => decide (lo ≤ k) && decide (x ≠ 0) && SMap.wfFrom (k + 1) m

def SMap.wf {w : Nat} (m : SMap w) : Bool := SMap.wfFrom 0 m

def SMap.get {w : Nat} (m : SMap w) (k : Nat) : BitVec w :=
  match m with
  | [] => 0
  | (k', x) :: m => if k' = k then x else SMap.get m k

/-- Puts a nonzero value in front. -/
def SMap.cons {w : Nat} (k : Nat) (x : BitVec w) (m : SMap w) : SMap w := if x = 0 then m else (k, x) :: m

/-- A key is forgotten. -/
def SMap.del {w : Nat} (m : SMap w) (k : Nat) : SMap w := List.filter (fun e => e.1 ≠ k) m

/-- Writes one key. Writing 0 removes the entry. -/
def SMap.set {w : Nat} (m : SMap w) (k : Nat) (x : BitVec w) : SMap w :=
  match m with
  | [] => SMap.cons k x []
  | (k', y) :: m => if k' < k then (k', y) :: SMap.set m k x else SMap.cons k x (SMap.del ((k', y) :: m) k)

/-- Writes a run of values at rising keys from `k`. -/
def SMap.setRun {w : Nat} (m : SMap w) (k : Nat) : List (BitVec w) → SMap w
  | [] => m
  | x :: xs => SMap.setRun (SMap.set m k x) (k + 1) xs

/-- The values at `n` keys from `k`. -/
def SMap.getRun {w : Nat} (m : SMap w) (k n : Nat) : List (BitVec w) :=
  (List.range n).map fun i => SMap.get m (k + i)

/-- The canonical map whose value at each key below the list's length is the list's. -/
def SMap.ofListFrom {w : Nat} (k : Nat) : List (BitVec w) → SMap w
  | [] => []
  | x :: xs => SMap.cons k x (SMap.ofListFrom (k + 1) xs)

def SMap.ofList {w : Nat} (xs : List (BitVec w)) : SMap w := SMap.ofListFrom 0 xs

/-- The entries with keys in [lo, hi), moved down by `lo`. -/
def SMap.window {w : Nat} (m : SMap w) (lo hi : Nat) : SMap w :=
  match m with
  | [] => []
  | (k, x) :: m => if k < lo then SMap.window m lo hi else if k < hi then (k - lo, x) :: SMap.window m lo hi else []

/-! ## Tables -/

def Tab.get? {α : Type} (t : Tab α) (k : Nat) : Option α :=
  match t with
  | [] => none
  | (k', x) :: t => if k' = k then some x else Tab.get? t k

def Tab.getD {α : Type} (t : Tab α) (k : Nat) (d : α) : α := (Tab.get? t k).getD d

/-- Writes one record; the table stays in rising order of its numbers. -/
def Tab.put {α : Type} (t : Tab α) (k : Nat) (x : α) : Tab α :=
  match t with
  | [] => [(k, x)]
  | (k', y) :: t => if k' < k then (k', y) :: Tab.put t k x else
      if k' = k then (k, x) :: t else (k, x) :: (k', y) :: t

def Tab.del {α : Type} (t : Tab α) (k : Nat) : Tab α := t.filter fun e => e.1 ≠ k

def Tab.map {α : Type} (f : Nat → α → α) (t : Tab α) : Tab α := List.map (fun e => (e.1, f e.1 e.2)) t

/-- The numbers of the records that a test accepts, in rising order. -/
def Tab.keys {α : Type} (p : Nat → α → Bool) (t : Tab α) : List Nat :=
  (List.filter (fun e => p e.1 e.2) t).map Prod.fst

/-- The first element of a list that a test accepts, with its place. -/
def findAt {α : Type} (p : α → Bool) : List α → Nat → Option (Nat × α)
  | [], _ => none
  | x :: xs, n => if p x then some (n, x) else findAt p xs (n + 1)

def dropAt {α : Type} : List α → Nat → List α
  | [], _ => []
  | _ :: xs, 0 => xs
  | x :: xs, n + 1 => x :: dropAt xs n

/-- Inserts before the first element that does not come before `x`. -/
def insertBy {α : Type} (before : α → α → Bool) (x : α) : List α → List α
  | [] => [x]
  | y :: ys => if before y x then y :: insertBy before x ys else x :: y :: ys

/-- Insertion sort, stable. -/
def sortBy {α : Type} (before : α → α → Bool) : List α → List α
  | [] => []
  | x :: xs => insertBy (fun y x => before y x) x (sortBy before xs)

/-! ## Bytes and words, little-endian (R6) -/

def natOfBytes : Bytes → Nat
  | [] => 0
  | b :: bs => b.toNat + 256 * natOfBytes bs

def bytesOfNat : Nat → Nat → Bytes
  | 0, _ => []
  | n + 1, x => BitVec.ofNat 8 x :: bytesOfNat n (x / 256)

def wordOf (bs : Bytes) : Word := BitVec.ofNat 64 (natOfBytes bs)

def bytesOf (n : Nat) (x : Word) : Bytes := bytesOfNat n x.toNat

/-- `n` bytes of a run from offset `o`; bytes beyond its end read 0. -/
def sliceB (bs : Bytes) (o n : Nat) : Bytes :=
  let t := (bs.drop o).take n
  t ++ List.replicate (n - t.length) 0

def u8At (bs : Bytes) (o : Nat) : Nat := ((bs.drop o).headD 0).toNat
def u16At (bs : Bytes) (o : Nat) : Nat := natOfBytes (sliceB bs o 2)
def u32At (bs : Bytes) (o : Nat) : Nat := natOfBytes (sliceB bs o 4)
def u64At (bs : Bytes) (o : Nat) : Nat := natOfBytes (sliceB bs o 8)

def zeroB (bs : Bytes) : Bool := bs.all fun b => b == 0

/-! ## Fields of words -/

/-- Bits lo + n - 1 to lo of a word, as a number. -/
def field {w : Nat} (x : BitVec w) (lo n : Nat) : Nat := x.toNat / 2 ^ lo % 2 ^ n

def bit {w : Nat} (x : BitVec w) (i : Nat) : Bool := x.getLsbD i

def b2n (b : Bool) : Nat := if b then 1 else 0

/-- A condition as the 64-bit value 1 or 0 (R105). -/
def ofBool (b : Bool) : Word := if b then 1 else 0

def sext64 {w : Nat} (x : BitVec w) : Word := x.signExtend 64
def zext64 {w : Nat} (x : BitVec w) : Word := x.zeroExtend 64

/-- The number of one bits among the low `n` bits of a number. -/
def popNat : Nat → Nat → Nat
  | 0, _ => 0
  | n + 1, x => x % 2 + popNat n (x / 2)

/-- The number of bits a number needs. -/
def bitLen (x : Nat) : Nat := if x = 0 then 0 else Nat.log2 x + 1

/-- Leading zero bits of a `w`-bit value (R114, R149). -/
def clz (w x : Nat) : Nat := w - bitLen x

/-- The integer that the low `w` bits of a number stand for in two's complement. -/
def toSigned (w x : Nat) : Int := if 2 * (x % 2 ^ w) < 2 ^ w then Int.ofNat (x % 2 ^ w) else Int.ofNat (x % 2 ^ w) - Int.ofNat (2 ^ w)

/-- An integer wrapped to `w` bits. -/
def wrapInt (w : Nat) (x : Int) : Nat := (x % Int.ofNat (2 ^ w)).toNat

/-- The encoding m 0 with pn 1, which never takes effect (R87). -/
def Pred.never (p : Pred) : Bool := p.m == 0 && p.pn

/-- ceil(a / b). -/
def ceilDiv (a b : Nat) : Nat := (a + b - 1) / b

end Sys2Proof
end

