-- ==== Sys2Proof/Machine/Hash.lean ====
section
/-! DEFINITION. CRC-32C (R70) and SHA-512 (R101, R242, R306). -/

namespace Sys2Proof

/-! ## CRC-32C: polynomial 0x1EDC6F41 reflected, initial value and final XOR all ones (R70) -/

def crcBits : Nat → Nat → Nat
  | 0, c => c
  | n + 1, c => crcBits n (if c % 2 = 1 then (c / 2) ^^^ 0x82F63B78 else c / 2)

def crcFold : Bytes → Nat → Nat
  | [], c => c
  | b :: bs, c => crcFold bs (crcBits 8 (c ^^^ b.toNat))

def crc32c (bs : Bytes) : Nat := crcFold bs 0xFFFFFFFF ^^^ 0xFFFFFFFF

/-! ## SHA-512 -/

/-- The largest `n` whose `e`th power is at most `x`, by its bits from bit `k` - 1 down. -/
def rootBits (e x : Nat) : Nat → Nat → Nat
  | 0, n => n
  | k + 1, n => rootBits e x k (if (n + 2 ^ k) ^ e ≤ x then n + 2 ^ k else n)

/-- The first 64 bits of the fraction of the `e`th root of a number whose root is below 32. -/
def rootFraction (e n : Nat) : Word := BitVec.ofNat 64 (rootBits e (n * 2 ^ (64 * e)) 69 0)

/-- The primes below 410: there are 80 of them. -/
def smallPrimes : List Nat :=
  (List.range 410).filter fun n => decide (2 ≤ n) && (List.range 21).all fun d => decide (d < 2) || d == n || n % d != 0

/-- The constants of the rounds: cube roots of the first 80 primes. -/
def shaRounds : List Word := smallPrimes.map (rootFraction 3)

/-- The initial value: square roots of the first eight primes. -/
def shaInit : List Word := (smallPrimes.take 8).map (rootFraction 2)

def bigNat : Bytes → Nat → Nat
  | [], a => a
  | b :: bs, a => bigNat bs (256 * a + b.toNat)

def bigWord (bs : Bytes) : Word := BitVec.ofNat 64 (bigNat bs 0)

def bigBytes : Nat → Nat → Bytes
  | 0, _ => []
  | n + 1, x => bigBytes n (x / 256) ++ [BitVec.ofNat 8 x]

/-- The message with its padding: a one bit, zeros, and the 128-bit length. -/
def shaPad (bs : Bytes) : Bytes :=
  bs ++ [0x80] ++ List.replicate ((239 - bs.length % 128) % 128) 0 ++ bigBytes 16 (8 * bs.length)

/-- The next words of the schedule, kept newest first: w[t-2], w[t-7], w[t-15], w[t-16]. -/
def shaExpand : Nat → List Word → List Word
  | 0, ws => ws
  | n + 1, ws =>
    let a := ws.getD 1 0
    let c := ws.getD 14 0
    let s1 := a.rotateRight 19 ^^^ a.rotateRight 61 ^^^ (a >>> 6)
    let s0 := c.rotateRight 1 ^^^ c.rotateRight 8 ^^^ (c >>> 7)
    shaExpand n ((s1 + ws.getD 6 0 + s0 + ws.getD 15 0) :: ws)

structure ShaState where
  a : Word
  b : Word
  c : Word
  d : Word
  e : Word
  f : Word
  g : Word
  h : Word
deriving DecidableEq, Repr

def shaRound (s : ShaState) (kw : Word) : ShaState :=
  let s1 := s.e.rotateRight 14 ^^^ s.e.rotateRight 18 ^^^ s.e.rotateRight 41
  let ch := (s.e &&& s.f) ^^^ (~~~s.e &&& s.g)
  let t1 := s.h + s1 + ch + kw
  let s0 := s.a.rotateRight 28 ^^^ s.a.rotateRight 34 ^^^ s.a.rotateRight 39
  let maj := (s.a &&& s.b) ^^^ (s.a &&& s.c) ^^^ (s.b &&& s.c)
  { a := t1 + (s0 + maj), b := s.a, c := s.b, d := s.c, e := s.d + t1, f := s.e, g := s.f, h := s.g }

def shaBlock (s : ShaState) (block : Bytes) : ShaState :=
  let first := (List.range 16).map fun i => bigWord (sliceB block (8 * i) 8)
  let ws := (shaExpand 64 first.reverse).reverse
  let r := (List.zipWith (· + ·) shaRounds ws).foldl shaRound s
  { a := s.a + r.a, b := s.b + r.b, c := s.c + r.c, d := s.d + r.d, e := s.e + r.e, f := s.f + r.f, g := s.g + r.g,
    h := s.h + r.h }

def shaBlocks : Nat → Bytes → ShaState → ShaState
  | 0, _, s => s
  | n + 1, bs, s => shaBlocks n (bs.drop 128) (shaBlock s (bs.take 128))

def shaStart : ShaState :=
  let i := fun n => shaInit.getD n 0
  { a := i 0, b := i 1, c := i 2, d := i 3, e := i 4, f := i 5, g := i 6, h := i 7 }

def sha512 (bs : Bytes) : Bytes :=
  let p := shaPad bs
  let s := shaBlocks (p.length / 128) p shaStart
  [s.a, s.b, s.c, s.d, s.e, s.f, s.g, s.h].flatMap fun w => bigBytes 8 w.toNat

end Sys2Proof
end

