-- ==== Sys2Proof/Machine/Ed25519.lean ====
section
/-! DEFINITION. Verification of an Ed25519 signature (R101, R310), which the spec names and does not describe: the check of
RFC 8032 without its cofactor (log 8). -/

namespace Sys2Proof

/-- The prime of the curve's field, and the order of its base point. -/
def edPrime : Nat := 2 ^ 255 - 19
def edOrder : Nat := 2 ^ 252 + 27742317777372353535851937790883648493

/-- A little-endian number. -/
def edNat (bs : Bytes) : Nat := bigNat bs.reverse 0

/-- `b` to the power that the low `k` bits of `e` give, in the field. -/
def edPow : Nat → Nat → Nat → Nat
  | 0, _, _ => 1
  | k + 1, b, e => (if e % 2 = 1 then b else 1) * edPow k (b * b % edPrime) (e / 2) % edPrime

def edInv (a : Nat) : Nat := edPow 255 a (edPrime - 2)

/-- The constant d of the curve -x² + y² = 1 + d x² y². -/
def edD : Nat := (edPrime - 121665) * edInv 121666 % edPrime

/-- A point (x, y) as (x, y, x y) over a common denominator `z`. -/
structure EdPoint where
  x : Nat
  y : Nat
  z : Nat
  t : Nat
deriving DecidableEq, Repr

def EdPoint.zero : EdPoint := { x := 0, y := 1, z := 1, t := 0 }

/-- The sum of two points; the formula is complete, so that it serves for doubling too. -/
def EdPoint.add (p q : EdPoint) : EdPoint :=
  let sub := fun (a b : Nat) => (a + edPrime - b % edPrime) % edPrime
  let lo := sub p.y p.x * sub q.y q.x % edPrime
  let hi := (p.y + p.x) * (q.y + q.x) % edPrime
  let tt := 2 * edD * p.t % edPrime * q.t % edPrime
  let zz := 2 * p.z * q.z % edPrime
  let e := sub hi lo
  let f := sub zz tt
  let g := (zz + tt) % edPrime
  let h := (hi + lo) % edPrime
  { x := e * f % edPrime, y := g * h % edPrime, z := f * g % edPrime, t := e * h % edPrime }

/-- The multiple of a point by the low `k` bits of a number. -/
def EdPoint.mul : Nat → EdPoint → Nat → EdPoint
  | 0, _, _ => .zero
  | k + 1, p, n =>
    let rest := EdPoint.mul k (p.add p) (n / 2)
    if n % 2 = 1 then p.add rest else rest

def EdPoint.same (p q : EdPoint) : Bool :=
  p.x * q.z % edPrime == q.x * p.z % edPrime && p.y * q.z % edPrime == q.y * p.z % edPrime

/-- The point of the curve with a given y, whose x has a given low bit. -/
def edPoint (y sign : Nat) : Option EdPoint :=
  let u := (y * y + edPrime - 1) % edPrime
  let v := (edD * (y * y % edPrime) + 1) % edPrime
  let w := u * edInv v % edPrime
  let r := edPow 255 w ((edPrime + 3) / 8)
  let x := if r * r % edPrime = w then r else r * edPow 255 2 ((edPrime - 1) / 4) % edPrime
  if edPrime ≤ y ∨ x * x % edPrime ≠ w ∨ (x = 0 ∧ sign = 1) then none
  else
    let x := if x % 2 = sign then x else edPrime - x
    some { x := x, y := y, z := 1, t := x * y % edPrime }

/-- The point that 32 bytes stand for. -/
def edDecode (bs : Bytes) : Option EdPoint :=
  let n := edNat bs
  edPoint (n % 2 ^ 255) (n / 2 ^ 255)

/-- The base point. -/
def edBase : Option EdPoint := edPoint (4 * edInv 5 % edPrime) 0

/-- Whether `signature` is a signature of `message` under `key`. -/
def ed25519Verify (key message signature : Bytes) : Bool :=
  let s := edNat (sliceB signature 32 32)
  let k := edNat (sha512 (sliceB signature 0 32 ++ key ++ message)) % edOrder
  key.length == 32 && signature.length == 64 && decide (s < edOrder) &&
  match edDecode key, edDecode (sliceB signature 0 32), edBase with
  | some a, some r, some b => (EdPoint.mul 253 b s).same (r.add (EdPoint.mul 253 a k))
  | _, _, _ => false

end Sys2Proof
end

