-- ==== Sys2Proof/Syntax.lean ====
section
/-! DEFINITION. The instructions and events of the Iluril A4: one constructor per row of spec/opcode_table.json, in the
table's order. The first 199 are encoded instructions (spec/05_encoding.md R85, R88); their operands are the encoded
fields that the instruction uses, with the widths of R85. The other 82 are events of the device, its host and its
management controller; they have no encoding and their operands name the party they happen to. -/

namespace Sys2Proof

inductive Instr where
  | nop
  | halt
  | brk (code : BitVec 48)
  | trap (code : BitVec 48)
  | eret
  | wfe (clocks : BitVec 32)
  | phase (vote : BitVec 1)
  | ncnt
  | srd (p : Pred) (d : BitVec 6) (sreg : BitVec 32)
  | swr (p : Pred) (a : BitVec 6) (sreg : BitVec 32)
  | tlbi (p : Pred) (d : BitVec 6) (a : BitVec 6) (kind : BitVec 32)
  | add (p : Pred) (d : BitVec 6) (a : BitVec 6) (b : BitVec 6)
  | sub (p : Pred) (d : BitVec 6) (a : BitVec 6) (b : BitVec 6)
  | mul (p : Pred) (d : BitVec 6) (a : BitVec 6) (b : BitVec 6)
  | mulh (p : Pred) (d : BitVec 6) (a : BitVec 6) (b : BitVec 6)
  | mulhu (p : Pred) (d : BitVec 6) (a : BitVec 6) (b : BitVec 6)
  | div (p : Pred) (d : BitVec 6) (a : BitVec 6) (b : BitVec 6)
  | divu (p : Pred) (d : BitVec 6) (a : BitVec 6) (b : BitVec 6)
  | rem (p : Pred) (d : BitVec 6) (a : BitVec 6) (b : BitVec 6)
  | remu (p : Pred) (d : BitVec 6) (a : BitVec 6) (b : BitVec 6)
  | and (p : Pred) (d : BitVec 6) (a : BitVec 6) (b : BitVec 6)
  | or (p : Pred) (d : BitVec 6) (a : BitVec 6) (b : BitVec 6)
  | xor (p : Pred) (d : BitVec 6) (a : BitVec 6) (b : BitVec 6)
  | andn (p : Pred) (d : BitVec 6) (a : BitVec 6) (b : BitVec 6)
  | shl (p : Pred) (d : BitVec 6) (a : BitVec 6) (b : BitVec 6)
  | shr (p : Pred) (d : BitVec 6) (a : BitVec 6) (b : BitVec 6)
  | sar (p : Pred) (d : BitVec 6) (a : BitVec 6) (b : BitVec 6)
  | rol (p : Pred) (d : BitVec 6) (a : BitVec 6) (b : BitVec 6)
  | min (p : Pred) (d : BitVec 6) (a : BitVec 6) (b : BitVec 6)
  | max (p : Pred) (d : BitVec 6) (a : BitVec 6) (b : BitVec 6)
  | minu (p : Pred) (d : BitVec 6) (a : BitVec 6) (b : BitVec 6)
  | maxu (p : Pred) (d : BitVec 6) (a : BitVec 6) (b : BitVec 6)
  | clz (p : Pred) (d : BitVec 6) (a : BitVec 6)
  | popc (p : Pred) (d : BitVec 6) (a : BitVec 6)
  | sext (p : Pred) (d : BitVec 6) (a : BitVec 6) (n : BitVec 6)
  | zext (p : Pred) (d : BitVec 6) (a : BitVec 6) (n : BitVec 6)
  | sel (p : Pred) (d : BitVec 6) (a : BitVec 6) (b : BitVec 6) (c : BitVec 6)
  | cmp (p : Pred) (cond : BitVec 4) (d : BitVec 6) (a : BitVec 6) (b : BitVec 6)
  | addi (p : Pred) (d : BitVec 6) (a : BitVec 6) (imm : BitVec 32)
  | andi (p : Pred) (d : BitVec 6) (a : BitVec 6) (imm : BitVec 32)
  | ori (p : Pred) (d : BitVec 6) (a : BitVec 6) (imm : BitVec 32)
  | xori (p : Pred) (d : BitVec 6) (a : BitVec 6) (imm : BitVec 32)
  | shli (p : Pred) (d : BitVec 6) (a : BitVec 6) (imm : BitVec 32)
  | shri (p : Pred) (d : BitVec 6) (a : BitVec 6) (imm : BitVec 32)
  | sari (p : Pred) (d : BitVec 6) (a : BitVec 6) (imm : BitVec 32)
  | cmpi (p : Pred) (cond : BitVec 4) (d : BitVec 6) (a : BitVec 6) (imm : BitVec 32)
  | movi (p : Pred) (d : BitVec 6) (imm : BitVec 32)
  | movhi (p : Pred) (d : BitVec 6) (a : BitVec 6) (imm : BitVec 32)
  | br (off : BitVec 32)
  | bz (a : BitVec 6) (off : BitVec 32)
  | bnz (a : BitVec 6) (off : BitVec 32)
  | bcmp (cond : BitVec 4) (a : BitVec 6) (b : BitVec 6) (off : BitVec 32)
  | bbead (port : BitVec 4) (off : BitVec 32)
  | bstat (state : BitVec 4) (a : BitVec 6) (eng : BitVec 4) (off : BitVec 32)
  | loop (a : BitVec 6) (off : BitVec 32)
  | jmpr (a : BitVec 6) (off : BitVec 32)
  | call (off : BitVec 32)
  | callr (a : BitVec 6) (off : BitVec 32)
  | ret
  | vadd (p : Pred) (ty : BitVec 4) (d : BitVec 6) (a : BitVec 6) (b : BitVec 6)
  | vsub (p : Pred) (ty : BitVec 4) (d : BitVec 6) (a : BitVec 6) (b : BitVec 6)
  | vmul (p : Pred) (ty : BitVec 4) (d : BitVec 6) (a : BitVec 6) (b : BitVec 6)
  | vmulh (p : Pred) (ty : BitVec 4) (d : BitVec 6) (a : BitVec 6) (b : BitVec 6)
  | vand (p : Pred) (d : BitVec 6) (a : BitVec 6) (b : BitVec 6)
  | vor (p : Pred) (d : BitVec 6) (a : BitVec 6) (b : BitVec 6)
  | vxor (p : Pred) (d : BitVec 6) (a : BitVec 6) (b : BitVec 6)
  | vshl (p : Pred) (ty : BitVec 4) (d : BitVec 6) (a : BitVec 6) (b : BitVec 6)
  | vshr (p : Pred) (ty : BitVec 4) (d : BitVec 6) (a : BitVec 6) (b : BitVec 6)
  | vsar (p : Pred) (ty : BitVec 4) (d : BitVec 6) (a : BitVec 6) (b : BitVec 6)
  | vmin (p : Pred) (ty : BitVec 4) (d : BitVec 6) (a : BitVec 6) (b : BitVec 6)
  | vmax (p : Pred) (ty : BitVec 4) (d : BitVec 6) (a : BitVec 6) (b : BitVec 6)
  | vabs (p : Pred) (ty : BitVec 4) (d : BitVec 6) (a : BitVec 6)
  | vsel (p : Pred) (d : BitVec 6) (a : BitVec 6) (b : BitVec 6) (c : BitVec 6)
  | vsplat (p : Pred) (d : BitVec 6) (a : BitVec 6)
  | viota (p : Pred) (d : BitVec 6) (a : BitVec 6)
  | vmov (p : Pred) (d : BitVec 6) (a : BitVec 6)
  | vclz (p : Pred) (ty : BitVec 4) (d : BitVec 6) (a : BitVec 6)
  | vfadd (p : Pred) (ty : BitVec 4) (md : BitVec 4) (d : BitVec 6) (a : BitVec 6) (b : BitVec 6)
  | vfsub (p : Pred) (ty : BitVec 4) (md : BitVec 4) (d : BitVec 6) (a : BitVec 6) (b : BitVec 6)
  | vfmul (p : Pred) (ty : BitVec 4) (md : BitVec 4) (d : BitVec 6) (a : BitVec 6) (b : BitVec 6)
  | vfma (p : Pred) (ty : BitVec 4) (md : BitVec 4) (d : BitVec 6) (a : BitVec 6) (b : BitVec 6) (c : BitVec 6)
  | vfmin (p : Pred) (ty : BitVec 4) (md : BitVec 4) (d : BitVec 6) (a : BitVec 6) (b : BitVec 6)
  | vfmax (p : Pred) (ty : BitVec 4) (md : BitVec 4) (d : BitVec 6) (a : BitVec 6) (b : BitVec 6)
  | vfabs (p : Pred) (ty : BitVec 4) (md : BitVec 4) (d : BitVec 6) (a : BitVec 6)
  | vfneg (p : Pred) (ty : BitVec 4) (md : BitVec 4) (d : BitVec 6) (a : BitVec 6)
  | vfcvt (p : Pred) (dst : BitVec 4) (md : BitVec 4) (d : BitVec 6) (a : BitVec 6) (src : BitVec 6) (part : BitVec 6)
  | vexp2 (p : Pred) (md : BitVec 4) (d : BitVec 6) (a : BitVec 6)
  | vlog2 (p : Pred) (md : BitVec 4) (d : BitVec 6) (a : BitVec 6)
  | vrcp (p : Pred) (md : BitVec 4) (d : BitVec 6) (a : BitVec 6)
  | vrsq (p : Pred) (md : BitVec 4) (d : BitVec 6) (a : BitVec 6)
  | vfscl (p : Pred) (ty : BitVec 4) (md : BitVec 4) (d : BitVec 6) (a : BitVec 6) (b : BitVec 6)
  | vcmp (p : Pred) (ty : BitVec 4) (cond : BitVec 4) (d : BitVec 6) (a : BitVec 6) (b : BitVec 6)
  | vfcmp (p : Pred) (ty : BitVec 4) (cond : BitVec 4) (d : BitVec 6) (a : BitVec 6) (b : BitVec 6)
  | mand (p : Pred) (d : BitVec 6) (a : BitVec 6) (b : BitVec 6)
  | mor (p : Pred) (d : BitVec 6) (a : BitVec 6) (b : BitVec 6)
  | mxor (p : Pred) (d : BitVec 6) (a : BitVec 6) (b : BitVec 6)
  | mnot (p : Pred) (d : BitVec 6) (a : BitVec 6)
  | mpopc (p : Pred) (d : BitVec 6) (a : BitVec 6)
  | mfirst (p : Pred) (d : BitVec 6) (a : BitVec 6)
  | mfromg (p : Pred) (d : BitVec 6) (a : BitVec 6)
  | mtog (p : Pred) (d : BitVec 6) (a : BitVec 6)
  | vshuf (p : Pred) (d : BitVec 6) (a : BitVec 6) (b : BitVec 6)
  | vrot (p : Pred) (d : BitVec 6) (a : BitVec 6) (b : BitVec 6)
  | vbcast (p : Pred) (d : BitVec 6) (a : BitVec 6) (b : BitVec 6)
  | vext (p : Pred) (d : BitVec 6) (a : BitVec 6) (b : BitVec 6)
  | vins (p : Pred) (d : BitVec 6) (a : BitVec 6) (b : BitVec 6)
  | vredadd (p : Pred) (ty : BitVec 4) (md : BitVec 4) (d : BitVec 6) (a : BitVec 6)
  | vredmax (p : Pred) (ty : BitVec 4) (d : BitVec 6) (a : BitVec 6)
  | vredmin (p : Pred) (ty : BitVec 4) (d : BitVec 6) (a : BitVec 6)
  | vargmax (p : Pred) (d : BitVec 6) (a : BitVec 6)
  | vscan (p : Pred) (ty : BitVec 4) (md : BitVec 4) (d : BitVec 6) (a : BitVec 6)
  | vcompact (p : Pred) (d : BitVec 6) (a : BitVec 6) (b : BitVec 6)
  | vrng (p : Pred) (d : BitVec 6) (a : BitVec 6) (b : BitVec 6) (c : BitVec 6)
  | ld (p : Pred) (sz : BitVec 3) (d : BitVec 6) (base : BitVec 6) (idx : BitVec 6) (disp : BitVec 24)
  | vld (p : Pred) (d : BitVec 6) (base : BitVec 6) (idx : BitVec 6) (disp : BitVec 24)
  | vldg (p : Pred) (d : BitVec 6) (base : BitVec 6) (idx : BitVec 6) (disp : BitVec 24)
  | vldb (p : Pred) (d : BitVec 6) (base : BitVec 6) (idx : BitVec 6) (disp : BitVec 24)
  | pref (p : Pred) (base : BitVec 6) (idx : BitVec 6) (disp : BitVec 24)
  | st (p : Pred) (sz : BitVec 3) (s : BitVec 6) (base : BitVec 6) (idx : BitVec 6) (disp : BitVec 24)
  | vst (p : Pred) (s : BitVec 6) (base : BitVec 6) (idx : BitVec 6) (disp : BitVec 24)
  | vsts (p : Pred) (s : BitVec 6) (base : BitVec 6) (idx : BitVec 6) (disp : BitVec 24)
  | aadd (p : Pred) (sz : BitVec 3) (d : BitVec 6) (base : BitVec 6) (idx : BitVec 6) (disp : BitVec 24)
  | amin (p : Pred) (sz : BitVec 3) (md : BitVec 4) (d : BitVec 6) (base : BitVec 6) (idx : BitVec 6) (disp : BitVec 24)
  | amax (p : Pred) (sz : BitVec 3) (md : BitVec 4) (d : BitVec 6) (base : BitVec 6) (idx : BitVec 6) (disp : BitVec 24)
  | aand (p : Pred) (sz : BitVec 3) (d : BitVec 6) (base : BitVec 6) (idx : BitVec 6) (disp : BitVec 24)
  | aor (p : Pred) (sz : BitVec 3) (d : BitVec 6) (base : BitVec 6) (idx : BitVec 6) (disp : BitVec 24)
  | axor (p : Pred) (sz : BitVec 3) (d : BitVec 6) (base : BitVec 6) (idx : BitVec 6) (disp : BitVec 24)
  | axchg (p : Pred) (sz : BitVec 3) (d : BitVec 6) (base : BitVec 6) (idx : BitVec 6) (disp : BitVec 24)
  | acas (p : Pred) (sz : BitVec 3) (d : BitVec 6) (base : BitVec 6) (idx : BitVec 6) (disp : BitVec 24)
  | vaadd (p : Pred) (d : BitVec 6) (base : BitVec 6) (idx : BitVec 6) (disp : BitVec 24)
  | vamax (p : Pred) (d : BitVec 6) (base : BitVec 6) (idx : BitVec 6) (disp : BitVec 24)
  | fence (scope : BitVec 4) (cnt : BitVec 2) (kind : BitVec 2) (form : BitVec 4) (e0 : BitVec 11) (e1 : BitVec 11) (e2 : BitVec 11) (e3 : BitVec 11)
  | bar (p : Pred) (scope : BitVec 4) (id : BitVec 32)
  | bara (p : Pred) (scope : BitVec 4) (d : BitVec 6) (id : BitVec 32)
  | barw (p : Pred) (scope : BitVec 4) (id : BitVec 32)
  | barx (p : Pred) (scope : BitVec 4) (a : BitVec 6) (id : BitVec 32)
  | barset (p : Pred) (scope : BitVec 4) (a : BitVec 6) (id : BitVec 32)
  | lgfence (scope : BitVec 4) (cnt : BitVec 2) (e0 : BitVec 11) (e1 : BitVec 11) (e2 : BitVec 11) (e3 : BitVec 11)
  | cbind (p : Pred) (h : BitVec 4) (gx : BitVec 6) (ce : BitVec 16)
  | cwait (p : Pred) (h : BitVec 4) (gx : BitVec 6) (n : BitVec 8)
  | cresv (p : Pred) (h : BitVec 4) (gx : BitVec 6) (n : BitVec 8)
  | cpush (p : Pred) (h : BitVec 4) (gx : BitVec 6) (off : BitVec 16)
  | cpeek (p : Pred) (h : BitVec 4) (gx : BitVec 6) (gy : BitVec 6) (off : BitVec 16)
  | cpadv (p : Pred) (h : BitVec 4) (gx : BitVec 6) (n : BitVec 8)
  | ccadv (p : Pred) (h : BitVec 4) (gx : BitVec 6) (n : BitVec 8)
  | cmark (p : Pred) (h : BitVec 4) (gx : BitVec 6) (rank : BitVec 8) (off : BitVec 16)
  | cstat (p : Pred) (h : BitVec 4) (gx : BitVec 6)
  | ksend (p : Pred) (gx : BitVec 6) (route : BitVec 8)
  | kpoll (p : Pred) (port : BitVec 4) (gx : BitVec 6)
  | cpy (a : BitVec 6) (b : BitVec 6) (c : BitVec 6) (bs : BitVec 6) (tid : BitVec 11) (flags : BitVec 13)
  | cpym (a : BitVec 6) (b : BitVec 6) (c : BitVec 6) (bs : BitVec 6) (tid : BitVec 11) (form : BitVec 1)
  | cpys (a : BitVec 6) (b : BitVec 6) (c : BitVec 6) (tid : BitVec 11) (acc : BitVec 3)
  | bfwait (bs : BitVec 6)
  | bfrel (bs : BitVec 6)
  | bfstat (a : BitVec 6) (bs : BitVec 6)
  | bfarm (a : BitVec 6) (b : BitVec 6) (c : BitVec 6) (bs : BitVec 6) (tid : BitVec 11) (form : BitVec 2)
  | bfarmDisarm (bs : BitVec 6)
  | mma (acc : BitVec 6) (bs : BitVec 6) (tid : BitVec 11)
  | mmaz (acc : BitVec 6) (bs : BitVec 6) (tid : BitVec 11)
  | mdrain (acc : BitVec 6) (b : BitVec 6) (bs : BitVec 6) (tid : BitVec 11) (flags : BitVec 3)
  | mldb (bs : BitVec 6) (tid : BitVec 11)
  | mzero (acc : BitVec 6)
  | mstat (a : BitVec 6)
  | sopen (a : BitVec 6) (b : BitVec 6) (tid : BitVec 11) (dir : BitVec 1)
  | sclose (a : BitVec 6)
  | sstat (a : BitVec 6) (b : BitVec 6)
  | sdrain (a : BitVec 6) (b : BitVec 6)
  | aload (a : BitVec 6) (tid : BitVec 11)
  | abindMaskSink (a : BitVec 6) (tid : BitVec 11) (hi : BitVec 3)
  | abindEventSink (a : BitVec 6) (tid : BitVec 11) (hi : BitVec 3)
  | abindTreeSink (a : BitVec 6) (tid : BitVec 11) (hi : BitVec 3)
  | abindSpillArea (a : BitVec 6) (tid : BitVec 11) (hi : BitVec 3)
  | abindLimits (a : BitVec 6) (tid : BitVec 11) (hi : BitVec 3)
  | abindUnbind (a : BitVec 6) (tid : BitVec 11) (hi : BitVec 3)
  | arun (a : BitVec 6) (b : BitVec 6)
  | astep (a : BitVec 6) (mark : BitVec 1)
  | away (tid : BitVec 11)
  | aresume (tid : BitVec 11)
  | astat (a : BitVec 6)
  | aclear (unload : BitVec 1)
  | glaunch (a : BitVec 6) (b : BitVec 6) (tid : BitVec 11) (flags : BitVec 3)
  | gdone
  | gparam (a : BitVec 6) (b : BitVec 6) (tid : BitVec 11)
  | fork (a : BitVec 6) (b : BitVec 6) (c : BitVec 6) (mask : BitVec 3)
  | join
  | pqpush (a : BitVec 6) (b : BitVec 6) (c : BitVec 6)
  | pqpop (a : BitVec 6) (b : BitVec 6) (c : BitVec 6)
  | trigbindStoreWatch (a : BitVec 6) (b : BitVec 6) (c : BitVec 6) (tid : BitVec 11)
  | trigbindRingWatch (a : BitVec 6) (b : BitVec 6) (c : BitVec 6) (tid : BitVec 11)
  | trigbindUnbind (a : BitVec 6)
  | trigfire (a : BitVec 6)
  | twbind (a : BitVec 6) (tid : BitVec 11)
  | twbindUnbind (a : BitVec 6)
  | twget (a : BitVec 6) (b : BitVec 6) (c : BitVec 6) (nowait : BitVec 1)
  | twrel (a : BitVec 6)
  | twstat (a : BitVec 6) (b : BitVec 6) (sel : BitVec 2)
  | tickarm (a : BitVec 6) (b : BitVec 6) (tid : BitVec 11)
  | tickarmDisarm (a : BitVec 6)
  | tnow (a : BitVec 6)
  | asyncTrapTaken (k : Nat)
  | resultLands (k : Nat) (i : Nat)
  | wfeTimeout (k : Nat)
  | phaseSelect (team : Nat)
  | teamStart (team : Nat)
  | planeSwap (k : Nat)
  | poolDispatch
  | poolPromote (i : Nat)
  | poolHold (i : Nat)
  | teamCompletion (team : Nat)
  | deadlockSurvey (team : Nat)
  | nodeFinish (launch : Nat) (node : Nat)
  | engineCommandStart (q : Nat) (e : Nat)
  | copyComplete (q : Nat) (seq : Nat)
  | followOnStart (q : Nat)
  | matrixCommandComplete (q : Nat)
  | slotDrained (q : Nat) (slot : Nat)
  | armedTileStart (q : Nat) (slot : Nat)
  | pushdownStep (q : Nat)
  | pushdownMarker (q : Nat)
  | streamElementReturn (port : Nat) (elem : Nat)
  | streamElementFault (port : Nat) (elem : Nat)
  | streamFaultTimeout (port : Nat)
  | channelFillArrival (ch : Nat)
  | channelCreditArrival (ch : Nat)
  | beadArrival (route : Nat)
  | barrierComplete (bar : Nat)
  | statsTokensLand (i : Nat)
  | ingestRecord (win : Nat)
  | slotClose (win : Nat)
  | hostRead (world : Nat) (va : Word) (size : Nat)
  | hostWrite (world : Nat) (va : Word) (bytes : Bytes)
  | doorbell (world : Nat) (off : Nat) (value : Nat)
  | registerWrite (world : Nat) (off : Nat) (value : Word)
  | launch (queue : Nat)
  | replay (queue : Nat)
  | queueFence (queue : Nat)
  | worldCreate (queue : Nat)
  | worldDestroy (queue : Nat)
  | worldSet (queue : Nat)
  | map (queue : Nat)
  | free (queue : Nat)
  | frameScrubPending (frame : Nat)
  | resolve (queue : Nat)
  | barrierReset (queue : Nat)
  | scrubFirst (queue : Nat)
  | timeAdj (queue : Nat)
  | kill (queue : Nat)
  | dieSet (queue : Nat)
  | queueSet (queue : Nat)
  | pqSet (queue : Nat)
  | ingestMap (queue : Nat)
  | power (queue : Nat)
  | powerGateComplete (world : Nat)
  | scrubFrameClean (die : Nat)
  | keySlotFreed (slot : Nat)
  | loaderAdmit (world : Nat) (file : Bytes)
  | codeReadmit (world : Nat) (page : Nat) (note : Bytes)
  | meshPacketEnters (row : Nat) (place : Nat) (world : Nat) (gen : Nat)
  | tunnelPacketExit (tunnel : Nat) (counter : Nat) (tagOk : Bool)
  | ideIntegrityFailure (world : Nat)
  | getVersion (fn : Nat)
  | getCapabilities (fn : Nat)
  | negotiateAlgorithms (fn : Nat)
  | getDigests (fn : Nat)
  | getCertificate (fn : Nat) (slot : Nat)
  | challenge (fn : Nat) (slot : Nat) (nonce : Bytes)
  | getMeasurements (fn : Nat) (index : Nat) (nonce : Bytes)
  | keyExchange (fn : Nat) (pub : Bytes)
  | finish (fn : Nat) (verify : Bytes)
  | endSession (fn : Nat)
  | lockInterfaceRequest (fn : Nat)
  | startInterfaceRequest (fn : Nat)
  | stopInterfaceRequest (fn : Nat)
  | ptmRefresh (hostTime : Nat)
  | podFlitReceive (port : Nat) (crcOk : Bool)
  | startUp (failures : Failures)
  | firmwareStage (image : Bytes) (sig : Bytes)
  | uncontainableError (code : Nat)
  | clockThrottle (lower : Bool)
  | leaseExpiry (q : Nat) (line : Nat)
  | pushdownCommandDone (q : Nat)
deriving DecidableEq, Repr

end Sys2Proof
end

