-- ==== Sys2Proof/WellFormed.lean ====
section
/-! DEFINITION. The checks 3 and 4 of R89 (spec/05_encoding.md) that depend on operand values: register classes (R76), the
sets of the shared fields (R86, Table 5.6) and the per-instruction sets that the instruction chapters name as part of
check 4. An instruction that fails one is no instruction of the machine: its word traps ILLEGAL at decode. -/

namespace Sys2Proof

/-- A vector register number: v0 to v31 (R76). -/
def isV (r : Reg) : Bool := decide (r.toNat < 32)
/-- A mask register number: m0 to m7 (R76). -/
def isM (r : Reg) : Bool := decide (r.toNat < 8)
/-- An accumulator number: acc0 to acc7 (R76, R229). -/
def isAcc (r : Reg) : Bool := decide (r.toNat < 8)
/-- Integer conditions 0 to 9 (R86, R105). -/
def intCond (c : BitVec 4) : Bool := decide (c.toNat < 10)
/-- Float conditions 0 to 7 (R86, R157). -/
def floatCond (c : BitVec 4) : Bool := decide (c.toNat < 8)
/-- Lane integer types 0 to 3 (R86). -/
def intTy (t : BitVec 4) : Bool := decide (t.toNat < 4)
/-- Lane float types 0 to 2 (R86). -/
def floatTy (t : BitVec 4) : Bool := decide (t.toNat < 3)
/-- Only the FTZ bit of md may be set (R150, VFMIN to VFNEG). -/
def onlyFtz (md : BitVec 4) : Bool := md == 0 || md == 4
/-- Types of the reductions and scans: .f32, .i32, .u32 (R158). -/
def reduceTy (t : BitVec 4) : Bool := t == 0 || t == 8 || t == 9
/-- md of VREDADD and VSCAN: a rounding for .f32, reserved otherwise (R158). -/
def reduceMd (t md : BitVec 4) : Bool := if t == 0 then decide (md.toNat < 4) else md == 0
/-- Scopes 0 to 6 (R9, R86). -/
def isScope (s : BitVec 4) : Bool := decide (s.toNat < 7)
/-- Sizes of the scalar atomics: word or doubleword (R141). -/
def atomicSz (sz : BitVec 3) : Bool := sz == 2 || sz == 3
/-- The bits of one element of a VFCVT format, 0 for a code that VFCVT does not take (R153, Table 9.4). -/
def cvtWidth (f : Nat) : Nat :=
  match f with
  | 0 => 32 | 1 => 16 | 2 => 16 | 3 => 8 | 4 => 8 | 5 => 4 | 6 => 8 | 7 => 32 | 8 => 8 | 9 => 16 | 11 => 32 | _ => 0
/-- The format codes of Table 9.4. -/
def cvtFormat (f : Nat) : Bool := cvtWidth f != 0
/-- The number of parts of a conversion: max of the widths over their min (R154). -/
def cvtParts (dst src : Nat) : Nat := max (cvtWidth dst) (cvtWidth src) / min (cvtWidth dst) (cvtWidth src)
/-- An F entry: zero with a clear form bit beyond the count; a register entry names an even register in bits 10:5
with bits 4:0 zero (R85, R193). -/
def fenceEntry (i : Nat) (cnt : BitVec 2) (form : BitVec 4) (e : BitVec 11) : Bool :=
  if i ≤ cnt.toNat then !form.getLsbD i || e.extractLsb' 0 6 == 0 else !form.getLsbD i && e == 0
/-- FENCE.all takes no entry: its count, form and first entry are 0 (R193). -/
def fenceAll (kind cnt : BitVec 2) (form : BitVec 4) (e : BitVec 11) : Bool :=
  kind != 3 || (cnt == 0 && form == 0 && e == 0)
/-- The endpoint, form and format fields of CPY lie in the sets of Table 15.7 (R224). -/
def cpyFlags (f : BitVec 13) : Bool :=
  let src := f.extractLsb' 0 2; let dst := f.extractLsb' 2 2; let form := f.extractLsb' 4 2; let sfmt := (f.extractLsb' 7 4).toNat
  src != 3 && dst != 3 && form != 3 && f.extractLsb' 11 2 == 0 &&
  (if f.getLsbD 6 then decide (sfmt ≤ 4) || (decide (6 ≤ sfmt) && decide (sfmt ≤ 11)) else sfmt == 0)
/-- Outside a tile form, a slot endpoint's register field is 0 (R224; log 11). -/
def cpyFields (f : BitVec 13) (a b : Reg) : Bool :=
  f.extractLsb' 4 2 != 0 || (f.extractLsb' 2 2 != 1 || a == 0) && (f.extractLsb' 0 2 != 1 || b == 0)

/-- A copy without a slot endpoint leaves its slot field 0 (Table 15.1, R224). -/
def cpySlot (f : BitVec 13) (bs : BitVec 6) : Bool :=
  f.extractLsb' 4 2 != 0 || f.extractLsb' 0 2 == 1 || f.extractLsb' 2 2 == 1 || bs == 0
/-- A drain to a slot leaves its address field 0, and one to memory its slot field (Table 15.1, R230). -/
def drainFields (flags : BitVec 3) (b bs : BitVec 6) : Bool := if flags.getLsbD 1 then bs == 0 else b == 0

/-- Checks 3 and 4 of R89 on operand values. -/
def wellFormed : Instr → Bool
  | .nop => true
  | .halt => true
  | .brk _ => true
  | .trap _ => true
  | .eret => true
  | .wfe _ => true
  | .phase _ => true
  | .ncnt => true
  | .srd _ _ _ => true
  | .swr _ _ _ => true
  | .tlbi _ _ a kind => decide (kind.toNat < 3) && (kind == 2 || a == 0)
  | .add _ _ _ _ => true
  | .sub _ _ _ _ => true
  | .mul _ _ _ _ => true
  | .mulh _ _ _ _ => true
  | .mulhu _ _ _ _ => true
  | .div _ _ _ _ => true
  | .divu _ _ _ _ => true
  | .rem _ _ _ _ => true
  | .remu _ _ _ _ => true
  | .and _ _ _ _ => true
  | .or _ _ _ _ => true
  | .xor _ _ _ _ => true
  | .andn _ _ _ _ => true
  | .shl _ _ _ _ => true
  | .shr _ _ _ _ => true
  | .sar _ _ _ _ => true
  | .rol _ _ _ _ => true
  | .min _ _ _ _ => true
  | .max _ _ _ _ => true
  | .minu _ _ _ _ => true
  | .maxu _ _ _ _ => true
  | .clz _ _ _ => true
  | .popc _ _ _ => true
  | .sext _ _ _ _ => true
  | .zext _ _ _ _ => true
  | .sel _ _ _ _ _ => true
  | .cmp _ cond _ _ _ => intCond cond
  | .addi _ _ _ _ => true
  | .andi _ _ _ _ => true
  | .ori _ _ _ _ => true
  | .xori _ _ _ _ => true
  | .shli _ _ _ _ => true
  | .shri _ _ _ _ => true
  | .sari _ _ _ _ => true
  | .cmpi _ cond _ _ _ => intCond cond
  | .movi _ _ _ => true
  | .movhi _ _ _ _ => true
  | .br _ => true
  | .bz _ _ => true
  | .bnz _ _ => true
  | .bcmp cond _ _ _ => intCond cond
  | .bbead port _ => decide (port.toNat < 4)
  | .bstat state _ eng _ => decide (state.toNat < 4) && decide (eng.toNat < 3)
  | .loop _ _ => true
  | .jmpr _ _ => true
  | .call _ => true
  | .callr _ _ => true
  | .ret => true
  | .vadd _ ty d a b => intTy ty && isV d && isV a && isV b
  | .vsub _ ty d a b => intTy ty && isV d && isV a && isV b
  | .vmul _ ty d a b => intTy ty && isV d && isV a && isV b
  | .vmulh _ ty d a b => intTy ty && isV d && isV a && isV b
  | .vand _ d a b => isV d && isV a && isV b
  | .vor _ d a b => isV d && isV a && isV b
  | .vxor _ d a b => isV d && isV a && isV b
  | .vshl _ ty d a b => intTy ty && isV d && isV a && isV b
  | .vshr _ ty d a b => intTy ty && isV d && isV a && isV b
  | .vsar _ ty d a b => intTy ty && isV d && isV a && isV b
  | .vmin _ ty d a b => intTy ty && isV d && isV a && isV b
  | .vmax _ ty d a b => intTy ty && isV d && isV a && isV b
  | .vabs _ ty d a => (ty == 0 || ty == 2 || ty == 3) && isV d && isV a
  | .vsel _ d a b c => isV d && isV a && isV b && isM c
  | .vsplat _ d _ => isV d
  | .viota _ d _ => isV d
  | .vmov _ d a => isV d && isV a
  | .vclz _ ty d a => intTy ty && isV d && isV a
  | .vfadd _ ty _ d a b => floatTy ty && isV d && isV a && isV b
  | .vfsub _ ty _ d a b => floatTy ty && isV d && isV a && isV b
  | .vfmul _ ty _ d a b => floatTy ty && isV d && isV a && isV b
  | .vfma _ ty _ d a b c => floatTy ty && isV d && isV a && isV b && isV c
  | .vfmin _ ty md d a b => floatTy ty && onlyFtz md && isV d && isV a && isV b
  | .vfmax _ ty md d a b => floatTy ty && onlyFtz md && isV d && isV a && isV b
  | .vfabs _ ty md d a => floatTy ty && onlyFtz md && isV d && isV a
  | .vfneg _ ty md d a => floatTy ty && onlyFtz md && isV d && isV a
  | .vfcvt _ dst _ d a src part => cvtFormat dst.toNat && cvtFormat src.toNat && dst.toNat != src.toNat && decide (part.toNat < cvtParts dst.toNat src.toNat) && isV d && isV a
  | .vexp2 _ _ d a => isV d && isV a
  | .vlog2 _ _ d a => isV d && isV a
  | .vrcp _ _ d a => isV d && isV a
  | .vrsq _ _ d a => isV d && isV a
  | .vfscl _ ty _ d a b => floatTy ty && isV d && isV a && isV b
  | .vcmp _ ty cond d a b => intTy ty && intCond cond && isM d && isV a && isV b
  | .vfcmp _ ty cond d a b => floatTy ty && floatCond cond && isM d && isV a && isV b
  | .mand _ d a b => isM d && isM a && isM b
  | .mor _ d a b => isM d && isM a && isM b
  | .mxor _ d a b => isM d && isM a && isM b
  | .mnot _ d a => isM d && isM a
  | .mpopc _ _ a => isM a
  | .mfirst _ _ a => isM a
  | .mfromg _ d _ => isM d
  | .mtog _ _ a => isM a
  | .vshuf _ d a b => isV d && isV a && isV b
  | .vrot _ d a _ => isV d && isV a
  | .vbcast _ d a _ => isV d && isV a
  | .vext _ _ a _ => isV a
  | .vins _ d _ _ => isV d
  | .vredadd _ ty md _ a => reduceTy ty && reduceMd ty md && isV a
  | .vredmax _ ty _ a => reduceTy ty && isV a
  | .vredmin _ ty _ a => reduceTy ty && isV a
  | .vargmax _ d a => isV a && d.toNat % 2 == 0
  | .vscan _ ty md d a => reduceTy ty && reduceMd ty md && isV d && isV a
  | .vcompact _ d a _ => isV d && isV a
  | .vrng _ d _ _ _ => isV d
  | .ld _ sz _ _ _ _ => decide (sz.toNat < 4)
  | .vld _ d _ _ _ => isV d
  | .vldg _ d _ idx _ => isV d && isV idx
  | .vldb _ d _ _ _ => isV d
  | .pref _ _ _ _ => true
  | .st _ sz _ _ _ _ => decide (sz.toNat < 4)
  | .vst _ s _ _ _ => isV s
  | .vsts _ s _ idx _ => isV s && isV idx
  | .aadd _ sz _ _ _ _ => atomicSz sz
  | .amin _ sz md _ _ _ _ => atomicSz sz && decide (md.toNat < 2)
  | .amax _ sz md _ _ _ _ => atomicSz sz && decide (md.toNat < 2)
  | .aand _ sz _ _ _ _ => atomicSz sz
  | .aor _ sz _ _ _ _ => atomicSz sz
  | .axor _ sz _ _ _ _ => atomicSz sz
  | .axchg _ sz _ _ _ _ => atomicSz sz
  | .acas _ sz _ _ _ _ => atomicSz sz
  | .vaadd _ d _ idx _ => isV d && isV idx
  | .vamax _ d _ idx _ => isV d && isV idx
  | .fence scope cnt kind form e0 e1 e2 e3 => isScope scope && fenceAll kind cnt form e0 && fenceEntry 0 cnt form e0 && fenceEntry 1 cnt form e1 && fenceEntry 2 cnt form e2 && fenceEntry 3 cnt form e3
  | .bar _ scope id => isScope scope && decide (id.toNat < 256)
  | .bara _ scope _ id => isScope scope && decide (id.toNat < 256)
  | .barw _ scope id => isScope scope && decide (id.toNat < 256)
  | .barx _ scope _ id => isScope scope && decide (id.toNat < 256)
  | .barset _ scope _ id => isScope scope && decide (id.toNat < 256)
  | .lgfence scope cnt e0 e1 e2 e3 => isScope scope && fenceEntry 0 cnt 0 e0 && fenceEntry 1 cnt 0 e1 && fenceEntry 2 cnt 0 e2 && fenceEntry 3 cnt 0 e3
  | .cbind _ _ _ ce => decide (ce.toNat < 2)
  | .cwait _ _ _ _ => true
  | .cresv _ _ _ _ => true
  | .cpush _ _ _ _ => true
  | .cpeek _ _ _ _ _ => true
  | .cpadv _ _ _ _ => true
  | .ccadv _ _ _ _ => true
  | .cmark _ _ _ rank _ => decide (rank.toNat < 8)
  | .cstat _ _ _ => true
  | .ksend _ _ route => decide (route.toNat < 16)
  | .kpoll _ port _ => decide (port.toNat < 4)
  | .cpy a b _ bs _ flags => cpyFlags flags && cpyFields flags a b && cpySlot flags bs
  | .cpym _ _ _ _ _ _ => true
  | .cpys _ _ _ _ _ => true
  | .bfwait _ => true
  | .bfrel _ => true
  | .bfstat _ _ => true
  | .bfarm _ _ _ _ _ form => decide (form.toNat < 3)
  | .bfarmDisarm _ => true
  | .mma acc _ _ => isAcc acc
  | .mmaz acc _ _ => isAcc acc
  | .mdrain acc b bs _ flags => isAcc acc && drainFields flags b bs
  | .mldb _ _ => true
  | .mzero acc => isAcc acc
  | .mstat _ => true
  | .sopen _ _ _ _ => true
  | .sclose _ => true
  | .sstat _ _ => true
  | .sdrain _ _ => true
  | .aload _ _ => true
  | .abindMaskSink _ _ _ => true
  | .abindEventSink _ _ _ => true
  | .abindTreeSink _ _ _ => true
  | .abindSpillArea _ _ _ => true
  | .abindLimits _ _ _ => true
  | .abindUnbind _ _ _ => true
  | .arun _ _ => true
  | .astep _ _ => true
  | .away _ => true
  | .aresume _ => true
  | .astat _ => true
  | .aclear _ => true
  | .glaunch _ _ _ _ => true
  | .gdone => true
  | .gparam _ _ _ => true
  | .fork a b c mask => mask != 0 && (mask.getLsbD 0 || a == 0) && (mask.getLsbD 1 || b == 0) && (mask.getLsbD 2 || c == 0)
  | .join => true
  | .pqpush _ _ _ => true
  | .pqpop _ _ _ => true
  | .trigbindStoreWatch _ _ _ _ => true
  | .trigbindRingWatch _ _ _ _ => true
  | .trigbindUnbind _ => true
  | .trigfire _ => true
  | .twbind _ _ => true
  | .twbindUnbind _ => true
  | .twget _ _ _ _ => true
  | .twrel _ => true
  | .twstat _ _ _ => true
  | .tickarm _ _ _ => true
  | .tickarmDisarm _ => true
  | .tnow _ => true
  | .asyncTrapTaken _ => true
  | .resultLands _ _ => true
  | .wfeTimeout _ => true
  | .phaseSelect _ => true
  | .teamStart _ => true
  | .planeSwap _ => true
  | .poolDispatch => true
  | .poolPromote _ => true
  | .poolHold _ => true
  | .teamCompletion _ => true
  | .deadlockSurvey _ => true
  | .nodeFinish _ _ => true
  | .engineCommandStart _ _ => true
  | .copyComplete _ _ => true
  | .followOnStart _ => true
  | .matrixCommandComplete _ => true
  | .slotDrained _ _ => true
  | .armedTileStart _ _ => true
  | .pushdownStep _ => true
  | .pushdownMarker _ => true
  | .streamElementReturn _ _ => true
  | .streamElementFault _ _ => true
  | .streamFaultTimeout _ => true
  | .channelFillArrival _ => true
  | .channelCreditArrival _ => true
  | .beadArrival _ => true
  | .barrierComplete _ => true
  | .statsTokensLand _ => true
  | .ingestRecord _ => true
  | .slotClose _ => true
  | .hostRead _ _ _ => true
  | .hostWrite _ _ _ => true
  | .doorbell _ _ _ => true
  | .registerWrite _ _ _ => true
  | .launch _ => true
  | .replay _ => true
  | .queueFence _ => true
  | .worldCreate _ => true
  | .worldDestroy _ => true
  | .worldSet _ => true
  | .map _ => true
  | .free _ => true
  | .frameScrubPending _ => true
  | .resolve _ => true
  | .barrierReset _ => true
  | .scrubFirst _ => true
  | .timeAdj _ => true
  | .kill _ => true
  | .dieSet _ => true
  | .queueSet _ => true
  | .pqSet _ => true
  | .ingestMap _ => true
  | .power _ => true
  | .powerGateComplete _ => true
  | .scrubFrameClean _ => true
  | .keySlotFreed _ => true
  | .loaderAdmit _ _ => true
  | .codeReadmit _ _ _ => true
  | .meshPacketEnters _ _ _ _ => true
  | .tunnelPacketExit _ _ _ => true
  | .ideIntegrityFailure _ => true
  | .getVersion _ => true
  | .getCapabilities _ => true
  | .negotiateAlgorithms _ => true
  | .getDigests _ => true
  | .getCertificate _ _ => true
  | .challenge _ _ _ => true
  | .getMeasurements _ _ _ => true
  | .keyExchange _ _ => true
  | .finish _ _ => true
  | .endSession _ => true
  | .lockInterfaceRequest _ => true
  | .startInterfaceRequest _ => true
  | .stopInterfaceRequest _ => true
  | .ptmRefresh _ => true
  | .podFlitReceive _ _ => true
  | .startUp _ => true
  | .firmwareStage _ _ => true
  | .uncontainableError _ => true
  | .clockThrottle _ => true
  | .leaseExpiry _ _ => true
  | .pushdownCommandDone _ => true

end Sys2Proof
end

