-- ==== Sys2Proof/Decode.lean ====
section
/-! DEFINITION. Decoding a 64-bit word (spec/05_encoding.md R84 to R89) and, after it, the encoder from the same formats.
A word decodes when its major and fn are in Table 5.7, its unused fields are zero and its field values lie in their
sets; otherwise the reason is named. Check 5 of R89 (TLBI outside the root world) needs the world and stands with TLBI. -/

namespace Sys2Proof

/-- The predicate fields m and pn of a word. -/
def predAt (w : Word) (mlo plo : Nat) : Pred := { m := w.extractLsb' mlo 3, pn := w.getLsbD plo }

/-- Major 0x01 of Table 5.7 (R88). -/
def raw01 (w : Word) : Option Instr :=
  match (w.extractLsb' 48 8).toNat with
  | 0x00 => some (.nop)
  | 0x01 => some (.halt)
  | 0x02 => some (.brk (w.extractLsb' 0 48))
  | 0x03 => some (.trap (w.extractLsb' 0 48))
  | 0x04 => some (.eret)
  | 0x05 => some (.wfe (w.extractLsb' 0 32))
  | 0x06 => some (.phase (w.extractLsb' 0 1))
  | 0x07 => some (.ncnt)
  | _ => none

/-- Major 0x02 of Table 5.7 (R88). -/
def raw02 (w : Word) : Option Instr :=
  match (w.extractLsb' 40 4).toNat with
  | 0x00 => some (.srd (predAt w 37 36) (w.extractLsb' 50 6) (w.extractLsb' 0 32))
  | 0x01 => some (.swr (predAt w 37 36) (w.extractLsb' 44 6) (w.extractLsb' 0 32))
  | 0x02 => some (.tlbi (predAt w 37 36) (w.extractLsb' 50 6) (w.extractLsb' 44 6) (w.extractLsb' 0 32))
  | _ => none

/-- Major 0x08 of Table 5.7 (R88). -/
def raw08 (w : Word) : Option Instr :=
  match (w.extractLsb' 24 8).toNat with
  | 0x00 => some (.add (predAt w 13 12) (w.extractLsb' 50 6) (w.extractLsb' 44 6) (w.extractLsb' 38 6))
  | 0x01 => some (.sub (predAt w 13 12) (w.extractLsb' 50 6) (w.extractLsb' 44 6) (w.extractLsb' 38 6))
  | 0x02 => some (.mul (predAt w 13 12) (w.extractLsb' 50 6) (w.extractLsb' 44 6) (w.extractLsb' 38 6))
  | 0x03 => some (.mulh (predAt w 13 12) (w.extractLsb' 50 6) (w.extractLsb' 44 6) (w.extractLsb' 38 6))
  | 0x04 => some (.mulhu (predAt w 13 12) (w.extractLsb' 50 6) (w.extractLsb' 44 6) (w.extractLsb' 38 6))
  | 0x05 => some (.div (predAt w 13 12) (w.extractLsb' 50 6) (w.extractLsb' 44 6) (w.extractLsb' 38 6))
  | 0x06 => some (.divu (predAt w 13 12) (w.extractLsb' 50 6) (w.extractLsb' 44 6) (w.extractLsb' 38 6))
  | 0x07 => some (.rem (predAt w 13 12) (w.extractLsb' 50 6) (w.extractLsb' 44 6) (w.extractLsb' 38 6))
  | 0x08 => some (.remu (predAt w 13 12) (w.extractLsb' 50 6) (w.extractLsb' 44 6) (w.extractLsb' 38 6))
  | 0x09 => some (.and (predAt w 13 12) (w.extractLsb' 50 6) (w.extractLsb' 44 6) (w.extractLsb' 38 6))
  | 0x0A => some (.or (predAt w 13 12) (w.extractLsb' 50 6) (w.extractLsb' 44 6) (w.extractLsb' 38 6))
  | 0x0B => some (.xor (predAt w 13 12) (w.extractLsb' 50 6) (w.extractLsb' 44 6) (w.extractLsb' 38 6))
  | 0x0C => some (.andn (predAt w 13 12) (w.extractLsb' 50 6) (w.extractLsb' 44 6) (w.extractLsb' 38 6))
  | 0x0D => some (.shl (predAt w 13 12) (w.extractLsb' 50 6) (w.extractLsb' 44 6) (w.extractLsb' 38 6))
  | 0x0E => some (.shr (predAt w 13 12) (w.extractLsb' 50 6) (w.extractLsb' 44 6) (w.extractLsb' 38 6))
  | 0x0F => some (.sar (predAt w 13 12) (w.extractLsb' 50 6) (w.extractLsb' 44 6) (w.extractLsb' 38 6))
  | 0x10 => some (.rol (predAt w 13 12) (w.extractLsb' 50 6) (w.extractLsb' 44 6) (w.extractLsb' 38 6))
  | 0x11 => some (.min (predAt w 13 12) (w.extractLsb' 50 6) (w.extractLsb' 44 6) (w.extractLsb' 38 6))
  | 0x12 => some (.max (predAt w 13 12) (w.extractLsb' 50 6) (w.extractLsb' 44 6) (w.extractLsb' 38 6))
  | 0x13 => some (.minu (predAt w 13 12) (w.extractLsb' 50 6) (w.extractLsb' 44 6) (w.extractLsb' 38 6))
  | 0x14 => some (.maxu (predAt w 13 12) (w.extractLsb' 50 6) (w.extractLsb' 44 6) (w.extractLsb' 38 6))
  | 0x15 => some (.clz (predAt w 13 12) (w.extractLsb' 50 6) (w.extractLsb' 44 6))
  | 0x16 => some (.popc (predAt w 13 12) (w.extractLsb' 50 6) (w.extractLsb' 44 6))
  | 0x17 => some (.sext (predAt w 13 12) (w.extractLsb' 50 6) (w.extractLsb' 44 6) (w.extractLsb' 38 6))
  | 0x18 => some (.zext (predAt w 13 12) (w.extractLsb' 50 6) (w.extractLsb' 44 6) (w.extractLsb' 38 6))
  | 0x19 => some (.sel (predAt w 13 12) (w.extractLsb' 50 6) (w.extractLsb' 44 6) (w.extractLsb' 38 6) (w.extractLsb' 32 6))
  | 0x1A => some (.cmp (predAt w 13 12) (w.extractLsb' 16 4) (w.extractLsb' 50 6) (w.extractLsb' 44 6) (w.extractLsb' 38 6))
  | _ => none

/-- Major 0x09 of Table 5.7 (R88). -/
def raw09 (w : Word) : Option Instr :=
  match (w.extractLsb' 40 4).toNat with
  | 0x00 => some (.addi (predAt w 37 36) (w.extractLsb' 50 6) (w.extractLsb' 44 6) (w.extractLsb' 0 32))
  | 0x01 => some (.andi (predAt w 37 36) (w.extractLsb' 50 6) (w.extractLsb' 44 6) (w.extractLsb' 0 32))
  | 0x02 => some (.ori (predAt w 37 36) (w.extractLsb' 50 6) (w.extractLsb' 44 6) (w.extractLsb' 0 32))
  | 0x03 => some (.xori (predAt w 37 36) (w.extractLsb' 50 6) (w.extractLsb' 44 6) (w.extractLsb' 0 32))
  | 0x04 => some (.shli (predAt w 37 36) (w.extractLsb' 50 6) (w.extractLsb' 44 6) (w.extractLsb' 0 32))
  | 0x05 => some (.shri (predAt w 37 36) (w.extractLsb' 50 6) (w.extractLsb' 44 6) (w.extractLsb' 0 32))
  | 0x06 => some (.sari (predAt w 37 36) (w.extractLsb' 50 6) (w.extractLsb' 44 6) (w.extractLsb' 0 32))
  | 0x07 => some (.cmpi (predAt w 37 36) (w.extractLsb' 32 4) (w.extractLsb' 50 6) (w.extractLsb' 44 6) (w.extractLsb' 0 32))
  | 0x08 => some (.movi (predAt w 37 36) (w.extractLsb' 50 6) (w.extractLsb' 0 32))
  | 0x09 => some (.movhi (predAt w 37 36) (w.extractLsb' 50 6) (w.extractLsb' 44 6) (w.extractLsb' 0 32))
  | _ => none

/-- Major 0x10 of Table 5.7 (R88). -/
def raw10 (w : Word) : Option Instr :=
  match (w.extractLsb' 36 4).toNat with
  | 0x00 => some (.br (w.extractLsb' 0 32))
  | 0x01 => some (.bz (w.extractLsb' 46 6) (w.extractLsb' 0 32))
  | 0x02 => some (.bnz (w.extractLsb' 46 6) (w.extractLsb' 0 32))
  | 0x03 => some (.bcmp (w.extractLsb' 52 4) (w.extractLsb' 46 6) (w.extractLsb' 40 6) (w.extractLsb' 0 32))
  | 0x04 => some (.bbead (w.extractLsb' 32 4) (w.extractLsb' 0 32))
  | 0x05 => some (.bstat (w.extractLsb' 52 4) (w.extractLsb' 46 6) (w.extractLsb' 32 4) (w.extractLsb' 0 32))
  | 0x06 => some (.loop (w.extractLsb' 46 6) (w.extractLsb' 0 32))
  | 0x07 => some (.jmpr (w.extractLsb' 46 6) (w.extractLsb' 0 32))
  | _ => none

/-- Major 0x11 of Table 5.7 (R88). -/
def raw11 (w : Word) : Option Instr :=
  match (w.extractLsb' 36 4).toNat with
  | 0x00 => some (.call (w.extractLsb' 0 32))
  | 0x01 => some (.callr (w.extractLsb' 46 6) (w.extractLsb' 0 32))
  | 0x02 => some (.ret)
  | _ => none

/-- Major 0x18 of Table 5.7 (R88). -/
def raw18 (w : Word) : Option Instr :=
  match (w.extractLsb' 24 8).toNat with
  | 0x00 => some (.vadd (predAt w 13 12) (w.extractLsb' 20 4) (w.extractLsb' 50 6) (w.extractLsb' 44 6) (w.extractLsb' 38 6))
  | 0x01 => some (.vsub (predAt w 13 12) (w.extractLsb' 20 4) (w.extractLsb' 50 6) (w.extractLsb' 44 6) (w.extractLsb' 38 6))
  | 0x02 => some (.vmul (predAt w 13 12) (w.extractLsb' 20 4) (w.extractLsb' 50 6) (w.extractLsb' 44 6) (w.extractLsb' 38 6))
  | 0x03 => some (.vmulh (predAt w 13 12) (w.extractLsb' 20 4) (w.extractLsb' 50 6) (w.extractLsb' 44 6) (w.extractLsb' 38 6))
  | 0x04 => some (.vand (predAt w 13 12) (w.extractLsb' 50 6) (w.extractLsb' 44 6) (w.extractLsb' 38 6))
  | 0x05 => some (.vor (predAt w 13 12) (w.extractLsb' 50 6) (w.extractLsb' 44 6) (w.extractLsb' 38 6))
  | 0x06 => some (.vxor (predAt w 13 12) (w.extractLsb' 50 6) (w.extractLsb' 44 6) (w.extractLsb' 38 6))
  | 0x07 => some (.vshl (predAt w 13 12) (w.extractLsb' 20 4) (w.extractLsb' 50 6) (w.extractLsb' 44 6) (w.extractLsb' 38 6))
  | 0x08 => some (.vshr (predAt w 13 12) (w.extractLsb' 20 4) (w.extractLsb' 50 6) (w.extractLsb' 44 6) (w.extractLsb' 38 6))
  | 0x09 => some (.vsar (predAt w 13 12) (w.extractLsb' 20 4) (w.extractLsb' 50 6) (w.extractLsb' 44 6) (w.extractLsb' 38 6))
  | 0x0A => some (.vmin (predAt w 13 12) (w.extractLsb' 20 4) (w.extractLsb' 50 6) (w.extractLsb' 44 6) (w.extractLsb' 38 6))
  | 0x0B => some (.vmax (predAt w 13 12) (w.extractLsb' 20 4) (w.extractLsb' 50 6) (w.extractLsb' 44 6) (w.extractLsb' 38 6))
  | 0x0C => some (.vabs (predAt w 13 12) (w.extractLsb' 20 4) (w.extractLsb' 50 6) (w.extractLsb' 44 6))
  | 0x0D => some (.vsel (predAt w 13 12) (w.extractLsb' 50 6) (w.extractLsb' 44 6) (w.extractLsb' 38 6) (w.extractLsb' 32 6))
  | 0x0E => some (.vsplat (predAt w 13 12) (w.extractLsb' 50 6) (w.extractLsb' 44 6))
  | 0x0F => some (.viota (predAt w 13 12) (w.extractLsb' 50 6) (w.extractLsb' 44 6))
  | 0x10 => some (.vmov (predAt w 13 12) (w.extractLsb' 50 6) (w.extractLsb' 44 6))
  | 0x11 => some (.vclz (predAt w 13 12) (w.extractLsb' 20 4) (w.extractLsb' 50 6) (w.extractLsb' 44 6))
  | _ => none

/-- Major 0x19 of Table 5.7 (R88). -/
def raw19 (w : Word) : Option Instr :=
  match (w.extractLsb' 24 8).toNat with
  | 0x00 => some (.vfadd (predAt w 13 12) (w.extractLsb' 20 4) (w.extractLsb' 16 4) (w.extractLsb' 50 6) (w.extractLsb' 44 6) (w.extractLsb' 38 6))
  | 0x01 => some (.vfsub (predAt w 13 12) (w.extractLsb' 20 4) (w.extractLsb' 16 4) (w.extractLsb' 50 6) (w.extractLsb' 44 6) (w.extractLsb' 38 6))
  | 0x02 => some (.vfmul (predAt w 13 12) (w.extractLsb' 20 4) (w.extractLsb' 16 4) (w.extractLsb' 50 6) (w.extractLsb' 44 6) (w.extractLsb' 38 6))
  | 0x03 => some (.vfma (predAt w 13 12) (w.extractLsb' 20 4) (w.extractLsb' 16 4) (w.extractLsb' 50 6) (w.extractLsb' 44 6) (w.extractLsb' 38 6) (w.extractLsb' 32 6))
  | 0x04 => some (.vfmin (predAt w 13 12) (w.extractLsb' 20 4) (w.extractLsb' 16 4) (w.extractLsb' 50 6) (w.extractLsb' 44 6) (w.extractLsb' 38 6))
  | 0x05 => some (.vfmax (predAt w 13 12) (w.extractLsb' 20 4) (w.extractLsb' 16 4) (w.extractLsb' 50 6) (w.extractLsb' 44 6) (w.extractLsb' 38 6))
  | 0x06 => some (.vfabs (predAt w 13 12) (w.extractLsb' 20 4) (w.extractLsb' 16 4) (w.extractLsb' 50 6) (w.extractLsb' 44 6))
  | 0x07 => some (.vfneg (predAt w 13 12) (w.extractLsb' 20 4) (w.extractLsb' 16 4) (w.extractLsb' 50 6) (w.extractLsb' 44 6))
  | 0x08 => some (.vfcvt (predAt w 13 12) (w.extractLsb' 20 4) (w.extractLsb' 16 4) (w.extractLsb' 50 6) (w.extractLsb' 44 6) (w.extractLsb' 38 6) (w.extractLsb' 32 6))
  | 0x09 => some (.vexp2 (predAt w 13 12) (w.extractLsb' 16 4) (w.extractLsb' 50 6) (w.extractLsb' 44 6))
  | 0x0A => some (.vlog2 (predAt w 13 12) (w.extractLsb' 16 4) (w.extractLsb' 50 6) (w.extractLsb' 44 6))
  | 0x0B => some (.vrcp (predAt w 13 12) (w.extractLsb' 16 4) (w.extractLsb' 50 6) (w.extractLsb' 44 6))
  | 0x0C => some (.vrsq (predAt w 13 12) (w.extractLsb' 16 4) (w.extractLsb' 50 6) (w.extractLsb' 44 6))
  | 0x0D => some (.vfscl (predAt w 13 12) (w.extractLsb' 20 4) (w.extractLsb' 16 4) (w.extractLsb' 50 6) (w.extractLsb' 44 6) (w.extractLsb' 38 6))
  | _ => none

/-- Major 0x1A of Table 5.7 (R88). -/
def raw1A (w : Word) : Option Instr :=
  match (w.extractLsb' 24 8).toNat with
  | 0x00 => some (.vcmp (predAt w 13 12) (w.extractLsb' 20 4) (w.extractLsb' 16 4) (w.extractLsb' 50 6) (w.extractLsb' 44 6) (w.extractLsb' 38 6))
  | 0x01 => some (.vfcmp (predAt w 13 12) (w.extractLsb' 20 4) (w.extractLsb' 16 4) (w.extractLsb' 50 6) (w.extractLsb' 44 6) (w.extractLsb' 38 6))
  | 0x02 => some (.mand (predAt w 13 12) (w.extractLsb' 50 6) (w.extractLsb' 44 6) (w.extractLsb' 38 6))
  | 0x03 => some (.mor (predAt w 13 12) (w.extractLsb' 50 6) (w.extractLsb' 44 6) (w.extractLsb' 38 6))
  | 0x04 => some (.mxor (predAt w 13 12) (w.extractLsb' 50 6) (w.extractLsb' 44 6) (w.extractLsb' 38 6))
  | 0x05 => some (.mnot (predAt w 13 12) (w.extractLsb' 50 6) (w.extractLsb' 44 6))
  | 0x06 => some (.mpopc (predAt w 13 12) (w.extractLsb' 50 6) (w.extractLsb' 44 6))
  | 0x07 => some (.mfirst (predAt w 13 12) (w.extractLsb' 50 6) (w.extractLsb' 44 6))
  | 0x08 => some (.mfromg (predAt w 13 12) (w.extractLsb' 50 6) (w.extractLsb' 44 6))
  | 0x09 => some (.mtog (predAt w 13 12) (w.extractLsb' 50 6) (w.extractLsb' 44 6))
  | _ => none

/-- Major 0x1B of Table 5.7 (R88). -/
def raw1B (w : Word) : Option Instr :=
  match (w.extractLsb' 24 8).toNat with
  | 0x00 => some (.vshuf (predAt w 13 12) (w.extractLsb' 50 6) (w.extractLsb' 44 6) (w.extractLsb' 38 6))
  | 0x01 => some (.vrot (predAt w 13 12) (w.extractLsb' 50 6) (w.extractLsb' 44 6) (w.extractLsb' 38 6))
  | 0x02 => some (.vbcast (predAt w 13 12) (w.extractLsb' 50 6) (w.extractLsb' 44 6) (w.extractLsb' 38 6))
  | 0x03 => some (.vext (predAt w 13 12) (w.extractLsb' 50 6) (w.extractLsb' 44 6) (w.extractLsb' 38 6))
  | 0x04 => some (.vins (predAt w 13 12) (w.extractLsb' 50 6) (w.extractLsb' 44 6) (w.extractLsb' 38 6))
  | 0x05 => some (.vredadd (predAt w 13 12) (w.extractLsb' 20 4) (w.extractLsb' 16 4) (w.extractLsb' 50 6) (w.extractLsb' 44 6))
  | 0x06 => some (.vredmax (predAt w 13 12) (w.extractLsb' 20 4) (w.extractLsb' 50 6) (w.extractLsb' 44 6))
  | 0x07 => some (.vredmin (predAt w 13 12) (w.extractLsb' 20 4) (w.extractLsb' 50 6) (w.extractLsb' 44 6))
  | 0x08 => some (.vargmax (predAt w 13 12) (w.extractLsb' 50 6) (w.extractLsb' 44 6))
  | 0x09 => some (.vscan (predAt w 13 12) (w.extractLsb' 20 4) (w.extractLsb' 16 4) (w.extractLsb' 50 6) (w.extractLsb' 44 6))
  | 0x0A => some (.vcompact (predAt w 13 12) (w.extractLsb' 50 6) (w.extractLsb' 44 6) (w.extractLsb' 38 6))
  | 0x0B => some (.vrng (predAt w 13 12) (w.extractLsb' 50 6) (w.extractLsb' 44 6) (w.extractLsb' 38 6) (w.extractLsb' 32 6))
  | _ => none

/-- Major 0x20 of Table 5.7 (R88). -/
def raw20 (w : Word) : Option Instr :=
  match (w.extractLsb' 28 3).toNat with
  | 0x00 => some (.ld (predAt w 32 31) (w.extractLsb' 35 3) (w.extractLsb' 50 6) (w.extractLsb' 44 6) (w.extractLsb' 38 6) (w.extractLsb' 0 24))
  | 0x01 => some (.vld (predAt w 32 31) (w.extractLsb' 50 6) (w.extractLsb' 44 6) (w.extractLsb' 38 6) (w.extractLsb' 0 24))
  | 0x02 => some (.vldg (predAt w 32 31) (w.extractLsb' 50 6) (w.extractLsb' 44 6) (w.extractLsb' 38 6) (w.extractLsb' 0 24))
  | 0x03 => some (.vldb (predAt w 32 31) (w.extractLsb' 50 6) (w.extractLsb' 44 6) (w.extractLsb' 38 6) (w.extractLsb' 0 24))
  | 0x04 => some (.pref (predAt w 32 31) (w.extractLsb' 44 6) (w.extractLsb' 38 6) (w.extractLsb' 0 24))
  | _ => none

/-- Major 0x21 of Table 5.7 (R88). -/
def raw21 (w : Word) : Option Instr :=
  match (w.extractLsb' 28 3).toNat with
  | 0x00 => some (.st (predAt w 32 31) (w.extractLsb' 35 3) (w.extractLsb' 50 6) (w.extractLsb' 44 6) (w.extractLsb' 38 6) (w.extractLsb' 0 24))
  | 0x01 => some (.vst (predAt w 32 31) (w.extractLsb' 50 6) (w.extractLsb' 44 6) (w.extractLsb' 38 6) (w.extractLsb' 0 24))
  | 0x02 => some (.vsts (predAt w 32 31) (w.extractLsb' 50 6) (w.extractLsb' 44 6) (w.extractLsb' 38 6) (w.extractLsb' 0 24))
  | _ => none

/-- Major 0x22 of Table 5.7 (R88). -/
def raw22 (w : Word) : Option Instr :=
  match (w.extractLsb' 28 3).toNat with
  | 0x00 => some (.aadd (predAt w 32 31) (w.extractLsb' 35 3) (w.extractLsb' 50 6) (w.extractLsb' 44 6) (w.extractLsb' 38 6) (w.extractLsb' 0 24))
  | 0x01 => some (.amin (predAt w 32 31) (w.extractLsb' 35 3) (w.extractLsb' 24 4) (w.extractLsb' 50 6) (w.extractLsb' 44 6) (w.extractLsb' 38 6) (w.extractLsb' 0 24))
  | 0x02 => some (.amax (predAt w 32 31) (w.extractLsb' 35 3) (w.extractLsb' 24 4) (w.extractLsb' 50 6) (w.extractLsb' 44 6) (w.extractLsb' 38 6) (w.extractLsb' 0 24))
  | 0x03 => some (.aand (predAt w 32 31) (w.extractLsb' 35 3) (w.extractLsb' 50 6) (w.extractLsb' 44 6) (w.extractLsb' 38 6) (w.extractLsb' 0 24))
  | 0x04 => some (.aor (predAt w 32 31) (w.extractLsb' 35 3) (w.extractLsb' 50 6) (w.extractLsb' 44 6) (w.extractLsb' 38 6) (w.extractLsb' 0 24))
  | 0x05 => some (.axor (predAt w 32 31) (w.extractLsb' 35 3) (w.extractLsb' 50 6) (w.extractLsb' 44 6) (w.extractLsb' 38 6) (w.extractLsb' 0 24))
  | 0x06 => some (.axchg (predAt w 32 31) (w.extractLsb' 35 3) (w.extractLsb' 50 6) (w.extractLsb' 44 6) (w.extractLsb' 38 6) (w.extractLsb' 0 24))
  | 0x07 => some (.acas (predAt w 32 31) (w.extractLsb' 35 3) (w.extractLsb' 50 6) (w.extractLsb' 44 6) (w.extractLsb' 38 6) (w.extractLsb' 0 24))
  | _ => none

/-- Major 0x23 of Table 5.7 (R88). -/
def raw23 (w : Word) : Option Instr :=
  match (w.extractLsb' 28 3).toNat with
  | 0x00 => some (.vaadd (predAt w 32 31) (w.extractLsb' 50 6) (w.extractLsb' 44 6) (w.extractLsb' 38 6) (w.extractLsb' 0 24))
  | 0x01 => some (.vamax (predAt w 32 31) (w.extractLsb' 50 6) (w.extractLsb' 44 6) (w.extractLsb' 38 6) (w.extractLsb' 0 24))
  | _ => none

/-- Major 0x28 of Table 5.7 (R88). -/
def raw28 (w : Word) : Option Instr :=
  some (.fence (w.extractLsb' 52 4) (w.extractLsb' 50 2) (w.extractLsb' 48 2) (w.extractLsb' 44 4) (w.extractLsb' 0 11) (w.extractLsb' 11 11) (w.extractLsb' 22 11) (w.extractLsb' 33 11))

/-- Major 0x29 of Table 5.7 (R88). -/
def raw29 (w : Word) : Option Instr :=
  match (w.extractLsb' 40 4).toNat with
  | 0x00 => some (.bar (predAt w 37 36) (w.extractLsb' 32 4) (w.extractLsb' 0 32))
  | 0x01 => some (.bara (predAt w 37 36) (w.extractLsb' 32 4) (w.extractLsb' 50 6) (w.extractLsb' 0 32))
  | 0x02 => some (.barw (predAt w 37 36) (w.extractLsb' 32 4) (w.extractLsb' 0 32))
  | 0x03 => some (.barx (predAt w 37 36) (w.extractLsb' 32 4) (w.extractLsb' 44 6) (w.extractLsb' 0 32))
  | 0x04 => some (.barset (predAt w 37 36) (w.extractLsb' 32 4) (w.extractLsb' 44 6) (w.extractLsb' 0 32))
  | _ => none

/-- Major 0x2A of Table 5.7 (R88). -/
def raw2A (w : Word) : Option Instr :=
  some (.lgfence (w.extractLsb' 52 4) (w.extractLsb' 50 2) (w.extractLsb' 0 11) (w.extractLsb' 11 11) (w.extractLsb' 22 11) (w.extractLsb' 33 11))

/-- Major 0x30 of Table 5.7 (R88). -/
def raw30 (w : Word) : Option Instr :=
  match (w.extractLsb' 24 8).toNat with
  | 0x00 => some (.cbind (predAt w 21 20) (w.extractLsb' 52 4) (w.extractLsb' 46 6) (w.extractLsb' 0 16))
  | 0x01 => some (.cwait (predAt w 21 20) (w.extractLsb' 52 4) (w.extractLsb' 46 6) (w.extractLsb' 32 8))
  | 0x02 => some (.cresv (predAt w 21 20) (w.extractLsb' 52 4) (w.extractLsb' 46 6) (w.extractLsb' 32 8))
  | 0x03 => some (.cpush (predAt w 21 20) (w.extractLsb' 52 4) (w.extractLsb' 46 6) (w.extractLsb' 0 16))
  | 0x04 => some (.cpeek (predAt w 21 20) (w.extractLsb' 52 4) (w.extractLsb' 46 6) (w.extractLsb' 40 6) (w.extractLsb' 0 16))
  | 0x05 => some (.cpadv (predAt w 21 20) (w.extractLsb' 52 4) (w.extractLsb' 46 6) (w.extractLsb' 32 8))
  | 0x06 => some (.ccadv (predAt w 21 20) (w.extractLsb' 52 4) (w.extractLsb' 46 6) (w.extractLsb' 32 8))
  | 0x07 => some (.cmark (predAt w 21 20) (w.extractLsb' 52 4) (w.extractLsb' 46 6) (w.extractLsb' 32 8) (w.extractLsb' 0 16))
  | 0x08 => some (.cstat (predAt w 21 20) (w.extractLsb' 52 4) (w.extractLsb' 46 6))
  | _ => none

/-- Major 0x31 of Table 5.7 (R88). -/
def raw31 (w : Word) : Option Instr :=
  match (w.extractLsb' 24 8).toNat with
  | 0x00 => some (.ksend (predAt w 21 20) (w.extractLsb' 46 6) (w.extractLsb' 32 8))
  | 0x01 => some (.kpoll (predAt w 21 20) (w.extractLsb' 52 4) (w.extractLsb' 46 6))
  | _ => none

/-- Major 0x38 of Table 5.7 (R88). -/
def raw38 (w : Word) : Option Instr :=
  match (w.extractLsb' 24 8).toNat with
  | 0x00 => some (.cpy (w.extractLsb' 50 6) (w.extractLsb' 44 6) (w.extractLsb' 38 6) (w.extractLsb' 32 6) (w.extractLsb' 13 11) (w.extractLsb' 0 13))
  | 0x01 => some (.cpym (w.extractLsb' 50 6) (w.extractLsb' 44 6) (w.extractLsb' 38 6) (w.extractLsb' 32 6) (w.extractLsb' 13 11) (w.extractLsb' 0 1))
  | 0x02 => some (.cpys (w.extractLsb' 50 6) (w.extractLsb' 44 6) (w.extractLsb' 38 6) (w.extractLsb' 13 11) (w.extractLsb' 0 3))
  | 0x03 => some (.bfwait (w.extractLsb' 32 6))
  | 0x04 => some (.bfrel (w.extractLsb' 32 6))
  | 0x05 => some (.bfstat (w.extractLsb' 50 6) (w.extractLsb' 32 6))
  | 0x06 => if w.getLsbD 2 then some (.bfarmDisarm (w.extractLsb' 32 6)) else some (.bfarm (w.extractLsb' 50 6) (w.extractLsb' 44 6) (w.extractLsb' 38 6) (w.extractLsb' 32 6) (w.extractLsb' 13 11) (w.extractLsb' 0 2))
  | _ => none

/-- Major 0x39 of Table 5.7 (R88). -/
def raw39 (w : Word) : Option Instr :=
  match (w.extractLsb' 24 8).toNat with
  | 0x00 => some (.mma (w.extractLsb' 50 6) (w.extractLsb' 32 6) (w.extractLsb' 13 11))
  | 0x01 => some (.mmaz (w.extractLsb' 50 6) (w.extractLsb' 32 6) (w.extractLsb' 13 11))
  | 0x02 => some (.mdrain (w.extractLsb' 50 6) (w.extractLsb' 44 6) (w.extractLsb' 32 6) (w.extractLsb' 13 11) (w.extractLsb' 0 3))
  | 0x03 => some (.mldb (w.extractLsb' 32 6) (w.extractLsb' 13 11))
  | 0x04 => some (.mzero (w.extractLsb' 50 6))
  | 0x05 => some (.mstat (w.extractLsb' 50 6))
  | _ => none

/-- Major 0x3A of Table 5.7 (R88). -/
def raw3A (w : Word) : Option Instr :=
  match (w.extractLsb' 24 8).toNat with
  | 0x00 => some (.sopen (w.extractLsb' 50 6) (w.extractLsb' 44 6) (w.extractLsb' 13 11) (w.extractLsb' 0 1))
  | 0x01 => some (.sclose (w.extractLsb' 50 6))
  | 0x02 => some (.sstat (w.extractLsb' 50 6) (w.extractLsb' 44 6))
  | 0x03 => some (.sdrain (w.extractLsb' 50 6) (w.extractLsb' 44 6))
  | _ => none

/-- Major 0x40 of Table 5.7 (R88). -/
def raw40 (w : Word) : Option Instr :=
  match (w.extractLsb' 24 8).toNat with
  | 0x00 => some (.aload (w.extractLsb' 50 6) (w.extractLsb' 13 11))
  | 0x01 =>
    match (w.extractLsb' 0 3).toNat with
    | 0 => some (.abindMaskSink (w.extractLsb' 50 6) (w.extractLsb' 13 11) (w.extractLsb' 3 3))
    | 1 => some (.abindEventSink (w.extractLsb' 50 6) (w.extractLsb' 13 11) (w.extractLsb' 3 3))
    | 2 => some (.abindTreeSink (w.extractLsb' 50 6) (w.extractLsb' 13 11) (w.extractLsb' 3 3))
    | 3 => some (.abindSpillArea (w.extractLsb' 50 6) (w.extractLsb' 13 11) (w.extractLsb' 3 3))
    | 4 => some (.abindLimits (w.extractLsb' 50 6) (w.extractLsb' 13 11) (w.extractLsb' 3 3))
    | 5 => some (.abindUnbind (w.extractLsb' 50 6) (w.extractLsb' 13 11) (w.extractLsb' 3 3))
    | _ => none
  | 0x02 => some (.arun (w.extractLsb' 50 6) (w.extractLsb' 44 6))
  | 0x03 => some (.astep (w.extractLsb' 50 6) (w.extractLsb' 0 1))
  | 0x04 => some (.away (w.extractLsb' 13 11))
  | 0x05 => some (.aresume (w.extractLsb' 13 11))
  | 0x06 => some (.astat (w.extractLsb' 50 6))
  | 0x07 => some (.aclear (w.extractLsb' 0 1))
  | _ => none

/-- Major 0x48 of Table 5.7 (R88). -/
def raw48 (w : Word) : Option Instr :=
  match (w.extractLsb' 24 8).toNat with
  | 0x00 => some (.glaunch (w.extractLsb' 50 6) (w.extractLsb' 44 6) (w.extractLsb' 13 11) (w.extractLsb' 0 3))
  | 0x01 => some (.gdone)
  | 0x02 => some (.gparam (w.extractLsb' 50 6) (w.extractLsb' 44 6) (w.extractLsb' 13 11))
  | 0x03 => some (.fork (w.extractLsb' 50 6) (w.extractLsb' 44 6) (w.extractLsb' 38 6) (w.extractLsb' 0 3))
  | 0x04 => some (.join)
  | 0x05 => some (.pqpush (w.extractLsb' 50 6) (w.extractLsb' 44 6) (w.extractLsb' 38 6))
  | 0x06 => some (.pqpop (w.extractLsb' 50 6) (w.extractLsb' 44 6) (w.extractLsb' 38 6))
  | 0x07 =>
    match (w.extractLsb' 0 2).toNat with
    | 0 => some (.trigbindStoreWatch (w.extractLsb' 50 6) (w.extractLsb' 44 6) (w.extractLsb' 38 6) (w.extractLsb' 13 11))
    | 1 => some (.trigbindRingWatch (w.extractLsb' 50 6) (w.extractLsb' 44 6) (w.extractLsb' 38 6) (w.extractLsb' 13 11))
    | 2 => some (.trigbindUnbind (w.extractLsb' 50 6))
    | _ => none
  | 0x08 => some (.trigfire (w.extractLsb' 50 6))
  | _ => none

/-- Major 0x50 of Table 5.7 (R88). -/
def raw50 (w : Word) : Option Instr :=
  match (w.extractLsb' 24 8).toNat with
  | 0x00 => if w.getLsbD 0 then some (.twbindUnbind (w.extractLsb' 50 6)) else some (.twbind (w.extractLsb' 50 6) (w.extractLsb' 13 11))
  | 0x01 => some (.twget (w.extractLsb' 50 6) (w.extractLsb' 44 6) (w.extractLsb' 38 6) (w.extractLsb' 0 1))
  | 0x02 => some (.twrel (w.extractLsb' 50 6))
  | 0x03 => some (.twstat (w.extractLsb' 50 6) (w.extractLsb' 44 6) (w.extractLsb' 0 2))
  | 0x04 => if w.getLsbD 0 then some (.tickarmDisarm (w.extractLsb' 50 6)) else some (.tickarm (w.extractLsb' 50 6) (w.extractLsb' 44 6) (w.extractLsb' 13 11))
  | 0x05 => some (.tnow (w.extractLsb' 50 6))
  | _ => none

/-- The instruction a word names by its major and fn (checks 1 and 2 of R89), its unused fields not yet checked. -/
def rawDecode (w : Word) : Option Instr :=
  match (w.extractLsb' 56 8).toNat with
  | 0x01 => raw01 w
  | 0x02 => raw02 w
  | 0x08 => raw08 w
  | 0x09 => raw09 w
  | 0x10 => raw10 w
  | 0x11 => raw11 w
  | 0x18 => raw18 w
  | 0x19 => raw19 w
  | 0x1A => raw1A w
  | 0x1B => raw1B w
  | 0x20 => raw20 w
  | 0x21 => raw21 w
  | 0x22 => raw22 w
  | 0x23 => raw23 w
  | 0x28 => raw28 w
  | 0x29 => raw29 w
  | 0x2A => raw2A w
  | 0x30 => raw30 w
  | 0x31 => raw31 w
  | 0x38 => raw38 w
  | 0x39 => raw39 w
  | 0x3A => raw3A w
  | 0x40 => raw40 w
  | 0x48 => raw48 w
  | 0x50 => raw50 w
  | _ => none

/-! The eight formats of R85, fields from bit 63 down. -/

def packR (op fn : BitVec 8) (d a b c : Reg) (ty md : BitVec 4) (p : Pred) : Word :=
  op ++ d ++ a ++ b ++ c ++ fn ++ ty ++ md ++ p.m ++ BitVec.ofBool p.pn ++ 0#12
def packI (op : BitVec 8) (fn : BitVec 4) (d a : Reg) (md : BitVec 4) (imm : BitVec 32) (p : Pred) : Word :=
  op ++ d ++ a ++ fn ++ p.m ++ BitVec.ofBool p.pn ++ md ++ imm
def packB (op : BitVec 8) (fn cc : BitVec 4) (a b : Reg) (sel : BitVec 4) (off : BitVec 32) : Word :=
  op ++ cc ++ a ++ b ++ fn ++ sel ++ off
def packM (op : BitVec 8) (fn : BitVec 3) (d base idx : Reg) (sz : BitVec 3) (md : BitVec 4) (disp : BitVec 24) (p : Pred) : Word :=
  op ++ d ++ base ++ idx ++ sz ++ p.m ++ BitVec.ofBool p.pn ++ fn ++ md ++ disp
def packH (op fn : BitVec 8) (h : BitVec 4) (gx gy : Reg) (n : BitVec 8) (md : BitVec 4) (imm : BitVec 16) (p : Pred) : Word :=
  op ++ h ++ gx ++ gy ++ n ++ fn ++ p.m ++ BitVec.ofBool p.pn ++ md ++ imm
def packX (op fn : BitVec 8) (a b c bs : Reg) (tid : BitVec 11) (flags : BitVec 13) : Word :=
  op ++ a ++ b ++ c ++ bs ++ fn ++ tid ++ flags
def packF (op : BitVec 8) (scope : BitVec 4) (cnt kind : BitVec 2) (form : BitVec 4) (e3 e2 e1 e0 : BitVec 11) : Word :=
  op ++ scope ++ cnt ++ kind ++ form ++ e3 ++ e2 ++ e1 ++ e0
def packZ (op fn : BitVec 8) (imm : BitVec 48) : Word := op ++ fn ++ imm

/-- The 64-bit word of an instruction, from the formats of R85 and the opcode map of R88; `none` for an event. -/
def encode : Instr → Option Word
  | .nop => some (packZ 0x01 0x00 0)
  | .halt => some (packZ 0x01 0x01 0)
  | .brk code => some (packZ 0x01 0x02 code)
  | .trap code => some (packZ 0x01 0x03 code)
  | .eret => some (packZ 0x01 0x04 0)
  | .wfe clocks => some (packZ 0x01 0x05 (0#16 ++ clocks))
  | .phase vote => some (packZ 0x01 0x06 (0#47 ++ vote))
  | .ncnt => some (packZ 0x01 0x07 0)
  | .srd p d sreg => some (packI 0x02 0x00 d 0 0 sreg p)
  | .swr p a sreg => some (packI 0x02 0x01 0 a 0 sreg p)
  | .tlbi p d a kind => some (packI 0x02 0x02 d a 0 kind p)
  | .add p d a b => some (packR 0x08 0x00 d a b 0 0 0 p)
  | .sub p d a b => some (packR 0x08 0x01 d a b 0 0 0 p)
  | .mul p d a b => some (packR 0x08 0x02 d a b 0 0 0 p)
  | .mulh p d a b => some (packR 0x08 0x03 d a b 0 0 0 p)
  | .mulhu p d a b => some (packR 0x08 0x04 d a b 0 0 0 p)
  | .div p d a b => some (packR 0x08 0x05 d a b 0 0 0 p)
  | .divu p d a b => some (packR 0x08 0x06 d a b 0 0 0 p)
  | .rem p d a b => some (packR 0x08 0x07 d a b 0 0 0 p)
  | .remu p d a b => some (packR 0x08 0x08 d a b 0 0 0 p)
  | .and p d a b => some (packR 0x08 0x09 d a b 0 0 0 p)
  | .or p d a b => some (packR 0x08 0x0A d a b 0 0 0 p)
  | .xor p d a b => some (packR 0x08 0x0B d a b 0 0 0 p)
  | .andn p d a b => some (packR 0x08 0x0C d a b 0 0 0 p)
  | .shl p d a b => some (packR 0x08 0x0D d a b 0 0 0 p)
  | .shr p d a b => some (packR 0x08 0x0E d a b 0 0 0 p)
  | .sar p d a b => some (packR 0x08 0x0F d a b 0 0 0 p)
  | .rol p d a b => some (packR 0x08 0x10 d a b 0 0 0 p)
  | .min p d a b => some (packR 0x08 0x11 d a b 0 0 0 p)
  | .max p d a b => some (packR 0x08 0x12 d a b 0 0 0 p)
  | .minu p d a b => some (packR 0x08 0x13 d a b 0 0 0 p)
  | .maxu p d a b => some (packR 0x08 0x14 d a b 0 0 0 p)
  | .clz p d a => some (packR 0x08 0x15 d a 0 0 0 0 p)
  | .popc p d a => some (packR 0x08 0x16 d a 0 0 0 0 p)
  | .sext p d a n => some (packR 0x08 0x17 d a n 0 0 0 p)
  | .zext p d a n => some (packR 0x08 0x18 d a n 0 0 0 p)
  | .sel p d a b c => some (packR 0x08 0x19 d a b c 0 0 p)
  | .cmp p cond d a b => some (packR 0x08 0x1A d a b 0 0 cond p)
  | .addi p d a imm => some (packI 0x09 0x00 d a 0 imm p)
  | .andi p d a imm => some (packI 0x09 0x01 d a 0 imm p)
  | .ori p d a imm => some (packI 0x09 0x02 d a 0 imm p)
  | .xori p d a imm => some (packI 0x09 0x03 d a 0 imm p)
  | .shli p d a imm => some (packI 0x09 0x04 d a 0 imm p)
  | .shri p d a imm => some (packI 0x09 0x05 d a 0 imm p)
  | .sari p d a imm => some (packI 0x09 0x06 d a 0 imm p)
  | .cmpi p cond d a imm => some (packI 0x09 0x07 d a cond imm p)
  | .movi p d imm => some (packI 0x09 0x08 d 0 0 imm p)
  | .movhi p d a imm => some (packI 0x09 0x09 d a 0 imm p)
  | .br off => some (packB 0x10 0x00 0 0 0 0 off)
  | .bz a off => some (packB 0x10 0x01 0 a 0 0 off)
  | .bnz a off => some (packB 0x10 0x02 0 a 0 0 off)
  | .bcmp cond a b off => some (packB 0x10 0x03 cond a b 0 off)
  | .bbead port off => some (packB 0x10 0x04 0 0 0 port off)
  | .bstat state a eng off => some (packB 0x10 0x05 state a 0 eng off)
  | .loop a off => some (packB 0x10 0x06 0 a 0 0 off)
  | .jmpr a off => some (packB 0x10 0x07 0 a 0 0 off)
  | .call off => some (packB 0x11 0x00 0 0 0 0 off)
  | .callr a off => some (packB 0x11 0x01 0 a 0 0 off)
  | .ret => some (packB 0x11 0x02 0 0 0 0 0)
  | .vadd p ty d a b => some (packR 0x18 0x00 d a b 0 ty 0 p)
  | .vsub p ty d a b => some (packR 0x18 0x01 d a b 0 ty 0 p)
  | .vmul p ty d a b => some (packR 0x18 0x02 d a b 0 ty 0 p)
  | .vmulh p ty d a b => some (packR 0x18 0x03 d a b 0 ty 0 p)
  | .vand p d a b => some (packR 0x18 0x04 d a b 0 0 0 p)
  | .vor p d a b => some (packR 0x18 0x05 d a b 0 0 0 p)
  | .vxor p d a b => some (packR 0x18 0x06 d a b 0 0 0 p)
  | .vshl p ty d a b => some (packR 0x18 0x07 d a b 0 ty 0 p)
  | .vshr p ty d a b => some (packR 0x18 0x08 d a b 0 ty 0 p)
  | .vsar p ty d a b => some (packR 0x18 0x09 d a b 0 ty 0 p)
  | .vmin p ty d a b => some (packR 0x18 0x0A d a b 0 ty 0 p)
  | .vmax p ty d a b => some (packR 0x18 0x0B d a b 0 ty 0 p)
  | .vabs p ty d a => some (packR 0x18 0x0C d a 0 0 ty 0 p)
  | .vsel p d a b c => some (packR 0x18 0x0D d a b c 0 0 p)
  | .vsplat p d a => some (packR 0x18 0x0E d a 0 0 0 0 p)
  | .viota p d a => some (packR 0x18 0x0F d a 0 0 0 0 p)
  | .vmov p d a => some (packR 0x18 0x10 d a 0 0 0 0 p)
  | .vclz p ty d a => some (packR 0x18 0x11 d a 0 0 ty 0 p)
  | .vfadd p ty md d a b => some (packR 0x19 0x00 d a b 0 ty md p)
  | .vfsub p ty md d a b => some (packR 0x19 0x01 d a b 0 ty md p)
  | .vfmul p ty md d a b => some (packR 0x19 0x02 d a b 0 ty md p)
  | .vfma p ty md d a b c => some (packR 0x19 0x03 d a b c ty md p)
  | .vfmin p ty md d a b => some (packR 0x19 0x04 d a b 0 ty md p)
  | .vfmax p ty md d a b => some (packR 0x19 0x05 d a b 0 ty md p)
  | .vfabs p ty md d a => some (packR 0x19 0x06 d a 0 0 ty md p)
  | .vfneg p ty md d a => some (packR 0x19 0x07 d a 0 0 ty md p)
  | .vfcvt p dst md d a src part => some (packR 0x19 0x08 d a src part dst md p)
  | .vexp2 p md d a => some (packR 0x19 0x09 d a 0 0 0 md p)
  | .vlog2 p md d a => some (packR 0x19 0x0A d a 0 0 0 md p)
  | .vrcp p md d a => some (packR 0x19 0x0B d a 0 0 0 md p)
  | .vrsq p md d a => some (packR 0x19 0x0C d a 0 0 0 md p)
  | .vfscl p ty md d a b => some (packR 0x19 0x0D d a b 0 ty md p)
  | .vcmp p ty cond d a b => some (packR 0x1A 0x00 d a b 0 ty cond p)
  | .vfcmp p ty cond d a b => some (packR 0x1A 0x01 d a b 0 ty cond p)
  | .mand p d a b => some (packR 0x1A 0x02 d a b 0 0 0 p)
  | .mor p d a b => some (packR 0x1A 0x03 d a b 0 0 0 p)
  | .mxor p d a b => some (packR 0x1A 0x04 d a b 0 0 0 p)
  | .mnot p d a => some (packR 0x1A 0x05 d a 0 0 0 0 p)
  | .mpopc p d a => some (packR 0x1A 0x06 d a 0 0 0 0 p)
  | .mfirst p d a => some (packR 0x1A 0x07 d a 0 0 0 0 p)
  | .mfromg p d a => some (packR 0x1A 0x08 d a 0 0 0 0 p)
  | .mtog p d a => some (packR 0x1A 0x09 d a 0 0 0 0 p)
  | .vshuf p d a b => some (packR 0x1B 0x00 d a b 0 0 0 p)
  | .vrot p d a b => some (packR 0x1B 0x01 d a b 0 0 0 p)
  | .vbcast p d a b => some (packR 0x1B 0x02 d a b 0 0 0 p)
  | .vext p d a b => some (packR 0x1B 0x03 d a b 0 0 0 p)
  | .vins p d a b => some (packR 0x1B 0x04 d a b 0 0 0 p)
  | .vredadd p ty md d a => some (packR 0x1B 0x05 d a 0 0 ty md p)
  | .vredmax p ty d a => some (packR 0x1B 0x06 d a 0 0 ty 0 p)
  | .vredmin p ty d a => some (packR 0x1B 0x07 d a 0 0 ty 0 p)
  | .vargmax p d a => some (packR 0x1B 0x08 d a 0 0 0 0 p)
  | .vscan p ty md d a => some (packR 0x1B 0x09 d a 0 0 ty md p)
  | .vcompact p d a b => some (packR 0x1B 0x0A d a b 0 0 0 p)
  | .vrng p d a b c => some (packR 0x1B 0x0B d a b c 0 0 p)
  | .ld p sz d base idx disp => some (packM 0x20 0x00 d base idx sz 0 disp p)
  | .vld p d base idx disp => some (packM 0x20 0x01 d base idx (4#3) 0 disp p)
  | .vldg p d base idx disp => some (packM 0x20 0x02 d base idx (4#3) 0 disp p)
  | .vldb p d base idx disp => some (packM 0x20 0x03 d base idx (4#3) 0 disp p)
  | .pref p base idx disp => some (packM 0x20 0x04 0 base idx 0 0 disp p)
  | .st p sz s base idx disp => some (packM 0x21 0x00 s base idx sz 0 disp p)
  | .vst p s base idx disp => some (packM 0x21 0x01 s base idx (4#3) 0 disp p)
  | .vsts p s base idx disp => some (packM 0x21 0x02 s base idx (4#3) 0 disp p)
  | .aadd p sz d base idx disp => some (packM 0x22 0x00 d base idx sz 0 disp p)
  | .amin p sz md d base idx disp => some (packM 0x22 0x01 d base idx sz md disp p)
  | .amax p sz md d base idx disp => some (packM 0x22 0x02 d base idx sz md disp p)
  | .aand p sz d base idx disp => some (packM 0x22 0x03 d base idx sz 0 disp p)
  | .aor p sz d base idx disp => some (packM 0x22 0x04 d base idx sz 0 disp p)
  | .axor p sz d base idx disp => some (packM 0x22 0x05 d base idx sz 0 disp p)
  | .axchg p sz d base idx disp => some (packM 0x22 0x06 d base idx sz 0 disp p)
  | .acas p sz d base idx disp => some (packM 0x22 0x07 d base idx sz 0 disp p)
  | .vaadd p d base idx disp => some (packM 0x23 0x00 d base idx (4#3) 0 disp p)
  | .vamax p d base idx disp => some (packM 0x23 0x01 d base idx (4#3) 0 disp p)
  | .fence scope cnt kind form e0 e1 e2 e3 => some (packF 0x28 scope cnt kind form e3 e2 e1 e0)
  | .bar p scope id => some (packI 0x29 0x00 0 0 scope id p)
  | .bara p scope d id => some (packI 0x29 0x01 d 0 scope id p)
  | .barw p scope id => some (packI 0x29 0x02 0 0 scope id p)
  | .barx p scope a id => some (packI 0x29 0x03 0 a scope id p)
  | .barset p scope a id => some (packI 0x29 0x04 0 a scope id p)
  | .lgfence scope cnt e0 e1 e2 e3 => some (packF 0x2A scope cnt 0 0 e3 e2 e1 e0)
  | .cbind p h gx ce => some (packH 0x30 0x00 h gx 0 0 0 ce p)
  | .cwait p h gx n => some (packH 0x30 0x01 h gx 0 n 0 0 p)
  | .cresv p h gx n => some (packH 0x30 0x02 h gx 0 n 0 0 p)
  | .cpush p h gx off => some (packH 0x30 0x03 h gx 0 0 0 off p)
  | .cpeek p h gx gy off => some (packH 0x30 0x04 h gx gy 0 0 off p)
  | .cpadv p h gx n => some (packH 0x30 0x05 h gx 0 n 0 0 p)
  | .ccadv p h gx n => some (packH 0x30 0x06 h gx 0 n 0 0 p)
  | .cmark p h gx rank off => some (packH 0x30 0x07 h gx 0 rank 0 off p)
  | .cstat p h gx => some (packH 0x30 0x08 h gx 0 0 0 0 p)
  | .ksend p gx route => some (packH 0x31 0x00 0 gx 0 route 0 0 p)
  | .kpoll p port gx => some (packH 0x31 0x01 port gx 0 0 0 0 p)
  | .cpy a b c bs tid flags => some (packX 0x38 0x00 a b c bs tid flags)
  | .cpym a b c bs tid form => some (packX 0x38 0x01 a b c bs tid (0#12 ++ form))
  | .cpys a b c tid acc => some (packX 0x38 0x02 a b c 0 tid (0#10 ++ acc))
  | .bfwait bs => some (packX 0x38 0x03 0 0 0 bs 0 0)
  | .bfrel bs => some (packX 0x38 0x04 0 0 0 bs 0 0)
  | .bfstat a bs => some (packX 0x38 0x05 a 0 0 bs 0 0)
  | .bfarm a b c bs tid form => some (packX 0x38 0x06 a b c bs tid (0#11 ++ form))
  | .bfarmDisarm bs => some (packX 0x38 0x06 0 0 0 bs 0 (4#13))
  | .mma acc bs tid => some (packX 0x39 0x00 acc 0 0 bs tid 0)
  | .mmaz acc bs tid => some (packX 0x39 0x01 acc 0 0 bs tid 0)
  | .mdrain acc b bs tid flags => some (packX 0x39 0x02 acc b 0 bs tid (0#10 ++ flags))
  | .mldb bs tid => some (packX 0x39 0x03 0 0 0 bs tid 0)
  | .mzero acc => some (packX 0x39 0x04 acc 0 0 0 0 0)
  | .mstat a => some (packX 0x39 0x05 a 0 0 0 0 0)
  | .sopen a b tid dir => some (packX 0x3A 0x00 a b 0 0 tid (0#12 ++ dir))
  | .sclose a => some (packX 0x3A 0x01 a 0 0 0 0 0)
  | .sstat a b => some (packX 0x3A 0x02 a b 0 0 0 0)
  | .sdrain a b => some (packX 0x3A 0x03 a b 0 0 0 0)
  | .aload a tid => some (packX 0x40 0x00 a 0 0 0 tid 0)
  | .abindMaskSink a tid hi => some (packX 0x40 0x01 a 0 0 0 tid (0#7 ++ hi ++ 0#3))
  | .abindEventSink a tid hi => some (packX 0x40 0x01 a 0 0 0 tid (0#7 ++ hi ++ 1#3))
  | .abindTreeSink a tid hi => some (packX 0x40 0x01 a 0 0 0 tid (0#7 ++ hi ++ 2#3))
  | .abindSpillArea a tid hi => some (packX 0x40 0x01 a 0 0 0 tid (0#7 ++ hi ++ 3#3))
  | .abindLimits a tid hi => some (packX 0x40 0x01 a 0 0 0 tid (0#7 ++ hi ++ 4#3))
  | .abindUnbind a tid hi => some (packX 0x40 0x01 a 0 0 0 tid (0#7 ++ hi ++ 5#3))
  | .arun a b => some (packX 0x40 0x02 a b 0 0 0 0)
  | .astep a mark => some (packX 0x40 0x03 a 0 0 0 0 (0#12 ++ mark))
  | .away tid => some (packX 0x40 0x04 0 0 0 0 tid 0)
  | .aresume tid => some (packX 0x40 0x05 0 0 0 0 tid 0)
  | .astat a => some (packX 0x40 0x06 a 0 0 0 0 0)
  | .aclear unload => some (packX 0x40 0x07 0 0 0 0 0 (0#12 ++ unload))
  | .glaunch a b tid flags => some (packX 0x48 0x00 a b 0 0 tid (0#10 ++ flags))
  | .gdone => some (packX 0x48 0x01 0 0 0 0 0 0)
  | .gparam a b tid => some (packX 0x48 0x02 a b 0 0 tid 0)
  | .fork a b c mask => some (packX 0x48 0x03 a b c 0 0 (0#10 ++ mask))
  | .join => some (packX 0x48 0x04 0 0 0 0 0 0)
  | .pqpush a b c => some (packX 0x48 0x05 a b c 0 0 0)
  | .pqpop a b c => some (packX 0x48 0x06 a b c 0 0 0)
  | .trigbindStoreWatch a b c tid => some (packX 0x48 0x07 a b c 0 tid (0#13))
  | .trigbindRingWatch a b c tid => some (packX 0x48 0x07 a b c 0 tid (1#13))
  | .trigbindUnbind a => some (packX 0x48 0x07 a 0 0 0 0 (2#13))
  | .trigfire a => some (packX 0x48 0x08 a 0 0 0 0 0)
  | .twbind a tid => some (packX 0x50 0x00 a 0 0 0 tid (0#13))
  | .twbindUnbind a => some (packX 0x50 0x00 a 0 0 0 0 (1#13))
  | .twget a b c nowait => some (packX 0x50 0x01 a b c 0 0 (0#12 ++ nowait))
  | .twrel a => some (packX 0x50 0x02 a 0 0 0 0 0)
  | .twstat a b sel => some (packX 0x50 0x03 a b 0 0 0 (0#11 ++ sel))
  | .tickarm a b tid => some (packX 0x50 0x04 a b 0 0 tid (0#13))
  | .tickarmDisarm a => some (packX 0x50 0x04 a 0 0 0 0 (1#13))
  | .tnow a => some (packX 0x50 0x05 a 0 0 0 0 0)
  | .asyncTrapTaken _ => none
  | .resultLands _ _ => none
  | .wfeTimeout _ => none
  | .phaseSelect _ => none
  | .teamStart _ => none
  | .planeSwap _ => none
  | .poolDispatch => none
  | .poolPromote _ => none
  | .poolHold _ => none
  | .teamCompletion _ => none
  | .deadlockSurvey _ => none
  | .nodeFinish _ _ => none
  | .engineCommandStart _ _ => none
  | .copyComplete _ _ => none
  | .followOnStart _ => none
  | .matrixCommandComplete _ => none
  | .slotDrained _ _ => none
  | .armedTileStart _ _ => none
  | .pushdownStep _ => none
  | .pushdownMarker _ => none
  | .streamElementReturn _ _ => none
  | .streamElementFault _ _ => none
  | .streamFaultTimeout _ => none
  | .channelFillArrival _ => none
  | .channelCreditArrival _ => none
  | .beadArrival _ => none
  | .barrierComplete _ => none
  | .statsTokensLand _ => none
  | .ingestRecord _ => none
  | .slotClose _ => none
  | .hostRead _ _ _ => none
  | .hostWrite _ _ _ => none
  | .doorbell _ _ _ => none
  | .registerWrite _ _ _ => none
  | .launch _ => none
  | .replay _ => none
  | .queueFence _ => none
  | .worldCreate _ => none
  | .worldDestroy _ => none
  | .worldSet _ => none
  | .map _ => none
  | .free _ => none
  | .frameScrubPending _ => none
  | .resolve _ => none
  | .barrierReset _ => none
  | .scrubFirst _ => none
  | .timeAdj _ => none
  | .kill _ => none
  | .dieSet _ => none
  | .queueSet _ => none
  | .pqSet _ => none
  | .ingestMap _ => none
  | .power _ => none
  | .powerGateComplete _ => none
  | .scrubFrameClean _ => none
  | .keySlotFreed _ => none
  | .loaderAdmit _ _ => none
  | .codeReadmit _ _ _ => none
  | .meshPacketEnters _ _ _ _ => none
  | .tunnelPacketExit _ _ _ => none
  | .ideIntegrityFailure _ => none
  | .getVersion _ => none
  | .getCapabilities _ => none
  | .negotiateAlgorithms _ => none
  | .getDigests _ => none
  | .getCertificate _ _ => none
  | .challenge _ _ _ => none
  | .getMeasurements _ _ _ => none
  | .keyExchange _ _ => none
  | .finish _ _ => none
  | .endSession _ => none
  | .lockInterfaceRequest _ => none
  | .startInterfaceRequest _ => none
  | .stopInterfaceRequest _ => none
  | .ptmRefresh _ => none
  | .podFlitReceive _ _ => none
  | .startUp _ => none
  | .firmwareStage _ _ => none
  | .uncontainableError _ => none
  | .clockThrottle _ => none
  | .leaseExpiry _ _ => none
  | .pushdownCommandDone _ => none

/-- Why a word is no instruction, in the order of the checks of R89. -/
inductive DecodeFault where
  /-- Check 1: all zeros, or a major not in Table 5.7. -/
  | noMajor
  /-- Check 2: an fn value not listed for the major. -/
  | noFn
  /-- Check 3: a reserved field or bit is nonzero; and check 4 for a ty of a function unit or VARGMAX, which takes only 0. -/
  | reservedNonzero
  /-- Check 4: a field value outside its set or a register outside its class; and check 3 where another operand makes a field
  reserved (fence entries, the entries of FORK, the a field of TLBI). All four checks trap ILLEGAL with the word alike. -/
  | fieldOutside
deriving DecidableEq, Repr

/-- The majors of Table 5.7 (R88). -/
def majors : List Nat :=
  [0x01, 0x02, 0x08, 0x09, 0x10, 0x11, 0x18, 0x19, 0x1A, 0x1B, 0x20, 0x21, 0x22, 0x23, 0x28, 0x29, 0x2A, 0x30, 0x31,
   0x38, 0x39, 0x3A, 0x40, 0x48, 0x50]

/-- Checks 1 to 4 of R89. A word whose unused fields are zero is exactly one that the encoder gives back. -/
def decode (w : Word) : Except DecodeFault Instr :=
  if w == 0 || !majors.contains (w.extractLsb' 56 8).toNat then .error .noMajor
  else match rawDecode w with
    | none => .error .noFn
    | some i =>
      if encode i != some w then .error .reservedNonzero
      else if !wellFormed i then .error .fieldOutside
      else .ok i

/-- Eight bytes of memory as a little-endian word (R6, R84). -/
def wordOfBytes : List Byte → Option (Word × List Byte)
  | b0 :: b1 :: b2 :: b3 :: b4 :: b5 :: b6 :: b7 :: rest => some (b7 ++ b6 ++ b5 ++ b4 ++ b3 ++ b2 ++ b1 ++ b0, rest)
  | _ => none

/-- The bytes of a word, lowest address first (R6). -/
def bytesOfWord (w : Word) : List Byte := (List.range 8).map fun i => w.extractLsb' (8 * i) 8

/-- Decoding from a list of bytes: the instruction and the bytes after it; fewer than eight bytes are no instruction. -/
def decodeBytes (bs : List Byte) : Except DecodeFault (Instr × List Byte) :=
  match wordOfBytes bs with
  | none => .error .noMajor
  | some (w, rest) => match decode w with
    | .ok i => .ok (i, rest)
    | .error e => .error e

/-- The instruction this decoder reads from an instruction of `nbits` table bits `w`, the bits above them zero. -/
def decodeTableWord (nbits w : Nat) : Option Instr :=
  match decodeBytes (bytesOfWord (BitVec.ofNat 64 (w % 2 ^ nbits))) with
  | .ok (i, _) => some i
  | .error _ => none

end Sys2Proof
end

