-- ==== Sys2Proof/Machine/Flags.lean ====
section
/-! DEFINITION. Integer conditions (R105) and the FPSTAT flags (R59). -/

namespace Sys2Proof.Machine

/-- Table 7.1 on `w`-bit values: signed conditions read them in two's complement. -/
def condW {w : Nat} (c : Nat) (x y : BitVec w) : Bool :=
  match c with
  | 0 => x == y
  | 1 => x != y
  | 2 => x.slt y
  | 3 => x.sle y
  | 4 => y.slt x
  | 5 => y.sle x
  | 6 => x.ult y
  | 7 => x.ule y
  | 8 => y.ult x
  | _ => y.ule x

def cond (c : BitVec 4) (x y : Word) : Bool := condW c.toNat x y

/-! ## FPSTAT (Table 3.6) -/

def flagNV : BitVec 5 := 0b10000
def flagDZ : BitVec 5 := 0b01000
def flagOF : BitVec 5 := 0b00100
def flagUF : BitVec 5 := 0b00010
def flagNX : BitVec 5 := 0b00001

def flagIf (b : Bool) (f : BitVec 5) : BitVec 5 := if b then f else 0

end Sys2Proof.Machine
end

