-- ==== Sys2Proof/Machine/Float.lean ====
section
/-! DEFINITION. Number formats (R46 to R52) and correctly rounded arithmetic (R53 to R58): a value is unpacked to an exact
dyadic number, the operation is exact, and one rounding packs the result. -/

namespace Sys2Proof.Machine

/-! ## Formats -/

/-- How a format treats its top exponent. -/
inductive Special where
  | ieee | e4m3 | finite
deriving DecidableEq, Repr

/-- A binary float format: total width, exponent and mantissa widths, bias, special values and canonical NaN (Tables 3.1, 3.4). -/
structure Fmt where
  w : Nat
  eb : Nat
  mb : Nat
  bias : Nat
  special : Special
  nan : Nat
deriving DecidableEq, Repr

def f32 : Fmt := { w := 32, eb := 8, mb := 23, bias := 127, special := .ieee, nan := 0x7FC00000 }
def bf16 : Fmt := { w := 16, eb := 8, mb := 7, bias := 127, special := .ieee, nan := 0x7FC0 }
def f16 : Fmt := { w := 16, eb := 5, mb := 10, bias := 15, special := .ieee, nan := 0x7E00 }
def e4m3 : Fmt := { w := 8, eb := 4, mb := 3, bias := 7, special := .e4m3, nan := 0x7F }
def e5m2 : Fmt := { w := 8, eb := 5, mb := 2, bias := 15, special := .ieee, nan := 0x7E }
def e2m1 : Fmt := { w := 4, eb := 2, mb := 1, bias := 1, special := .finite, nan := 0x0 }

/-- The largest exponent of a finite value. -/
def Fmt.emax (f : Fmt) : Int := match f.special with
  | .ieee => f.bias
  | _ => 2 ^ f.eb - 1 - f.bias

/-- The exponent of the smallest normal. -/
def Fmt.emin (f : Fmt) : Int := 1 - f.bias

/-- The largest significand at the largest exponent: E4M3 gives its top code to NaN (R48). -/
def Fmt.nmax (f : Fmt) : Nat := match f.special with
  | .e4m3 => 2 ^ (f.mb + 1) - 2
  | _ => 2 ^ (f.mb + 1) - 1

/-- The magnitude bits of the largest finite value, and of infinity where the format has one. -/
def Fmt.maxBits (f : Fmt) : Nat := match f.special with
  | .ieee => (2 ^ f.eb - 2) * 2 ^ f.mb + (2 ^ f.mb - 1)
  | .e4m3 => 2 ^ (f.w - 1) - 2
  | .finite => 2 ^ (f.w - 1) - 1
def Fmt.infBits (f : Fmt) : Nat := (2 ^ f.eb - 1) * 2 ^ f.mb

/-- A value: NaN, an infinity, or (-1)^neg * m * 2^e. -/
inductive Val where
  | nan
  | inf (neg : Bool)
  | fin (neg : Bool) (m : Nat) (e : Int)
deriving DecidableEq, Repr

def Val.isNan : Val → Bool
  | .nan => true
  | _ => false

def unpack (f : Fmt) (x : Nat) : Val :=
  let neg := x / 2 ^ (f.w - 1) % 2 == 1
  let ex := x / 2 ^ f.mb % 2 ^ f.eb
  let m := x % 2 ^ f.mb
  let normal := Val.fin neg (2 ^ f.mb + m) (Int.ofNat ex - f.bias - f.mb)
  if ex = 0 then
    if m = 0 then .fin (neg && f.special != .finite) 0 0 else .fin neg m (f.emin - f.mb)
  else match f.special with
    | .ieee => if ex = 2 ^ f.eb - 1 then (if m = 0 then .inf neg else .nan) else normal
    | .e4m3 => if ex = 15 ∧ m = 7 then .nan else normal
    | .finite => normal

/-- A subnormal encoding. -/
def isSubnormal (f : Fmt) (x : Nat) : Bool := x / 2 ^ f.mb % 2 ^ f.eb == 0 && x % 2 ^ f.mb != 0

def signBit (f : Fmt) (neg : Bool) : Nat := if neg then 2 ^ (f.w - 1) else 0

/-- A zero; a conversion to E2M1 that yields zero writes 0x0 (R49). -/
def zeroBits (f : Fmt) (neg : Bool) : Nat := if f.special = .finite then 0 else signBit f neg

/-- An operand under FTZ: a subnormal reads as zero of its sign (R53). -/
def operand (f : Fmt) (ftz : Bool) (x : Nat) : Val :=
  if ftz && isSubnormal f x then .fin (x / 2 ^ (f.w - 1) % 2 == 1) 0 0 else unpack f x

/-! ## Rounding (R53, Table 3.3) -/

/-- An exact number (-1)^neg * m * 2^e, or slightly more in magnitude (by less than 2^e) where `sticky`. -/
structure Exact where
  neg : Bool
  m : Nat
  e : Int
  sticky : Bool
deriving DecidableEq, Repr

/-- Whether a magnitude with kept part `n` and remainder `rem` of `half * 2` (plus `sticky`) rounds up in a mode. -/
def roundUp (rnd : Nat) (neg : Bool) (n rem half : Nat) (sticky : Bool) : Bool :=
  match rnd with
  | 0 => decide (half < rem) || (rem == half && (sticky || n % 2 == 1))
  | 1 => false
  | 2 => neg && (rem != 0 || sticky)
  | _ => !neg && (rem != 0 || sticky)

/-- A magnitude rounded to a multiple of 2^q: the multiple, and whether it is inexact. -/
def roundAt (rnd : Nat) (x : Exact) (q : Int) : Nat × Bool :=
  if q ≤ x.e then (x.m * 2 ^ (x.e - q).toNat + b2n (roundUp rnd x.neg (x.m * 2 ^ (x.e - q).toNat) 0 1 x.sticky), x.sticky)
  else
    let s := (q - x.e).toNat
    if bitLen x.m + 1 < s then
      let tiny := x.m != 0 || x.sticky
      (b2n (roundUp rnd x.neg 0 (b2n tiny) 2 false), tiny)
    else
      let rem := x.m % 2 ^ s
      (x.m / 2 ^ s + b2n (roundUp rnd x.neg (x.m / 2 ^ s) rem (2 ^ (s - 1)) x.sticky), rem != 0 || x.sticky)

/-- A rounded result: its bits, whether the exact value was finite and overflowed, was inexact, was tiny after rounding,
and is a subnormal. -/
structure Rounded where
  bits : Nat
  overflow : Bool
  inexact : Bool
  tiny : Bool
  subnormal : Bool
deriving DecidableEq, Repr

/-- What an overflow gives (Table 3.3): the largest finite value under saturation, else IEEE overflow in the mode (log 34). -/
def overflowBits (f : Fmt) (rnd : Nat) (sat neg : Bool) : Nat :=
  let toMax := sat || rnd == 1 || (rnd == 2 && !neg) || (rnd == 3 && neg)
  signBit f neg + if toMax then f.maxBits else f.infBits

/-- One rounding of a number to a format. An exact zero keeps its sign. -/
def roundTo (f : Fmt) (rnd : Nat) (sat : Bool) (x : Exact) : Rounded :=
  if x.m = 0 ∧ !x.sticky then { bits := zeroBits f x.neg, overflow := false, inexact := false, tiny := false, subnormal := false }
  else
    let top : Int := x.e + bitLen x.m - 1
    let q : Int := (if top < f.emin then f.emin else top) - f.mb
    let (n, inexact) := roundAt rnd x q
    let (n, q) := if 2 ^ (f.mb + 1) ≤ n then (n / 2, q + 1) else (n, q)
    let ex := q + f.mb
    if 2 ^ f.mb ≤ n ∧ (f.emax < ex ∨ (f.emax = ex ∧ f.nmax < n)) then
      { bits := overflowBits f rnd sat x.neg, overflow := true, inexact := true, tiny := false, subnormal := false }
    else
      let free := roundAt rnd x (top - f.mb)
      let tiny := decide (top < f.emin) && !(decide (top = f.emin - 1) && free.1 == 2 ^ (f.mb + 1))
      if n < 2 ^ f.mb then
        { bits := if n = 0 then zeroBits f x.neg else signBit f x.neg + n, overflow := false, inexact := inexact, tiny := tiny,
          subnormal := n != 0 }
      else
        { bits := signBit f x.neg + (ex + f.bias).toNat * 2 ^ f.mb + (n - 2 ^ f.mb), overflow := false, inexact := inexact,
          tiny := tiny, subnormal := false }

/-! ## The md field -/

def mdRnd (md : BitVec 4) : Nat := field md 0 2
def mdFtz (md : BitVec 4) : Bool := bit md 2
def mdSat (md : BitVec 4) : Bool := bit md 3

/-- Bits and flags of a result. -/
structure FRes where
  bits : Nat
  flags : BitVec 5
deriving DecidableEq, Repr

def nanRes (f : Fmt) : FRes := { bits := f.nan, flags := flagNV }
def exactRes (bits : Nat) : FRes := { bits := bits, flags := 0 }

/-- Rounding and its flags (R151), with FTZ on the result. -/
def finishF (f : Fmt) (md : BitVec 4) (sat : Bool) (x : Exact) : FRes :=
  let r := roundTo f (mdRnd md) sat x
  if r.overflow then { bits := r.bits, flags := flagOF ||| flagNX }
  else if r.subnormal && mdFtz md then { bits := zeroBits f x.neg, flags := flagUF ||| flagNX }
  else { bits := r.bits, flags := flagIf (r.tiny && r.inexact) flagUF ||| flagIf r.inexact flagNX }

def infBits (f : Fmt) (neg : Bool) : Nat := signBit f neg + f.infBits

/-! ## Exact arithmetic -/

def signedAt (neg : Bool) (m : Nat) (e low : Int) : Int :=
  let v := Int.ofNat (m * 2 ^ (e - low).toNat)
  if neg then -v else v

/-- The exact sum of two numbers; a zero sum is signed as R53 says. -/
def sumExact (rnd : Nat) (an : Bool) (am : Nat) (ae : Int) (bn : Bool) (bm : Nat) (be : Int) : Exact :=
  if am = 0 ∧ bm = 0 then { neg := if an = bn then an else rnd == 2, m := 0, e := 0, sticky := false }
  else
    let low := if am = 0 then be else if bm = 0 then ae else if ae ≤ be then ae else be
    let s := (if am = 0 then 0 else signedAt an am ae low) + (if bm = 0 then 0 else signedAt bn bm be low)
    { neg := if s = 0 then rnd == 2 else decide (s < 0), m := s.natAbs, e := low, sticky := false }

/-- a + b, with a infinite or not; none where it is invalid. -/
def addF (f : Fmt) (md : BitVec 4) (a b : Val) : FRes :=
  match a, b with
  | .nan, _ => nanRes f
  | _, .nan => nanRes f
  | .inf x, .inf y => if x = y then exactRes (infBits f x) else nanRes f
  | .inf x, _ => exactRes (infBits f x)
  | _, .inf y => exactRes (infBits f y)
  | .fin an am ae, .fin bn bm be => finishF f md (mdSat md) (sumExact (mdRnd md) an am ae bn bm be)

def negV : Val → Val
  | .nan => .nan
  | .inf n => .inf (!n)
  | .fin n m e => .fin (!n) m e

/-- The exact product of two values. -/
def mulV (a b : Val) : Val :=
  match a, b with
  | .nan, _ => .nan
  | _, .nan => .nan
  | .inf x, .inf y => .inf (x != y)
  | .inf x, .fin y m _ => if m = 0 then .nan else .inf (x != y)
  | .fin x m _, .inf y => if m = 0 then .nan else .inf (x != y)
  | .fin x m e, .fin y n g => .fin (x != y) (m * n) (e + g)

def roundV (f : Fmt) (md : BitVec 4) (sat : Bool) : Val → FRes
  | .nan => nanRes f
  | .inf n => exactRes (infBits f n)
  | .fin n m e => finishF f md sat { neg := n, m := m, e := e, sticky := false }

/-! ## The lane float operations on one element (Table 9.3); `ops` reads operands under FTZ -/

abbrev FOp1 := Fmt → BitVec 4 → Nat → FRes
abbrev FOp2 := Fmt → BitVec 4 → Nat → Nat → FRes

def fadd : FOp2 := fun f md a b => addF f md (operand f (mdFtz md) a) (operand f (mdFtz md) b)
def fsub : FOp2 := fun f md a b => addF f md (operand f (mdFtz md) a) (negV (operand f (mdFtz md) b))
def fmul : FOp2 := fun f md a b => roundV f md (mdSat md) (mulV (operand f (mdFtz md) a) (operand f (mdFtz md) b))

/-- VFMA: an invalid product gives NaN even where c is a NaN; one rounding. -/
def ffma (f : Fmt) (md : BitVec 4) (a b c : Nat) : FRes :=
  addF f md (mulV (operand f (mdFtz md) a) (operand f (mdFtz md) b)) (operand f (mdFtz md) c)

/-- Order of non-NaN encodings, with -0 below +0 (R58). -/
def orderKey (f : Fmt) (x : Nat) : Int :=
  let mag := x % 2 ^ (f.w - 1)
  if x / 2 ^ (f.w - 1) % 2 = 1 then -Int.ofNat mag - 1 else Int.ofNat mag

def flushBits (f : Fmt) (ftz : Bool) (x : Nat) : Nat := if ftz && isSubnormal f x then x / 2 ^ (f.w - 1) * 2 ^ (f.w - 1) else x

def isNan (f : Fmt) (x : Nat) : Bool := (unpack f x).isNan

def fminmax (takeLess : Bool) : FOp2 := fun f md a b =>
  let a := flushBits f (mdFtz md) a
  let b := flushBits f (mdFtz md) b
  if isNan f a || isNan f b then nanRes f
  else exactRes (if decide (orderKey f a ≤ orderKey f b) == takeLess then a else b)

def fabs : FOp1 := fun f md a =>
  let a := flushBits f (mdFtz md) a
  if isNan f a then nanRes f else exactRes (a % 2 ^ (f.w - 1))

def fneg : FOp1 := fun f md a =>
  let a := flushBits f (mdFtz md) a
  if isNan f a then nanRes f else exactRes ((a + 2 ^ (f.w - 1)) % 2 ^ f.w)

/-- VFSCL: a * 2^n; a zero or infinite a is unchanged. -/
def fscl (f : Fmt) (md : BitVec 4) (a : Nat) (n : Int) : FRes :=
  match operand f (mdFtz md) a with
  | .nan => nanRes f
  | .inf s => exactRes (infBits f s)
  | .fin s m e => if m = 0 then exactRes (zeroBits f s) else finishF f md (mdSat md) { neg := s, m := m, e := e + n, sticky := false }

/-! ## Function units in FP32 (R58, Table 3.5; log 15) -/

/-- Working precision of the series, in bits. -/
def fpBits : Nat := 400

/-- ln 2 in units of 2^-400, truncated. -/
def ln2Fixed : Nat := 0xb17217f7d1cf79abc9e3b39803f2f6af40f343267298b62d8a0d175b8baafa2be7b876206debac98559552fb4afa1b10ed2e

/-- The sum of y^n / n! in units of 2^-400, for y below 1: `term` is the next term, number `n`. -/
def expSeries (y : Nat) : Nat → Nat → Nat → Nat → Nat
  | 0, _, _, acc => acc
  | fuel + 1, n, term, acc => expSeries y fuel (n + 1) (term * y / 2 ^ fpBits / (n + 1)) (acc + term)

/-- 2^(j / 2^s) for 0 < j < 2^s, in units of 2^-400: at least 1, below 2. -/
def exp2Frac (j s : Nat) : Nat := expSeries (j * ln2Fixed / 2 ^ s) 110 0 (2 ^ fpBits) 0

/-- The exact or nearly exact 2^x of a finite x. -/
def exp2Exact (neg : Bool) (m : Nat) (e : Int) : Exact :=
  if m = 0 then { neg := false, m := 1, e := 0, sticky := false }
  else if 9 < e + bitLen m then { neg := false, m := 1, e := if neg then -100000 else 100000, sticky := false }
  else if 0 ≤ e then
    let n := Int.ofNat (m * 2 ^ e.toNat)
    { neg := false, m := 1, e := if neg then -n else n, sticky := false }
  else
    let s := (-e).toNat
    let x := if neg then -Int.ofNat m else Int.ofNat m
    let k := x / Int.ofNat (2 ^ s)
    let j := (x % Int.ofNat (2 ^ s)).toNat
    if j = 0 then { neg := false, m := 1, e := k, sticky := false }
    else { neg := false, m := exp2Frac j s, e := k - fpBits, sticky := true }

def fexp2 : FOp1 := fun f md a =>
  match operand f (mdFtz md) a with
  | .nan => nanRes f
  | .inf n => exactRes (if n then 0 else f.infBits)
  | .fin n m e => finishF f md (mdSat md) (exp2Exact n m e)

/-- Bits of log2 of y / 2^700, 1 <= y / 2^700 < 2, by repeated squaring. -/
def log2Bits : Nat → Nat → Nat → Nat
  | 0, _, acc => acc
  | n + 1, y, acc =>
    let z := y * y / 2 ^ 700
    if 2 ^ 701 ≤ z then log2Bits n (z / 2) (2 * acc + 1) else log2Bits n z (2 * acc)

def flog2 : FOp1 := fun f md a =>
  match operand f (mdFtz md) a with
  | .nan => nanRes f
  | .inf n => if n then nanRes f else exactRes f.infBits
  | .fin n m e =>
    if m = 0 then { bits := signBit f true + f.infBits, flags := flagDZ }
    else if n then nanRes f
    else
      let l := bitLen m - 1
      let ex := e + l
      if m = 2 ^ l then
        finishF f md (mdSat md) { neg := decide (ex < 0), m := ex.natAbs, e := 0, sticky := false }
      else
        let v := ex * Int.ofNat (2 ^ 300) + Int.ofNat (log2Bits 300 (m * 2 ^ 700 / 2 ^ l) 0)
        finishF f md (mdSat md) (if v < 0 then { neg := true, m := v.natAbs - 1, e := -300, sticky := true }
          else { neg := false, m := v.natAbs, e := -300, sticky := true })

def frcp : FOp1 := fun f md a =>
  match operand f (mdFtz md) a with
  | .nan => nanRes f
  | .inf n => exactRes (signBit f n)
  | .fin n m e =>
    if m = 0 then { bits := infBits f n, flags := flagDZ }
    else
      let k := 64 + bitLen m
      finishF f md (mdSat md) { neg := n, m := 2 ^ k / m, e := -Int.ofNat k - e, sticky := 2 ^ k % m != 0 }

/-- The integer square root of x below 4^n. -/
def isqrt (x : Nat) : Nat → Nat → Nat
  | 0, r => r
  | n + 1, r => if (r + 2 ^ n) * (r + 2 ^ n) ≤ x then isqrt x n (r + 2 ^ n) else isqrt x n r

def frsq : FOp1 := fun f md a =>
  match operand f (mdFtz md) a with
  | .nan => nanRes f
  | .inf n => if n then nanRes f else exactRes 0
  | .fin n m e =>
    if m = 0 then { bits := infBits f n, flags := flagDZ }
    else if n then nanRes f
    else
      let (m, e) := if e % 2 = 0 then (m, e) else (2 * m, e - 1)
      let r := isqrt (2 ^ 160 / m) 80 0
      finishF f md (mdSat md) { neg := false, m := r, e := -80 - e / 2, sticky := r * r * m != 2 ^ 160 }

/-! ## Comparison (R157) -/

/-- Table of float conditions: `u` unordered, `o` the order of the values. -/
def fcond (c : Nat) (f : Fmt) (a b : Nat) : Bool :=
  let u := isNan f a || isNan f b
  let same := fun (x : Nat) => if x % 2 ^ (f.w - 1) = 0 then 0 else x
  let x := orderKey f (same a)
  let y := orderKey f (same b)
  match c with
  | 0 => !u && x == y
  | 1 => u || x != y
  | 2 => !u && decide (x < y)
  | 3 => !u && decide (x ≤ y)
  | 4 => !u && decide (y < x)
  | 5 => !u && decide (y ≤ x)
  | 6 => u
  | _ => !u

/-! ## Conversion (R54 to R56, R66, R153 to R155) -/

/-- A format of Table 9.4 or of a tensor (Table 3.1): a float, or an integer of a width and signedness. -/
inductive NumFmt where
  | float (f : Fmt)
  | int (w : Nat) (signed : Bool)
deriving DecidableEq, Repr

def NumFmt.width : NumFmt → Nat
  | .float f => f.w
  | .int w _ => w

/-- By format code (Table 3.1); none for the codes that are no element format. -/
def numFmt (code : Nat) : Option NumFmt :=
  match code with
  | 0 => some (.float f32)
  | 1 => some (.float bf16)
  | 2 => some (.float f16)
  | 3 => some (.float e4m3)
  | 4 => some (.float e5m2)
  | 5 => some (.float e2m1)
  | 6 => some (.int 8 true)
  | 7 => some (.int 32 true)
  | 8 => some (.int 8 false)
  | 9 => some (.int 16 false)
  | 0xA => some (.int 64 true)
  | 0xB => some (.int 32 false)
  | _ => none

/-- The class a conversion counts in (R66). -/
inductive CountClass where
  | nanIn | overflow | underflow | inexact | none
deriving DecidableEq, Repr

structure CvtRes where
  bits : Nat
  flags : BitVec 5
  cls : CountClass
deriving DecidableEq, Repr

/-- Conversion of a value to a float format. `nonzero` tells whether the source itself was not zero. -/
def cvtFloat (f : Fmt) (md : BitVec 4) (nonzero : Bool) (v : Val) : CvtRes :=
  let always := f.special != .ieee
  match v with
  | .nan => { bits := f.nan, flags := flagNV, cls := .nanIn }
  | .inf n =>
    if always then { bits := signBit f n + f.maxBits, flags := flagOF ||| flagNX, cls := .overflow }
    else { bits := infBits f n, flags := 0, cls := .none }
  | .fin n m e =>
    let x : Exact := { neg := n, m := m, e := e, sticky := false }
    let r := roundTo f (mdRnd md) (always || mdSat md) x
    let o := finishF f md (always || mdSat md) x
    let zero := o.bits % 2 ^ (f.w - 1) == 0
    { bits := o.bits, flags := o.flags,
      cls := if r.overflow then .overflow else if nonzero && zero then .underflow else if r.inexact then .inexact else .none }

/-- Range of an integer format. -/
def intRange (w : Nat) (signed : Bool) : Int × Int :=
  if signed then (-(2 ^ (w - 1) : Nat), (2 ^ (w - 1) - 1 : Nat)) else (0, (2 ^ w - 1 : Nat))

/-- An integer saturated to a format's range, with flags (R155) and class. -/
def cvtInt (w : Nat) (signed : Bool) (x : Int) (inexact nonzero : Bool) : CvtRes :=
  let (lo, hi) := intRange w signed
  if x < lo then { bits := wrapInt w lo, flags := flagOF ||| flagNX, cls := .overflow }
  else if hi < x then { bits := wrapInt w hi, flags := flagOF ||| flagNX, cls := .overflow }
  else { bits := wrapInt w x, flags := flagIf inexact flagNX,
         cls := if x = 0 ∧ nonzero then .underflow else if inexact then .inexact else .none }

/-- Conversion of a value to an integer format (R56). A subnormal source that FTZ flushes leaves a result that differs from
its exact value, which sets NX (R155; log 34). -/
def cvtValInt (w : Nat) (signed : Bool) (rnd : Nat) (nonzero : Bool) (v : Val) : CvtRes :=
  let (lo, hi) := intRange w signed
  match v with
  | .nan => { bits := 0, flags := flagNV, cls := .nanIn }
  | .inf n => { bits := wrapInt w (if n then lo else hi), flags := flagOF ||| flagNX, cls := .overflow }
  | .fin n m e =>
    if 70 < e + bitLen m then
      { bits := wrapInt w (if n then lo else hi), flags := flagOF ||| flagNX, cls := .overflow }
    else
      let (q, inexact) := roundAt rnd { neg := n, m := m, e := e, sticky := false } 0
      cvtInt w signed (if n then -Int.ofNat q else Int.ofNat q) (inexact || (nonzero && m == 0)) nonzero

/-- Conversion of one element (R154). FTZ acts on float sources and float results only. -/
def convert (src dst : NumFmt) (md : BitVec 4) (x : Nat) : CvtRes :=
  match src, dst with
  | .float f, .float g =>
    let nonzero := match unpack f x with | .fin _ m _ => m != 0 | _ => true
    cvtFloat g md nonzero (operand f (mdFtz md) x)
  | .float f, .int w s =>
    let nonzero := match unpack f x with | .fin _ m _ => m != 0 | _ => true
    cvtValInt w s (mdRnd md) nonzero (operand f (mdFtz md) x)
  | .int w s, .float g =>
    let v := if s then toSigned w x else Int.ofNat (x % 2 ^ w)
    cvtFloat g md (v != 0) (.fin (decide (v < 0)) v.natAbs 0)
  | .int w s, .int w' s' =>
    let v := if s then toSigned w x else Int.ofNat (x % 2 ^ w)
    cvtInt w' s' v false (v != 0)

/-! ## Scales (R50) -/

/-- The value of an E3M5 block scale. -/
def e3m5 (b : Nat) : Val :=
  let e := b / 32 % 8
  let m := b % 32
  if e = 0 then .fin false m (-7) else .fin false (32 + m) (Int.ofNat e - 8)

end Sys2Proof.Machine
end

