-- ==== Sys2Proof/Config.lean ====
section
/-! DEFINITION. What the spec leaves open: every constant below is opaque, so no proof can see a value of it. The
argument `seq` is the model's step counter, which makes the value fresh at each step; `why` tells uses of one step apart. -/

namespace Sys2Proof

/-- A free choice (log 2): which of several outcomes that the spec allows is taken. -/
opaque Config.choice (seq why : Nat) : Nat

/-- The Ed25519 signature of a message with the leaf key of a certificate slot (R310; log 8). -/
opaque Config.ed25519Sign (slot : Nat) (message : Bytes) : Bytes

/-- Lenivar's vendor key (R306; log 8). -/
opaque Config.vendorKey : Bytes

/-- The certificate chain of a slot (R310; log 8). -/
opaque Config.certificate (slot : Nat) : Bytes

/-- Lenivar's X25519 public value at a step, and its shared secret with a requester's (R310; log 8). -/
opaque Config.x25519Public (seq : Nat) : Bytes
opaque Config.x25519Shared (seq : Nat) (peer : Bytes) : Bytes

/-- The HMAC that a FINISH carries, from the shared secret and the transcript hash (R310; log 8). -/
opaque Config.finishVerify (secret transcript : Bytes) : Bytes

/-- The random nonce of a CHALLENGE or GET_MEASUREMENTS answer (R310; log 8). -/
opaque Config.nonce (seq : Nat) : Bytes

/-- The bytes of the version, capabilities and algorithms answers of SPDM 1.3 (R310; log 8). -/
opaque Config.spdmAnswer (message : Nat) : Bytes

/-- The bytes over which the hash of a measured configuration is taken, from its items as numbers (Table 21.6; log 8). -/
opaque Config.configBytes (items : List Nat) : Bytes

/-- The core of the region, (y * width + x) * 4 + core, that placement `i` of a role image of a file asks for: the container
gives the number of placements and not the places (R97, R98, R102; log 9). -/
opaque Config.placement (file : Bytes) (image : Nat) (i : Nat) : Nat

/-- Whether a pod port lies on a route to a package it does not join (R324; log 10). -/
opaque Config.podRoute (port pkg : Nat) : Bool

/-- The quads that a world's partitions hold in the other packages of the pod (R202; log 10). -/
opaque Config.podQuads (world : Nat) : Nat

/-- The peer package of a pod port, which Lenivar sets at start (R324; log 10). -/
opaque Config.podPeer (port : Nat) : Nat

/-- PKG_ID of this package (R12; log 10). -/
opaque Config.packageId : Nat

/-- The number that a pushdown block gives a node of a loaded network (R251; log 2). -/
opaque Config.nodeNumber (load node : Nat) : BitVec 32

/-- A byte that the device keeps for itself in a spill area, in a layout the spec does not give (R258; log 17). -/
opaque Config.spillByte (seq i : Nat) : Byte

/-- Device time at which a start-up step's attempt ends (R325; log 5). -/
opaque Config.stepTime (start step attempt : Nat) : Nat

/-- Takes one of several allowed outcomes. -/
def pick {α : Type} (seq why : Nat) (default : α) : List α → α
  | [] => default
  | [x] => x
  | x :: y :: xs => (x :: y :: xs).getD (Config.choice seq why % (xs.length + 2)) default

/-- A free bit. -/
def freeBit (seq why : Nat) : Bool := Config.choice seq why % 2 == 1

end Sys2Proof
end

