-- ==== Sys2Proof/Machine/State.lean ====
section
/-! DEFINITION. The state of the Iluril A4 package as plain data: everything spec/ gives the machine, from the cores
to the management controller, and the few fields of the model's own that say which agent moves next. Numbers of
things (quads, teams, worlds, queues) are natural numbers; what software sees as a word is a bit vector.
A quad is named by its key, die * 256 + quad, and a core by 4 * quad key + core. -/

namespace Sys2Proof.Machine

/-! ## Long-latency results, accesses and waits of a core -/

/-- The destination of a long-latency result (R33): a physical g register, or a v register. -/
inductive Dst where
  | none
  | g (phys : Nat)
  | v (reg : Nat)
deriving DecidableEq, Repr

/-- A long-latency result in flight (R33, R147): the lanes and values it writes, and the FPSTAT flags it sets.
`live` is cleared when a later instruction writes the destination; `ready` is false while its access is held (R137);
`reply` marks the result of a load or atomic, which a memory reply carries (R44); `timer` counts the clocks until a
result of fixed latency lands (R115, R147). -/
structure Landing where
  tag : Nat
  dst : Dst
  vals : List (Nat × Word)
  flags : BitVec 5
  live : Bool
  ready : Bool
  reply : Bool
  timer : Option Nat
deriving DecidableEq, Repr

/-- The read-modify-write operations of R141 and R142. -/
inductive AtomicOp where
  | add | min | max | minu | maxu | and | or | xor | xchg | cas
deriving DecidableEq, Repr

inductive MemKind where
  | load
  | store
  | atomic (op : AtomicOp)
deriving DecidableEq, Repr

/-- One element of a memory instruction: the lane it belongs to (0 for a scalar access), its address, the data or
operand it carries and the value an ACAS compares with (R136 to R142). -/
structure Elem where
  lane : Nat
  va : Word
  data : Word
  cmp : Word
deriving DecidableEq, Repr

/-- A memory instruction's accesses, with its address and alignment checks already passed. -/
structure Access where
  pc : Word
  kind : MemKind
  bytes : Nat
  elems : List Elem
  dst : Dst
  spread : Lane               -- the lanes that one loaded element is written to (VLDB); 0 where each lane has its own
  tag : Nat
deriving DecidableEq, Repr

/-- An operation of a core that takes its place after an access that waits for a page (R137, R177, R179, log 13): a later
access; the bytes of a CPUSH or CMARK with their tag; a published or consumed count; an engine command or a stream whose
first access waits for the core's earlier ones. -/
inductive Held where
  | access (a : Access)
  | push (chan : Nat) (slot : Nat) (tag : Nat) (pa : Nat) (bytes : Bytes)
  | fill (chan : Nat) (n : Nat)
  | back (chan : Nat) (n : Nat)
  | issue (eng : Nat) (seq : Nat)
  | stream (ctx : Nat)
deriving DecidableEq, Repr

/-- What a stalled core waits on, as a survey record names it (R40, R41; wait kinds 1 to 6 of Table 1.6). Kind 0 is a
stall that makes no survey party, such as a full queue (R216). -/
structure Wait where
  kind : Nat
  handle : Nat
  needed : Nat
  held : Nat
  pendingBytes : Nat
deriving DecidableEq, Repr

def Wait.stalled : Wait := { kind := 0, handle := 0, needed := 0, held := 0, pendingBytes := 0 }

/-- How far the instruction at the pc has come, for those that act before they wait. -/
inductive Stage where
  | none
  | wfe (deadline : Nat)                 -- WFE waiting until a clock (R108)
  | arrived (bar : Nat) (epoch : Nat) (tagged : Bool)    -- BAR has arrived (R200), and ended the core's tagging (R187)
  | voted                                -- PHASE has voted (R109)
  | counting (tokens : Nat)              -- NCNT's token group is in flight (R110)
  | fencing (ranges : List (Nat × Nat)) (counters : List Nat)  -- FENCE has read its entries and waits (R194, R196)
deriving DecidableEq, Repr

/-- Counts of a converter (R66): nan_in, overflow, underflow, inexact, and whether any conversion took effect. -/
structure Counts where
  nanIn : Nat
  overflow : Nat
  underflow : Nat
  inexact : Nat
  used : Bool
deriving DecidableEq, Repr

def Counts.zero : Counts := { nanIn := 0, overflow := 0, underflow := 0, inexact := 0, used := false }

/-- A range counter of the load-store unit (R184). -/
structure RangeCtr where
  lo : Nat
  hi : Nat
  count : Nat
deriving DecidableEq, Repr

/-- The bytes of an address operand that an operation still has to read or write, on the counter that holds them. -/
structure Charge where
  ctr : Nat
  n : Nat
  lo : Nat
  hi : Nat
  dest : Bool
deriving DecidableEq, Repr

/-- An operand of an ended operation that no fence of the core has joined (R180): its range, its logical time, the HBM lines
the operation wrote, and whether the core was stalled in a fence that waited on its counter. -/
structure EndedOperand where
  lo : Nat
  hi : Nat
  time : Nat
  lines : List Nat
  waited : Bool
deriving DecidableEq, Repr

/-- One end of a channel bound to a handle (R75, R208): the channel, which end, and whether the handle is lent to a
pushdown network (R265). -/
structure Handle where
  chan : Nat
  producer : Bool
  lent : Bool
deriving DecidableEq, Repr

/-- An engine operation that a core issued and has not joined (R20, R180). Engines are 0 copy, 1 matrix, 2 pushdown. -/
structure OpRef where
  eng : Nat
  seq : Nat
  done : Bool
  fault : Option Nat
  bar : Option Nat            -- the barrier it is tagged to (R187)
deriving DecidableEq, Repr

/-- A pending asynchronous cause (R130). -/
structure AsyncCause where
  cause : Nat
  info : Word
deriving DecidableEq, Repr

/-- The states of Table 1.3. -/
inductive PlaneState where
  | free | loaded | active | draining
deriving DecidableEq, Repr

/-- A plane of a core (R18, R21, R79, R84): its store holds the kernel header in words 0 to 7. -/
structure Plane where
  state : PlaneState
  world : Nat
  gen : BitVec 16
  store : SMap 64
  team : Nat
  order : Nat                 -- load order (R18)
  params : SMap 64            -- PARAM0 to PARAM63 (R79)
  member : Bool               -- runs one of the team's roles, not the one-word HALT image (R35, R97)
deriving DecidableEq, Repr

def Plane.empty : Plane :=
  { state := .free, world := 0, gen := 0, store := [], team := 0, order := 0, params := [], member := false }

/-- A core (R33, R75 to R83 and the rules named at each field). -/
structure Core where
  planes : Tab Plane
  active : Option Nat         -- the ACTIVE plane (R18)
  activeSince : Nat           -- the clock since which it is ACTIVE (R329)
  started : Bool              -- issue has begun (R19)
  startAt : Nat               -- the clock from which it issues (R19, R36)
  halted : Bool               -- R107
  pc : Word                   -- byte offset in the store (R84)
  g : SMap 64                 -- physical scalar registers (R75, R78); register 0 reads zero
  resident : Nat              -- WIN_DEPTH (R82, R123)
  spilled : Nat
  rets : List Word            -- the return store, newest first (R123)
  v : SMap 32                 -- lane i of v r is at 32 r + i
  m : SMap 32
  ports : Tab Bool            -- k0 to k3: the bead a port holds (R212)
  handles : Tab Handle        -- h0 to h15
  trapPc : Word
  trapCause : BitVec 8
  trapInfo : Word
  inHandler : Bool            -- CTX_STATUS (R81)
  rngWrap : Bool
  scopeClamped : Bool
  fpstat : BitVec 5           -- R59
  newFlags : BitVec 5         -- flags of results that have landed in this clock (R147)
  latch : Bool                -- the event latch (R108)
  pend : List Landing         -- long-latency results in flight, oldest first
  nextTag : Nat
  held : List Held            -- an access that waits for a page-fault resolution, and what is behind it (R137)
  counts : Counts             -- VFCVT counts of the plane (R67)
  ranges : Tab RangeCtr       -- the eight range counters (R184)
  ended : List EndedOperand   -- what has landed on them and no fence has joined (R180)
  streams : Tab Nat           -- open streams: stream number to stream context (R231)
  arrivals : Tab Nat          -- barrier to the epoch arrived at (R202)
  barx : Option Nat           -- the barrier of the most recent BARX since the core last arrived there (R187)
  ops : List OpRef
  async : List AsyncCause
  stage : Stage
  wait : Option Wait
  ltime : Nat                 -- logical time of its latest access (R177)
  kept : Tab Nat              -- by scope, the logical time that its fences and barriers keep before a bead send (R191)
  stime : Nat                 -- logical time of its bead receipts, which all but its loads follow (R191, note 8)
  floors : List (Nat × Nat × Nat) -- ranges of acquires whose loads follow earlier bead receipts: lo, hi, time (R185)
  portTimes : Tab Nat         -- the logical time that the bead in a port carries (R190)
  portAt : Tab Nat            -- the clock in which BBEAD emptied a port (R214)
deriving DecidableEq, Repr

/-- The registers of a core at team start (R75, R79). -/
def Core.fresh : Core :=
  { planes := [], active := none, activeSince := 0, started := false, startAt := 0, halted := false, pc := 0, g := [],
    resident := 1, spilled := 0, rets := [], v := [], m := [], ports := [], handles := [], trapPc := 0,
    trapCause := 0, trapInfo := 0, inHandler := false, rngWrap := false, scopeClamped := false, fpstat := 0, newFlags := 0,
    latch := false, pend := [], nextTag := 0, held := [], counts := Counts.zero, ranges := [], ended := [], streams := [],
    arrivals := [], barx := none, ops := [], async := [], stage := .none, wait := none,
    ltime := 0, kept := [], stime := 0, floors := [], portTimes := [], portAt := [] }

/-! ## Legend records -/

/-- A legend record as a use has read it (Table 3.8). -/
structure Rec where
  tid : Nat
  kind : Nat
  format : Nat
  rank : Nat
  flags : Nat
  world : Nat
  keySlot : Nat
  base : Nat
  extents : List Nat
  strides : List Nat
  blockBase : Nat
  bandBase : Nat
  scaleStride : Nat
  span : Nat
  data : Bytes
  checkOk : Bool
deriving DecidableEq, Repr

/-! ## The quad and its engines -/

/-- Who issued an engine command: the core, and whether it came through a forked program; or a graph node. -/
structure Issuer where
  core : Option Nat
  program : Bool
  node : Option (Nat × Nat)
  plane : Nat
  pc : Word
  world : Nat
  gen : BitVec 16
  team : Nat
deriving DecidableEq, Repr

/-- A command in an engine's queue or running (R216), with its register operands as read at issue, the counters and
bytes it holds (R184), the barrier it is tagged to (R187), the follow-on matrix operation of a CPYM or the copy that a
follow-on waits for (R227), the tile number of an armed tile (R223; for an ARUN, that it has started), the version of the
record that it uses (R73), and the fault it will end in once decided. A copy with a stream endpoint keeps the source bytes
it has taken and the count it has given (R226). -/
structure Cmd where
  seq : Nat
  instr : Instr
  a : Word
  b : Word
  c : Word
  issuer : Issuer
  charged : List Charge
  bar : Option Nat
  follow : Option Nat
  after : Option Nat
  tile : Option Nat
  ready : Bool
  record : Option Rec
  fault : Option Nat
  waiting : Bool              -- an access waits for a page-fault resolution (R170)
  taken : Bytes
  given : Nat
  landed : List Nat           -- pieces of its work that have landed while others wait for a page (R170)
  counts : Counts             -- conversions of the pieces that have landed (R66)
  ltime : Nat                 -- logical time its accesses start from (R179)
  lines : List Nat            -- HBM lines it has written (R178)
deriving DecidableEq, Repr

/-- A program on an engine sequencer (R34, R143, R233): it fetches from the forking core's plane. -/
structure Prog where
  core : Nat
  pc : Word
  g : SMap 64
  joined : Bool               -- it has reached its JOIN
  ended : Option Nat          -- the fault code it ended with
  opsFault : Bool             -- an operation it issued ended in fault
  wait : Option Wait
deriving DecidableEq, Repr

/-- An engine of a quad: its queue, its running operations and its status word (R216, R217). -/
structure Engine where
  queue : List Cmd
  running : List Cmd
  seq : Nat
  used : Bool
  fault : Option (Nat × Nat × Option Nat)   -- code, number, issuing core
  prog : Option Prog
  ltime : Nat                               -- logical time of its completed operations
  lines : List Nat                          -- HBM lines that they wrote since they were last joined (R178)
deriving DecidableEq, Repr

def Engine.idle : Engine :=
  { queue := [], running := [], seq := 0, used := false, fault := none, prog := none, ltime := 0, lines := [] }

inductive SlotState where
  | free | filling | full | draining
deriving DecidableEq, Repr

/-- The pattern of an armed slot (R223). -/
structure Armed where
  cmd : Cmd                   -- BFARM with its operands
  count : Nat                 -- n; 0 repeats
deriving DecidableEq, Repr

/-- A buffer slot (R221 to R223, Table 15.6). -/
structure Slot where
  state : SlotState
  faulted : Bool
  code : Nat
  armed : Option Armed
  tiles : Nat
  seq : Nat
  filler : Option (Nat × Option Nat)  -- engine of the latest fill, and the core that issued or armed it
  world : Nat
  team : Option Nat           -- the team that holds the slot (R44)
  ltime : Nat
  last : Nat × Nat            -- the clock of its latest event and that event's row of Table 15.4 (R221)
deriving DecidableEq, Repr

def Slot.empty : Slot :=
  { state := .free, faulted := false, code := 0, armed := none, tiles := 0, seq := 0, filler := none,
    world := 0, team := none, ltime := 0, last := (0, 0) }

/-- An accumulator (R229): 128 x 64 FP32 elements, element (i, j) at 64 i + j, with band_a and band_b. -/
structure Acc where
  elems : SMap 32
  bandA0 : Lane
  bandA1 : Lane
  bandB : Lane
deriving DecidableEq, Repr

/-- The FP32 encoding of 1.0. -/
def one32 : Lane := 0x3F800000

/-- +0.0 with bands of 1.0 (R75). -/
def Acc.zero : Acc := { elems := [], bandA0 := one32, bandA1 := one32, bandB := one32 }

/-- The stationary operand (R229): a B-form tile's 16 KiB and its format code. -/
structure Stationary where
  format : Nat
  bytes : SMap 8
deriving DecidableEq, Repr

/-! ## Pushdown networks -/

/-- A cell of a loaded image (R244): its header word and its used transition words. -/
structure Cell where
  header : Word
  trans : List Word
deriving DecidableEq, Repr

/-- A node of the graph-structured stack (R248). `home` is the head cell whose block keeps it (R258, R269). -/
structure GssNode where
  symbol : Nat
  parent : Option Nat
  depth : Nat
  tn : Nat
  home : Nat
deriving DecidableEq, Repr

/-- A configuration (R248): a head cell and a top node, none for the bottom. -/
structure Config where
  state : Nat
  top : Option Nat
deriving DecidableEq, Repr

/-- A range bound by a record (mask sink, tree sink, spill area). -/
structure Area where
  base : Word
  span : Word
  keySlot : Nat
  pinned : Bool
  readOnly : Bool
deriving DecidableEq, Repr

structure MaskSink where
  area : Area
  addr : Word
  perStep : Bool
deriving DecidableEq, Repr

/-- A step whose mask bits and tree nodes are written and whose events are being published (R252, stage 2): what it will
commit, the events left, and the rank of a marker. -/
structure Staged where
  frontier : List Config
  nodes : Tab GssNode
  nextNode : Nat
  dead : Bool
  depthDrop : Bool
  accept : Bool
  cursor : Nat
  outbox : List Bytes
  marker : Option Nat
deriving DecidableEq, Repr

/-- A loaded network, held by its lead block (R246, R247). -/
structure Network where
  blocks : List Nat
  world : Nat
  gen : BitVec 16
  team : Nat
  start : Nat
  netId : Word
  classHash : Bytes
  classMap : SMap 8
  masks : SMap 8
  cells : Tab Cell
  frontier : List Config
  nodes : Tab GssNode
  nextNode : Nat
  pos : Nat
  dead : Bool
  depthDrop : Bool
  accept : Bool
  paused : Bool
  spillFull : Bool
  events : Nat
  cursor : Nat
  maskSink : Option MaskSink
  eventSink : Option (Nat × Nat × Nat)   -- core, handle, channel
  treeSink : Option Area
  spill : Option Area
  limit : Nat
  mode : Nat
  deadEvents : Bool
  binder : Option Nat
  consumed : Nat                          -- slots the ARUN in progress has consumed (R266)
  staged : Option Staged
  stamp : Nat                             -- names the load, for the free node numbers (the model's own, log 2)
deriving DecidableEq, Repr

/-- A quad (R75): accumulators, the stationary operand, slots, its three engines (0 copy, 1 matrix, 2 pushdown), the
core whose rendezvous is open with its engines (R34), and its pushdown block. -/
structure Quad where
  accs : Tab Acc
  statB : Option Stationary
  slots : Tab Slot
  engines : Tab Engine
  notices : List Nat                      -- armed slots whose freed-slot notice waits, oldest first (R223)
  rendezvous : Option (Nat × List Nat)
  net : Option Network
  lead : Option Nat
deriving DecidableEq, Repr

def Quad.fresh : Quad :=
  { accs := [], statB := none, slots := [], engines := [], notices := [], rendezvous := none, net := none, lead := none }

/-! ## Edge units of a die -/

inductive StreamState where
  | closed | streaming | done | fault
deriving DecidableEq, Repr

/-- A stream context of an edge memory tile (R171 to R176, R231, R232). Elements are numbered from 0. -/
structure Stream where
  core : Nat
  number : Nat
  plane : Nat
  world : Nat
  gen : BitVec 16
  tid : Nat
  toMemory : Bool
  base : Word
  span : Nat
  extents : List Nat
  strides : List Int
  esize : Nat
  commutative : Bool
  pinned : Bool
  readOnly : Bool
  keySlot : Nat
  state : StreamState
  code : Nat
  next : Nat                     -- the next element to request
  inFlight : List (Nat × Bytes)  -- requested elements, with their data for a write stream
  held : List (Nat × Bytes)      -- returned behind a fault, not delivered
  spill : List (Nat × Bytes)     -- the spill queue
  returned : List (Nat × Bytes)  -- delivered elements that no copy has taken
  accepted : Nat                 -- elements a write stream has accepted
  elements : Nat                 -- delivered or written
  frozen : Bool
  frozenAt : Nat                 -- device time of the freeze
  raised : Bool                  -- STREAM_FAULT raised for this freeze
  record : Nat                   -- element of the latest fault record
  report : Bytes                 -- the port's fault record (R172, R176)
  waits : Bool                   -- its first access waits for its core's earlier ones (R179)
  joined : Bool                  -- its end has been observed (R180)
  ltime : Nat
  lines : List Nat               -- HBM lines it has written (R178)
deriving DecidableEq, Repr

/-- A timed window (R276 to R290). -/
structure TWin where
  world : Nat
  tid : Nat
  base : Word
  keySlot : Nat
  readOnly : Bool
  n : Nat
  k : Nat
  policy : Nat
  expected : Nat
  period : Nat
  t0 : Nat
  delay : Nat
  grace : Nat
  ingest : Word
  o : Nat
  g : Nat
  c : Nat
  counts : Tab Nat
  lateDropped : BitVec 32
  lateMoved : BitVec 32
  ahead : BitVec 32
  full : BitVec 32
  overrun : BitVec 32
  malformed : BitVec 32
  lateSeen : Bool
  aheadSeen : Bool
  overrunSeen : Bool
  sinkFault : Bool
  pending : Nat
  armed : Option (Nat × Nat)     -- graph TID and node (R289)
  inbox : List Bytes             -- completed records not yet taken, oldest first (R278)
  openAt : Nat                   -- the clock from which its port takes records (R286)
  closedAt : Option Nat          -- the clock of its latest closing (R282)
  placedAt : Option Nat          -- the clock of its latest placement (R281)
  ltime : Nat
deriving DecidableEq, Repr

structure PQueue where
  world : Option Nat
  entries : List (Lane × Lane)
  ltime : Nat
deriving DecidableEq, Repr

/-- What a trigger slot watches (R239): the bytes at the addresses from `lo` below `hi` as a core of `quad` names them, or
a ring's consumer. -/
inductive Watch where
  | stores (lo : Nat) (hi : Nat) (quad : Nat)
  | ring (tid : Nat) (threshold : Nat)
deriving DecidableEq, Repr

structure Trigger where
  fresh : Nat                    -- firings of this clock, which act after its bindings (R240)
  pending : Bool
  count : Nat
  watch : Option Watch
  handler : Option (Nat × Nat)   -- graph TID and node
deriving DecidableEq, Repr

/-- A die: its counters, survey buffer, scrub cap and legend cache (R44, R295, R39, R304, R69). -/
structure Die where
  stale : Nat
  foreign : Nat
  survey : Option (Nat × Nat)
  scrubCap : Nat
  legend : List (Nat × Nat × Bytes)   -- world, TID, record version
deriving DecidableEq, Repr

def Die.fresh : Die := { stale := 0, foreign := 0, survey := none, scrubCap := 3, legend := [] }

/-! ## Sync -/

/-- A channel of a team (R204, R205, R209): the two cores, the ring and the hidden state of both ends. -/
structure Chan where
  team : Nat
  world : Nat
  tid : Nat
  prod : Nat
  prodHandle : Nat
  cons : Nat
  consHandle : Nat
  ring : Nat                     -- physical address of slot 0
  va : Word
  span : Nat
  readOnly : Bool                -- the ring's record bars writes (R74)
  slots : Nat
  slotBytes : Nat
  head : Nat
  filled : Nat
  waited : Nat
  tail : Nat
  credits : Nat
  reserved : Nat
  tags : Tab Nat
  fills : List Nat               -- published counts in flight
  backs : List Nat               -- consumed counts in flight
  ltime : Nat
deriving DecidableEq, Repr

/-- A bead route (R212). -/
structure BeadRoute where
  team : Nat
  src : Nat
  number : Nat
  dst : Nat
  port : Nat
  fly : Option Bool
  flyTime : Nat                  -- the logical time that the bead carries (R190)
deriving DecidableEq, Repr

/-- A barrier (R199), with the cores that arrived. -/
structure Barrier where
  declared : Nat
  arrived : Nat
  pending : Nat
  epoch : BitVec 32
  who : List Nat
  ltime : Nat
deriving DecidableEq, Repr

def Barrier.zero : Barrier := { declared := 0, arrived := 0, pending := 0, epoch := 0, who := [], ltime := 0 }

/-- A group of count tokens on its way to a statistics record (R67, R68). -/
structure Tokens where
  tag : Nat
  world : Nat
  counts : Counts
deriving DecidableEq, Repr

/-! ## Graphs, teams and the ready pool -/

inductive NodeState where
  | waiting | ready | placed | finished | faulted | killed
deriving DecidableEq, Repr

/-- A node of a launched graph (Table 1.9, R24), with its remaining predecessors and its state. -/
structure Node where
  kind : Nat
  body : Nat
  valueSel : Nat
  place : Nat
  program : Nat
  command : Word
  va : Word
  vb : Word
  vc : Word
  operands : List Nat
  preds : Nat
  state : NodeState
  runs : Nat                      -- instances ready, dispatched or running (R22, R240, R283)
deriving DecidableEq, Repr

/-- A launch of a graph (R24, R25, R235, R318). -/
structure Launch where
  world : Nat
  graph : Nat
  queue : Nat                     -- 4,096 for GLAUNCH (R235)
  level : Nat
  coreside : Bool
  noRecord : Bool
  doneAddr : Nat
  tag : Word
  params : SMap 64
  nodes : Tab Node
  edges : List (Nat × Nat)
  raced : Bool
  failed : Option (Nat × Nat)      -- status and node index of the earliest failure (R25)
  failSettled : Bool               -- it fell in an earlier clock
  ended : Bool
  ltime : Nat
deriving DecidableEq, Repr

/-- An item of the ready pool: one node, or a co-resident set (R27, R28, R32). -/
structure PoolItem where
  launch : Nat
  nodes : List Nat
  level : Nat
  entryLevel : Nat
  queue : Nat
  readyAt : Nat
  since : Nat
  held : Bool
deriving DecidableEq, Repr

/-- A team (R17, R19, R35, R38). -/
structure Team where
  world : Nat
  launch : Nat
  node : Nat
  left : Nat
  top : Nat
  width : Nat
  height : Nat
  cores : List (Nat × Nat)         -- core and the plane that holds the team
  group : List Nat                 -- the teams that start with it (R32)
  started : Bool
  votes : List (Nat × Bool)
  quietSince : Option Nat          -- clock since which the deadlock conditions have held
  surveyed : Bool
  gone : Bool                      -- GDONE has ended it (R236)
  finished : Bool                  -- its node has finished, or it was killed (R25, R44)
  segs : List Nat                  -- segments of the mesh on which it holds its world's lane (R300): 4 * quad + direction
deriving DecidableEq, Repr

/-- A role image with the cores it is placed on, (x, y, core) within the region. -/
structure RoleImage where
  words : SMap 64
  count : Nat
  pages : List Word                -- virtual code pages it is loaded from (R307)
  places : List (Nat × Nat × Nat)
deriving DecidableEq, Repr

/-- A route entry (Table 5.13). -/
structure Route where
  kind : Nat
  src : Nat
  dst : Nat
  endSrc : Nat
  endDst : Nat
  path : List Nat
  tid : Nat
  slots : Nat
  slotBytes : Nat
  initial : Nat
deriving DecidableEq, Repr

/-- A kernel of a world's program table (R102). -/
structure Program where
  width : Nat
  height : Nat
  roles : List RoleImage
  routes : List Route
deriving DecidableEq, Repr

/-! ## Worlds, frames, queues and Lenivar -/

inductive Tdisp where
  | configUnlocked | configLocked | run | error
deriving DecidableEq, Repr

inductive CodeState where
  | exec | writable | measuring
deriving DecidableEq, Repr

/-- A code page: its state and the segment it belongs to (R101, R307). -/
structure CodePage where
  va : Word
  state : CodeState
  segVa : Word
  segLen : Nat
  segIndex : Nat
  measurement : Bytes
  signer : Bytes
  signature : Bytes
  program : Nat
  role : Nat
deriving DecidableEq, Repr

/-- A world (R292 Table 21.1, R306, R307, R313, R315, R329). -/
structure World where
  live : Bool
  partition : List Nat            -- package indices (R11)
  reserve : Nat
  keySlots : List Nat
  l2 : Option (Nat × Nat)
  tenantScope : Bool
  warn : Bool
  signers : List Bytes
  legendBase : Word
  statsTid : Nat
  ptRoot : Option Nat
  tables : Tab (Tab Word)         -- page-table leaves of each root, by level and index (R321)
  measurement : Bytes
  extensions : BitVec 32
  extendedAt : Nat
  programs : List Program
  code : List CodePage
  params : Tab (SMap 64)          -- the parameter set of each graph (R318)
  tdisp : Tdisp
  report : Bytes                  -- the interface report fixed at the lock (R313)
  changedAt : Option Nat          -- the clock of the latest change to a locked item (R313)
  gated : Bool
  gating : Option (Bool × Nat)    -- the change in progress and the device time it began (R328)
  evBase : Word
  evSize : BitVec 32
  evHead : BitVec 32
  evTail : BitVec 32
  evLost : BitVec 32
  evSeq : BitVec 32
  counters : SMap 48
  statsRefused : Bool
deriving DecidableEq, Repr

def World.fresh : World :=
  { live := false, partition := [], reserve := 0, keySlots := [], l2 := none, tenantScope := false, warn := false,
    signers := [], legendBase := 0, statsTid := 0, ptRoot := none, tables := [], measurement := List.replicate 64 0,
    extensions := 0, extendedAt := 0, programs := [], code := [], params := [], tdisp := .configUnlocked, report := [],
    changedAt := none,
    gated := false, gating := none, evBase := 0, evSize := 0, evHead := 0, evTail := 0, evLost := 0, evSeq := 0,
    counters := [], statsRefused := false }

inductive FrameState where
  | clean | inUse | freeing | scrubPending
deriving DecidableEq, Repr

/-- A 64 KiB frame (R302). `freeing` is a frame whose free waits for translated accesses (R303). -/
structure Frame where
  state : FrameState
  world : Nat
  slots : List Nat                 -- the key slots it has been mapped under (R298)
  notify : Bool
  askedAt : Option Nat             -- the clock of the latest request that found it not CLEAN (R305)
deriving DecidableEq, Repr

def Frame.clean : Frame := { state := .clean, world := 0, slots := [], notify := false, askedAt := none }

inductive KeyState where
  | free | assigned | retiring
deriving DecidableEq, Repr

structure KeySlot where
  state : KeyState
  world : Nat
deriving DecidableEq, Repr

/-- A queue fence entry that has been consumed and waits for the earlier entries of its queue (R318). -/
structure QueueFence where
  waits : List Nat                 -- launches
  doneAddr : Nat
  tag : Word
  noRecord : Bool
  world : Nat                      -- the world whose entry it was
deriving DecidableEq, Repr

structure WorkQueue where
  world : Option Nat
  base : Nat
  logSize : Nat
  vector : Nat
  ceiling : Nat
  producer : BitVec 32
  consumer : BitVec 32
  error : Bool
  unended : List Nat               -- launches of consumed entries that have not ended
  fences : List QueueFence
deriving DecidableEq, Repr

/-- Who waits for a page-fault resolution (R137, R170, R172). -/
inductive Party where
  | core (k : Nat)
  | engine (q : Nat) (e : Nat) (seq : Nat)
  | stream (ctx : Nat)
deriving DecidableEq, Repr

/-- An access that waits for the host's resolution, and the mark of an invalid one. -/
structure PageFault where
  party : Party
  world : Nat
  va : Word
  write : Bool
  invalid : Bool
deriving DecidableEq, Repr

structure StepLog where
  start : Nat
  step : Nat
  attempt : Nat
  method : Nat
  outcome : Nat
  time : Nat
deriving DecidableEq, Repr

structure PodPort where
  up : Bool
  peer : Nat
  retries : Nat                    -- receptions in a row that failed their CRC (R324)
deriving DecidableEq, Repr

structure Tunnel where
  team : Nat
  world : Nat
  sent : Nat                       -- packets that have entered, which is the next packet's counter (R297)
  counter : Option Word
  die : Nat                        -- the die of its exit router
  isOpen : Bool
deriving DecidableEq, Repr

/-- The SPDM connection of one function (R310): how far it has come, its transcript, the secret it
shares with the requester, and the latest answer. -/
structure Spdm where
  version : Bool
  capabilities : Bool
  algorithms : Bool
  exchanged : Bool
  session : Bool
  transcript : Bytes
  secret : Bytes
  reply : Bytes
deriving DecidableEq, Repr

def Spdm.none : Spdm :=
  { version := false, capabilities := false, algorithms := false, exchanged := false, session := false,
    transcript := [], secret := [], reply := [] }

/-- The completion of the latest host read (R331): its data, or Unsupported Request. -/
structure HostReply where
  world : Nat
  data : Bytes
  unsupported : Bool
deriving DecidableEq, Repr

/-- A lease copy of an HBM line (R178): the logical write time of its bytes and the end of its lease (R177). -/
structure Lease where
  quad : Nat
  line : Nat
  bytes : Bytes
  wts : Nat
  rts : Nat
deriving DecidableEq, Repr

/-- A translation that a change of the page tables has replaced and that TLB slices of a die may still hold (R113, R169):
each slice holds a page by 2 MiB frames at most, and `renewed` lists the frames it has looked up since. -/
structure StaleLeaf where
  die : Nat
  world : Nat
  key : Nat
  leaf : Word
  renewed : List Nat
deriving DecidableEq, Repr

/-- Everything the machine holds but time. -/
structure Dev where
  pkgId : Nat
  stopped : Bool
  up : Bool
  starts : Nat
  stepLog : List StepLog
  firmware : Bytes                          -- the image that runs (R327)
  staged : Bytes                            -- the image of the next start
  absentStacks : List Nat
  ptm : Bool
  ports : Tab PodPort
  cores : Tab Core
  quads : Tab Quad
  dies : Tab Die
  streams : Tab Stream
  windows : Tab TWin
  pqueues : Tab PQueue
  triggers : Tab Trigger
  chans : Tab Chan
  beads : Tab BeadRoute
  barriers : Tab Barrier
  tokens : List Tokens
  nextToken : Nat
  teams : Tab Team
  nextTeam : Nat
  launches : Tab Launch
  nextLaunch : Nat
  pool : List PoolItem
  ended : List (Nat × Nat × Nat × Nat)      -- nodes that have ended: launch, node, status of Table 23.3, cause
  worlds : Tab World
  queues : Tab WorkQueue
  frames : Tab Frame
  scrubQueue : List Nat
  keySlots : Tab KeySlot
  faults : List PageFault
  stale : List StaleLeaf
  l2 : Tab (List Nat)                       -- the lines that each L2 set holds, latest first (R166)
  lines : Tab (Nat × Nat)                   -- logical write time and read lease of each line (R177)
  leases : List Lease
  hostTime : Nat                            -- logical time of the host's latest access
  tunnels : Tab Tunnel
  spdm : Tab Spdm
  hostReply : Option HostReply
  mem : List Host.Cell                      -- bytes by 48-bit physical address
  hostMem : List Host.Cell                  -- bytes of host memory by host address
deriving DecidableEq, Repr

/-- World 0 as the end of start-up leaves it (R331). -/
def World.root : World := { World.fresh with live := true }

/-- The package as reset leaves it, before START_UP: the reset values of log entries 4 and 5. -/
def Dev.reset : Dev :=
  { pkgId := 0, stopped := false, up := false, starts := 0, stepLog := [], firmware := [], staged := [], absentStacks := [],
    ptm := false, ports := [], cores := [], quads := [], dies := [], streams := [], windows := [], pqueues := [],
    triggers := [], chans := [], beads := [], barriers := [], tokens := [], nextToken := 1, teams := [], nextTeam := 1,
    launches := [], nextLaunch := 1, pool := [], ended := [], worlds := [], queues := [], frames := [], scrubQueue := [],
    keySlots := [], faults := [], stale := [], l2 := [], lines := [], leases := [],
    hostTime := 0, tunnels := [], spdm := [], hostReply := none, mem := [],
    hostMem := [] }

/-- Time (R274, R275, R328). Device time, the rate correction and the offset being absorbed are in units of 2^-32 ns;
the clock is the dies' cycle count. -/
structure Now where
  clock : Nat
  time : Nat
  rate : Int
  slew : Int
  mhz : Nat
  refreshed : Nat                           -- device time of the latest refresh, as `time` counts (R322)
deriving DecidableEq, Repr

def Now.reset : Now := { clock := 0, time := 0, rate := 0, slew := 0, mhz := 1100, refreshed := 0 }

/-- An agent that issues instructions: a core, or the sequencer of an engine of a quad. -/
inductive Actor where
  | core (k : Nat)
  | engine (q : Nat) (e : Nat)
deriving DecidableEq, Repr

/-- One entry of the schedule (the model's own, log 1). -/
inductive Turn where
  | issue (a : Actor)
  | event (i : Instr)
  | pass (clocks : Nat)
deriving DecidableEq, Repr

/-- What the step does when the schedule is empty (the model's own, log 1): the actor issues, or an event happens. -/
inductive Phase where
  | issue
  | events
deriving DecidableEq, Repr

/-- The machine. `schedule`, `phase`, `actor` and `seq` are the model's own (log 1, log 2). -/
structure State where
  dev : Dev
  now : Now
  schedule : List Turn
  phase : Phase
  actor : Actor
  seq : Nat
deriving DecidableEq, Repr

/-- The machine right after reset. -/
def State.reset : State :=
  { dev := Dev.reset, now := Now.reset, schedule := [], phase := .events, actor := .core 0, seq := 0 }

/-- Why a step stops. -/
inductive Fault where
  /-- Raised by the step while the fabric is held in reset after an uncontainable error (R327): nothing issues until a
  conventional reset runs start-up again. Safe: the device does nothing then either. -/
  | heldInReset
deriving DecidableEq, Repr

/-- Why an instruction has no meaning. -/
inductive Refusal where
  /-- Raised by an arm of Dispatch.lean whose instruction has no meaning yet. Safe: nothing can be proved of it. -/
  | notModelled (mnemonic : String)
deriving DecidableEq, Repr

end Sys2Proof.Machine
end

