-- ==== Sys2Proof/Machine/Device.lean ====
section
/-! DEFINITION. Reading and writing the parts of the device by number, places of quads, events to the host (R323), the
per-world counters (R329), readying nodes (R24, R27) and firing triggers (R240). -/

namespace Sys2Proof.Machine

/-- What a meaning may read beside the device: who issues, the step counter and time. -/
structure Ctx where
  actor : Actor
  seq : Nat
  now : Now
deriving DecidableEq, Repr

def State.ctx (s : State) : Ctx := { actor := s.actor, seq := s.seq, now := s.now }

/-- Every meaning but those that set time changes the device alone, and always answers a next state. -/
def run (f : Ctx → Dev → Dev) (s : State) : Host.Outcome State Fault Refusal := .next { s with dev := f s.ctx s.dev }

/-- Device time in nanoseconds, and as software reads it (R274). -/
def Now.ns (n : Now) : Nat := n.time / 2 ^ 32
def Now.word (n : Now) : Word := BitVec.ofNat 64 n.ns

/-! ## Parts by number -/

def Dev.core (d : Dev) (k : Nat) : Core := Tab.getD d.cores k Core.fresh
def Dev.setCore (d : Dev) (k : Nat) (c : Core) : Dev := { d with cores := Tab.put d.cores k c }
def Dev.quad (d : Dev) (q : Nat) : Quad := Tab.getD d.quads q Quad.fresh
def Dev.setQuad (d : Dev) (q : Nat) (x : Quad) : Dev := { d with quads := Tab.put d.quads q x }
def Dev.die (d : Dev) (i : Nat) : Die := Tab.getD d.dies i Die.fresh
def Dev.setDie (d : Dev) (i : Nat) (x : Die) : Dev := { d with dies := Tab.put d.dies i x }
def Dev.world (d : Dev) (w : Nat) : World := Tab.getD d.worlds w World.fresh
def Dev.setWorld (d : Dev) (w : Nat) (x : World) : Dev := { d with worlds := Tab.put d.worlds w x }
def Dev.frame (d : Dev) (f : Nat) : Frame := Tab.getD d.frames f Frame.clean
def Dev.setFrame (d : Dev) (f : Nat) (x : Frame) : Dev := { d with frames := Tab.put d.frames f x }
def Dev.keySlot (d : Dev) (n : Nat) : KeySlot := Tab.getD d.keySlots n { state := .free, world := 0 }
def Dev.barrier (d : Dev) (b : Nat) : Barrier := Tab.getD d.barriers b Barrier.zero
def Dev.setBarrier (d : Dev) (b : Nat) (x : Barrier) : Dev := { d with barriers := Tab.put d.barriers b x }

def Core.plane (c : Core) (n : Nat) : Plane := Tab.getD c.planes n Plane.empty
def Core.setPlane (c : Core) (n : Nat) (p : Plane) : Core := { c with planes := Tab.put c.planes n p }
/-- The ACTIVE plane, or an empty one. -/
def Core.cur (c : Core) : Plane := match c.active with | some n => c.plane n | none => Plane.empty
def Core.world (c : Core) : Nat := c.cur.world

def Quad.engine (x : Quad) (e : Nat) : Engine := Tab.getD x.engines e Engine.idle
def Quad.setEngine (x : Quad) (e : Nat) (g : Engine) : Quad := { x with engines := Tab.put x.engines e g }
def Quad.slot (x : Quad) (s : Nat) : Slot := Tab.getD x.slots s Slot.empty
def Quad.setSlot (x : Quad) (s : Nat) (v : Slot) : Quad := { x with slots := Tab.put x.slots s v }
def Quad.acc (x : Quad) (n : Nat) : Acc := Tab.getD x.accs n Acc.zero
def Quad.setAcc (x : Quad) (n : Nat) (a : Acc) : Quad := { x with accs := Tab.put x.accs n a }

def Dev.engine (d : Dev) (q e : Nat) : Engine := (d.quad q).engine e
def Dev.setEngine (d : Dev) (q e : Nat) (g : Engine) : Dev := d.setQuad q ((d.quad q).setEngine e g)

/-! ## Places (R10, R11) -/

def quadOfCore (k : Nat) : Nat := k / 4
def dieOfQuad (q : Nat) : Nat := q / 256
def quadX (q : Nat) : Nat := (q / 256 % 2) * 16 + q % 256 % 16
def quadY (q : Nat) : Nat := (q / 256 / 2) * 16 + q % 256 / 16
/-- Package index of a quad, and the quad at package coordinates (R11). -/
def pkgIndex (q : Nat) : Nat := quadY q * 32 + quadX q
def quadAt (x y : Nat) : Nat := (y / 16 * 2 + x / 16) * 256 + (y % 16) * 16 + x % 16
def quadOfIndex (i : Nat) : Nat := quadAt (i % 32) (i / 32)

def World.owns (w : World) (q : Nat) : Bool := w.partition.contains (pkgIndex q)

/-- Package indices of a rectangle, row by row (R17). -/
def rectIndices (left top width height : Nat) : List Nat :=
  (List.range height).flatMap fun dy => (List.range width).map fun dx => (top + dy) * 32 + (left + dx)

/-! ## Event latch (R108) -/

def Dev.setLatch (d : Dev) (k : Nat) : Dev := d.setCore k { d.core k with latch := true }

/-- A change in a quad's slots or status words sets the latch of its four cores. -/
def Dev.latchQuad (d : Dev) (q : Nat) : Dev := (List.range 4).foldl (fun d i => d.setLatch (4 * q + i)) d

/-! ## Counters of a world (R329) -/

def Dev.count (d : Dev) (w i n : Nat) : Dev :=
  if n = 0 then d else
  let x := d.world w
  d.setWorld w { x with counters := SMap.set x.counters i (SMap.get x.counters i + BitVec.ofNat 48 n) }

/-! ## Events to the host (R323) -/

/-- The 128 bytes of an event. The listed payload items lie one after another, each as the rule sizes it (log 12). -/
def eventBytes (kind world die : Nat) (seq : BitVec 32) (time : Word) (payload : Bytes) : Bytes :=
  bytesOfNat 2 kind ++ bytesOfNat 1 world ++ bytesOfNat 1 die ++ bytesOfNat 4 seq.toNat ++ bytesOf 8 time ++
    sliceB payload 0 112

def Dev.event (d : Dev) (now : Now) (kind world die : Nat) (payload : Bytes) : Dev :=
  let x := d.world world
  if x.tdisp = .error then d else
  if x.evSize.toNat ≤ (x.evTail - x.evHead).toNat then d.setWorld world { x with evLost := x.evLost + 1 } else
  let at_ := x.evBase.toNat + 128 * (x.evTail.toNat % x.evSize.toNat)
  { d with hostMem := SMap.setRun d.hostMem at_ (eventBytes kind world die x.evSeq now.word payload) }.setWorld world
    { x with evTail := x.evTail + 1, evSeq := x.evSeq + 1 }

/-- A run of 64-bit payload items (log 12). -/
def items (xs : List Nat) : Bytes := xs.flatMap (bytesOfNat 8)

/-- A trap or halt event (R131, R132, R135): it goes to the core's world. -/
def Dev.trapEvent (d : Dev) (now : Now) (k : Nat) (cause : Nat) (info pc : Word) : Dev :=
  let q := quadOfCore k
  d.event now 2 (d.core k).world (dieOfQuad q) (items [cause, info.toNat, pc.toNat, dieOfQuad q, q % 256, k % 4])

def Dev.faultEvent (d : Dev) (now : Now) (world : Nat) (quad : Option Nat) (va : Word) (write : Bool) : Dev :=
  let place := match quad with | some q => [dieOfQuad q, q % 256] | none => [0xFF, 0xFF]
  d.event now 4 world (place.headD 0xFF) (items ([va.toNat, b2n write] ++ place))

/-- A refusal event: reason is the number of the rule that refuses (log 12). -/
def Dev.refusalEvent (d : Dev) (now : Now) (world reason object : Nat) : Dev :=
  d.event now 8 world 0 (items [reason, object])

/-- A packet dropped at a boundary: the die's foreign-drop counter and the root world's event, with the router and the
packet's tag, which is its world and generation (R294, R295, log 12). -/
def Dev.foreignDrop (d : Dev) (now : Now) (die world : Nat) (gen : BitVec 16) (router : Nat) : Dev :=
  let x := d.die die
  (d.setDie die { x with foreign := (x.foreign + 1) % 2 ^ 48 }).event now 6 0 die (items [router, world, gen.toNat])

/-! ## Readying nodes (R24, R27) and triggers (R240) -/

def Dev.setLaunch (d : Dev) (l : Nat) (x : Launch) : Dev := { d with launches := Tab.put d.launches l x }

def Launch.node (x : Launch) (n : Nat) : Option Node := Tab.get? x.nodes n

def PoolItem.before (a b : PoolItem) : Bool :=
  decide (a.level < b.level) || (a.level == b.level && (decide (a.readyAt < b.readyAt) || (a.readyAt == b.readyAt &&
    (decide (a.queue < b.queue) || (a.queue == b.queue && decide (a.nodes.headD 0 ≤ b.nodes.headD 0))))))

/-- Whether a node belongs to the launch's co-resident set (R32): a team-launch node. A tick-fired or data-triggered node
with a team body, which becomes ready many times, is none of it (log 26). -/
def Launch.inSet (x : Launch) (n : Nat) : Bool :=
  x.coreside && (match x.node n with | some y => y.kind == 0 | none => false)

/-- The members of the co-resident set, in ascending index. -/
def Launch.members (x : Launch) : List Nat := Tab.keys (fun n _ => x.inSet n) x.nodes

def poolItem (x : Launch) (l : Nat) (nodes : List Nat) (time : Nat) : PoolItem :=
  { launch := l, nodes := nodes, level := x.level, entryLevel := x.level, queue := x.queue, readyAt := time, since := time,
    held := false }

/-- One instance of node `n` becomes ready and enters the pool; the co-resident set enters as one item when its last
member becomes ready (R32). -/
def Dev.ready (d : Dev) (now : Now) (l n : Nat) : Dev :=
  match Tab.get? d.launches l with
  | none => d
  | some x =>
    match x.node n with
    | none => d
    | some y =>
      let now_ := if y.state = .faulted ∨ y.state = .killed then y.state else .ready
      let x := { x with nodes := Tab.put x.nodes n { y with state := now_, runs := y.runs + 1 } }
      let d := d.setLaunch l x
      if x.inSet n then
        if x.members.all fun m => (x.node m).any fun y => y.state == .ready then
          { d with pool := insertBy PoolItem.before (poolItem x l x.members now.ns) d.pool }
        else d
      else { d with pool := insertBy PoolItem.before (poolItem x l [n] now.ns) d.pool }

/-- The launch of a graph of a world that fires a given node: the earliest that has not ended (log 6). -/
def Dev.launchOf (d : Dev) (world graph node : Nat) : Option Nat :=
  (Tab.keys (fun _ x => x.world == world && x.graph == graph && !x.ended && (x.node node).isSome) d.launches).head?

/-- The launch whose data-triggered task a trigger fires: that of `launchOf`, else the latest one (log 6). -/
def Dev.firedLaunch (d : Dev) (world graph node : Nat) : Option Nat :=
  match d.launchOf world graph node with
  | some l => some l
  | none => (Tab.keys (fun _ x => x.world == world && x.graph == graph && (x.node node).isSome) d.launches).getLast?

def Trigger.empty : Trigger := { fresh := 0, pending := false, count := 0, watch := none, handler := none }

/-- Each count of a bound slot readies one instance of its handler, once the handler's graph is launched and its
predecessors have finished (R22). -/
def Dev.drainTrigger (d : Dev) (now : Now) (key : Nat) : Dev :=
  match Tab.get? d.triggers key with
  | none => d
  | some t =>
    match t.handler with
    | none => d
    | some (g, n) =>
      match d.firedLaunch (key / 256) g n with
      | none => d
      | some l =>
        let waits : Bool := match Tab.get? d.launches l with
          | some x => (x.node n).any fun (y : Node) => y.preds != 0
          | none => true
        if waits then d
        else t.count.repeat (fun d => d.ready now l n) { d with triggers := Tab.put d.triggers key { t with count := 0 } }

/-- A node that fails becomes its graph's recorded failure, unless one of an earlier clock, or one of a lower index in this
clock, is recorded (R25). -/
def Launch.fail (x : Launch) (status n : Nat) : Launch :=
  match x.failed with
  | none => { x with failed := some (status, n), failSettled := false }
  | some (_, m) => if !x.failSettled && decide (n < m) then { x with failed := some (status, n) } else x

/-- An instance of a node ends (R25): status 0 done, 1 in fault, 2 killed; 3 is a tick-fired node that is disarmed with no
instance left. NODE_FINISH does the rest. -/
def Dev.endNode (d : Dev) (l n status cause : Nat) : Dev :=
  let d : Dev := match Tab.get? d.launches l with
    | none => d
    | some x => if status = 1 ∨ status = 2 then d.setLaunch l (x.fail status n) else d
  { d with ended := d.ended ++ [(l, n, status, cause)] }

/-- At a clock's end every recorded failure is one of an earlier clock. -/
def Dev.settleFailures (d : Dev) : Dev :=
  { d with launches := Tab.map (fun _ (x : Launch) => { x with failSettled := x.failed.isSome }) d.launches }

/-- A firing of slot `key` = world * 256 + slot. It acts at the end of its clock, after the bindings of the clock (R240). -/
def Dev.fire (d : Dev) (key : Nat) : Dev :=
  let t := Tab.getD d.triggers key Trigger.empty
  { d with triggers := Tab.put d.triggers key { t with fresh := t.fresh + 1 } }

/-- The firings of a clock reach the handler bound at its end, or set the pending bit (R240). -/
def Trigger.settle (t : Trigger) : Trigger :=
  if t.fresh = 0 then t
  else if t.handler.isNone then { t with fresh := 0, pending := true }
  else { t with fresh := 0, count := Nat.min (t.count + t.fresh) 0xFFFF }

/-- The firings of the clock act. -/
def Dev.settleFirings (d : Dev) (now : Now) : Dev :=
  let hit := Tab.keys (fun _ (t : Trigger) => t.fresh != 0) d.triggers
  hit.foldl (fun d k => d.drainTrigger now k) { d with triggers := Tab.map (fun _ (t : Trigger) => t.settle) d.triggers }

/-- The slots of a world whose store watch a test accepts fire (R239). -/
def Dev.fireWatches (d : Dev) (world : Nat) (hits : Nat → Nat → Nat → Bool) : Dev :=
  (Tab.keys (fun k t => k / 256 == world && match t.watch with
    | some (.stores lo hi q) => hits lo hi q
    | _ => false) d.triggers).foldl (fun d k => d.fire k) d

/-- A consumer's filled rises from `was` to `is`: the slots that watch the ring fire (R239). -/
def Dev.fireRing (d : Dev) (world tid was is : Nat) : Dev :=
  let hit := Tab.keys (fun k t => k / 256 == world && match t.watch with
    | some (.ring r th) => r == tid && decide (was < th) && decide (th ≤ is)
    | _ => false) d.triggers
  hit.foldl (fun d k => d.fire k) d

end Sys2Proof.Machine
end

