-- ==== Sys2Proof/Machine/Memory.lean ====
section
/-! DEFINITION. Address translation (R162 to R164, R168, R299, R321), the physical memory, and loads and stores in the
one total order of R177, with the lease copies of R178. -/

namespace Sys2Proof.Machine

/-- The canonical form of memory: addresses strictly rising, no listed byte 0; an unlisted byte reads 0 (log 4). -/
abbrev Memory.wf (m : List Host.Cell) : Prop := SMap.wf (w := 8) m = true

/-- What a byte that nothing has written reads as (log 4; a CLEAN frame reads zero, R302). -/
def Memory.blank : Byte := 0

/-! ## Page-table leaves (R321) -/

/-- Number of a leaf: its level, and its virtual address divided by its page size. -/
def leafKey (level idx : Nat) : Nat := level * 2 ^ 40 + idx

/-- Bits of the page offset of a leaf at level 2 (1 GiB), 3 (2 MiB) or 4 (64 KiB). -/
def pageBits (level : Nat) : Nat := if level = 2 then 30 else if level = 3 then 21 else 16

def leafKeyAt (level va : Nat) : Nat := leafKey level (va / 2 ^ pageBits level)

def leafValid (e : Word) : Bool := bit e 0
def leafWrite (e : Word) : Bool := bit e 2
def leafExec (e : Word) : Bool := bit e 3
def leafPresent (e : Word) : Bool := bit e 4
def leafPort (e : Word) : Bool := bit e 5
def leafWindow (e : Word) : Nat := field e 16 8
def leafSlot (e : Word) : Nat := field e 48 10
def leafBase (e : Word) : Nat := field e 16 32 * 2 ^ 16

def makeLeaf (pa slot : Nat) (write exec present port : Bool) : Word :=
  BitVec.ofNat 64 (3 + 4 * b2n write + 8 * b2n exec + 16 * b2n present + 32 * b2n port + pa + slot * 2 ^ 48)

/-- The leaves of the world's present root. -/
def World.leaves (w : World) : Tab Word := match w.ptRoot with | some r => Tab.getD w.tables r [] | none => []

def World.setLeaves (w : World) (t : Tab Word) : World :=
  match w.ptRoot with | some r => { w with tables := Tab.put w.tables r t } | none => w

/-- The leaf that maps an address, with its level. -/
def World.leafOf (w : World) (va : Nat) : Option (Nat × Word) :=
  [2, 3, 4].findSome? fun l => (Tab.get? w.leaves (leafKeyAt l va)).map fun e => (l, e)

/-- The level at which a stale translation still covers an address for a die: the slice that holds its 2 MiB frame has not
looked the frame up since (R169). -/
def StaleLeaf.levelAt (s : StaleLeaf) (die world va : Nat) : Option Nat :=
  if s.die = die ∧ s.world = world ∧ (s.renewed.contains (va / 2 ^ 21)) = false then
    [2, 3, 4].find? fun l => leafKeyAt l va == s.key
  else none

/-- The leaves a party of a die may be translated by: the page tables' own, and old ones that the die's TLB slice may still
hold (R113, R169). -/
def Dev.leavesFor (d : Dev) (die world va : Nat) : List (Option (Nat × Word)) :=
  (d.world world).leafOf va :: d.stale.filterMap fun s => (s.levelAt die world va).map fun l => some (l, s.leaf)

/-- The leaf that translates an access of a die: the slice answers with what it holds, or walks the tables. -/
def Dev.leafFor (d : Dev) (seq die world va : Nat) : Option (Nat × Word) :=
  pick seq (va % 2 ^ 56) none (d.leavesFor die world va)

/-- A slice that has walked the tables for an address holds no older translation of its 2 MiB frame. -/
def Dev.walked (d : Dev) (seq die world va : Nat) : Dev :=
  if d.stale.isEmpty || d.leafFor seq die world va != (d.world world).leafOf va then d
  else { d with stale := d.stale.map fun s =>
    if (s.levelAt die world va).isSome then { s with renewed := va / 2 ^ 21 :: s.renewed } else s }

/-! ## Physical places (Table 11.1) -/

def localPa (pa : Nat) : Nat := pa % 2 ^ 44
def paPkg (pa : Nat) : Nat := pa / 2 ^ 44 % 16
def isHbm (pa : Nat) : Bool := decide (localPa pa < 2 ^ 39)
def vaultBase : Nat := 0x010000000000
def vaultPa (pkg q o : Nat) : Nat := pkg * 2 ^ 44 + vaultBase + q * 0x200000 + o
def isVault (pa : Nat) : Bool := decide (vaultBase ≤ localPa pa) && decide (localPa pa < vaultBase + 2 ^ 31)
def vaultQuad (pa : Nat) : Nat := (localPa pa - vaultBase) / 0x200000

/-- A package that some route reaches (R324). -/
def Dev.reaches (d : Dev) (pkg : Nat) : Bool :=
  pkg == d.pkgId || d.ports.any fun (n, p) => p.up && (p.peer == pkg || Config.podRoute n pkg)

/-- Whether a translated address exists and may be reached by a world (R162, R164, R324, R325 steps 4 to 11). -/
def Dev.paOk (d : Dev) (world pa : Nat) : Bool :=
  if isHbm pa then d.reaches (paPkg pa) && !(paPkg pa == d.pkgId && d.absentStacks.contains (localPa pa / 2 ^ 36))
  else isVault pa && paPkg pa == d.pkgId && (d.world world).owns (vaultQuad pa)

/-! ## Translation -/

/-- Who translates: the world and its packets' generation (R294), the die whose TLB slices it asks (4 for the host, which
asks none), the quad whose vault the local window names, whether it writes, and the key slot of the record it goes through,
if any (R299). -/
structure Req where
  world : Nat
  gen : BitVec 16
  die : Nat
  quad : Option Nat
  write : Bool
  slot : Option Nat
deriving DecidableEq, Repr

inductive Xlate where
  | mem (pa : Nat)
  | port (window : Nat)     -- a page of a window's ingest port (R278)
  | regs (world : Nat) (off : Nat)  -- a function's register page, in the root world's view (R315, R331)
  | miss (cause : Nat)      -- 1 not present, 2 no mapping (R321)
  | deny (permission : Bool) -- permission (cause 3), or no such address
  | drop (die : Nat) (router : Nat) -- the request is dropped at a quad or memory port of another world (R295)
deriving DecidableEq, Repr

/-- The router of a memory port, after the 256 quads of its die (log 12). -/
def portRouter (pa : Nat) : Nat := 256 + localPa pa / 2 ^ 36

/-- The die that homes an HBM address. -/
def homeDie (pa : Nat) : Nat := localPa pa / 2 ^ 37 % 4

def vaWindow : Nat := 0xFF000000000000
def vaLocal : Nat := 0xFFF00000000000

/-- The apertures of Table 11.2, which are not translated. A request for a quad of another world is dropped there (R164,
R295). -/
def Dev.aperture (d : Dev) (r : Req) (va : Nat) : Xlate :=
  let vault := fun q o => if (d.world r.world).owns q then Xlate.mem (vaultPa d.pkgId q o) else .drop (dieOfQuad q) (q % 256)
  if va < vaWindow + 2 ^ 31 then vault ((va - vaWindow) / 0x200000) ((va - vaWindow) % 0x200000)
  else if vaLocal ≤ va ∧ va < vaLocal + 0x200000 then
    match r.quad with
    | some q => vault q (va - vaLocal)
    | none => .deny false
  else .deny false

/-- Whether the frame of a leaf's page holds an address. -/
def leafHolds (level : Nat) (e : Word) (pa : Nat) : Bool :=
  decide (leafBase e ≤ pa) && decide (pa < leafBase e + 2 ^ pageBits level)

/-- Whether an address lies in an executable page of the world, or in a code page that is not WRITABLE, by whatever mapping
it is reached (R307, Table 21.5). -/
def Dev.execAt (d : Dev) (world pa : Nat) : Bool :=
  let w := d.world world
  (w.leaves.any fun (key, e) => leafExec e && !leafPort e && leafHolds (key / 2 ^ 40) e pa) ||
  w.code.any fun (c : CodePage) => c.state != .writable && match w.leafOf c.va.toNat with
    | some (level, e) => pa / 65536 == (leafBase e + c.va.toNat % 2 ^ pageBits level) / 65536
    | none => false

/-- Whether a translation may still name a frame: one that a free has taken, or that another world owns, is found unmapped
(R302, R303). -/
def Frame.serves (f : Frame) (world : Nat) : Bool :=
  match f.state with
  | .clean => true
  | .inUse => f.world == world
  | _ => false

/-- What a leaf allows (R295, R299, R302, R307, R321). -/
def Dev.useLeaf (d : Dev) (r : Req) (va level : Nat) (e : Word) : Xlate :=
  let pa := leafBase e + va % 2 ^ pageBits level
  if !leafPresent e then .miss 1
  else if leafPort e then .port (leafWindow e)
  else if !(d.frame (pa / 65536)).serves r.world then .miss 2
  else if r.write && (!leafWrite e || leafExec e) then .deny true
  else if (match r.slot with | some s => s != leafSlot e | none => false) then .deny true
  else if !((d.world r.world).keySlots.contains (leafSlot e) && (d.keySlot (leafSlot e)).state == .assigned) then
    .drop (homeDie pa) (portRouter pa)
  else if r.write && d.execAt r.world pa then .deny true
  else if d.paOk r.world pa then .mem pa else .deny false

/-- Where the root world's untranslated view of the device registers (Table 11.1) holds an address: of which world's page,
at which offset (R315, R331). -/
def registerView (world va : Nat) : Option (Nat × Nat) :=
  if world = 0 ∧ 0x020000000000 ≤ va ∧ va < 0x020000000000 + 2 ^ 32 then
    some ((va - 0x020000000000) / 0x10000, va % 0x10000)
  else none

/-- Translation of one address. Bits 63:56 are checked by the caller's address form (R136). -/
def Dev.translate (d : Dev) (seq : Nat) (r : Req) (va : Nat) : Xlate :=
  if 2 ^ 56 ≤ va then .deny false
  else if vaWindow ≤ va then d.aperture r va
  else
    match d.leafFor seq r.die r.world va with
    | none => match registerView r.world va with
      | some (w, off) => .regs w off
      | none => .miss 2
    | some (level, e) => if leafValid e then d.useLeaf r va level e else .miss 2

/-- The request of a denied access has been dropped, if that is why: the router's die counts it (R295). -/
def Dev.refused (d : Dev) (now : Now) (r : Req) : Xlate → Dev
  | .drop die router => d.foreignDrop now die r.world r.gen router
  | _ => d

/-! ## Loads and stores by physical address (R177, R178) -/

def lineOf (pa : Nat) : Nat := pa / 128

def Dev.lineTime (d : Dev) (line : Nat) : Nat × Nat := Tab.getD d.lines line (0, 0)

/-- The bytes at an address. -/
def Dev.bytesAt (d : Dev) (pa n : Nat) : Bytes := SMap.getRun d.mem pa n

/-- A copy of the line that the quad may still use at logical time `t`. -/
def Dev.copyFor (d : Dev) (q line t : Nat) : Option Lease :=
  d.leases.find? fun l => l.quad == q && l.line == line && decide (t ≤ l.rts)

/-- A load of `n` bytes that lie in one line. `lease` names the quad that may use and take lease copies, if any. The
answer is the device, the logical time after the load, and the bytes. -/
def Dev.loadPa (d : Dev) (seq : Nat) (lease : Option Nat) (t pa n : Nat) : Dev × Nat × Bytes :=
  let line := lineOf pa
  let home := d.lineTime line
  let fresh : Dev × Nat × Bytes :=
    let t' := Nat.max t home.1
    ({ d with lines := Tab.put d.lines line (home.1, Nat.max home.2 t') }, t', d.bytesAt pa n)
  match lease with
  | none => fresh
  | some q =>
    if !isHbm pa then fresh else
    match d.copyFor q line t with
    | some l => if freeBit seq (4 * pa) then (d, Nat.max t l.wts, sliceB l.bytes (pa % 128) n) else fresh
    | none =>
      if freeBit seq (4 * pa + 1) && decide ((d.leases.filter fun l => l.quad == q).length < 256) then
        let t' := Nat.max t home.1
        let rts := Nat.max home.2 (t' + Config.choice seq (4 * pa + 2))
        ({ d with lines := Tab.put d.lines line (home.1, rts),
                  leases := { quad := q, line := line, bytes := d.bytesAt (line * 128) 128, wts := home.1, rts := rts } ::
                    d.leases.filter fun l => !(l.quad == q && l.line == line) }, t', d.bytesAt pa n)
      else fresh

/-- A store to one line takes a logical time later than every lease on it. -/
def Dev.storePa (d : Dev) (t pa : Nat) (bs : Bytes) : Dev × Nat :=
  let line := lineOf pa
  let t' := Nat.max t ((d.lineTime line).2 + 1)
  ({ d with mem := SMap.setRun d.mem pa bs, lines := Tab.put d.lines line (t', t') }, t')

/-- Lease copies that a quad drops (R178). -/
def Dev.dropLeases (d : Dev) (gone : Lease → Bool) : Dev := { d with leases := d.leases.filter fun l => !gone l }

/-- A quad's copies of every line of a world's range are dropped: the lines whose mapped addresses overlap it. -/
def Dev.dropRange (d : Dev) (world q lo hi : Nat) : Dev :=
  d.dropLeases fun l => l.quad == q && (d.world world).leaves.any fun (key, e) =>
    let level := key / 2 ^ 40
    let size := 2 ^ pageBits level
    let va := key % 2 ^ 40 * size
    let o := l.line * 128 - leafBase e
    decide (leafBase e ≤ l.line * 128) && decide (o < size) && decide (lo < va + o + 128) && decide (va + o < hi)

/-- The listed lines leave a quad's copies (a join, R178). -/
def Dev.dropLines (d : Dev) (q : Nat) (lines : List Nat) : Dev :=
  if lines.isEmpty then d else d.dropLeases fun l => l.quad == q && lines.contains l.line

/-- A line that an operation writes joins the list of those it wrote; vault lines have no copies. -/
def noteLine (lines : List Nat) (pa : Nat) : List Nat :=
  if isHbm pa && !lines.contains (lineOf pa) then lineOf pa :: lines else lines

/-! ## L2 (R166, R167) and the HBM traffic of a world (R329), which only the counters show -/

/-- The set of an address's line in its home slice, within a share (R167). -/
def l2Set (share : Nat × Nat) (pa : Nat) : Nat :=
  let line := localPa pa / 128
  (homeDie pa * 96 + line % 96) * 1024 + share.2 + line / 96 % 2 ^ share.1

/-- One access of a line in a set: whether it hits, and the set after it. A line that misses takes the place of one of 16
when the ways are full; which one the spec leaves open. -/
def l2Use (seq why : Nat) (ways : List Nat) (line : Nat) : Bool × List Nat :=
  if ways.contains line then (true, ways)
  else if ways.length < 16 then (false, line :: ways)
  else (false, line :: dropAt ways (Config.choice seq why % 16))

/-- An HBM access of `n` bytes in one line: a world with a share finds or places the line in L2, any other goes to HBM. L2
of another package is not this device's state (log 10). -/
def Dev.traffic (d : Dev) (seq world pa n : Nat) (write : Bool) : Dev :=
  if !isHbm pa then d else
  let d := d.count world (if write then 7 else 6) n
  if paPkg pa ≠ d.pkgId then
    (if (d.world world).l2.isSome && freeBit seq (4 * pa + 3) then d.count world 8 1 else d.count world 9 1).count world 12 n
  else match (d.world world).l2 with
    | none => d.count world 9 1
    | some share =>
      let set := l2Set share pa
      let r := l2Use seq (4 * pa + 3) (Tab.getD d.l2 set []) (lineOf pa)
      ({ d with l2 := Tab.put d.l2 set r.2 } : Dev).count world (if r.1 then 8 else 9) 1

/-- Lines that a test names leave L2: they are invalidated by their key slot's tag (R299, R302). -/
def Dev.dropCached (d : Dev) (gone : Nat → Bool) : Dev :=
  ({ d with l2 := Tab.map (fun _ ways => ways.filter fun l => !gone l) d.l2 } : Dev).dropLeases fun l => gone l.line

/-! ## Watched stores (R239) -/

/-- The addresses by which a party of a quad may name the byte at a physical address. -/
def Dev.vasOf (d : Dev) (world quad pa : Nat) : List Nat :=
  let vault := if isVault pa && paPkg pa == d.pkgId then
      (vaWindow + (localPa pa - vaultBase)) :: (if vaultQuad pa = quad then [vaLocal + (localPa pa - vaultBase) % 0x200000] else [])
    else []
  vault ++ (d.world world).leaves.filterMap fun (key, e) =>
    if !leafPort e && leafHolds (key / 2 ^ 40) e pa then some (key % 2 ^ 40 * 2 ^ pageBits (key / 2 ^ 40) + (pa - leafBase e))
    else none

/-- A store of `n` bytes within a line by a party of a world, or its host: the slots whose watch it overlaps fire. -/
def Dev.fireStores (d : Dev) (world pa n : Nat) : Dev :=
  if d.triggers.isEmpty then d
  else d.fireWatches world fun lo hi q => (d.vasOf world q pa).any fun va => decide (lo < va + n) && decide (va < hi)

end Sys2Proof.Machine
end

