-- ==== Sys2Proof/Machine/Legend.lean ====
section
/-! DEFINITION. The legend (R69 to R74): reading a record through the die's legend cache, and its validity. -/

namespace Sys2Proof.Machine

/-- Bytes of a world's memory by virtual address; none where some byte has no readable mapping. -/
def Dev.peek (d : Dev) (seq : Nat) (r : Req) (va : Nat) : Nat → Option Bytes
  | 0 => some []
  | n + 1 =>
    match d.translate seq r va with
    | .mem pa => (Dev.peek d seq r (va + 1) n).map fun bs => SMap.get d.mem pa :: bs
    | .port _ => (Dev.peek d seq r (va + 1) n).map fun bs => 0 :: bs
    | _ => none

/-- The fields of a record (Table 3.8). -/
def parseRec (tid : Nat) (bs : Bytes) : Rec :=
  { tid := tid, kind := u8At bs 0, format := u8At bs 1, rank := u8At bs 2, flags := u8At bs 3, world := u16At bs 4,
    keySlot := u16At bs 6, base := u64At bs 8, extents := (List.range 6).map fun i => u32At bs (0x10 + 4 * i),
    strides := (List.range 6).map fun i => u64At bs (0x28 + 8 * i), blockBase := u64At bs 0x58, bandBase := u64At bs 0x60,
    scaleStride := u64At bs 0x68, span := u64At bs 0x70, data := sliceB bs 0x78 64,
    checkOk := crc32c (sliceB bs 0 0xBC) == u32At bs 0xBC }

def Rec.extent (r : Rec) (i : Nat) : Nat := r.extents.getD i 1
def Rec.stride (r : Rec) (i : Nat) : Nat := r.strides.getD i 0
def Rec.commutative (r : Rec) : Bool := r.flags % 2 == 1
def Rec.pinned (r : Rec) : Bool := r.flags / 2 % 2 == 1
def Rec.readOnly (r : Rec) : Bool := r.flags / 4 % 2 == 1
def Rec.execImage (r : Rec) : Bool := r.flags / 8 % 2 == 1

/-- Bytes of an element of a format; a timed-window record has 32, and an IBF4 element shares its byte. -/
def formatBytes (code : Nat) : Nat :=
  if code = 0xC then 32 else match numFmt code with
    | some f => Nat.max 1 (f.width / 8)
    | none => 1

/-- R70: whether a record is valid for a world that holds given key slots. -/
def Rec.valid (r : Rec) (world : Nat) (slots : List Nat) : Bool :=
  r.checkOk && decide (r.kind ≤ 6) && r.world == world && slots.contains r.keySlot && decide (1 ≤ r.rank) &&
  decide (r.rank ≤ 6) && decide (r.format ≤ 0xC) && decide (r.flags < 16) && decide (r.base < 2 ^ 56) &&
  (List.range 6).all (fun i =>
    if i < r.rank then r.extent i != 0 else r.extent i == 1 && r.stride i == 0) &&
  (if r.format = 5 then
    r.extent 0 % 8 == 0 && r.stride 0 == 0 && r.blockBase != 0 && r.bandBase != 0 && r.bandBase % 2 == 0
   else r.stride 0 != 0 && r.stride 0 % formatBytes r.format == 0)

/-- The current bytes of a record, if its page can be read. -/
def Dev.recordBytes (d : Dev) (seq die world tid : Nat) : Option Bytes :=
  d.peek seq { world := world, gen := 0, die := die, quad := none, write := false, slot := none }
    ((d.world world).legendBase.toNat + 192 * tid) 192

/-- Versions of a record that a use may read: the current one and those the die's cache has held (R73). -/
def Dev.recordVersions (d : Dev) (seq die world tid : Nat) : List Bytes :=
  let old := (d.die die).legend.filterMap fun (w, t, bs) => if w = world ∧ t = tid then some bs else none
  match d.recordBytes seq die world tid with
  | some bs => bs :: old.filter fun o => o != bs
  | none => old

/-- One use of a record by a party of a die: it reads one whole version, and the cache fills. An executable-image record
is valid only for loader operations (R74). -/
def Dev.useRecord (d : Dev) (seq die world tid : Nat) : Dev × Option Rec :=
  let vs := d.recordVersions seq die world tid
  let x := d.die die
  let d' := match d.recordBytes seq die world tid with
    | some bs => if x.legend.contains (world, tid, bs) then d else d.setDie die { x with legend := (world, tid, bs) :: x.legend }
    | none => d
  match vs with
  | [] => (d', none)
  | _ =>
    let r := parseRec tid (pick seq (16 * tid + 7) [] vs)
    (d', if r.valid world (d.world world).keySlots && !r.execImage then some r else none)

/-- A use that must be of one of some kinds. -/
def Dev.useKind (d : Dev) (seq die world tid : Nat) (kinds : List Nat) : Dev × Option Rec :=
  let (d, r) := d.useRecord seq die world tid
  (d, r.filter fun r => kinds.contains r.kind)

/-- A die's cache drops a TID of a world (R198). -/
def Dev.dropLegend (d : Dev) (die world : Nat) (tids : List Nat) : Dev :=
  let x := d.die die
  d.setDie die { x with legend := x.legend.filter fun e => !(e.1 == world && tids.contains e.2.1) }

end Sys2Proof.Machine
end

