-- ==== Sys2Proof/Machine/GraphImage.lean ====
section
/-! DEFINITION. Graph images and their checks (R23, R28, R32, R189): what a launch, a replay, GLAUNCH, TICKARM and
TRIGBIND read. -/

namespace Sys2Proof.Machine

/-- A node entry (Table 1.9). -/
structure NodeEntry where
  kind : Nat
  body : Nat
  nops : Nat
  sel : Nat
  place : Nat
  program : Nat
  command : Word
  va : Word
  vb : Word
  vc : Word
  ops : List Nat
  reserved : Bool       -- a reserved or unused field is nonzero
deriving DecidableEq, Repr

structure Image where
  nodes : List NodeEntry
  edges : List (Nat × Nat)
deriving DecidableEq, Repr

def parseNode (bs : Bytes) : NodeEntry :=
  let w := fun o => BitVec.ofNat 64 (u64At bs o)
  let nops := u8At bs 2
  let ops := (List.range 8).map fun i => u16At bs (0x28 + 2 * i)
  { kind := u8At bs 0, body := u8At bs 1, nops := nops, sel := u8At bs 3, place := u16At bs 4, program := u16At bs 6,
    command := w 8, va := w 0x10, vb := w 0x18, vc := w 0x20, ops := ops.take nops,
    reserved := u64At bs 0x38 != 0 || ops.any (fun o => o / 2048 % 16 != 0) || (ops.drop nops).any fun o => o != 0 }

/-- Bytes of a world's memory at an address, read through a record's key slot if it names one (R299). -/
def Dev.image (d : Dev) (seq world : Nat) (slot : Option Nat) (va n : Nat) : Option Bytes :=
  d.peek seq { world := world, gen := 0, die := 0, quad := none, write := false, slot := slot } va n

/-- Reads a graph image through a record; none where its header or tables are wrong or cannot be read. The reserved
kind_data of the record is not looked at (log 26). -/
def Dev.readImage (d : Dev) (seq world : Nat) (r : Rec) : Option Image :=
  if r.format ≠ 8 ∨ r.rank ≠ 1 ∨ r.stride 0 ≠ 1 ∨ r.span < 64 then none else
  match d.image seq world (some r.keySlot) r.base 64 with
  | none => none
  | some h =>
    let nodes := u16At h 6
    let edges := u32At h 8
    let nodeOff := u32At h 0xC
    let edgeOff := u32At h 0x10
    if u32At h 0 ≠ 0x48505247 ∨ u16At h 4 ≠ 1 ∨ !zeroB (sliceB h 0x14 40) ∨ crc32c (sliceB h 0 0x3C) ≠ u32At h 0x3C ∨
      nodes = 0 ∨ 4096 < nodes ∨ 65536 < edges ∨ nodeOff % 64 ≠ 0 ∨ edgeOff % 4 ≠ 0 ∨ r.span < nodeOff + 64 * nodes ∨
      r.span < edgeOff + 4 * edges then none
    else
      match d.image seq world (some r.keySlot) (r.base + nodeOff) (64 * nodes),
          d.image seq world (some r.keySlot) (r.base + edgeOff) (4 * edges) with
      | some nb, some eb =>
        some { nodes := (List.range nodes).map fun i => parseNode (sliceB nb (64 * i) 64),
               edges := (List.range edges).map fun i => (u16At eb (4 * i), u16At eb (4 * i + 2)) }
      | _, _ => none

/-! ## Checks of R23 -/

/-- Whether a node's command is admitted for its body. -/
def admitted (body : Nat) (i : Instr) : Bool :=
  match body, i with
  | 1, .cpy _ _ _ _ _ _ => true
  | 1, .cpym _ _ _ _ _ _ => true
  | 1, .cpys _ _ _ _ _ => true
  | 2, .mma _ _ _ => true
  | 2, .mmaz _ _ _ => true
  | 2, .mdrain _ _ _ _ _ => true
  | 2, .mldb _ _ => true
  | 2, .mzero _ => true
  | 3, .aload _ _ => true
  | 3, .abindMaskSink _ _ _ => true
  | 3, .abindTreeSink _ _ _ => true
  | 3, .abindSpillArea _ _ _ => true
  | 3, .abindLimits _ _ _ => true
  | 3, .abindUnbind _ _ _ => true
  | 3, .astep _ _ => true
  | 3, .away _ => true
  | 3, .aresume _ => true
  | 3, .aclear _ => true
  | _, _ => false

def NodeEntry.width (y : NodeEntry) : Nat := y.place % 256
def NodeEntry.height (y : NodeEntry) : Nat := y.place / 256

def selOk (s : Nat) : Bool := decide (s < 64) && decide (s % 4 < 2) && decide (s / 4 % 4 < 2) && decide (s / 16 < 2)

/-- One node entry's own checks; operands must name valid records (R70). -/
def nodeOk (w : World) (validTid : Nat → Bool) (y : NodeEntry) : Bool :=
  decide (y.kind ≤ 5) && decide (y.body ≤ 3) && (decide (3 < y.kind) || y.body == y.kind) && selOk y.sel &&
  decide (y.nops ≤ 8) && !y.reserved && y.ops.all (fun o => validTid (o % 2048)) &&
  (if y.body = 0 then
    match w.programs[y.program]? with
    | some p => y.width == p.width && y.height == p.height && y.command == 0
    | none => false
   else decide (y.place < 1024 ∨ y.place = 0xFFFF) && y.program == 0 &&
    (match decode y.command with | .ok i => admitted y.body i | .error _ => false))

def Image.inDegree (g : Image) (n : Nat) : Nat := (g.edges.filter fun e => e.2 == n).length

/-- Nodes left after the nodes without an edge from a remaining node are removed, round by round: none where acyclic. -/
def peel (edges : List (Nat × Nat)) : Nat → List Nat → List Nat
  | 0, left => left
  | fuel + 1, left => peel edges fuel (left.filter fun n => edges.any fun e => e.2 == n && left.contains e.1)

def Image.acyclic (g : Image) : Bool := (peel g.edges g.nodes.length (List.range g.nodes.length)).isEmpty

def Image.ok (g : Image) (w : World) (validTid : Nat → Bool) : Bool :=
  g.nodes.all (nodeOk w validTid) &&
  g.edges.all (fun e => decide (e.1 < g.nodes.length) && decide (e.2 < g.nodes.length) && e.1 != e.2) &&
  g.acyclic && (List.range g.nodes.length).all fun n => decide (g.inDegree n ≤ 65535)

/-! ## Races (R189) -/

/-- The nodes that a path of edges leads to. -/
def reachFrom (edges : List (Nat × Nat)) : Nat → List Nat → List Nat
  | 0, seen => seen
  | fuel + 1, seen => reachFrom edges fuel (seen ++ ((edges.filter fun e => seen.contains e.1 && !seen.contains e.2).map Prod.snd).eraseDups)

def Image.joined (g : Image) (a b : Nat) : Bool :=
  (reachFrom g.edges g.nodes.length [a]).contains b || (reachFrom g.edges g.nodes.length [b]).contains a

/-- Whether two nodes' operands race: one writes what the other declares. `range` gives a TID's range. -/
def opsRace (range : Nat → Nat × Nat) (a b : NodeEntry) : Bool :=
  a.ops.any fun x => b.ops.any fun y =>
    (decide (2 ^ 15 ≤ x) || decide (2 ^ 15 ≤ y)) &&
      (let (lo, hi) := range (x % 2048); let (lo', hi') := range (y % 2048); decide (lo < hi') && decide (lo' < hi) &&
        decide (lo < hi) && decide (lo' < hi'))

/-- The lowest-indexed racing pair. -/
def Image.race (g : Image) (range : Nat → Nat × Nat) : Option (Nat × Nat) :=
  let ns := g.nodes.zipIdx
  ns.findSome? fun (a, i) => ns.findSome? fun (b, j) =>
    if i < j && opsRace range a b && !g.joined i j then some (i, j) else none

/-! ## Shapes (R28, R29, R31, R32) -/

/-- The reserved quads of a partition: that many of its highest-numbered ones (R31). -/
def World.reserved (w : World) : List Nat :=
  let p := sortBy (fun a b => decide (a < b)) w.partition
  p.drop (p.length - w.reserve)

/-- Package indices that work of an entry level may use. -/
def World.usable (w : World) (level : Nat) : List Nat :=
  if level = 0 then w.partition else w.partition.filter fun i => !w.reserved.contains i

/-- Whether a rectangle with its top-left quad at a package index lies inside a set of quads. -/
def fits (free : List Nat) (width height i : Nat) : Bool :=
  decide (i % 32 + width ≤ 32) && decide (i / 32 + height ≤ 32) && (rectIndices (i % 32) (i / 32) width height).all free.contains

/-- What a team node asks of its region: the shape, and that its routes from a top-left quad find their lanes. -/
structure Shape where
  width : Nat
  height : Nat
  lanes : Nat → Bool

/-- The lowest-numbered region of a shape inside a set of quads (R29). -/
def firstRegion (free : List Nat) (s : Shape) : Option Nat :=
  (sortBy (fun a b => decide (a < b)) free).find? fun i => fits free s.width s.height i && s.lanes i

/-- Disjoint regions for shapes in order, or none (R32). -/
def placeAll (free : List Nat) : List Shape → Option (List Nat)
  | [] => some []
  | s :: rest =>
    match firstRegion free s with
    | none => none
    | some i =>
      let used := rectIndices (i % 32) (i / 32) s.width s.height
      (placeAll (free.filter fun q => !used.contains q) rest).map fun is => i :: is

/-- A node's shape where no other world holds a lane. -/
def NodeEntry.shape (y : NodeEntry) : Shape := { width := y.width, height := y.height, lanes := fun _ => true }

/-- Whether the nodes can be placed at all in the partition, with every plane FREE. -/
def Image.placeable (g : Image) (w : World) (level : Nat) (coreside : Bool) : Bool :=
  let usable := w.usable level
  let teams := g.nodes.filter fun y => y.body == 0
  let set := g.nodes.filter fun y => y.kind == 0
  g.nodes.all (fun y =>
    if y.body = 0 then (firstRegion usable y.shape).isSome
    else y.place == 0xFFFF || usable.contains y.place) &&
  (!coreside || (decide (set.length ≤ 64) && (placeAll usable (set.map NodeEntry.shape)).isSome &&
    decide (set.foldl (fun n y => n + y.width * y.height) 0 ≤ w.partition.length - w.reserve))) && decide (teams.length ≤ 4096)

end Sys2Proof.Machine
end

