-- ==== Sys2Proof/Machine/Registers.lean ====
section
/-! DEFINITION. The function register pages (R315, Table 23.1), with their counters (R329) and doorbells (R317). The host
reaches a page through BAR 0, and the root world reaches all of them at PA 0x0200_0000_0000. -/

namespace Sys2Proof.Machine

/-! ## Reads -/

/-- Clocks that cores have spent in their present ACTIVE plane of a world. -/
def Dev.activeClocks (d : Dev) (clock world : Nat) : Nat :=
  d.cores.foldl (fun n (_, c) => match c.active with
    | some i => if (c.plane i).world = world ∧ (c.plane i).state = .active then n + (clock - c.activeSince) else n
    | none => n) 0

def Dev.counter (d : Dev) (clock world i : Nat) : BitVec 48 :=
  SMap.get (d.world world).counters i + (if i = 0 then BitVec.ofNat 48 (d.activeClocks clock world) else 0)

/-- A byte of a function's register page (Table 23.1); reserved and write-only bytes read zero. -/
def Dev.registerByte (d : Dev) (clock world o : Nat) : Byte :=
  let w := d.world world
  let at_ := fun (base v : Nat) => BitVec.ofNat 8 (v / 256 ^ (o - base))
  if 256 ≤ world then 0
  else if 0x1000 ≤ o ∧ o < 0x1008 then at_ 0x1000 w.evBase.toNat
  else if 0x1008 ≤ o ∧ o < 0x100C then at_ 0x1008 w.evSize.toNat
  else if 0x100C ≤ o ∧ o < 0x1010 then at_ 0x100C w.evHead.toNat
  else if 0x1010 ≤ o ∧ o < 0x1014 then at_ 0x1010 w.evTail.toNat
  else if 0x1014 ≤ o ∧ o < 0x1018 then at_ 0x1014 w.evLost.toNat
  else if 0x2000 ≤ o ∧ o < 0x2080 then BitVec.ofNat 8 ((d.counter clock world ((o - 0x2000) / 8)).toNat / 256 ^ (o % 8))
  else 0

def Dev.registerBytes (d : Dev) (clock world o n : Nat) : Bytes := (List.range n).map fun i => d.registerByte clock world (o + i)

/-! ## Writes -/

/-- A power of two from 64 to 65,536. -/
def ringSizeOk (v : Nat) : Bool := (List.range 11).any fun i => v == 64 * 2 ^ i

/-- A write of a function register; other offsets are read-only or reserved. An event-ring size that Table 23.1 does not
allow is not taken (log 21). -/
def World.setRegister (w : World) (off : Nat) (v : Word) : World :=
  match off with
  | 0x1000 => { w with evBase := v }
  | 0x1008 => if ringSizeOk (field v 0 32) then { w with evSize := v.truncate 32 } else w
  | 0x100C => { w with evHead := v.truncate 32 }
  | _ => w

/-- The queues of a function, in ascending number. -/
def Dev.queuesOf (d : Dev) (world : Nat) : List Nat := Tab.keys (fun _ (q : WorkQueue) => q.world == some world) d.queues

/-- A doorbell: the producer index of a queue, which may lead its consumer by at most its size (R317). -/
def Dev.ring (d : Dev) (now : Now) (world off value : Nat) : Dev :=
  if (d.world world).tdisp = .error then d else
  match (d.queuesOf world)[off / 8]? with
  | none => d.foreignDrop now 0 world 0 0xFFFF
  | some n =>
    match Tab.get? d.queues n with
    | none => d
    | some q =>
      let v := BitVec.ofNat 32 value
      if q.error then d
      else if 2 ^ q.logSize < (v - q.consumer).toNat then
        { d with queues := Tab.put d.queues n { q with error := true } }.event now 8 world 0 (items [317, n])
      else { d with queues := Tab.put d.queues n { q with producer := v } }

/-- A write into a function's register page. -/
def Dev.writeRegister (d : Dev) (now : Now) (world off : Nat) (v : Word) : Dev :=
  if 256 ≤ world then d
  else if off < 0x1000 then d.ring now world off v.toNat
  else if (d.world world).tdisp = .error then d
  else d.setWorld world ((d.world world).setRegister off v)

end Sys2Proof.Machine
end

