-- ==== Sys2Proof/Machine/Ops.lean ====
section
/-! DEFINITION. The registers of a core (R75 to R83), predication (R87), the outcomes of one instruction, taking a trap
(R127 to R135) and returning from one (R133). -/

namespace Sys2Proof.Machine

/-! ## Scalar registers and the register window (R77, R78) -/

/-- Window depth: the call depth (R82). -/
def Core.depth (c : Core) : Nat := c.resident - 1 + c.spilled

/-- Physical place of a scalar register at a window depth: 16 globals, 9 blocks of ins and outs, 8 blocks of locals. -/
def gPlace (depth r : Nat) : Nat :=
  if r < 16 then r
  else if r < 32 then 16 + 16 * (depth % 9) + (r - 16)
  else if r < 48 then 160 + 16 * (depth % 8) + (r - 32)
  else 16 + 16 * ((depth + 1) % 9) + (r - 48)

def Core.gAt (c : Core) (r : Reg) : Nat := gPlace c.depth r.toNat

/-- g0 reads zero (R77). -/
def Core.readG (c : Core) (r : Reg) : Word := if r = 0 then 0 else SMap.get c.g (c.gAt r)

/-- A write discards a result still in flight for the register (R33, R147). -/
def killDst (dst : Dst) (ps : List Landing) : List Landing :=
  ps.map fun p => if p.dst = dst then { p with live := false } else p

/-- g0 discards writes (R77). -/
def Core.writeG (c : Core) (r : Reg) (x : Word) : Core :=
  if r = 0 then c else { c with g := SMap.set c.g (c.gAt r) x, pend := killDst (.g (c.gAt r)) c.pend }

/-- A register whose long-latency result has not landed (R33). -/
def Core.pendingG (c : Core) (r : Reg) : Bool := c.pend.any fun p => p.live && p.dst == .g (c.gAt r)
def Core.pendingV (c : Core) (r : Reg) : Bool := c.pend.any fun p => p.live && p.dst == .v r.toNat

/-! ## Vector and mask registers (R75, R77) -/

def Core.lane (c : Core) (r : Reg) (i : Nat) : Lane := SMap.get c.v (32 * r.toNat + i)

/-- The lanes that a mask selects, in ascending order. -/
def activeLanes (mask : Lane) : List Nat := (List.range 32).filter fun i => mask.getLsbD i

/-- Lane values put into a vector register file. -/
def setLanes (v : SMap 32) (r : Nat) (xs : List (Nat × Lane)) : SMap 32 :=
  xs.foldl (fun v x => SMap.set v (32 * r + x.1) x.2) v

/-- Writes the listed lanes of a register; writing none is no write. -/
def Core.writeLanes (c : Core) (r : Reg) (xs : List (Nat × Lane)) : Core :=
  if xs.isEmpty then c else { c with v := setLanes c.v r.toNat xs, pend := killDst (.v r.toNat) c.pend }

/-- Writes the lanes that `mask` selects. -/
def Core.writeV (c : Core) (r : Reg) (mask : Lane) (f : Nat → Lane) : Core :=
  c.writeLanes r ((activeLanes mask).map fun i => (i, f i))

/-- m0 reads all ones and discards writes (R77). -/
def Core.readM (c : Core) (r : Nat) : Lane := if r = 0 then 0xFFFFFFFF else SMap.get c.m r

/-- Writes the bits that `mask` selects. -/
def Core.writeM (c : Core) (r : Nat) (mask x : Lane) : Core :=
  if r = 0 then c else { c with m := SMap.set c.m r ((c.readM r &&& ~~~mask) ||| (x &&& mask)) }

/-! ## The logical time of a core's accesses (R177, R191) -/

/-- Accesses other than loads, and loads through the vault window, follow the core's bead receipts (R191, note 8). -/
def Core.orderTime (c : Core) : Nat := Nat.max c.ltime c.stime

/-- The time from which a load of `n` bytes goes: a load of a vault follows every bead receipt, and one of HBM those that an
acquire over its range has ordered (R185, R191). -/
def Core.loadTime (c : Core) (va pa n : Nat) : Nat :=
  if isVault pa then c.orderTime
  else c.floors.foldl (fun t f => if f.1 < va + n ∧ va < f.2.1 then Nat.max t f.2.2 else t) c.ltime

/-! ## Predication (R87) -/

def Core.mask (c : Core) (p : Pred) : Lane := c.readM p.m.toNat ^^^ (if p.pn then 0xFFFFFFFF else 0)

/-! ## Header fields of the ACTIVE plane (R98) -/

def Plane.word (p : Plane) (n : Nat) : Word := SMap.get p.store n
/-- `n` bytes of the header at an offset that they do not cross a word at. -/
def Plane.header (p : Plane) (off n : Nat) : Nat := field (p.word (off / 8)) (8 * (off % 8)) (8 * n)
def Plane.handler (p : Plane) : Nat := p.header 0x18 2
def Plane.spillWindows (p : Plane) : Nat := p.header 0x1A 2
def Plane.codeWords (p : Plane) : Nat := p.header 0x1C 2
def Plane.clampTraps (p : Plane) : Bool := bit (p.word 1) 0
def Plane.phaseTable (p : Plane) : Nat := p.header 0x0C 2
def Plane.entry (p : Plane) (n : Nat) : Nat := p.header (0x10 + 2 * n) 2
def Plane.faultTimeout (p : Plane) : Nat := p.header 0x20 4
def Plane.role (p : Plane) : Nat := p.header 0x06 2

/-- Whether a byte offset names a word of the code (R84). -/
def Plane.inCode (p : Plane) (pc : Word) : Bool :=
  decide (8 ≤ pc.toNat / 8) && decide (pc.toNat / 8 < p.codeWords) && decide (pc.toNat / 8 < 2048) && decide (pc.toNat % 8 = 0)

/-! ## Trap causes (Table 5.5) -/

namespace Cause
def illegal : Nat := 0x01
def priv : Nat := 0x02
def align : Nat := 0x03
def callDepth : Nat := 0x04
def retEmpty : Nat := 0x05
def trap : Nat := 0x06
def brk : Nat := 0x07
def engineFault : Nat := 0x08
def frontierLimit : Nat := 0x09
def badHandle : Nat := 0x0A
def scopeClamp : Nat := 0x0B
def access : Nat := 0x0C
def streamFault : Nat := 0x0D
end Cause

/-- The trap registers, with the core's stall, if any, given up (R127 step 1, R130). -/
def Core.setTrap (c : Core) (cause : Nat) (info pc : Word) : Core :=
  { c with trapPc := pc, trapCause := BitVec.ofNat 8 cause, trapInfo := info, wait := none, stage := .none }

/-- Trap entry (R127, R131, R132, R135). `pc` is the value TRAP_PC takes by Table 7.7, and `this` the instruction's offset. -/
def Dev.takeTrapAt (d : Dev) (now : Now) (k cause : Nat) (info pc this : Word) : Dev :=
  let c := d.core k
  if c.inHandler then
    (d.setCore k { c with halted := true, wait := none, stage := .none }).trapEvent now k cause info this
  else if cause = Cause.access ∨ c.cur.handler = 0xFFFF then
    (d.setCore k { c.setTrap cause info pc with halted := true }).trapEvent now k cause info pc
  else d.setCore k { c.setTrap cause info pc with inHandler := true, pc := BitVec.ofNat 64 (8 * c.cur.handler) }

/-- Trap entry where TRAP_PC names the instruction itself. -/
def Dev.takeTrap (d : Dev) (now : Now) (k cause : Nat) (info pc : Word) : Dev := d.takeTrapAt now k cause info pc pc

/-- Return from a trap (R133). -/
def Core.eret (c : Core) : Core := { c with pc := c.trapPc, inHandler := false }

/-! ## The outcomes of one instruction on a core -/

/-- What an instruction of a core does. `trap` has made no change; `trapNext` has completed (Table 7.8). -/
inductive Res where
  | done (d : Dev)
  | jump (d : Dev) (pc : Word)
  | trap (cause : Nat) (info : Word)
  | trapNext (d : Dev) (cause : Nat) (info : Word)
  | trapPart (d : Dev) (cause : Nat) (info : Word)  -- ACCESS after some elements took effect (R138)
  | stall (w : Option Wait)
  | wait (d : Dev) (s : Stage) (w : Option Wait)   -- has acted, and waits at its pc

/-- The same for an instruction that touches its core alone. -/
inductive CRes where
  | done (c : Core)
  | jump (c : Core) (pc : Word)
  | trap (cause : Nat) (info : Word)
  | stall (w : Option Wait)

def CRes.lift (d : Dev) (k : Nat) : CRes → Res
  | .done c => .done (d.setCore k c)
  | .jump c pc => .jump (d.setCore k c) pc
  | .trap cause info => .trap cause info
  | .stall w => .stall w

/-- A core has issued an instruction: the world's count rises (R329). -/
def Dev.issued (d : Dev) (k : Nat) : Dev := d.count (d.core k).world 1 1

/-- An instruction has issued: its stall and stage end, the pc moves on and the world's count rises (R329). -/
def Dev.retire (d : Dev) (k : Nat) (pc : Word) : Dev :=
  let c := d.core k
  (d.setCore k { c with pc := pc, wait := none, stage := .none }).count c.world 1 1

def Dev.finish (d : Dev) (now : Now) (k : Nat) : Res → Dev
  | .done d' => d'.retire k ((d.core k).pc + 8)
  | .jump d' pc => d'.retire k pc
  | .trap cause info => (d.issued k).takeTrap now k cause info (d.core k).pc
  | .trapPart d' cause info => (d'.issued k).takeTrap now k cause info (d.core k).pc
  | .trapNext d' cause info =>
    (d'.retire k ((d.core k).pc + 8)).takeTrapAt now k cause info ((d.core k).pc + 8) (d.core k).pc
  | .stall w => d.setCore k { d.core k with wait := some (w.getD Wait.stalled) }
  | .wait d' s w => d'.setCore k { d'.core k with stage := s, wait := some (w.getD Wait.stalled) }

/-- An engine's program ends in fault (R90, R143). The fault code shows in the status word; JOIN of the forking core
observes it (R34). -/
def Dev.progFault (d : Dev) (q e code : Nat) : Dev :=
  let g := d.engine q e
  match g.prog with
  | none => d
  | some p =>
    (d.setEngine q e { g with prog := some { p with ended := some code, joined := true, wait := none },
                              fault := some (code, g.seq, some p.core) }).latchQuad q

/-- The sequencer of an engine has issued an instruction, counted in the world of the core that forked it (R329). -/
def Dev.issuedBy (d : Dev) (q e : Nat) : Dev :=
  match (d.engine q e).prog with
  | some p => d.issued p.core
  | none => d

/-- An instruction that only a core may issue: on an engine sequencer it ends the program (R90). -/
def onCore (f : Ctx → Nat → Dev → Res) : State → Host.Outcome State Fault Refusal :=
  run fun x d =>
    match x.actor with
    | .core k => d.finish x.now k (f x k d)
    | .engine q e => (d.issuedBy q e).progFault q e 0x01

/-- An instruction that touches its core alone. -/
def onRegs (f : Core → CRes) : State → Host.Outcome State Fault Refusal :=
  onCore fun _ k d => (f (d.core k)).lift d k

/-- A scalar, predicated instruction that reads the registers `gs`: it takes effect only if some predicate bit is set,
and stalls on a source whose result has not landed (R33, R87, R104). -/
def scalar (p : Pred) (gs : List Reg) (f : Core → CRes) (c : Core) : CRes :=
  if c.mask p = 0 then .done c else if gs.any c.pendingG then .stall none else f c

/-- As `scalar`, for an instruction that acts on the device. -/
def scalarDev (p : Pred) (gs : List Reg) (f : Core → Res) (d : Dev) (k : Nat) : Res :=
  let c := d.core k
  if c.mask p = 0 then .done d else if gs.any c.pendingG then .stall none else f c

/-- An unpredicated instruction that reads the registers `gs`. -/
def plain (gs : List Reg) (f : Core → CRes) (c : Core) : CRes := if gs.any c.pendingG then .stall none else f c

/-- The word of an instruction, as an ILLEGAL trap reports it (Table 7.7). -/
def wordOfInstr (i : Instr) : Word := (encode i).getD 0

/-- An unsatisfied wait of a kind of Table 1.6. -/
def waitFor (kind handle needed held : Nat) : Option Wait :=
  some { kind := kind, handle := handle, needed := needed, held := held, pendingBytes := 0 }

/-- An access of the core waits for a page (R137). Its later accesses take their places behind it; an instruction that
waits until every earlier access has been performed, or whose result is due at once, waits for it (R33, R185, log 13). -/
def Core.blocked (c : Core) : Bool := !c.held.isEmpty

/-- As `onCore`, for an instruction that waits for the core's earlier accesses. -/
def onCoreSync (f : Ctx → Nat → Dev → Res) : State → Host.Outcome State Fault Refusal :=
  onCore fun x k d => if (d.core k).blocked then .stall none else f x k d

end Sys2Proof.Machine
end

