-- ==== Sys2Proof/Machine/Scalar.lean ====
section
/-! DEFINITION. Scalar arithmetic, majors 0x08 and 0x09 (R104, R105, R114 to R116). -/

namespace Sys2Proof.Machine

/-! ## Operations -/

/-- High halves of the 128-bit products (Table 7.3). -/
def mulHigh (a b : Word) : Word := BitVec.ofInt 64 (a.toInt * b.toInt / 2 ^ 64)
def mulHighU (a b : Word) : Word := BitVec.ofNat 64 (a.toNat * b.toNat / 2 ^ 64)

/-- Division by the cases of R115: it truncates toward zero and never traps. -/
def divS (a b : Word) : Word := if b = 0 then BitVec.allOnes 64 else BitVec.ofInt 64 (a.toInt.tdiv b.toInt)
def remS (a b : Word) : Word := if b = 0 then a else BitVec.ofInt 64 (a.toInt.tmod b.toInt)
def divU (a b : Word) : Word := if b = 0 then BitVec.allOnes 64 else BitVec.ofNat 64 (a.toNat / b.toNat)
def remU (a b : Word) : Word := if b = 0 then a else BitVec.ofNat 64 (a.toNat % b.toNat)

/-- A shift amount is b[5:0] (R114). -/
def amount (b : Word) : Nat := field b 0 6

def shlW (a : Word) (n : Nat) : Word := a <<< n
def shrW (a : Word) (n : Nat) : Word := a >>> n
def sarW (a : Word) (n : Nat) : Word := a.sshiftRight n

def clzW (a : Word) : Word := BitVec.ofNat 64 (clz 64 a.toNat)
def popcW (a : Word) : Word := BitVec.ofNat 64 (popNat 64 a.toNat)

/-- a[n:0], sign-extended from bit n or zero-extended (Table 7.3). -/
def sextW (a : Word) (n : Nat) : Word := BitVec.ofInt 64 (toSigned (n + 1) a.toNat)
def zextW (a : Word) (n : Nat) : Word := BitVec.ofNat 64 (a.toNat % 2 ^ (n + 1))

/-! ## The shapes of major 0x08 and 0x09 -/

/-- g_d := f g_a g_b. -/
def scalar2 (p : Pred) (rd ra rb : Reg) (f : Word → Word → Word) : Core → CRes :=
  scalar p [ra, rb] fun c => .done (c.writeG rd (f (c.readG ra) (c.readG rb)))

/-- g_d := f g_a. -/
def scalar1 (p : Pred) (rd ra : Reg) (f : Word → Word) : Core → CRes :=
  scalar p [ra] fun c => .done (c.writeG rd (f (c.readG ra)))

/-- A long-latency result enters the core's list of results in flight (R33). It is computed at issue and lands later, after
`timer` clocks where its latency is fixed. It discards an earlier one for the same register. -/
def Core.launch (c : Core) (dst : Dst) (vals : List (Nat × Word)) (flags : BitVec 5) (timer : Option Nat) : Core :=
  let new : Landing := { tag := c.nextTag, dst := dst, vals := vals, flags := flags, live := true, ready := true, reply := false, timer := timer }
  { c with pend := killDst dst c.pend ++ [new], nextTag := c.nextTag + 1 }

/-- The place of a long-latency scalar result; a result for g0 is discarded (R77). -/
def Core.dstG (c : Core) (r : Reg) : Dst := if r = 0 then .none else .g (c.gAt r)

/-- A division lands 34 clocks after issue (R115). -/
def Core.launchG (c : Core) (r : Reg) (x : Word) : Core := c.launch (c.dstG r) [(0, x)] 0 (some 34)

/-- As `scalar2`, with a long-latency result (R115). -/
def scalarLong (p : Pred) (rd ra rb : Reg) (f : Word → Word → Word) : Core → CRes :=
  scalar p [ra, rb] fun c => .done (c.launchG rd (f (c.readG ra) (c.readG rb)))

/-- On an engine sequencer (R143): the engine's g0 to g15, no predicate, and g0 reads zero. -/
def Prog.readG (p : Prog) (r : Reg) : Word := if r = 0 then 0 else SMap.get p.g r.toNat
def Prog.writeG (p : Prog) (r : Reg) (x : Word) : Prog := if r = 0 then p else { p with g := SMap.set p.g r.toNat x }

/-- An instruction of R143 on an engine sequencer. `f` answers none where the program ends in fault. -/
def Dev.onProg (d : Dev) (q e : Nat) (regs : List Reg) (pred : Pred) (f : Prog → Option Prog) : Dev :=
  let d := d.issuedBy q e
  if regs.any (fun r => decide (15 < r.toNat)) || pred.m != 0 || pred.pn then d.progFault q e 0x01
  else match (d.engine q e).prog with
    | none => d
    | some p => match f p with
      | none => d.progFault q e 0x01
      | some p => d.setEngine q e { d.engine q e with prog := some p }

/-- An instruction that acts on a core's registers, and on an engine's as R143 says. -/
def onBoth (regs : List Reg) (pred : Pred) (f : Core → CRes) (g : Plane → Prog → Option Prog) :
    State → Host.Outcome State Fault Refusal :=
  run fun x d =>
    match x.actor with
    | .core k => d.finish x.now k ((f (d.core k)).lift d k)
    | .engine q e => d.onProg q e regs pred fun p => g (d.core p.core).cur p

def Prog.next (p : Prog) : Prog := { p with pc := p.pc + 8 }

/-! ## Major 0x08 (Table 7.3) -/

/-- ADD, which engine sequencers also run (R143). -/
def execAdd (p : Pred) (rd ra rb : Reg) : State → Host.Outcome State Fault Refusal :=
  onBoth [rd, ra, rb] p (scalar2 p rd ra rb (· + ·)) fun _ g => some (g.writeG rd (g.readG ra + g.readG rb)).next

def execSub (p : Pred) (rd ra rb : Reg) : State → Host.Outcome State Fault Refusal :=
  onRegs (scalar2 p rd ra rb (· - ·))

def execMul (p : Pred) (rd ra rb : Reg) : State → Host.Outcome State Fault Refusal :=
  onRegs (scalar2 p rd ra rb (· * ·))

def execMulh (p : Pred) (rd ra rb : Reg) : State → Host.Outcome State Fault Refusal :=
  onRegs (scalar2 p rd ra rb mulHigh)

def execMulhu (p : Pred) (rd ra rb : Reg) : State → Host.Outcome State Fault Refusal :=
  onRegs (scalar2 p rd ra rb mulHighU)

def execDiv (p : Pred) (rd ra rb : Reg) : State → Host.Outcome State Fault Refusal :=
  onRegs (scalarLong p rd ra rb divS)

def execDivu (p : Pred) (rd ra rb : Reg) : State → Host.Outcome State Fault Refusal :=
  onRegs (scalarLong p rd ra rb divU)

def execRem (p : Pred) (rd ra rb : Reg) : State → Host.Outcome State Fault Refusal :=
  onRegs (scalarLong p rd ra rb remS)

def execRemu (p : Pred) (rd ra rb : Reg) : State → Host.Outcome State Fault Refusal :=
  onRegs (scalarLong p rd ra rb remU)

def execAnd (p : Pred) (rd ra rb : Reg) : State → Host.Outcome State Fault Refusal :=
  onRegs (scalar2 p rd ra rb (· &&& ·))

def execOr (p : Pred) (rd ra rb : Reg) : State → Host.Outcome State Fault Refusal :=
  onRegs (scalar2 p rd ra rb (· ||| ·))

def execXor (p : Pred) (rd ra rb : Reg) : State → Host.Outcome State Fault Refusal :=
  onRegs (scalar2 p rd ra rb (· ^^^ ·))

def execAndn (p : Pred) (rd ra rb : Reg) : State → Host.Outcome State Fault Refusal :=
  onRegs (scalar2 p rd ra rb (fun a b => a &&& ~~~b))

def execShl (p : Pred) (rd ra rb : Reg) : State → Host.Outcome State Fault Refusal :=
  onRegs (scalar2 p rd ra rb (fun a b => shlW a (amount b)))

def execShr (p : Pred) (rd ra rb : Reg) : State → Host.Outcome State Fault Refusal :=
  onRegs (scalar2 p rd ra rb (fun a b => shrW a (amount b)))

def execSar (p : Pred) (rd ra rb : Reg) : State → Host.Outcome State Fault Refusal :=
  onRegs (scalar2 p rd ra rb (fun a b => sarW a (amount b)))

def execRol (p : Pred) (rd ra rb : Reg) : State → Host.Outcome State Fault Refusal :=
  onRegs (scalar2 p rd ra rb (fun a b => a.rotateLeft (amount b)))

def execMin (p : Pred) (rd ra rb : Reg) : State → Host.Outcome State Fault Refusal :=
  onRegs (scalar2 p rd ra rb (fun a b => if a.slt b then a else b))

def execMax (p : Pred) (rd ra rb : Reg) : State → Host.Outcome State Fault Refusal :=
  onRegs (scalar2 p rd ra rb (fun a b => if a.slt b then b else a))

def execMinu (p : Pred) (rd ra rb : Reg) : State → Host.Outcome State Fault Refusal :=
  onRegs (scalar2 p rd ra rb (fun a b => if a.ult b then a else b))

def execMaxu (p : Pred) (rd ra rb : Reg) : State → Host.Outcome State Fault Refusal :=
  onRegs (scalar2 p rd ra rb (fun a b => if a.ult b then b else a))

def execClz (p : Pred) (rd ra : Reg) : State → Host.Outcome State Fault Refusal := onRegs (scalar1 p rd ra clzW)

def execPopc (p : Pred) (rd ra : Reg) : State → Host.Outcome State Fault Refusal := onRegs (scalar1 p rd ra popcW)

def execSext (p : Pred) (rd ra : Reg) (n : BitVec 6) : State → Host.Outcome State Fault Refusal :=
  onRegs (scalar1 p rd ra fun a => sextW a n.toNat)

def execZext (p : Pred) (rd ra : Reg) (n : BitVec 6) : State → Host.Outcome State Fault Refusal :=
  onRegs (scalar1 p rd ra fun a => zextW a n.toNat)

/-- SEL: a if c is not 0, else b. -/
def execSel (p : Pred) (rd ra rb rc : Reg) : State → Host.Outcome State Fault Refusal :=
  onRegs (scalar p [ra, rb, rc] fun c => .done (c.writeG rd (if c.readG rc = 0 then c.readG rb else c.readG ra)))

def execCmp (p : Pred) (cc : BitVec 4) (rd ra rb : Reg) : State → Host.Outcome State Fault Refusal :=
  onRegs (scalar2 p rd ra rb fun a b => ofBool (cond cc a b))

/-! ## Major 0x09 (Table 7.4) -/

/-- ADDI, which engine sequencers also run (R143). -/
def execAddi (p : Pred) (rd ra : Reg) (imm : BitVec 32) : State → Host.Outcome State Fault Refusal :=
  onBoth [rd, ra] p (scalar1 p rd ra fun a => a + sext64 imm) fun _ g => some (g.writeG rd (g.readG ra + sext64 imm)).next

def execAndi (p : Pred) (rd ra : Reg) (imm : BitVec 32) : State → Host.Outcome State Fault Refusal :=
  onRegs (scalar1 p rd ra fun a => a &&& sext64 imm)

def execOri (p : Pred) (rd ra : Reg) (imm : BitVec 32) : State → Host.Outcome State Fault Refusal :=
  onRegs (scalar1 p rd ra fun a => a ||| zext64 imm)

def execXori (p : Pred) (rd ra : Reg) (imm : BitVec 32) : State → Host.Outcome State Fault Refusal :=
  onRegs (scalar1 p rd ra fun a => a ^^^ zext64 imm)

/-- A shift immediate must lie in 0 to 63; any other value traps ILLEGAL (R116). -/
def shiftImm (p : Pred) (rd ra : Reg) (imm : BitVec 32) (i : Instr) (f : Word → Nat → Word) : Core → CRes :=
  scalar p [ra] fun c =>
    if imm.toNat < 64 then .done (c.writeG rd (f (c.readG ra) imm.toNat)) else .trap Cause.illegal (wordOfInstr i)

def execShli (p : Pred) (rd ra : Reg) (imm : BitVec 32) : State → Host.Outcome State Fault Refusal :=
  onRegs (shiftImm p rd ra imm (.shli p rd ra imm) shlW)

def execShri (p : Pred) (rd ra : Reg) (imm : BitVec 32) : State → Host.Outcome State Fault Refusal :=
  onRegs (shiftImm p rd ra imm (.shri p rd ra imm) shrW)

def execSari (p : Pred) (rd ra : Reg) (imm : BitVec 32) : State → Host.Outcome State Fault Refusal :=
  onRegs (shiftImm p rd ra imm (.sari p rd ra imm) sarW)

def execCmpi (p : Pred) (cc : BitVec 4) (rd ra : Reg) (imm : BitVec 32) : State → Host.Outcome State Fault Refusal :=
  onRegs (scalar1 p rd ra fun a => ofBool (cond cc a (sext64 imm)))

def execMovi (p : Pred) (rd : Reg) (imm : BitVec 32) : State → Host.Outcome State Fault Refusal :=
  onRegs (scalar p [] fun c => .done (c.writeG rd (sext64 imm)))

def execMovhi (p : Pred) (rd ra : Reg) (imm : BitVec 32) : State → Host.Outcome State Fault Refusal :=
  onRegs (scalar1 p rd ra fun a => imm ++ a.truncate 32)

end Sys2Proof.Machine
end

