-- ==== Sys2Proof/Machine/Engine.lean ====
section
/-! DEFINITION. The status words of the engines and their observation (R120, R180, R217), and the accesses that a core
makes to its own vault. -/

namespace Sys2Proof.Machine

/-! ## Status words (R120, R217) -/

def Engine.busy (g : Engine) : Bool := !g.queue.isEmpty || !g.running.isEmpty

def Engine.stateCode (g : Engine) : Nat :=
  if g.fault.isSome then 3 else if g.busy then 1 else if g.used then 2 else 0

/-- Bits 1:0 state, 15:8 fault code, 31:16 the operation's number. -/
def Engine.status (g : Engine) : Word :=
  match g.fault with
  | some (code, seq, _) => BitVec.ofNat 64 (3 + code * 2 ^ 8 + seq * 2 ^ 16)
  | none => BitVec.ofNat 64 (g.stateCode + g.seq * 2 ^ 16)

/-- The core that issued the faulted operation observes the fault: the word returns to busy or done. -/
def Engine.observe (g : Engine) (k : Nat) : Engine :=
  match g.fault with
  | some (_, _, some k') => if k' = k then { g with fault := none } else g
  | _ => g

def Engine.faultedBy (g : Engine) (k : Nat) : Bool :=
  match g.fault with
  | some (_, _, some k') => k' == k
  | _ => false

/-- A core joins at a logical time: its later accesses come after it, and its quad's copies of the lines that the joined
operations wrote are dropped (R178, R180). -/
def Dev.joinAt (d : Dev) (k t : Nat) (lines : List Nat) : Dev :=
  let c := d.core k
  (d.setCore k { c with ltime := Nat.max c.ltime t }).dropLines (quadOfCore k) lines

/-- Seeing done joins every operation of the engine up to the number read (R217). -/
def Dev.joinEngine (d : Dev) (k e : Nat) : Dev :=
  let q := quadOfCore k
  let g := d.engine q e
  let d := (d.joinAt k g.ltime g.lines).setEngine q e { g with lines := [] }
  let c := d.core k
  d.setCore k { c with ops := c.ops.filter fun o => !(o.eng == e && o.done) }

/-- A fault of this core's operation has been observed: the operation counts as joined, and the status word, where it showed
this fault, changes, which sets the latches (R108, R217). -/
def Dev.observeFault (d : Dev) (k e : Nat) : Dev :=
  let q := quadOfCore k
  let g := d.engine q e
  let d := if g.faultedBy k then (d.setEngine q e (g.observe k)).latchQuad q else d
  let c := d.core k
  d.setCore k { c with ops := c.ops.filter fun o => !(o.eng == e && o.done && o.fault.isSome) }

/-! ## A core's accesses, one word at a time, at a physical address that is known to exist -/

def Dev.storeWords (d : Dev) (k : Nat) (pa : Nat) : List Word → Dev
  | [] => d
  | x :: xs =>
    let c := d.core k
    let (d, t) := d.storePa c.orderTime pa (bytesOf 8 x)
    Dev.storeWords ((d.setCore k { d.core k with ltime := t }).fireStores c.world pa 8) k (pa + 8) xs

def Dev.loadWords (d : Dev) (seq k pa : Nat) : Nat → Dev × List Word
  | 0 => (d, [])
  | n + 1 =>
    let (d, t, bs) := d.loadPa seq none (d.core k).orderTime pa 8
    let (d, ws) := Dev.loadWords (d.setCore k { d.core k with ltime := t }) seq k (pa + 8) n
    (d, wordOf bs :: ws)

end Sys2Proof.Machine
end

