-- ==== Sys2Proof/Machine/Operands.lean ====
section
/-! DEFINITION. Operand forms of the memory instructions (R136, R139, R141, R142): effective addresses and elements. -/

namespace Sys2Proof.Machine

/-- Effective address of a scalar access (R136). -/
def Core.ea (c : Core) (base idx : Reg) (disp : BitVec 24) : Word := c.readG base + c.readG idx + sext64 disp

/-- Address of an ACAS, whose idx names the compare value (R141). -/
def Core.eaBase (c : Core) (base : Reg) (disp : BitVec 24) : Word := c.readG base + sext64 disp

/-- Address of lane `i` of a gather or scatter (Table 7.9, R142). -/
def Core.eaLane (c : Core) (base vidx : Reg) (disp : BitVec 24) (i : Nat) : Word :=
  c.readG base + sext64 (c.lane vidx i) + sext64 disp

/-- Address of lane `i` of a contiguous lane access (Table 7.9). -/
def Core.eaRow (c : Core) (base idx : Reg) (disp : BitVec 24) (i : Nat) : Word :=
  c.ea base idx disp + BitVec.ofNat 64 (4 * i)

/-- Bytes of a size code (R136): 1, 2, 4, 8. -/
def sizeBytes (sz : BitVec 3) : Nat := 2 ^ sz.toNat

/-- Address form: bits 63:56 clear (R136). -/
def badForm (a : Word) : Bool := decide (2 ^ 56 ≤ a.toNat)

def misaligned (n : Nat) (a : Word) : Bool := a.toNat % n != 0

/-- The first check of R136 that some element fails: address form over every element, then alignment. Of several elements
that fail it, the first names the address, which in a lane access is that of the lowest active lane (log 35). -/
def elemCheck (n : Nat) (es : List Elem) : Option (Nat × Word) :=
  match es.find? fun e => badForm e.va with
  | some e => some (Cause.access, e.va)
  | none => (es.find? fun e => misaligned n e.va).map fun e => (Cause.align, e.va)

/-- The new value of a read-modify-write on `n`-byte values (Tables 7.10, R142). -/
def atomicNew (op : AtomicOp) (n : Nat) (m x cmp : Word) : Word :=
  let w := 8 * n
  let m' := toSigned w m.toNat
  let x' := toSigned w x.toNat
  match op with
  | .add => m + x
  | .min => if m' ≤ x' then m else x
  | .max => if m' < x' then x else m
  | .minu => if m.toNat % 2 ^ w ≤ x.toNat % 2 ^ w then m else x
  | .maxu => if m.toNat % 2 ^ w < x.toNat % 2 ^ w then x else m
  | .and => m &&& x
  | .or => m ||| x
  | .xor => m ^^^ x
  | .xchg => x
  | .cas => if m.toNat % 2 ^ w = cmp.toNat % 2 ^ w then x else m

end Sys2Proof.Machine
end

