-- ==== Sys2Proof/Machine/MemoryAccess.lean ====
section
/-! DEFINITION. Loads, stores and atomics, majors 0x20 to 0x23 (R136 to R142). -/

namespace Sys2Proof.Machine

/-! ## Performing accesses -/

/-- A memory access of a core, after its checks: it completes with the loaded values, waits for a page-fault resolution,
or is denied after the elements below the denied one have taken effect (R137, R138). -/
inductive AccessRes where
  | done (d : Dev) (vals : List (Nat × Word))
  | fault (va : Word)
  | deny (d : Dev) (va : Word)

/-- The window of a port page counts one malformed write, once its port is open (R278, R286). -/
def Dev.malformed (d : Dev) (now : Now) (win : Nat) : Dev :=
  match Tab.get? d.windows win with
  | none => d
  | some w => if now.clock < w.openAt then d else
    { d with windows := Tab.put d.windows win { w with malformed := w.malformed + 1 } }

def Dev.reqOf (d : Dev) (k : Nat) (kind : MemKind) : Req :=
  let c := d.core k
  { world := c.world, gen := c.cur.gen, die := k / 1024, quad := some (quadOfCore k), write := kind != .load, slot := none }

/-- What an element stores where it finds the value `m`, if it stores. -/
def Access.new (a : Access) (e : Elem) (m : Word) : Option Word :=
  match a.kind with
  | .load => none
  | .store => some e.data
  | .atomic op => some (atomicNew op a.bytes m e.data e.cmp)

/-- One element at a translated address. -/
def Dev.element (d : Dev) (x : Ctx) (k : Nat) (a : Access) (e : Elem) : Xlate → Dev × Word
  | .mem pa =>
    let c := d.core k
    let (d, t, old) := match a.kind with
      | .store => (d, c.orderTime, [])
      | .load => (d.traffic x.seq c.world pa a.bytes false).loadPa x.seq (some (quadOfCore k)) (c.loadTime e.va.toNat pa a.bytes)
          pa a.bytes
      | .atomic _ => (d.traffic x.seq c.world pa a.bytes false).loadPa x.seq none c.orderTime pa a.bytes
    let m := wordOf old
    let (d, t) := match a.new e m with
      | none => (d, t)
      | some v =>
        let (d, t) := (d.traffic x.seq c.world pa a.bytes true).storePa t pa (bytesOf a.bytes v)
        (d.fireStores c.world pa a.bytes, t)
    (d.setCore k { d.core k with ltime := t }, m)
  | .port w => (if a.kind = .load then d else d.malformed x.now w, 0)
  | .regs w off =>
    let m := wordOf (d.registerBytes x.now.clock w off a.bytes)
    (match a.new e m with | none => d | some v => d.writeRegister x.now w off v, m)
  | _ => (d, 0)

/-- The elements in order, as far as they translate. -/
def Dev.elements (d : Dev) (x : Ctx) (k : Nat) (a : Access) : List Elem → List (Nat × Word) → AccessRes
  | [], vals => .done d vals.reverse
  | e :: es, vals =>
    let req := d.reqOf k a.kind
    match d.translate x.seq req e.va.toNat with
    | .deny _ => .deny d e.va
    | .drop die router => .deny (d.refused x.now req (.drop die router)) e.va
    | .miss _ => .fault e.va
    | t => let (d, m) := (d.walked x.seq req.die req.world e.va.toNat).element x k a e t
           Dev.elements d x k a es ((e.lane, m) :: vals)

/-- An access whose element misses waits whole, before any element has taken effect. -/
def Dev.access (d : Dev) (x : Ctx) (k : Nat) (a : Access) : AccessRes :=
  let req := d.reqOf k a.kind
  let stops := a.elems.filterMap fun e => match d.translate x.seq req e.va.toNat with
    | .miss _ => some (true, e.va)
    | .deny _ => some (false, e.va)
    | .drop _ _ => some (false, e.va)
    | _ => none
  match stops.head? with
  | some (true, va) => .fault va
  | _ => d.elements x k a a.elems []

/-- The values that a completed load or atomic lands with. -/
def Access.result (a : Access) (vals : List (Nat × Word)) : List (Nat × Word) :=
  if a.spread = 0 then vals else (activeLanes a.spread).map fun i => (i, (vals.headD (0, 0)).2)

def Dev.recordFault (d : Dev) (now : Now) (party : Party) (world : Nat) (quad : Option Nat) (va : Word) (write : Bool) : Dev :=
  let f : PageFault := { party := party, world := world, va := va, write := write, invalid := false }
  ({ d with faults := d.faults ++ [f] } : Dev).faultEvent now world quad va write

/-- The result of an access in flight; it is not ready while the access is held. -/
def Core.launchReply (c : Core) (a : Access) (vals : List (Nat × Word)) (ready : Bool) : Core :=
  let new : Landing := { tag := c.nextTag, dst := a.dst, vals := vals, flags := 0, live := true, ready := ready, reply := true, timer := none }
  { c with pend := killDst a.dst c.pend ++ [new], nextTag := c.nextTag + 1 }

/-- A core's access at issue: a load or atomic lands later (R33). One that finds no page is held, and only its destination
waits on it (R137); the core's later accesses are held in order behind it, since the order of R177 agrees with the core's. -/
def Dev.issueAccess (d : Dev) (x : Ctx) (k : Nat) (a : Access) : Res :=
  match elemCheck a.bytes a.elems with
  | some (cause, va) => .trap cause va
  | none =>
    let a : Access := { a with pc := (d.core k).pc, tag := (d.core k).nextTag }
    if (d.core k).blocked then
      .done (d.setCore k { (d.core k).launchReply a [] false with held := (d.core k).held ++ [.access a] })
    else match d.access x k a with
    | .done d vals =>
      .done (if a.kind = .store then d else d.setCore k ((d.core k).launchReply a (a.result vals) true))
    | .deny d va => .trapPart d Cause.access va
    | .fault va =>
      let c : Core := { (d.core k).launchReply a [] false with held := [.access a] }
      .done ((d.setCore k c).recordFault x.now (.core k) c.world (some (quadOfCore k)) va (a.kind != .load))

/-- A memory instruction: predicate, sources, and the access that `f` forms from the active lanes. -/
def memory (p : Pred) (gs vs : List Reg) (f : Core → Lane → Access) : State → Host.Outcome State Fault Refusal :=
  onCore fun x k d => scalarDev p gs (fun c =>
    if vs.any c.pendingV then .stall none else d.issueAccess x k (f c (c.mask p))) d k

def oneElem (va data cmp : Word) : List Elem := [{ lane := 0, va := va, data := data, cmp := cmp }]

def mkAccess (kind : MemKind) (bytes : Nat) (elems : List Elem) (dst : Dst) : Access :=
  { pc := 0, kind := kind, bytes := bytes, elems := elems, dst := dst, spread := 0, tag := 0 }

/-- One 4-byte element for each active lane. -/
def laneElems (mask : Lane) (va : Nat → Word) (data : Nat → Lane) : List Elem :=
  (activeLanes mask).map fun i => { lane := i, va := va i, data := zext64 (data i), cmp := 0 }

/-! ## Loads and stores (Table 7.9) -/

def execLd (p : Pred) (sz : BitVec 3) (rd base idx : Reg) (disp : BitVec 24) : State → Host.Outcome State Fault Refusal :=
  memory p [base, idx] [] fun c _ => mkAccess .load (sizeBytes sz) (oneElem (c.ea base idx disp) 0 0) (c.dstG rd)

def execVld (p : Pred) (rd base idx : Reg) (disp : BitVec 24) : State → Host.Outcome State Fault Refusal :=
  memory p [base, idx] [] fun c m => mkAccess .load 4 (laneElems m (c.eaRow base idx disp) fun _ => 0) (.v rd.toNat)

def execVldg (p : Pred) (rd base idx : Reg) (disp : BitVec 24) : State → Host.Outcome State Fault Refusal :=
  memory p [base] [idx] fun c m => mkAccess .load 4 (laneElems m (c.eaLane base idx disp) fun _ => 0) (.v rd.toNat)

/-- VLDB: one access, written to every active lane. -/
def execVldb (p : Pred) (rd base idx : Reg) (disp : BitVec 24) : State → Host.Outcome State Fault Refusal :=
  memory p [base, idx] [] fun c m =>
    { mkAccess .load 4 (oneElem (c.ea base idx disp) 0 0) (.v rd.toNat) with spread := m }

/-- PREF (R140): a hint that never changes visible state. -/
def execPref (p : Pred) (base idx : Reg) (_disp : BitVec 24) : State → Host.Outcome State Fault Refusal :=
  onRegs (scalar p [base, idx] fun c => .done c)

def execSt (p : Pred) (sz : BitVec 3) (rs base idx : Reg) (disp : BitVec 24) : State → Host.Outcome State Fault Refusal :=
  memory p [rs, base, idx] [] fun c _ =>
    mkAccess .store (sizeBytes sz) (oneElem (c.ea base idx disp) (c.readG rs) 0) .none

def execVst (p : Pred) (rs base idx : Reg) (disp : BitVec 24) : State → Host.Outcome State Fault Refusal :=
  memory p [base, idx] [rs] fun c m => mkAccess .store 4 (laneElems m (c.eaRow base idx disp) (c.lane rs)) .none

def execVsts (p : Pred) (rs base idx : Reg) (disp : BitVec 24) : State → Host.Outcome State Fault Refusal :=
  memory p [base] [rs, idx] fun c m => mkAccess .store 4 (laneElems m (c.eaLane base idx disp) (c.lane rs)) .none

/-! ## Atomics (R141, R142) -/

/-- A scalar atomic: the operand is g_d, taken at issue, and the old value returns to g_d. -/
def atomic (op : AtomicOp) (p : Pred) (sz : BitVec 3) (rd base idx : Reg) (disp : BitVec 24) : State → Host.Outcome State Fault Refusal :=
  memory p [rd, base, idx] [] fun c _ =>
    mkAccess (.atomic op) (sizeBytes sz) (oneElem (c.ea base idx disp) (c.readG rd) 0) (c.dstG rd)

def execAadd (p : Pred) (sz : BitVec 3) (rd base idx : Reg) (disp : BitVec 24) : State → Host.Outcome State Fault Refusal :=
  atomic .add p sz rd base idx disp

def execAand (p : Pred) (sz : BitVec 3) (rd base idx : Reg) (disp : BitVec 24) : State → Host.Outcome State Fault Refusal :=
  atomic .and p sz rd base idx disp

def execAor (p : Pred) (sz : BitVec 3) (rd base idx : Reg) (disp : BitVec 24) : State → Host.Outcome State Fault Refusal :=
  atomic .or p sz rd base idx disp

def execAxor (p : Pred) (sz : BitVec 3) (rd base idx : Reg) (disp : BitVec 24) : State → Host.Outcome State Fault Refusal :=
  atomic .xor p sz rd base idx disp

def execAxchg (p : Pred) (sz : BitVec 3) (rd base idx : Reg) (disp : BitVec 24) : State → Host.Outcome State Fault Refusal :=
  atomic .xchg p sz rd base idx disp

/-- md bit 0 selects unsigned comparison (R141). -/
def execAmin (p : Pred) (sz : BitVec 3) (md : BitVec 4) (rd base idx : Reg) (disp : BitVec 24) : State → Host.Outcome State Fault Refusal :=
  atomic (if bit md 0 then .minu else .min) p sz rd base idx disp

/-- md bit 0 selects unsigned comparison (R141). -/
def execAmax (p : Pred) (sz : BitVec 3) (md : BitVec 4) (rd base idx : Reg) (disp : BitVec 24) : State → Host.Outcome State Fault Refusal :=
  atomic (if bit md 0 then .maxu else .max) p sz rd base idx disp

/-- ACAS: idx names the compare value, and the address is g_base + disp. -/
def execAcas (p : Pred) (sz : BitVec 3) (rd base idx : Reg) (disp : BitVec 24) : State → Host.Outcome State Fault Refusal :=
  memory p [rd, base, idx] [] fun c _ =>
    mkAccess (.atomic .cas) (sizeBytes sz) (oneElem (c.eaBase base disp) (c.readG rd) (c.readG idx)) (c.dstG rd)

/-- Lane atomics: each active lane in ascending order, on v_d as operand and destination. -/
def laneAtomic (op : AtomicOp) (p : Pred) (rd base idx : Reg) (disp : BitVec 24) : State → Host.Outcome State Fault Refusal :=
  memory p [base] [rd, idx] fun c m =>
    mkAccess (.atomic op) 4 (laneElems m (c.eaLane base idx disp) (c.lane rd)) (.v rd.toNat)

def execVaadd (p : Pred) (rd base idx : Reg) (disp : BitVec 24) : State → Host.Outcome State Fault Refusal :=
  laneAtomic .add p rd base idx disp

def execVamax (p : Pred) (rd base idx : Reg) (disp : BitVec 24) : State → Host.Outcome State Fault Refusal :=
  laneAtomic .max p rd base idx disp

end Sys2Proof.Machine
end

