-- ==== Sys2Proof/Machine/Sync.lean ====
section
/-! DEFINITION. Fences, barriers, channels and beads, majors 0x28 to 0x31 (R182 to R187, R193 to R214). -/

namespace Sys2Proof.Machine

/-! ## Scopes (R182, R183) -/

/-- A sys scope in a world limited to tenant scope acts as part; the flag tells that it was clamped. -/
def Dev.clampScope (d : Dev) (k scope : Nat) : Nat × Bool :=
  if scope = 6 ∧ (d.world (d.core k).world).tenantScope then (5, true) else (scope, false)

/-- A completed fence or barrier: a clamp sets SCOPE_CLAMPED, and traps if the header says so. -/
def Dev.afterClamp (d : Dev) (k : Nat) (clamped : Bool) (i : Instr) : Res :=
  if clamped then
    let c := d.core k
    let d := d.setCore k { c with scopeClamped := true }
    if c.cur.clampTraps then .trapNext d Cause.scopeClamp (wordOfInstr i) else .done d
  else .done d

/-! ## FENCE (R184, R185, R193 to R196) -/

def overlaps (lo hi lo' hi' : Nat) : Bool := decide (lo < hi') && decide (lo' < hi) && decide (lo < hi) && decide (lo' < hi')

/-- Range of a register entry: it is cut at the top of the address space, and empty where the base is malformed. -/
def regRange (lo len : Word) : Nat × Nat :=
  if 2 ^ 56 ≤ lo.toNat then (0, 0) else (lo.toNat, lo.toNat + Nat.min len.toNat (2 ^ 56 - lo.toNat))

/-- The ranges of a fence's entries, or the TID of the first entry that is no valid record. -/
def Dev.fenceRanges (d : Dev) (x : Ctx) (k : Nat) : List (Bool × BitVec 11) → Dev × (Nat ⊕ List (Nat × Nat))
  | [] => (d, .inr [])
  | (reg, e) :: es =>
    let c := d.core k
    if reg then
      let n : Reg := BitVec.ofNat 6 (field e 5 6)
      match Dev.fenceRanges d x k es with
      | (d, .inr rs) => (d, .inr (regRange (c.readG n) (c.readG (n + 1)) :: rs))
      | r => r
    else
      match d.useRecord x.seq (dieOfQuad (quadOfCore k)) c.world e.toNat with
      | (d, none) => (d, .inl e.toNat)
      | (d, some r) =>
        match Dev.fenceRanges d x k es with
        | (d, .inr rs) => (d, .inr ((r.base, r.base + r.span) :: rs))
        | r => r

/-- The counters that still hold bytes for a release: those whose range overlaps an entry, or every one (R185). -/
def Core.fenceCounters (c : Core) (all : Bool) (ranges : List (Nat × Nat)) : List Nat :=
  (List.range 8).filter fun i => match Tab.get? c.ranges i with
    | none => false
    | some r => r.count != 0 && (all || ranges.any fun e => overlaps r.lo r.hi e.1 e.2)

def Core.counterZero (c : Core) (i : Nat) : Bool := match Tab.get? c.ranges i with | none => true | some r => r.count == 0

def bitMask (is : List Nat) : Nat := is.foldl (fun m i => m + 2 ^ i) 0

/-- What a fence waits on, as the survey names it (R196). -/
def Core.fenceWait (c : Core) (cs : List Nat) : Option Wait :=
  waitFor 6 1 (bitMask cs) (bitMask (cs.filter c.counterZero))

/-- Ranges of the world's memory leave the quad's lease copies (R178), and loads of them follow the core's earlier bead
receipts (R185). -/
def Dev.acquire (d : Dev) (k : Nat) (all : Bool) (ranges : List (Nat × Nat)) : Dev :=
  let q := quadOfCore k
  let c := d.core k
  if all then (d.setCore k { c with ltime := c.orderTime, floors := [] }).dropLeases fun l => l.quad == q
  else
    let new := if c.stime ≤ c.ltime then [] else (ranges.filter fun r => decide (r.1 < r.2)).map fun r => (r.1, r.2, c.stime)
    ranges.foldl (fun d r => if r.1 < r.2 then d.dropRange (d.core k).world q r.1 r.2 else d)
      (d.setCore k { c with floors := new ++ c.floors })

/-- A release joins the ended operands that its entries overlap, and those of the counters it waited on (R72, R180, R185). -/
def Dev.joinEnded (d : Dev) (k : Nat) (all : Bool) (ranges : List (Nat × Nat)) : Dev :=
  let c := d.core k
  let mine := fun (o : EndedOperand) => all || o.waited || ranges.any fun e => overlaps o.lo o.hi e.1 e.2
  let done := c.ended.filter mine
  (d.setCore k { c with ended := c.ended.filter fun o => !mine o }).joinAt k
    (done.foldl (fun t o => Nat.max t o.time) 0) (done.flatMap EndedOperand.lines)

/-- A completed fence or barrier of a scope keeps what came before it ahead of the core's later bead sends to its extent
(R182, R191, column KS). -/
def Core.keep (c : Core) (scope : Nat) : Core :=
  { c with kept := Tab.put c.kept scope (Nat.max (Tab.getD c.kept scope 0) c.orderTime) }

/-- A fence that has nothing left to wait for acts as R185 says for its kind: 0 acquire, 1 release, 2 both, 3 all. -/
def Dev.actFence (d : Dev) (k kind scope : Nat) (ranges : List (Nat × Nat)) : Dev :=
  let d := if kind = 0 then d else d.joinEnded k (kind == 3) ranges
  let d := if kind = 1 then d else d.acquire k (kind == 3) ranges
  d.setCore k ((d.core k).keep scope)

/-- A fence that has read its entries completes, or waits: a release for every earlier access of the core, and for the
counters that its entries overlap. `seen` are the counters it has found holding bytes so far. -/
def Dev.tryFence (d : Dev) (k kind scope : Nat) (clamped : Bool) (i : Instr) (ranges : List (Nat × Nat)) (seen : List Nat) : Res :=
  let c := d.core k
  let open_ := if kind = 0 then [] else c.fenceCounters (kind == 3) ranges
  if open_.isEmpty && (kind == 0 || !c.blocked) then (d.actFence k kind scope ranges).afterClamp k clamped i
  else
    let cs := if kind = 3 then List.range 8 else seen ++ open_.filter fun i => !seen.contains i
    .wait d (.fencing ranges cs) (c.fenceWait cs)

/-- The entries of a fence, and the registers that they read. -/
def fenceEntries (cnt kind : BitVec 2) (form : BitVec 4) (e0 e1 e2 e3 : BitVec 11) : List (Bool × BitVec 11) :=
  [(bit form 0, e0), (bit form 1, e1), (bit form 2, e2), (bit form 3, e3)].take (if kind = 3 then 0 else cnt.toNat + 1)

def entryRegs (es : List (Bool × BitVec 11)) : List Reg :=
  es.flatMap fun e => if e.1 then [BitVec.ofNat 6 (field e.2 5 6), BitVec.ofNat 6 (field e.2 5 6 + 1)] else []

/-- FENCE: its entries are read once, at issue; a stalled one waits with what it read (R194, R196). -/
def execFence (scope : BitVec 4) (cnt kind : BitVec 2) (form : BitVec 4) (e0 e1 e2 e3 : BitVec 11) :
    State → Host.Outcome State Fault Refusal :=
  onCore fun x k d =>
    let c := d.core k
    let es := fenceEntries cnt kind form e0 e1 e2 e3
    let (sc, clamped) := d.clampScope k scope.toNat
    let i : Instr := .fence scope cnt kind form e0 e1 e2 e3
    match c.stage with
    | .fencing ranges seen => d.tryFence k kind.toNat sc clamped i ranges seen
    | _ =>
      if (entryRegs es).any c.pendingG then .stall none else
      match d.fenceRanges x k es with
      | (_, .inl tid) => .trap Cause.badHandle (BitVec.ofNat 64 tid)
      | (d, .inr ranges) => d.tryFence k kind.toNat sc clamped i ranges []

/-- The dies in the extent of a scope around a core (R198). -/
def Dev.scopeDies (d : Dev) (k scope : Nat) : List Nat :=
  if scope ≤ 2 then [k / 1024]
  else if scope = 5 ∨ scope = 6 then
    (List.range 4).filter fun i => (d.world (d.core k).world).partition.any fun p => dieOfQuad (quadOfIndex p) == i
  else [0, 1, 2, 3]

/-- LGFENCE (R197, R198). -/
def execLgfence (scope : BitVec 4) (cnt : BitVec 2) (e0 e1 e2 e3 : BitVec 11) : State → Host.Outcome State Fault Refusal :=
  onCoreSync fun _ k d =>
    let tids := ([e0, e1, e2, e3].map BitVec.toNat).take (cnt.toNat + 1)
    let (sc, clamped) := d.clampScope k scope.toNat
    let w := (d.core k).world
    let d := (d.scopeDies k sc).foldl (fun d i => d.dropLegend i w tids) d
    (d.setCore k ((d.core k).keep sc)).afterClamp k clamped (.lgfence scope cnt e0 e1 e2 e3)

/-! ## Barriers (R199 to R203) -/

/-- The instance of a scope that holds a core. -/
def barPlace (scope k : Nat) : Nat :=
  match scope with
  | 0 => k
  | 1 => quadOfCore k
  | 2 => k / 1024
  | _ => 0

/-- Number of a barrier: world, scope, instance, id. -/
def barKey (world scope place id : Nat) : Nat := ((world * 7 + scope) * 4096 + place) * 256 + id
def barId (key : Nat) : Nat := key % 256
def barScope (key : Nat) : Nat := key / 2 ^ 20 % 7
def barWorld (key : Nat) : Nat := key / 2 ^ 20 / 7

/-- At core scope declared always reads 1 (R199). -/
def Dev.declared (d : Dev) (key : Nat) : Nat := if barScope key = 0 then 1 else (d.barrier key).declared

def Dev.barWait (d : Dev) (key : Nat) : Option Wait :=
  some { kind := 4, handle := barId key, needed := d.declared key, held := (d.barrier key).arrived,
         pendingBytes := (d.barrier key).pending }

/-- The barrier that an instruction of a core names, and whether its scope was clamped. -/
def Dev.barOf (d : Dev) (k : Nat) (scope : BitVec 4) (id : BitVec 32) : Nat × Bool :=
  let (sc, clamped) := d.clampScope k scope.toNat
  (barKey (d.core k).world sc (barPlace sc k) id.toNat, clamped)

/-- An arrival, which ends the core's tagging to the barrier (R187). -/
def Dev.arrive (d : Dev) (k key : Nat) : Dev :=
  let b := d.barrier key
  let c := d.core k
  (d.setBarrier key { b with arrived := b.arrived + 1, who := b.who ++ [k], ltime := Nat.max b.ltime c.orderTime }).setCore k
    { c with arrivals := Tab.put c.arrivals key b.epoch.toNat, barx := if c.barx = some key then none else c.barx }

/-- Whether a core has arrived at the open instance. -/
def Dev.hasArrived (d : Dev) (k key : Nat) : Bool := (d.barrier key).who.contains k

/-- BAR: arrives, then waits for that instance. -/
def execBar (p : Pred) (scope : BitVec 4) (id : BitVec 32) : State → Host.Outcome State Fault Refusal :=
  onCoreSync fun _ k d => scalarDev p [] (fun c =>
    let (key, clamped) := d.barOf k scope id
    match c.stage with
    | .arrived key' epoch _ =>
      if (d.barrier key').epoch.toNat = epoch then .stall (d.barWait key')
      else (d.setCore k { c with arrivals := Tab.del c.arrivals key' }).afterClamp k clamped (.bar p scope id)
    | _ =>
      if d.hasArrived k key then .stall (d.barWait key)
      else let d' := d.arrive k key
           .wait d' (.arrived key (d.barrier key).epoch.toNat (c.barx == some key)) (d'.barWait key)) d k

/-- BARA: arrives without waiting, and writes the epoch of the instance. -/
def execBara (p : Pred) (scope : BitVec 4) (rd : Reg) (id : BitVec 32) : State → Host.Outcome State Fault Refusal :=
  onCoreSync fun _ k d => scalarDev p [] (fun _ =>
    let (key, clamped) := d.barOf k scope id
    if d.hasArrived k key then .stall (d.barWait key)
    else
      let d' := d.arrive k key
      (d'.setCore k ((d'.core k).writeG rd (zext64 (d.barrier key).epoch))).afterClamp k clamped (.bara p scope rd id)) d k

/-- BARW: waits for the instance of the core's last BARA on the barrier. -/
def execBarw (p : Pred) (scope : BitVec 4) (id : BitVec 32) : State → Host.Outcome State Fault Refusal :=
  onCoreSync fun _ k d => scalarDev p [] (fun c =>
    let (key, clamped) := d.barOf k scope id
    match Tab.get? c.arrivals key with
    | some epoch =>
      if (d.barrier key).epoch.toNat = epoch then .stall (d.barWait key)
      else (d.setCore k { c with arrivals := Tab.del c.arrivals key }).afterClamp k clamped (.barw p scope id)
    | none => d.afterClamp k clamped (.barw p scope id)) d k

/-- BARX: adds expected bytes and starts tagging. -/
def execBarx (p : Pred) (scope : BitVec 4) (ra : Reg) (id : BitVec 32) : State → Host.Outcome State Fault Refusal :=
  onCoreSync fun _ k d => scalarDev p [ra] (fun c =>
    let (key, clamped) := d.barOf k scope id
    let b := d.barrier key
    let n := b.pending + field (c.readG ra) 0 32
    if 2 ^ 32 ≤ n then .stall none
    else ((d.setBarrier key { b with pending := n }).setCore k { c with barx := some key }).afterClamp k clamped
      (.barx p scope ra id)) d k

/-- The number of cores of a world's partition in the instance (R202). How many quads the world's partitions hold in the
other packages of the pod is not this device's state (log 10). -/
def Dev.barLimit (d : Dev) (k scope : Nat) : Nat :=
  let w := (d.core k).world
  let qs := (d.world w).partition.map quadOfIndex
  match scope with
  | 1 => 4
  | 2 => 4 * (qs.filter fun q => dieOfQuad q == k / 1024).length
  | 4 => 4 * (qs.length + Config.podQuads w)
  | 6 => 4 * (qs.length + Config.podQuads w)
  | _ => 4 * qs.length

/-- BARSET: declares the participants. -/
def execBarset (p : Pred) (scope : BitVec 4) (ra : Reg) (id : BitVec 32) : State → Host.Outcome State Fault Refusal :=
  onCoreSync fun _ k d => scalarDev p [ra] (fun c =>
    let (key, clamped) := d.barOf k scope id
    let n := field (c.readG ra) 0 32
    if scope = 0 ∨ d.barLimit k (barScope key) < n then .trap Cause.illegal (wordOfInstr (.barset p scope ra id))
    else (d.setBarrier key { d.barrier key with declared := n }).afterClamp k clamped (.barset p scope ra id)) d k

/-! ## Channels (R204 to R211) -/

def Dev.setChan (d : Dev) (n : Nat) (x : Chan) : Dev := { d with chans := Tab.put d.chans n x }

/-- The channel that a handle is bound to at an end, if the core may use it (R207 check 1, R265). -/
def Dev.chanAt (d : Dev) (k : Nat) (h : BitVec 4) (producer : Option Bool) : Option (Nat × Handle × Chan) :=
  match Tab.get? (d.core k).handles h.toNat with
  | none => none
  | some b =>
    if b.lent || (producer.any fun e => e != b.producer) then none
    else (Tab.get? d.chans b.chan).map fun x => (b.chan, b, x)

/-- Pointer moves and slot bytes take their places in the total order (R210): the core and the channel come to one
logical time. -/
def Dev.syncChan (d : Dev) (k n : Nat) : Dev :=
  match Tab.get? d.chans n with
  | none => d
  | some x =>
    let c := d.core k
    let t := Nat.max c.orderTime x.ltime
    (d.setChan n { x with ltime := t }).setCore k { c with ltime := t }

/-- A channel instruction: predicate, sources, and the handle checks of R207. -/
def channel (p : Pred) (h : BitVec 4) (gs : List Reg) (producer : Option Bool)
    (f : Ctx → Nat → Dev → Core → Nat → Chan → Res) : State → Host.Outcome State Fault Refusal :=
  onCore fun x k d => scalarDev p gs (fun c =>
    match d.chanAt k h producer with
    | none => .trap Cause.badHandle (zext64 h)
    | some (n, _, ch) => f x k d c n ch) d k

/-- cnt := n + g_gx[31:0] (R206). -/
def Core.count (c : Core) (n : BitVec 8) (gx : Reg) : Nat := n.toNat + field (c.readG gx) 0 32

/-- A ring record that agrees with its route entry and the layout of Table 13.4 (R204). -/
def ringOk (r : Rec) (ch : Chan) : Bool :=
  let slots := u16At r.data 0
  let bytes := u16At r.data 2
  let base := r.base
  slots == ch.slots && bytes == ch.slotBytes && decide (u16At r.data 4 ≤ slots) && zeroB (r.data.drop 6) &&
  decide (slots * bytes ≤ r.span) && (decide (vaWindow ≤ base) && (decide (base < vaWindow + 2 ^ 31) ||
    (decide (vaLocal ≤ base) && decide (base < vaLocal + 0x200000))))

/-- CBIND (R208). -/
def execCbind (p : Pred) (h : BitVec 4) (gx : Reg) (ce : BitVec 16) : State → Host.Outcome State Fault Refusal :=
  onCore fun x k d => scalarDev p [gx] (fun c =>
    if (Tab.get? c.handles h.toNat).any Handle.lent then .trap Cause.badHandle (zext64 h) else
    let v := c.readG gx
    if 2048 ≤ v.toNat then .trap Cause.badHandle (BitVec.ofNat 64 (v.toNat % 2048)) else
    let (d, r) := d.useKind x.seq (k / 1024) c.world v.toNat [1]
    let producer := ce == 1
    let fit := fun (_ : Nat) (ch : Chan) => ch.team == c.cur.team && ch.world == c.world && ch.tid == v.toNat &&
      (if producer then ch.prod == k else ch.cons == k) && r.any fun r => ringOk r ch
    match (Tab.keys fit d.chans).head? with
    | none => .trap Cause.badHandle v
    | some n =>
      let d := match Tab.get? d.chans n with
        | none => d
        | some ch =>
          let ch : Chan := { ch with readOnly := r.any Rec.readOnly }
          d.setChan n (if producer then { ch with reserved := 0 } else { ch with waited := 0 })
      .done (d.setCore k { c with handles := Tab.put c.handles h.toNat { chan := n, producer := producer, lent := false } })) d k

/-- CWAIT: waits until filled >= cnt; then waited := cnt. -/
def execCwait (p : Pred) (h : BitVec 4) (gx : Reg) (n : BitVec 8) : State → Host.Outcome State Fault Refusal :=
  channel p h [gx] (some false) fun _ k d c i ch =>
    let cnt := c.count n gx
    if ch.slots < cnt then .trap Cause.illegal (wordOfInstr (.cwait p h gx n))
    else if cnt ≤ ch.filled then .done ((d.setChan i { ch with waited := cnt }).syncChan k i)
    else .stall (waitFor 1 h.toNat cnt ch.filled)

/-- CRESV: waits until credits >= cnt; then reserved := cnt. -/
def execCresv (p : Pred) (h : BitVec 4) (gx : Reg) (n : BitVec 8) : State → Host.Outcome State Fault Refusal :=
  channel p h [gx] (some true) fun _ k d c i ch =>
    let cnt := c.count n gx
    if ch.slots < cnt then .trap Cause.illegal (wordOfInstr (.cresv p h gx n))
    else if cnt ≤ ch.credits then .done ((d.setChan i { ch with reserved := cnt }).syncChan k i)
    else .stall (waitFor 2 h.toNat cnt ch.credits)

/-- The slot offset and the word index of imm16 (R206). -/
def slotOff (imm : BitVec 16) : Nat := field imm 0 12
def slotWord (imm : BitVec 16) : Nat := field imm 12 4

/-- Check 4 of R207. -/
def badWord (ch : Chan) (w : Nat) : Bool := if ch.slotBytes = 4 then w != 0 else decide (ch.slotBytes / 8 ≤ w)

/-- Physical address of a word of a slot. -/
def Chan.addr (ch : Chan) (slot w : Nat) : Nat := ch.ring + slot % ch.slots * ch.slotBytes + 8 * w

/-- The bytes and the tag of a pushed slot take their place in the order. -/
def Dev.writeSlotWord (d : Dev) (k i slot tag pa : Nat) (bs : Bytes) : Dev :=
  match Tab.get? d.chans i with
  | none => d
  | some ch =>
    let (d, t) := d.storePa (d.core k).orderTime pa bs
    let d := d.fireStores ch.world pa bs.length
    (d.setCore k { d.core k with ltime := t }).setChan i { ch with tags := Tab.put ch.tags slot tag }

/-- A published or a consumed count leaves for the other end, in the order of the core's accesses (R209, R210). -/
def Dev.sendCount (d : Dev) (k i n : Nat) (fill : Bool) : Dev :=
  match Tab.get? d.chans i with
  | none => d
  | some ch =>
    if n = 0 then d
    else (d.setChan i (if fill then { ch with fills := ch.fills ++ [n] } else { ch with backs := ch.backs ++ [n] })).syncChan k i

/-- The core's own end of a count of `n` slots changed: its latch is set (R205). -/
def Dev.latchIf (d : Dev) (k n : Nat) : Dev := if n = 0 then d else d.setLatch k

/-- What acts in the order of the core's accesses acts now, or behind an access that waits for a page (R137, R177). -/
def Dev.inOrder (d : Dev) (k : Nat) (h : Held) (act : Dev → Dev) : Dev :=
  if (d.core k).blocked then d.setCore k { d.core k with held := (d.core k).held ++ [h] } else act d

/-- A word of a reserved slot is written, with its side tag; a read-only ring's record bars it (R74). -/
def Dev.pushSlot (d : Dev) (k i : Nat) (ch : Chan) (imm : BitVec 16) (v : Word) (tag : Nat) : Res :=
  let slot := (ch.tail + slotOff imm) % ch.slots
  let bs := bytesOf (if ch.slotBytes = 4 then 4 else 8) v
  let pa := ch.addr slot (slotWord imm)
  if ch.readOnly then .trap Cause.access (BitVec.ofNat 64 (ch.va.toNat + slot * ch.slotBytes + 8 * slotWord imm))
  else .done (d.inOrder k (.push i slot tag pa bs) fun d => d.writeSlotWord k i slot tag pa bs)

/-- CPUSH. -/
def execCpush (p : Pred) (h : BitVec 4) (gx : Reg) (off : BitVec 16) : State → Host.Outcome State Fault Refusal :=
  channel p h [gx] (some true) fun _ k d c i ch =>
    if ch.reserved ≤ slotOff off ∨ badWord ch (slotWord off) then .trap Cause.illegal (wordOfInstr (.cpush p h gx off))
    else d.pushSlot k i ch off (c.readG gx) 0

/-- CMARK: the tag is rank + 1. -/
def execCmark (p : Pred) (h : BitVec 4) (gx : Reg) (rank : BitVec 8) (off : BitVec 16) :
    State → Host.Outcome State Fault Refusal :=
  channel p h [gx] (some true) fun _ k d c i ch =>
    if ch.reserved ≤ slotOff off ∨ badWord ch (slotWord off) then .trap Cause.illegal (wordOfInstr (.cmark p h gx rank off))
    else d.pushSlot k i ch off (c.readG gx) (rank.toNat + 1)

/-- CPEEK: the word and the tag of a waited slot. Its result is due at once, so it waits for the core's earlier accesses. -/
def execCpeek (p : Pred) (h : BitVec 4) (gx gy : Reg) (off : BitVec 16) : State → Host.Outcome State Fault Refusal :=
  channel p h [] (some false) fun x k d c i ch =>
    if ch.waited ≤ slotOff off ∨ badWord ch (slotWord off) then .trap Cause.illegal (wordOfInstr (.cpeek p h gx gy off))
    else if c.blocked then .stall none
    else
      let slot := (ch.head + slotOff off) % ch.slots
      let (d, t, bs) := d.loadPa x.seq none c.orderTime (ch.addr slot (slotWord off)) (if ch.slotBytes = 4 then 4 else 8)
      let c := ((d.core k).writeG gx (wordOf bs)).writeG gy (BitVec.ofNat 64 (Tab.getD ch.tags slot 0))
      .done ((d.setCore k { c with ltime := t }).syncChan k i)

/-- CPADV (R209): publishes cnt slots, which travel to the consumer. -/
def execCpadv (p : Pred) (h : BitVec 4) (gx : Reg) (n : BitVec 8) : State → Host.Outcome State Fault Refusal :=
  channel p h [gx] (some true) fun _ k d c i ch =>
    let cnt := c.count n gx
    if ch.reserved < cnt then .trap Cause.illegal (wordOfInstr (.cpadv p h gx n))
    else
      let d := d.setChan i { ch with tail := (ch.tail + cnt) % ch.slots, credits := ch.credits - cnt, reserved := ch.reserved - cnt }
      .done ((d.inOrder k (.fill i cnt) fun d => d.sendCount k i cnt true).latchIf k cnt)

/-- CCADV (R209): consumes cnt slots, whose credits travel to the producer. -/
def execCcadv (p : Pred) (h : BitVec 4) (gx : Reg) (n : BitVec 8) : State → Host.Outcome State Fault Refusal :=
  channel p h [gx] (some false) fun _ k d c i ch =>
    let cnt := c.count n gx
    if ch.waited < cnt then .trap Cause.illegal (wordOfInstr (.ccadv p h gx n))
    else
      let d := d.setChan i { ch with head := (ch.head + cnt) % ch.slots, filled := ch.filled - cnt, waited := ch.waited - cnt }
      .done ((d.inOrder k (.back i cnt) fun d => d.sendCount k i cnt false).latchIf k cnt)

/-- Table 13.6. -/
def Chan.status (ch : Chan) (producer : Bool) : Word :=
  if producer then BitVec.ofNat 64 (ch.tail * 2 ^ 32 + 2 ^ 31 + ch.reserved * 2 ^ 16 + ch.credits)
  else BitVec.ofNat 64 ((if 0 < ch.filled then Tab.getD ch.tags ch.head 0 else 0) * 2 ^ 44 + ch.head * 2 ^ 32 +
    ch.waited * 2 ^ 16 + ch.filled)

/-- CSTAT (R211), which waits for the core's earlier accesses as CPEEK does (class LD, R210). -/
def execCstat (p : Pred) (h : BitVec 4) (gx : Reg) : State → Host.Outcome State Fault Refusal :=
  channel p h [] none fun _ k d c i ch =>
    let producer := (Tab.get? c.handles h.toNat).any Handle.producer
    if c.blocked then .stall none
    else .done ((d.setCore k (c.writeG gx (ch.status producer))).syncChan k i)

/-! ## Beads (R212 to R214) -/

/-- The route that a core numbers `n`. -/
def Dev.beadRoute (d : Dev) (k n : Nat) : Option Nat :=
  (Tab.keys (fun _ r => r.team == (d.core k).cur.team && r.src == k && r.number == n) d.beads).head?

/-- The narrowest scope whose extent around a core holds another core of the package (Table 1.2): quad, die or package. -/
def narrowest (k dst : Nat) : Nat := if k / 4 = dst / 4 then 1 else if k / 1024 = dst / 1024 then 2 else 3

/-- The logical time that a bead carries to a core: what the sender's fences, barriers and bead receipts of scopes that hold
the receiver keep before it (R190 to R192). -/
def Core.beadTime (c : Core) (k dst : Nat) : Nat :=
  c.kept.foldl (fun t (s, u) => if narrowest k dst ≤ s then Nat.max t u else t) 0

/-- KSEND (R213): it may leave while the core's earlier accesses are outstanding. -/
def execKsend (p : Pred) (gx : Reg) (route : BitVec 8) : State → Host.Outcome State Fault Refusal :=
  onCore fun _ k d => scalarDev p [gx] (fun c =>
    match d.beadRoute k route.toNat with
    | none => .trap Cause.badHandle (zext64 route)
    | some i =>
      match Tab.get? d.beads i with
      | none => .trap Cause.badHandle (zext64 route)
      | some r =>
        let full := (Tab.get? (d.core r.dst).ports r.port).isSome
        let others := d.beads.any fun (j, o) => j != i && o.dst == r.dst && o.port == r.port && o.fly.isSome
        if r.fly.isSome || (full && !others) then .stall (waitFor 3 (0x10 + route.toNat) 1 0)
        else .done { d with beads := Tab.put d.beads i { r with fly := some (bit (c.readG gx) 0), flyTime := c.beadTime k r.dst } }) d k

/-- KPOLL (R213): 0, or 2 + the bit of the bead, which stays in the port. -/
def execKpoll (p : Pred) (port : BitVec 4) (gx : Reg) : State → Host.Outcome State Fault Refusal :=
  onRegs (scalar p [] fun c =>
    .done (c.writeG gx (match Tab.get? c.ports port.toNat with | none => 0 | some b => BitVec.ofNat 64 (2 + b2n b))))

end Sys2Proof.Machine
end

