-- ==== Sys2Proof/Machine/Command.lean ====
section
/-! DEFINITION. Engine commands: who issues them, the range counters they take (R184), entering a queue (R216), bulk
accesses of an engine (R170, R179), and the end of an operation (R195, R217, R221). -/

namespace Sys2Proof.Machine

/-! ## The issuer: a core, or a program on the engine's own sequencer (R90, R143) -/

structure Who where
  core : Nat
  eng : Option Nat
deriving DecidableEq, Repr

def Dev.xread (d : Dev) (w : Who) (r : Reg) : Word :=
  match w.eng with
  | none => (d.core w.core).readG r
  | some e => match (d.engine (quadOfCore w.core) e).prog with | some p => p.readG r | none => 0

def Dev.mapProg (d : Dev) (q e : Nat) (f : Prog → Prog) : Dev :=
  let g := d.engine q e
  match g.prog with
  | some p => d.setEngine q e { g with prog := some (f p) }
  | none => d

def Dev.xwrite (d : Dev) (w : Who) (r : Reg) (x : Word) : Dev :=
  match w.eng with
  | none => d.setCore w.core ((d.core w.core).writeG r x)
  | some e => d.mapProg (quadOfCore w.core) e fun p => p.writeG r x

def Dev.issuer (d : Dev) (w : Who) : Issuer :=
  let c := d.core w.core
  let pc := match w.eng with
    | none => c.pc
    | some e => match (d.engine (quadOfCore w.core) e).prog with | some p => p.pc | none => 0
  { core := some w.core, program := w.eng.isSome, node := none, plane := c.active.getD 0, pc := pc, world := c.world,
    gen := c.cur.gen, team := c.cur.team }

/-- An X-format instruction of an engine, on a core or on that engine's own sequencer; `reads` and `writes` are its g
fields. A trap on a sequencer ends the program (R90). -/
def onX (eng : Nat) (reads writes : List Reg) (f : Ctx → Who → Dev → Res) : State → Host.Outcome State Fault Refusal :=
  run fun x d =>
    match x.actor with
    | .core k =>
      let c := d.core k
      d.finish x.now k (if reads.any c.pendingG then .stall none else f x { core := k, eng := none } d)
    | .engine q e =>
      match (d.engine q e).prog with
      | none => d
      | some p =>
        let idle := d
        let d := d.issuedBy q e
        if e ≠ eng ∨ (reads ++ writes).any (fun r => decide (15 < r.toNat)) then d.progFault q e 0x01
        else match f x { core := p.core, eng := some e } d with
          | .done d => d.mapProg q e fun p => { p with pc := p.pc + 8, wait := none }
          | .jump d pc => d.mapProg q e fun p => { p with pc := pc, wait := none }
          | .trap _ _ => d.progFault q e 0x01
          | .trapNext d _ _ => d.progFault q e 0x01
          | .trapPart d _ _ => d.progFault q e 0x01
          | .stall w => idle.mapProg q e fun p => { p with wait := some (w.getD Wait.stalled) }
          | .wait d _ w => d.mapProg q e fun p => { p with wait := some (w.getD Wait.stalled) }

/-! ## Range counters (R184) -/

/-- An address operand: its range, the bytes read or written, and whether it is the destination. -/
structure Operand where
  lo : Nat
  hi : Nat
  bytes : Nat
  dest : Bool
deriving DecidableEq, Repr

def RangeCtr.zero : RangeCtr := { lo := 0, hi := 0, count := 0 }

def Core.range (c : Core) (i : Nat) : RangeCtr := Tab.getD c.ranges i RangeCtr.zero

/-- The growth of a counter's hull that an operand would cause. -/
def growth (r : RangeCtr) (o : Operand) : Nat := (Nat.max r.hi o.hi - Nat.min r.lo o.lo) - (r.hi - r.lo)

/-- The counter that an operand takes. -/
def Core.pickCounter (c : Core) (o : Operand) : Nat :=
  let is := List.range 8
  match is.find? fun i => overlaps (c.range i).lo (c.range i).hi o.lo o.hi with
  | some i => i
  | none => match is.find? fun i => (c.range i).count == 0 with
    | some i => i
    | none => is.foldl (fun best i => if growth (c.range i) o < growth (c.range best) o then i else best) 0

/-- One operand on its counter; none where the count would pass 0xFFFFFFFF. An operand of more bytes than that holds
its counter full. -/
def Core.charge (c : Core) (o : Operand) : Option (Core × Charge) :=
  let i := c.pickCounter o
  let r := c.range i
  let n := Nat.min o.bytes 0xFFFFFFFF
  if 0xFFFFFFFF < r.count + n then none
  else
    let (lo, hi) := if r.count = 0 then (o.lo, o.hi) else (Nat.min r.lo o.lo, Nat.max r.hi o.hi)
    some ({ c with ranges := Tab.put c.ranges i { r with lo := lo, hi := hi, count := r.count + n } },
      { ctr := i, n := n, lo := o.lo, hi := o.hi, dest := o.dest })

def Core.chargeAll (c : Core) : List Operand → Option (Core × List Charge)
  | [] => some (c, [])
  | o :: os => if o.bytes = 0 then Core.chargeAll c os else
    match c.charge o with
    | none => none
    | some (c, h) => (Core.chargeAll c os).map fun (c, hs) => (c, h :: hs)

/-- `n` bytes leave a counter, whose range is empty at zero (R184). -/
def Core.lower (c : Core) (i n : Nat) : Core :=
  let r := c.range i
  { c with ranges := Tab.put c.ranges i (if r.count ≤ n then RangeCtr.zero else { r with count := r.count - n }) }

/-- Bytes read and bytes written leave an operand's counter as they are read or land; an operand that holds its counter
full leaves it when the operation ends (R184). The answer is what the operand still holds, and the bytes not yet used up. -/
def Charge.land (h : Charge) (got put : Nat) : Charge × Nat × Nat :=
  if h.n = 0xFFFFFFFF then (h, got, put)
  else if h.dest then
    let m := Nat.min h.n put
    ({ h with n := h.n - m }, got, put - m)
  else
    let m := Nat.min h.n got
    ({ h with n := h.n - m }, got - m, put)

/-- An operation has read `got` bytes and written `put` bytes by address, and goes on waiting. -/
def Core.landBytes (c : Core) : List Charge → Nat → Nat → Core × List Charge
  | [], _, _ => (c, [])
  | h :: hs, got, put =>
    let (h', got, put) := h.land got put
    let (c, hs) := Core.landBytes (c.lower h.ctr (h.n - h'.n)) hs got put
    (c, h' :: hs)

/-- Whether the core is stalled in a fence that has waited on a counter. -/
def Core.fencedOn (c : Core) (i : Nat) : Bool := match c.stage with | .fencing _ cs => cs.contains i | _ => false

/-- The bytes of an ended operation leave their counters (R184, R195), and its operands wait for a fence to join them, if
they do not lie before the core's latest access already (R180). -/
def Core.release (c : Core) (t : Nat) (lines : List Nat) (charged : List Charge) : Core :=
  charged.foldl (fun c h =>
    let c' := c.lower h.ctr h.n
    if t ≤ c.ltime && lines.isEmpty then c'
    else { c' with ended := c.ended ++ [{ lo := h.lo, hi := h.hi, time := t, lines := lines, waited := c.fencedOn h.ctr }] }) c

/-! ## Entering a queue (R216, R217) -/

def Engine.nextSeq (g : Engine) : Nat := (g.seq + 1) % 2 ^ 16

def Engine.full (g : Engine) : Bool := decide (8 ≤ g.queue.length)

/-- A command enters an engine's queue: it takes its number, its counters and its barrier tag. Its first access waits for
the core's earlier ones, which the core does not (R179). None where a counter is full. -/
def Dev.enqueue (d : Dev) (w : Who) (e : Nat) (cmd : Cmd) (ops : List Operand) : Option Dev :=
  let q := quadOfCore w.core
  let c := d.core w.core
  match c.chargeAll ops with
  | none => none
  | some (c, charged) =>
    let g := d.engine q e
    let waits := c.blocked && cmd.ready
    let cmd := { cmd with seq := g.nextSeq, charged := charged, bar := c.barx, ltime := c.orderTime, ready := cmd.ready && !waits }
    let c := { c with ops := c.ops ++ [{ eng := e, seq := g.nextSeq, done := false, fault := none, bar := c.barx }],
                      held := if waits then c.held ++ [.issue e g.nextSeq] else c.held }
    some (((d.setCore w.core c).setEngine q e { g with queue := g.queue ++ [cmd], seq := g.nextSeq, used := true }).latchQuad q)

def Dev.newCmd (d : Dev) (w : Who) (i : Instr) (a b c : Word) : Cmd :=
  { seq := 0, instr := i, a := a, b := b, c := c, issuer := d.issuer w, charged := [], bar := none, follow := none,
    after := none, tile := none, ready := true, record := none, fault := none, waiting := false, taken := [], given := 0,
    landed := [], counts := Counts.zero, ltime := 0, lines := [] }

/-- An invalid record named by a command: BAD_HANDLE on a core; on a sequencer the operation ends in fault 0x0A (R215). -/
def Dev.badRecord (d : Dev) (w : Who) (e tid : Nat) (cmd : Cmd) : Res :=
  match w.eng with
  | none => .trap Cause.badHandle (BitVec.ofNat 64 tid)
  | some _ =>
    if (d.engine (quadOfCore w.core) e).full then .stall none
    else match d.enqueue w e { cmd with fault := some 0x0A } [] with
      | some d => .done d
      | none => .stall none

/-- Issuing a command: a full queue or a full counter stalls the issuer. -/
def Dev.issueCmd (d : Dev) (w : Who) (e : Nat) (cmd : Cmd) (ops : List Operand) : Res :=
  if (d.engine (quadOfCore w.core) e).full then .stall none
  else match d.enqueue w e cmd ops with
    | some d => .done d
    | none => .stall none

/-! ## Bulk accesses of an engine -/

/-- The version of a record that a command uses: the one it has read, or a new use (R73). -/
def Dev.cmdRecord (d : Dev) (x : Ctx) (q : Nat) (cmd : Cmd) (tid : Nat) : Dev × Option Rec :=
  match cmd.record with
  | some r => (d, some r)
  | none => d.useRecord x.seq (dieOfQuad q) cmd.issuer.world tid

/-- An operation under way: the device, the operation's logical time, the bytes it has written, of them those by address,
and the bytes it has read by address, the HBM lines it has written, the code of the fault that ends it, the accesses that
wait for a page, and the pieces of its work that have landed. `gathers` marks an operation of the copy engine, whose whole
spans a timed window's port takes as records (R278). -/
structure Run where
  d : Dev
  t : Nat
  wrote : Nat
  put : Nat
  got : Nat
  lines : List Nat
  gathers : Bool
  err : Option Nat
  misses : List (Word × Bool)
  landed : List Nat
deriving DecidableEq, Repr

def Run.of (d : Dev) (t : Nat) : Run :=
  { d := d, t := t, wrote := 0, put := 0, got := 0, lines := [], gathers := false, err := none, misses := [], landed := [] }

/-- A run of bytes cut at 128-byte lines. -/
def chunks : Nat → Nat → Nat → List (Nat × Nat)
  | 0, _, _ => []
  | fuel + 1, va, n =>
    if n = 0 then [] else
    let m := Nat.min n (128 - va % 128)
    (va, m) :: chunks fuel (va + m) (n - m)

def chunksOf (va n : Nat) : List (Nat × Nat) := chunks (n / 128 + 2) va n

/-- An access that finds no page waits, while the operation's others go on; one through a pinned record never waits (R170). -/
def Run.missed (r : Run) (pinned : Bool) (va : Nat) (write : Bool) : Run :=
  if pinned then { r with err := some 0x0C } else { r with misses := r.misses ++ [(BitVec.ofNat 64 va, write)] }

/-- An access that is denied ends the operation; a dropped request is counted (R295). -/
def Run.deny (r : Run) (now : Now) (req : Req) (a : Xlate) : Run := { r with d := r.d.refused now req a, err := some 0x0C }

def Run.readChunk (r : Run) (x : Ctx) (req : Req) (pinned : Bool) (va n : Nat) : Run × Bytes :=
  if r.err.isSome then (r, List.replicate n 0) else
  match r.d.translate x.seq req va with
  | .mem pa =>
    let (d, t, bs) := ((r.d.walked x.seq req.die req.world va).traffic x.seq req.world pa n false).loadPa x.seq none r.t pa n
    ({ r with d := d, t := t, got := r.got + n }, bs)
  | .port _ => ({ r with got := r.got + n }, List.replicate n 0)
  | .regs w off => ({ r with got := r.got + n }, r.d.registerBytes x.now.clock w off n)
  | .miss _ => (r.missed pinned va false, List.replicate n 0)
  | a => (r.deny x.now req a, List.replicate n 0)

def Run.read (r : Run) (x : Ctx) (req : Req) (pinned : Bool) (va n : Nat) : Run × Bytes :=
  (chunksOf va n).foldl (fun (r, bs) (va, n) =>
    let (r, more) := Run.readChunk r x req pinned va n
    (r, bs ++ more)) (r, [])

/-- A run of bytes cut at 32-byte units. -/
def spans32 (va n : Nat) : List (Nat × Nat) :=
  (List.range (n / 32 + 2)).filterMap fun i =>
    let lo := Nat.max va ((va / 32 + i) * 32)
    let hi := Nat.min (va + n) ((va / 32 + i + 1) * 32)
    if lo < hi then some (lo, hi - lo) else none

/-- Bytes written into a port page: a write that `gathers` gives its whole aligned 32-byte spans as records, and every other
span that a write touches counts malformed (R278). The port takes nothing before the clock after its binding (R286). -/
def Dev.portWrite (d : Dev) (now : Now) (gathers : Bool) (win va : Nat) (bs : Bytes) : Dev :=
  match Tab.get? d.windows win with
  | none => d
  | some w =>
    if now.clock < w.openAt then d else
    let spans := spans32 va bs.length
    let whole := spans.filter fun s => gathers && s.2 == 32
    let recs := whole.map fun s => sliceB bs (s.1 - va) 32
    let bad := BitVec.ofNat 32 (spans.length - whole.length)
    let w : TWin := { w with inbox := w.inbox ++ recs, malformed := w.malformed + bad }
    { d with windows := Tab.put d.windows win w }

def Run.writeChunk (r : Run) (x : Ctx) (req : Req) (pinned : Bool) (va : Nat) (bs : Bytes) : Run :=
  if r.err.isSome then r else
  let n := bs.length
  match r.d.translate x.seq req va with
  | .mem pa =>
    let (d, t) := ((r.d.walked x.seq req.die req.world va).traffic x.seq req.world pa n true).storePa r.t pa bs
    { r with d := d.fireStores req.world pa n, t := t, wrote := r.wrote + n, put := r.put + n, lines := noteLine r.lines pa }
  | .port w => { r with d := r.d.portWrite x.now r.gathers w va bs, wrote := r.wrote + n, put := r.put + n }
  | .regs w off => { r with d := r.d.writeRegister x.now w off (wordOf bs), wrote := r.wrote + n, put := r.put + n }
  | .miss _ => r.missed pinned va true
  | a => r.deny x.now req a

def Run.write (r : Run) (x : Ctx) (req : Req) (pinned : Bool) (va : Nat) (bs : Bytes) : Run :=
  ((chunksOf va bs.length).foldl (fun (r, bs) (va, n) =>
    (Run.writeChunk r x req pinned va (bs.take n), bs.drop n)) (r, bs)).1

def Run.fail (r : Run) (code : Nat) : Run := if r.err.isSome then r else { r with err := some code }

/-- The operation waits for a page; it cannot go on with what follows these accesses. -/
def Run.waits (r : Run) : Bool := r.err.isNone && !r.misses.isEmpty
def Run.stopped (r : Run) : Bool := r.err.isSome || !r.misses.isEmpty

/-- Whether every access from `r` to `r'` has been performed. -/
def Run.went (r r' : Run) : Bool := r'.err.isNone && r'.misses.length == r.misses.length

/-- Bytes read for a piece of work, which waits with its read. -/
def Run.readThen (r : Run) (x : Ctx) (req : Req) (pinned : Bool) (va n : Nat) (f : Run → Bytes → Run) : Run :=
  let p := Run.read r x req pinned va n
  if r.went p.1 then f p.1 p.2 else p.1

/-- Piece `i` of an operation's work, unless it has landed before. A piece that waits counts nothing yet. -/
def Run.piece (r : Run) (before : List Nat) (i : Nat) (f : Run → Run) : Run :=
  if r.err.isSome || before.contains i then r else
  let r' := f r
  if r.went r' then { r' with landed := i :: r'.landed } else { r' with wrote := r.wrote, put := r.put, got := r.got }

/-- Bytes of an operation's work that are written line by line; their pieces are numbered from `i0`. -/
def Run.writePieces (r : Run) (x : Ctx) (req : Req) (pinned : Bool) (before : List Nat) (i0 va : Nat) (bs : Bytes) : Run :=
  (chunksOf va bs.length).zipIdx.foldl (fun r (p, j) => r.piece before (i0 + j) fun r =>
    r.write x req pinned p.1 (sliceB bs (p.1 - va) p.2)) r

/-! ## Buffer slots (R219) -/

/-- Physical address of a slot's offset. -/
def Dev.slotPa (d : Dev) (q s o : Nat) : Nat :=
  vaultPa d.pkgId q (o / 256 * 0x8000 + 0x4000 + s * 0x100 + o % 256)

def Dev.slotBytes (d : Dev) (q s o n : Nat) : Bytes := (List.range n).map fun i => SMap.get d.mem (d.slotPa q s (o + i))

/-- Bytes written into a slot by an operation of a world, which fire its watches like any store (R239). -/
def Run.writeSlot (r : Run) (world q s o : Nat) (bs : Bytes) : Run :=
  if r.err.isSome then r else
  (chunks (bs.length / 128 + 2) o bs.length).foldl (fun (r, bs) (o, n) =>
    let pa := r.d.slotPa q s o
    let (d, t) := r.d.storePa r.t pa (bs.take n)
    ({ r with d := d.fireStores world pa n, t := t, wrote := r.wrote + n }, bs.drop n)) (r, bs) |>.1

/-- The logical time of slot bytes that an operation reads. -/
def Run.readSlot (r : Run) (q s o n : Nat) : Run × Bytes :=
  if r.err.isSome then (r, []) else
  let t := (r.d.quad q).slot s |>.ltime
  ({ r with t := Nat.max r.t t }, r.d.slotBytes q s o n)

def Dev.mapSlot (d : Dev) (q s : Nat) (f : Slot → Slot) : Dev :=
  ((d.setQuad q ((d.quad q).setSlot s (f ((d.quad q).slot s)))).latchQuad q)

/-! ## What a command does with slots (R221) -/

/-- CPY flags (Table 15.7). -/
def cpySrc (f : BitVec 13) : Nat := field f 0 2
def cpyDst (f : BitVec 13) : Nat := field f 2 2
def cpyForm (f : BitVec 13) : Nat := field f 4 2
def cpyConv (f : BitVec 13) : Bool := bit f 6
def cpySfmt (f : BitVec 13) : Nat := field f 7 4

/-- The slot a command fills, and the slot it reads. -/
def fillsSlot : Instr → Option Nat
  | .cpy _ _ _ bs _ fl => if cpyForm fl ≠ 0 ∨ cpyDst fl = 1 then some bs.toNat else none
  | .cpym _ _ _ bs _ _ => some bs.toNat
  | .bfarm _ _ _ bs _ _ => some bs.toNat
  | .mdrain _ _ bs _ fl => if bit fl 1 then none else some bs.toNat
  | _ => none

def readsSlot : Instr → Option Nat
  | .cpy _ _ _ bs _ fl => if cpyForm fl = 0 ∧ cpySrc fl = 1 ∧ cpyDst fl ≠ 1 then some bs.toNat else none
  | .mma _ bs _ => some bs.toNat
  | .mmaz _ bs _ => some bs.toNat
  | .mldb bs _ => some bs.toNat
  | _ => none

/-- Whether an event of a row of Table 15.4 may still reach a slot in this clock: none of a later row has (R221). -/
def Slot.allows (v : Slot) (clock row : Nat) : Bool := v.last.1 != clock || decide (v.last.2 ≤ row)

/-- Whether the slot states let a command start in a clock. -/
def Quad.slotReady (x : Quad) (clock : Nat) (i : Instr) : Bool :=
  (match fillsSlot i with | some s => (x.slot s).state == .free && (x.slot s).allows clock 1 | none => true) &&
  (match readsSlot i with | some s => (x.slot s).state == .full | none => true)

/-- A fill starts, by an event of row 1 or 7: the slot is filling, for the numbering and issuer of this operation. -/
def Dev.startFill (d : Dev) (clock row q e : Nat) (cmd : Cmd) : Dev :=
  match fillsSlot cmd.instr with
  | none => d
  | some s => d.mapSlot q s fun v =>
      { v with state := .filling, faulted := false, code := 0, seq := cmd.seq, filler := some (e, cmd.issuer.core),
               last := (clock, row),
               world := cmd.issuer.world, team := if cmd.issuer.node.isSome then none else some cmd.issuer.team }

/-! ## The end of an operation -/

/-- A tagged barrier's pending count falls by the bytes written, and never below zero; bytes beyond it are not joined
(R187). -/
def Dev.landOnBarrier (d : Dev) (bar : Option Nat) (t n : Nat) : Dev :=
  match bar with
  | none => d
  | some b =>
    let x := d.barrier b
    if n = 0 || x.pending == 0 then d
    else d.setBarrier b { x with pending := x.pending - n, ltime := Nat.max x.ltime t }

/-- A node's command is done, or ended in fault (R25). -/
def Dev.nodeEnded (d : Dev) (node : Option (Nat × Nat)) (fault : Option Nat) : Dev :=
  match node with
  | none => d
  | some (l, n) => d.endNode l n (if fault.isSome then 1 else 0) (fault.getD 0)

/-- Whether the core still runs the plane that issued a command: only then do its counters hold the command's bytes. -/
def Dev.issuedNow (d : Dev) (k : Nat) (i : Issuer) : Bool :=
  let c := d.core k
  c.active == some i.plane && (c.plane i.plane).gen == i.gen

/-- An operation ends: it leaves the engine, its slot, its counters, its barrier, the status word and its issuer all see
it in one clock (R195, R217, R221). An operation of a team that GDONE has ended counts as joined (R236). -/
def Dev.endOp (d : Dev) (clock q e : Nat) (cmd : Cmd) (t wrote : Nat) (lines : List Nat) (fault : Option Nat) : Dev :=
  let g := d.engine q e
  let lines := lines ++ cmd.lines
  let g := { g with running := g.running.filter fun o => o.seq != cmd.seq, ltime := Nat.max g.ltime t, lines := lines ++ g.lines,
                    fault := match fault with | some code => some (code, cmd.seq, cmd.issuer.core) | none => g.fault,
                    prog := g.prog.map fun p => if cmd.issuer.program ∧ fault.isSome then { p with opsFault := true } else p }
  let d : Dev := { d with faults := d.faults.filter fun (f : PageFault) => f.party != .engine q e cmd.seq }
  let d := (d.setEngine q e g).latchQuad q
  let d := match fillsSlot cmd.instr with
    | none => d
    | some s => d.mapSlot q s fun (v : Slot) =>
        if v.state = SlotState.filling ∧ v.seq = cmd.seq ∧ (v.filler.map Prod.fst) = some e then
          { v with state := .full, faulted := fault.isSome, code := fault.getD 0, ltime := t,
                   last := (clock, if fault.isSome then 3 else 2),
                   armed := if cmd.tile.isSome ∧ fault.isSome then none else v.armed }
        else v
  let d := d.landOnBarrier cmd.bar t wrote
  let d := match cmd.issuer.core with
    | none => d
    | some k =>
      let c := if d.issuedNow k cmd.issuer then (d.core k).release t lines cmd.charged else d.core k
      let gone := match Tab.get? d.teams cmd.issuer.team with | some t => t.gone | none => false
      if gone then d.setCore k { c with ops := c.ops.filter fun (o : OpRef) => !(o.eng == e && o.seq == cmd.seq) }
      else d.setCore k { c with ops := c.ops.map fun (o : OpRef) =>
        if o.eng = e ∧ o.seq = cmd.seq then { o with done := true, fault := fault } else o }
  d.nodeEnded cmd.issuer.node fault

/-- The pages of an engine operation's missing accesses that it does not wait on already are reported, one event each. -/
def Dev.reportMisses (d : Dev) (now : Now) (q e : Nat) (cmd : Cmd) (misses : List (Word × Bool)) : Dev :=
  misses.foldl (fun d (va, write) =>
    let known := d.faults.any fun f => f.party == .engine q e cmd.seq && f.va.toNat / 65536 == va.toNat / 65536
    if known then d else d.recordFault now (.engine q e cmd.seq) cmd.issuer.world (some q) va write) d

/-- What a waiting operation has read and written leaves the counters of its core (R184). -/
def Dev.landCharges (d : Dev) (cmd : Cmd) (r : Run) : Dev × List Charge :=
  match cmd.issuer.core with
  | none => (d, cmd.charged)
  | some k =>
    if d.issuedNow k cmd.issuer then
      let (c, hs) := (d.core k).landBytes cmd.charged r.got r.put
      (d.setCore k c, hs)
    else (d, cmd.charged)

/-- An engine operation waits for the host, counted as in flight; what has landed stays (R170, R187). -/
def Dev.waitOp (d : Dev) (now : Now) (q e : Nat) (cmd : Cmd) (r : Run) : Dev :=
  let (d, charged) := d.landCharges cmd r
  let g := d.engine q e
  let cmd : Cmd := { cmd with waiting := true, landed := r.landed ++ cmd.landed, ltime := r.t, charged := charged,
                              lines := r.lines ++ cmd.lines }
  let d := d.setEngine q e { g with running := g.running.map fun o => if o.seq = cmd.seq then cmd else o }
  (d.landOnBarrier cmd.bar r.t r.wrote).reportMisses now q e cmd r.misses

/-! ## Statistics tokens (R67, R68) -/

/-- Count tokens are added to the world's statistics record, each with one atomic add; where no valid record of kind 5
is named they are discarded, with one event. The port reads the record through the legend cache of die 0, and an add that
the record's page does not take is lost with those after it (log 11). -/
def Dev.landCounts (d : Dev) (x : Ctx) (world : Nat) (n : Counts) : Dev :=
  let w := d.world world
  let (d', r) := d.useKind x.seq 0 world w.statsTid [5]
  match r with
  | none =>
    if w.statsRefused then d'
    else (d'.setWorld world { w with statsRefused := true }).event x.now 8 0 0 (items [68, world, w.statsTid])
  | some r =>
    let add := fun (s : Run) (o v : Nat) =>
      let req : Req := { world := world, gen := 0, die := 0, quad := none, write := true, slot := some r.keySlot }
      let (s, old) := s.read x req true (r.base + o) 8
      s.write x req true (r.base + o) (bytesOfNat 8 (natOfBytes old + v))
    let s := add (add (add (add (add (Run.of d' 0) 0 n.nanIn) 8 n.overflow) 0x10 n.underflow)
      0x18 n.inexact) 0x20 1
    s.d

end Sys2Proof.Machine
end

