-- ==== Sys2Proof/Machine/Streams.lean ====
section
/-! DEFINITION. Stream ports (R171 to R176) and the stream instructions, major 0x3A (R231, R232). A stream context is
numbered (die * 96 + edge memory tile) * 4 + its place. -/

namespace Sys2Proof.Machine

def Dev.setStream (d : Dev) (n : Nat) (s : Stream) : Dev := { d with streams := Tab.put d.streams n s }

def streamDie (n : Nat) : Nat := n / 384
def streamPort (n : Nat) : Nat := n / 4 % 96

/-! ## The pattern -/

def Stream.total (s : Stream) : Nat := s.extents.foldl (· * ·) 1

/-- Loop indices of element `e`, dimension 0 innermost. -/
def loopIndices : List Nat → Nat → List Nat
  | [], _ => []
  | n :: ns, e => e % n :: loopIndices ns (e / n)

/-- Virtual address of element `e`. -/
def Stream.addr (s : Stream) (e : Nat) : Nat :=
  let steps := ((loopIndices s.extents e).zip s.strides).map fun (i, st) => Int.ofNat i * st
  wrapInt 64 (steps.foldl (· + ·) (Int.ofNat s.base.toNat))

/-- Elements that count toward the limit of 16 (R171). -/
def Stream.load (s : Stream) : Nat := s.inFlight.length + s.held.length + s.spill.length + s.returned.length

/-- A read stream requests elements up to the limit, while it is not frozen. -/
def Stream.refill (s : Stream) : Stream :=
  if s.toMemory || s.frozen || s.state != .streaming then s else
  let n := Nat.min (16 - s.load) (s.total - s.next)
  { s with next := s.next + n, inFlight := s.inFlight ++ (List.range n).map fun i => (s.next + i, []) }

/-- The stream is done once its pattern is fully delivered or written. -/
def Stream.settle (s : Stream) : Stream := if s.state = .streaming ∧ s.total ≤ s.elements then { s with state := .done } else s

/-- It ends in fault: what it holds is discarded (R174). -/
def Stream.endFault (s : Stream) : Stream :=
  { s with state := .fault, code := 0x0C, inFlight := [], held := [], spill := [], returned := [], frozen := false }

/-! ## Elements -/

/-- The requests of stream context `n`, which its edge memory tile makes itself. -/
def Stream.req (s : Stream) (n : Nat) : Req :=
  { world := s.world, gen := s.gen, die := streamDie n, quad := none, write := s.toMemory, slot := some s.keySlot }

/-- The access of one element, at a translated address: a read answers its data, a write performs it. -/
def Dev.streamAccess (d : Dev) (x : Ctx) (s : Stream) (va : Nat) (data : Bytes) : Xlate → Dev × Stream × Bytes
  | .mem pa =>
    if s.toMemory then
      let (d, t) := (d.traffic x.seq s.world pa data.length true).storePa s.ltime pa data
      (d.fireStores s.world pa data.length, { s with ltime := t, lines := noteLine s.lines pa }, [])
    else
      let (d, t, bs) := (d.traffic x.seq s.world pa s.esize false).loadPa x.seq none s.ltime pa s.esize
      (d, { s with ltime := t }, bs)
  | .port w => if s.toMemory then (d.portWrite x.now false w va data, s, []) else (d, s, List.replicate s.esize 0)
  | .regs w off =>
    if s.toMemory then (d.writeRegister x.now w off (wordOf data), s, []) else (d, s, d.registerBytes x.now.clock w off s.esize)
  | _ => (d, s, [])

/-- Delivers one element, or counts one written. -/
def Stream.deliver (s : Stream) (e : Nat) (data : Bytes) : Stream :=
  { s with elements := s.elements + 1, returned := if s.toMemory then s.returned else s.returned ++ [(e, data)] }

/-- An ordered read stream delivers held elements in element order. -/
def Stream.flush : Nat → Stream → Stream
  | 0, s => s
  | n + 1, s =>
    if s.toMemory || s.commutative then s else
    match s.held with
    | (e, data) :: rest => if e = s.elements then Stream.flush n ({ s with held := rest }.deliver e data) else s
    | [] => s

/-- Performs element `e`. In an ordered stream a write beyond a spilled element is held, and a read is delivered in its
turn. -/
def Dev.streamPerform (d : Dev) (x : Ctx) (n : Nat) (s : Stream) (e : Nat) (data : Bytes) (t : Xlate) : Dev :=
  let beyond := s.frozen && !s.commutative && s.spill.any fun p => decide (p.1 < e)
  let keep := fun (s : Stream) (data : Bytes) =>
    { s with held := insertBy (fun a b => decide (a.1 < b.1)) (e, data) s.held }
  if s.toMemory && beyond then d.setStream n (keep s data)
  else
    let (d, s, got) := (d.walked x.seq (streamDie n) s.world (s.addr e)).streamAccess x s (s.addr e) data t
    let s := if s.toMemory || s.commutative then s.deliver e got else (keep s got).flush 17
    d.setStream n s.refill.settle

def Stream.inFlightData (s : Stream) (e : Nat) : Option Bytes := (s.inFlight.find? fun p => p.1 == e).map Prod.snd

/-- A missing translation or a permission fault, with its cause of Table 11.4, if element `e` of context `n` meets one. -/
def Dev.streamFaults (d : Dev) (seq n : Nat) (s : Stream) (e : Nat) : Option Nat :=
  match d.translate seq (s.req n) (s.addr e) with
  | .miss c => some c
  | .deny true => some 3
  | _ => none

/-- Whether element `e` cannot be had at all: no such address, a request dropped at another world's quad or port, a write
through a read-only TID, or a missing translation of a pinned one (R74, R162, R164, R174, R295). -/
def Dev.streamEnds (d : Dev) (seq n : Nat) (s : Stream) (e : Nat) : Bool :=
  (s.toMemory && s.readOnly) || (match d.translate seq (s.req n) (s.addr e) with
    | .deny false => true
    | .drop _ _ => true
    | .miss _ => s.pinned
    | _ => false)

/-- A stream ends in fault at element `e`; a dropped request is counted. -/
def Dev.endStream (d : Dev) (x : Ctx) (n : Nat) (s : Stream) (e : Nat) : Dev :=
  (d.refused x.now (s.req n) (d.translate x.seq (s.req n) (s.addr e))).setStream n s.endFault

/-- A frozen stream thaws once its spill queue is empty and no held element remains (R173). -/
def Stream.thaw (s : Stream) : Stream :=
  (if s.frozen && s.spill.isEmpty && s.held.isEmpty then { s with frozen := false } else s).refill.settle

/-- STREAM_ELEMENT_RETURN (R171): element `e` of stream context `n` returns and is delivered or held. -/
def execStreamElementReturn (n e : Nat) : State → Host.Outcome State Fault Refusal :=
  run fun x d =>
    match Tab.get? d.streams n with
    | none => d
    | some s =>
      match s.inFlightData e with
      | none => d
      | some data =>
        if s.waits then d
        else if d.streamEnds x.seq n s e then d.endStream x n s e
        else if (d.streamFaults x.seq n s e).isSome then d
        else
          let d := d.streamPerform x n { s with inFlight := s.inFlight.filter fun p => p.1 != e } e data
            (d.translate x.seq (s.req n) (s.addr e))
          match Tab.get? d.streams n with
          | none => d
          | some s => d.setStream n s.thaw

/-! ## Stream faults (R172 to R176) -/

/-- The 64-byte record of Table 11.4. -/
def streamRecord (n : Nat) (s : Stream) (e cause : Nat) : Bytes :=
  bytesOfNat 2 s.world ++ bytesOfNat 1 (streamDie n) ++ bytesOfNat 1 (streamPort n) ++ bytesOfNat 2 s.tid ++
  bytesOfNat 1 (b2n s.commutative + 2 * b2n s.toMemory) ++ bytesOfNat 1 cause ++ bytesOfNat 8 (s.addr e) ++
  bytesOf 8 s.base ++ s.extents.flatMap (bytesOfNat 2) ++ s.strides.flatMap (fun st => bytesOfNat 4 (wrapInt 32 st)) ++
  (loopIndices s.extents e).flatMap (bytesOfNat 2) ++ bytesOfNat 4 e ++ bytesOfNat 1 s.spill.length ++ bytesOfNat 3 0

/-- The port writes a fault record into its status and sends it to the host (R172). -/
def Dev.streamEvent (d : Dev) (now : Now) (n : Nat) (s : Stream) (e cause : Nat) : Dev :=
  let bs := streamRecord n s e cause
  (d.event now 5 s.world (streamDie n) bs).setStream n { s with record := e, report := bs }

/-- STREAM_ELEMENT_FAULT (R172): the element moves to the spill queue; a stream not yet frozen freezes, with one record. -/
def execStreamElementFault (n e : Nat) : State → Host.Outcome State Fault Refusal :=
  run fun x d =>
    match Tab.get? d.streams n with
    | none => d
    | some s =>
      match s.inFlightData e, d.streamFaults x.seq n s e with
      | some data, some cause =>
        if s.waits then d
        else if d.streamEnds x.seq n s e then d.endStream x n s e
        else
          let d := d.walked x.seq (streamDie n) s.world (s.addr e)
          let gone : Stream := { s with inFlight := s.inFlight.filter fun p => p.1 != e,
                                        spill := insertBy (fun a b => decide (a.1 < b.1)) (e, data) s.spill }
          if s.frozen then d.setStream n gone
          else d.streamEvent x.now n { gone with frozen := true, frozenAt := x.now.ns, raised := false } e cause
      | _, _ => d

/-- STREAM_FAULT_TIMEOUT (R175): an ordered stream frozen for fault_timeout microseconds raises STREAM_FAULT once. -/
def Dev.streamTimesOut (d : Dev) (now : Now) (s : Stream) : Bool :=
  let c := d.core s.core
  let t := (c.plane s.plane).faultTimeout
  s.frozen && !s.raised && !s.commutative && t != 0 && decide (s.frozenAt + 1000 * t ≤ now.ns) && c.active == some s.plane

def execStreamFaultTimeout (n : Nat) : State → Host.Outcome State Fault Refusal :=
  run fun x d =>
    match Tab.get? d.streams n with
    | none => d
    | some s =>
      if d.streamTimesOut x.now s then
        let c := d.core s.core
        let info := BitVec.ofNat 64 (s.number + s.record % 2 ^ 32 * 2 ^ 32)
        (d.setStream n { s with raised := true }).setCore s.core { c with async := c.async ++ [{ cause := Cause.streamFault, info := info }] }
      else d

/-- Replays a spill queue after a resolution (R173): what translates is performed in element order, with the held writes
up to the next faulting element; the rest returns to the queue. -/
def Dev.streamReplay (d : Dev) (x : Ctx) (n : Nat) (s : Stream) : Dev :=
  let again := s.spill.filter fun p => (d.streamFaults x.seq n s p.1).isSome
  let low := again.head?.map Prod.fst
  let below := fun (p : Nat × Bytes) => match low with | none => true | some e => s.commutative || decide (p.1 < e)
  let ok := s.spill.filter fun p => (d.streamFaults x.seq n s p.1).isNone
  let goHeld := s.toMemory && !s.commutative
  let todo := ok.filter below ++ (if goHeld then s.held.filter below else [])
  let late := ok.filter fun p => !below p
  let s' : Stream := { s with spill := again, held := if goHeld then s.held.filter (fun p => !below p) else s.held }
  let d := (sortBy (fun a b => decide (a.1 < b.1)) todo ++ (if s.toMemory then [] else late)).foldl
    (fun (d : Dev) p => match Tab.get? d.streams n with
      | some s => d.streamPerform x n s p.1 p.2 (d.translate x.seq (s.req n) (s.addr p.1))
      | none => d) (d.setStream n s')
  match Tab.get? d.streams n with
  | none => d
  | some s'' =>
    let s'' : Stream := if goHeld then
      { s'' with held := sortBy (fun a b => decide (a.1 < b.1)) (s''.held ++ late) } else s''
    match low with
    | none => d.setStream n s''.thaw
    | some e => d.streamEvent x.now n s'' e ((d.streamFaults x.seq n s e).getD 1)

/-- A resolution of a page applies to every frozen stream that has a faulting element on it (R173, R174). -/
def Dev.streamResolve (d : Dev) (x : Ctx) (invalid : Bool) (n : Nat) : Dev :=
  match Tab.get? d.streams n with
  | none => d
  | some s => if invalid then d.setStream n s.endFault else d.streamReplay x n s

/-! ## The copy engine's side (R226) -/

/-- A copy takes whole elements, up to `want` bytes, in the order they were delivered. -/
def Dev.takeStream (d : Dev) (n want : Nat) : Dev × Bytes :=
  match Tab.get? d.streams n with
  | none => (d, [])
  | some s =>
    let m := want / s.esize
    (d.setStream n ({ s with returned := s.returned.drop m } : Stream).refill,
      (s.returned.take m).flatMap Prod.snd)

/-- A write stream accepts whole elements while fewer than 16 are in flight, held or spilled. -/
def Dev.giveStream (d : Dev) (n : Nat) (t : Nat) (bs : Bytes) : Dev × Nat :=
  match Tab.get? d.streams n with
  | none => (d, 0)
  | some s =>
    let room := if s.frozen || s.state != .streaming then 0 else 16 - s.load
    let m := Nat.min (Nat.min room (bs.length / s.esize)) (s.total - s.accepted)
    let new := (List.range m).map fun i => (s.accepted + i, sliceB bs (i * s.esize) s.esize)
    (d.setStream n { s with accepted := s.accepted + m, inFlight := s.inFlight ++ new, ltime := Nat.max s.ltime t }, m * s.esize)

/-! ## SOPEN, SCLOSE, SSTAT, SDRAIN -/

def toI (x : Nat) : Int := toSigned 64 x

/-- What R231 asks of a pattern record. -/
def patternOk (r : Rec) : Bool :=
  decide (r.rank ≤ 4) && (List.range 4).all (fun i => decide (r.extent i ≤ 65535) &&
    decide (-(2 ^ 31 : Int) ≤ toI (r.stride i)) && decide (toI (r.stride i) < (2 ^ 31 : Int))) &&
  r.format != 5 && r.format != 0xC

def openStream (d : Dev) (k num : Nat) (r : Rec) (toMemory : Bool) : Stream :=
  let c := d.core k
  ({ core := k, number := num, plane := c.active.getD 0, world := c.world, gen := c.cur.gen, tid := r.tid,
     toMemory := toMemory, base := BitVec.ofNat 64 r.base, span := r.span, extents := (List.range 4).map r.extent,
     strides := (List.range 4).map fun i => toI (r.stride i), esize := formatBytes r.format,
     commutative := r.commutative, pinned := r.pinned, readOnly := r.readOnly, keySlot := r.keySlot,
     state := .streaming, code := 0, next := 0, inFlight := [], held := [], spill := [], returned := [], accepted := 0,
     elements := 0, frozen := false, frozenAt := 0, raised := false, record := 0, report := [], waits := true, joined := false,
     ltime := c.orderTime, lines := [] } : Stream).refill

/-- An instruction of a core that reads the registers `regs`. -/
def streamOp (regs : List Reg) (f : Ctx → Nat → Dev → Res) : State → Host.Outcome State Fault Refusal :=
  onCore fun x k d => if regs.any (d.core k).pendingG then .stall none else f x k d

/-- The same for one that waits for the core's earlier accesses (log 13). -/
def syncOp (regs : List Reg) (f : Ctx → Nat → Dev → Res) : State → Host.Outcome State Fault Refusal :=
  onCoreSync fun x k d => if regs.any (d.core k).pendingG then .stall none else f x k d

/-- In the clock after SOPEN, or once its core's earlier accesses have been performed, a stream begins (R171, R179). -/
def Dev.beginStreams (d : Dev) : Dev :=
  { d with streams := Tab.map (fun n (s : Stream) =>
      if s.waits && (d.core s.core).held.contains (.stream n) then s else { s with waits := false }) d.streams }

/-- SOPEN: it writes the lowest free stream number (log 6), or all ones where no context or number is free. -/
def execSopen (a b : Reg) (tid : BitVec 11) (dir : BitVec 1) : State → Host.Outcome State Fault Refusal :=
  streamOp [b] fun x k d =>
    let c := d.core k
    if 95 < (c.readG b).toNat then .trap Cause.illegal (wordOfInstr (.sopen a b tid dir)) else
    match d.useKind x.seq (k / 1024) c.world tid.toNat [0] with
    | (_, none) => .trap Cause.badHandle (zext64 tid)
    | (d, some r) =>
      if !patternOk r then .trap Cause.badHandle (zext64 tid) else
      let place := (k / 1024 * 96 + (c.readG b).toNat) * 4
      let ctx := (List.range 4).find? fun i => (Tab.get? d.streams (place + i)).isNone
      let num := (List.range 16).find? fun i => (Tab.get? c.streams i).isNone
      match ctx, num with
      | some i, some n =>
        let s := openStream d k n r (dir == 1)
        let held := if c.blocked then c.held ++ [.stream (place + i)] else c.held
        .done ((d.setStream (place + i) s).setCore k
          { c.writeG a (BitVec.ofNat 64 n) with streams := Tab.put c.streams n (place + i), held := held })
      | _, _ => .done (d.setCore k (c.writeG a (BitVec.allOnes 64)))

/-- The stream that a register names; none traps BAD_HANDLE with the register's value. -/
def Dev.namedStream (d : Dev) (k : Nat) (r : Reg) : Option (Nat × Nat × Stream) :=
  let c := d.core k
  let v := (c.readG r).toNat
  match Tab.get? c.streams v with
  | none => none
  | some n => if 16 ≤ v then none else (Tab.get? d.streams n).map fun s => (v, n, s)

def Stream.stateCode (s : Stream) : Nat :=
  match s.state with | .closed => 0 | .streaming => 1 | .done => 2 | .fault => 3

/-- Table 15.10. -/
def Stream.status (s : Stream) : Word :=
  BitVec.ofNat 64 (s.elements % 2 ^ 32 * 2 ^ 32 + s.spill.length * 2 ^ 16 + s.code * 2 ^ 8 + 4 * b2n s.frozen + s.stateCode)

def streamWait (num : Nat) : Option Wait := waitFor 6 (0x20 + num) 1 0

/-- A context closes and is free again. -/
def Dev.closeStream (d : Dev) (k num n : Nat) : Dev :=
  let c := d.core k
  { d with streams := Tab.del d.streams n }.setCore k { c with streams := Tab.del c.streams num }

/-- Elements that a write stream has accepted and not performed. -/
def Stream.owes (s : Stream) : Bool := s.toMemory && !(s.inFlight.isEmpty && s.held.isEmpty && s.spill.isEmpty)

def execSclose (a : Reg) : State → Host.Outcome State Fault Refusal :=
  streamOp [a] fun _ k d =>
    match d.namedStream k a with
    | none => .trap Cause.badHandle ((d.core k).readG a)
    | some (num, n, s) =>
      if s.owes then .stall (streamWait num)
      else .done ((if s.toMemory then d.joinAt k s.ltime s.lines else d).closeStream k num n)

/-- A status read that sees the stream done or ended in fault; done is a join. -/
def Dev.readStream (d : Dev) (k n : Nat) (a : Reg) (s : Stream) : Dev :=
  let d := if s.state = .done then d.joinAt k s.ltime s.lines else d
  let d := if s.state = .done ∨ s.state = .fault then d.setStream n { s with joined := true } else d
  d.setCore k ((d.core k).writeG a s.status)

def execSstat (a b : Reg) : State → Host.Outcome State Fault Refusal :=
  streamOp [b] fun _ k d =>
    match d.namedStream k b with
    | none => .trap Cause.badHandle ((d.core k).readG b)
    | some (_, n, s) => .done (d.readStream k n a s)

def execSdrain (a b : Reg) : State → Host.Outcome State Fault Refusal :=
  streamOp [b] fun _ k d =>
    match d.namedStream k b with
    | none => .trap Cause.badHandle ((d.core k).readG b)
    | some (num, n, s) => if s.state = .streaming then .stall (streamWait num) else .done (d.readStream k n a s)

end Sys2Proof.Machine
end

