-- ==== Sys2Proof/Machine/Timed.lean ====
section
/-! DEFINITION. Timed windows and the timed instructions, major 0x50 (R276 to R290). A window is numbered by its handle,
die * 64 + window. -/

namespace Sys2Proof.Machine

def Dev.setWin (d : Dev) (h : Nat) (w : TWin) : Dev := { d with windows := Tab.put d.windows h w }

def TWin.count (w : TWin) (a : Nat) : Nat := Tab.getD w.counts (a % w.n) 0
def TWin.setCount (w : TWin) (a n : Nat) : TWin := { w with counts := Tab.put w.counts (a % w.n) n }

/-- Scheduled time of slot c (R282). -/
def TWin.due (w : TWin) : Nat := w.t0 + w.c * w.period + w.delay
def TWin.stalled (w : TWin) : Bool := decide (w.o + w.n ≤ w.c)
/-- A HOLD slot waits for its records or its grace (R282). -/
def TWin.holding (w : TWin) (ns : Nat) : Bool :=
  w.policy == 2 && !w.stalled && decide (w.due ≤ ns) && decide (w.count w.c < w.expected) && decide (ns < w.due + w.grace)
/-- Whether slot c closes now. -/
def TWin.closes (w : TWin) (ns : Nat) : Bool := !w.stalled && decide (w.due ≤ ns) && !w.holding ns
/-- Whether it may close in this clock: one slot closes in a clock, before the clock's placements (R281, R282). -/
def TWin.mayClose (w : TWin) (now : Now) : Bool :=
  w.closes now.ns && w.closedAt != some now.clock && w.placedAt != some now.clock

/-! ## Binding (R276, R286) -/

/-- The window that a record describes, if it satisfies R276 and Table 19.1. -/
def windowOf (world : Nat) (r : Rec) : Option TWin :=
  let n := u16At r.data 0
  let k := if u8At r.data 2 = 0 then 8 else u8At r.data 2
  let policy := u8At r.data 3
  let expected := u8At r.data 4
  let period := u64At r.data 8
  let delay := u64At r.data 0x18
  let grace := u64At r.data 0x20
  let ingest := u64At r.data 0x28
  if r.format = 0xC ∧ r.rank = 2 ∧ r.extent 0 = k ∧ r.extent 1 = n ∧ r.stride 0 = 32 ∧ r.stride 1 = 32 * k ∧
      r.pinned = true ∧ 32 * k * n ≤ r.span ∧ 1 ≤ n ∧ n ≤ 4096 ∧ n = 2 ^ Nat.log2 n ∧ k ≤ 64 ∧ policy ≤ 2 ∧
      (if policy = 2 then 1 ≤ expected ∧ expected ≤ k else expected = 0 ∧ grace = 0) ∧
      zeroB (sliceB r.data 5 3) = true ∧ zeroB (sliceB r.data 0x30 16) = true ∧ 1000 ≤ period ∧ period ≤ 2 ^ 40 ∧
      delay < 2 ^ 40 ∧ grace < 2 ^ 40 ∧ ingest % 65536 = 0 then
    some { world := world, tid := r.tid, base := BitVec.ofNat 64 r.base, keySlot := r.keySlot, readOnly := r.readOnly,
           n := n, k := k, policy := policy, expected := expected, period := period, t0 := u64At r.data 0x10,
           delay := delay, grace := grace, ingest := BitVec.ofNat 64 ingest, o := 0, g := 0, c := 0, counts := [],
           lateDropped := 0, lateMoved := 0, ahead := 0, full := 0, overrun := 0, malformed := 0, lateSeen := false,
           aheadSeen := false, overrunSeen := false, sinkFault := false, pending := 0, armed := none, inbox := [],
           openAt := 0, closedAt := none, placedAt := none, ltime := 0 }
  else none

/-- The least slot whose scheduled time exceeds device time. -/
def TWin.firstSlot (w : TWin) (ns : Nat) : Nat := if ns < w.t0 + w.delay then 0 else (ns - (w.t0 + w.delay)) / w.period + 1

/-- TWBIND, bind (R286). -/
def execTwbind (a : Reg) (tid : BitVec 11) : State → Host.Outcome State Fault Refusal :=
  streamOp [] fun x k d =>
    let c := d.core k
    let (d', r) := d.useKind x.seq (k / 1024) c.world tid.toNat [2]
    match r.bind (windowOf c.world) with
    | none => .trap Cause.badHandle (zext64 tid)
    | some w =>
      match (List.range 64).find? fun i => (Tab.get? d.windows (k / 1024 * 64 + i)).isNone with
      | none => .done (d'.setCore k ((d'.core k).writeG a (BitVec.allOnes 64)))
      | some i =>
        let h := k / 1024 * 64 + i
        let n := w.firstSlot x.now.ns
        .done ((d'.setWin h { w with o := n, g := n, c := n, openAt := x.now.clock + 1, ltime := c.orderTime }).setCore k
          ((d'.core k).writeG a (BitVec.ofNat 64 h)))

/-- The window that a handle names for a core (R285). -/
def Dev.window (d : Dev) (k : Nat) (v : Word) : Option (Nat × TWin) :=
  if 256 ≤ v.toNat then none
  else match Tab.get? d.windows v.toNat with
    | some w => if w.world = (d.core k).world then some (v.toNat, w) else none
    | none => none

/-- A timed instruction that names a window by register `r`. -/
def windowOp (r : Reg) (regs : List Reg) (f : Ctx → Nat → Dev → Nat → TWin → Res) : State → Host.Outcome State Fault Refusal :=
  streamOp (r :: regs) fun x k d =>
    match d.window k ((d.core k).readG r) with
    | none => .trap Cause.badHandle ((d.core k).readG r)
    | some (h, w) => f x k d h w

/-! ## Ticks (R283) -/

/-- The launched node that a window fires. -/
def Dev.armedNode (d : Dev) (w : TWin) : Option (Nat × Nat × Node) :=
  match w.armed with
  | none => none
  | some (g, n) =>
    match d.launchOf w.world g n with
    | none => none
    | some l => ((Tab.get? d.launches l).bind fun (x : Launch) => x.node n).map fun y => (l, n, y)

/-- An instance of the armed node is ready, dispatched or running. -/
def Dev.armedRuns (d : Dev) (w : TWin) : Bool := match d.armedNode w with | some (_, _, y) => y.runs != 0 | none => false

/-- One tick of a window (R283). -/
def Dev.tick (d : Dev) (now : Now) (h : Nat) : Dev :=
  match Tab.get? d.windows h with
  | none => d
  | some w =>
    if w.armed.isNone then d else
    let running := d.armedRuns w
    let free := match d.armedNode w with | some (_, _, y) => y.preds == 0 && y.runs == 0 | none => false
    match d.armedNode w, free with
    | some (l, n, _), true => d.ready now l n
    | _, _ =>
      let lost := w.pending == 255
      let w' : TWin := { w with pending := if lost then w.pending else w.pending + 1, overrunSeen := w.overrunSeen || running,
                                overrun := if running || lost then w.overrun + 1 else w.overrun }
      (d.setWin h w').count w.world 14 (if lost then 0 else 1)

/-- A waiting tick readies one instance once none runs and the predecessors have finished. -/
def Dev.drainTick (d : Dev) (now : Now) (h : Nat) : Dev :=
  match Tab.get? d.windows h with
  | none => d
  | some w =>
    match d.armedNode w with
    | some (l, n, y) =>
      if w.pending ≠ 0 ∧ y.preds = 0 ∧ y.runs = 0 then (d.setWin h { w with pending := w.pending - 1 }).ready now l n else d
    | none => d

/-- Window and trigger firings of a graph's nodes that were waiting for the launch or for predecessors. -/
def Dev.drainFirings (d : Dev) (now : Now) (world : Nat) : Dev :=
  let d := (Tab.keys (fun _ (w : TWin) => w.world == world && w.armed.isSome) d.windows).foldl (fun d h => d.drainTick now h) d
  (Tab.keys (fun key (t : Trigger) => key / 256 == world && t.handler.isSome) d.triggers).foldl (fun d key => d.drainTrigger now key) d

/-- A window is disarmed: its pending ticks are discarded, and a node with no instance left is finished (R283, R289). -/
def Dev.disarm (d : Dev) (h : Nat) : Dev :=
  match Tab.get? d.windows h with
  | none => d
  | some w =>
    let d' := d.setWin h { w with armed := none, pending := 0 }
    match d.armedNode w with
    | some (l, n, y) => if y.runs = 0 ∧ y.preds = 0 then d'.endNode l n 3 0 else d'
    | none => d'

/-- TWBIND, unbind (R286). -/
def execTwbindUnbind (a : Reg) : State → Host.Outcome State Fault Refusal :=
  windowOp a [] fun _ _ d h _ =>
    let d := d.disarm h
    .done { d with windows := Tab.del d.windows h }

/-! ## Slots (R287, R288, R290) -/

def TWin.slotAddr (w : TWin) (a : Nat) : Nat := w.base.toNat + 32 * w.k * (a % w.n)

/-- TWGET (R287): the core joins the slot's records, and its quad drops its copies of their lines (R178, R180). -/
def execTwget (a b c : Reg) (nowait : BitVec 1) : State → Host.Outcome State Fault Refusal :=
  windowOp c [] fun _ k d h w =>
    if w.g < w.c then
      let lo := w.slotAddr w.g
      let d := ((d.setWin h { w with g := w.g + 1 }).joinAt k w.ltime []).dropRange w.world (quadOfCore k) lo (lo + 32 * w.k)
      .done (d.setCore k (((d.core k).writeG a (BitVec.ofNat 64 lo)).writeG b
        (BitVec.ofNat 64 (w.g % 2 ^ 48 * 2 ^ 16 + w.count w.g))))
    else if nowait = 1 then .done (d.setCore k (((d.core k).writeG a 0).writeG b 0))
    else .stall (waitFor 6 (0x100 + h) 1 0)

/-- TWREL (R288): it waits until the core's earlier accesses have been performed. -/
def execTwrel (a : Reg) : State → Host.Outcome State Fault Refusal :=
  windowOp a [] fun _ k d h w =>
    if w.g ≤ w.o then .trap Cause.illegal (wordOfInstr (.twrel a))
    else if (d.core k).blocked then .stall none
    else .done (d.setWin h { w.setCount w.o 0 with o := w.o + 1, ltime := Nat.max w.ltime (d.core k).orderTime })

/-- Tables 19.4 and 19.5. -/
def TWin.status (w : TWin) (ns : Nat) (running : Bool) (sel : Nat) : Word :=
  if sel = 0 then
    BitVec.ofNat 64 (w.c % 2 ^ 32 * 2 ^ 32 + (w.c - w.o) * 2 ^ 19 + b2n w.sinkFault * 2 ^ 16 + w.pending * 2 ^ 8 +
      b2n (w.holding ns) * 2 ^ 7 + b2n w.overrunSeen * 2 ^ 6 + b2n w.lateSeen * 2 ^ 5 + b2n w.aheadSeen * 2 ^ 4 +
      b2n w.stalled * 2 ^ 3 + b2n running * 2 ^ 2 + b2n w.armed.isSome * 2 + 1)
  else if sel = 1 then w.lateMoved ++ w.lateDropped
  else if sel = 2 then w.ahead ++ w.full
  else w.overrun ++ w.malformed

/-- TWSTAT (R290). -/
def execTwstat (a b : Reg) (sel : BitVec 2) : State → Host.Outcome State Fault Refusal :=
  windowOp b [] fun x k d h w =>
    let w' : TWin := if sel = 0 then { w with sinkFault := false, overrunSeen := false, lateSeen := false, aheadSeen := false } else w
    .done ((d.setWin h w').setCore k ((d.core k).writeG a (w.status x.now.ns (d.armedRuns w) sel.toNat)))

/-! ## TICKARM and TNOW (R289, R275) -/

/-- Whether node `n` of a graph record is of a kind, in the graph image as it stands. -/
def Dev.nodeOfKind (d : Dev) (seq world : Nat) (r : Option Rec) (n kind : Nat) : Bool :=
  match r.bind (d.readImage seq world) with
  | some g => (g.nodes[n]?).any fun (y : NodeEntry) => y.kind == kind
  | none => false

/-- TICKARM, arm. -/
def execTickarm (a b : Reg) (tid : BitVec 11) : State → Host.Outcome State Fault Refusal :=
  windowOp a [b] fun x k d h w =>
    let c := d.core k
    let v := (c.readG b).toNat
    let (d', r) := d.useKind x.seq (k / 1024) c.world tid.toNat [6]
    let elsewhere := d.windows.any fun (_, (o : TWin)) => o.world == c.world && o.armed == some (tid.toNat, v)
    if w.armed.isSome then .trap Cause.badHandle (c.readG a)
    else if decide (65535 < v) || !d.nodeOfKind x.seq c.world r v 4 || elsewhere then .trap Cause.badHandle (zext64 tid)
    else .done (d'.setWin h { w with armed := some (tid.toNat, v), pending := 0 })

/-- TICKARM, disarm. -/
def execTickarmDisarm (a : Reg) : State → Host.Outcome State Fault Refusal :=
  windowOp a [] fun _ _ d h _ => .done (d.disarm h)

/-- TNOW. -/
def execTnow (a : Reg) : State → Host.Outcome State Fault Refusal :=
  onCore fun x k d => .done (d.setCore k ((d.core k).writeG a x.now.word))

/-! ## The window unit (R280 to R282) -/

/-- The slot a record belongs to; a record whose slot has closed goes to slot c under NEXT. -/
def TWin.slotFor (w : TWin) (timestamp : Nat) : Int := toSigned 64 (timestamp + 2 ^ 64 - w.t0 % 2 ^ 64) / Int.ofNat w.period

/-- A record with its LATE bit as the window unit writes it (R277). -/
def lateRecord (late : Bool) (bs : Bytes) : Bytes :=
  bs.zipIdx.map fun (b, i) => if i = 0xA then (b &&& 0xFE) ||| BitVec.ofNat 8 (b2n late) else b

/-- A record that goes to slot `a` is counted, written into the sink, or dropped (R280). -/
def Dev.place (d : Dev) (x : Ctx) (h : Nat) (w : TWin) (rec_ : Bytes) (a : Nat) (moved : Bool) : Dev :=
  if w.o + w.n ≤ a then d.setWin h { w with ahead := w.ahead + 1, aheadSeen := true }
  else if w.k ≤ w.count a then d.setWin h { w with full := w.full + 1 }
  else
    let va := w.slotAddr a + 32 * w.count a
    let r := Run.of d w.ltime
    let req : Req := { world := w.world, gen := 0, die := h / 64, quad := none, write := true, slot := some w.keySlot }
    let r := if w.readOnly then r.fail 0x0C else r.write x req true va (lateRecord moved rec_)
    if r.stopped then r.d.setWin h { w with malformed := w.malformed + 1, sinkFault := true }
    else
      let w := (Tab.get? r.d.windows h).getD w
      let w : TWin := { w.setCount a (w.count a + 1) with ltime := r.t }
      r.d.setWin h (if moved then { w with lateMoved := w.lateMoved + 1, lateSeen := true } else w)

/-- The oldest completed record of a window is placed, moved or dropped (R280). -/
def Dev.takeRecord (d : Dev) (x : Ctx) (h : Nat) : Dev :=
  match Tab.get? d.windows h with
  | none => d
  | some w =>
    match w.inbox with
    | [] => d
    | rec_ :: rest =>
      let w : TWin := { w with inbox := rest, placedAt := some x.now.clock }
      let a := w.slotFor (u64At rec_ 0)
      if a < Int.ofNat w.c then
        if w.policy = 1 then (d.setWin h w).place x h w rec_ w.c true
        else d.setWin h { w with lateDropped := w.lateDropped + 1, lateSeen := true }
      else (d.setWin h w).place x h w rec_ a.toNat false

/-- Whether no release or closing that may still come in this clock, before the placements, could change where the window's
oldest record goes (R281). -/
def TWin.settled (w : TWin) (now : Now) : Bool :=
  (w.closedAt == some now.clock || w.placedAt == some now.clock || (!w.closes now.ns && !(w.stalled && decide (w.due ≤ now.ns)))) &&
  (match w.inbox with | [] => true | rec_ :: _ => decide (w.slotFor (u64At rec_ 0) < Int.ofNat (w.o + w.n))) &&
  !(w.policy == 1 && w.stalled)

/-- INGEST_RECORD (R280): the oldest completed record of window `h` is placed before the end of its clock, where nothing
that comes before it in the clock is left. -/
def execIngestRecord (h : Nat) : State → Host.Outcome State Fault Refusal :=
  run fun x d =>
    match Tab.get? d.windows h with
    | none => d
    | some w => if w.settled x.now then d.takeRecord x h else d

/-- Slot c of a window closes, if it may, and on an armed window it ticks (R282). -/
def Dev.closeSlot (d : Dev) (x : Ctx) (h : Nat) : Dev :=
  match Tab.get? d.windows h with
  | none => d
  | some w =>
    if w.mayClose x.now then (d.setWin h { w with c := w.c + 1, closedAt := some x.now.clock }).tick x.now h else d

/-- SLOT_CLOSE (R282). -/
def execSlotClose (h : Nat) : State → Host.Outcome State Fault Refusal :=
  run fun x d => d.closeSlot x h

/-- A window at the end of a clock: what is due to close has closed, and every record that has arrived is placed (R281). -/
def Dev.settleWindow (d : Dev) (x : Ctx) (h : Nat) : Dev :=
  let d := d.closeSlot x h
  match Tab.get? d.windows h with
  | none => d
  | some w => w.inbox.length.repeat (fun d => d.takeRecord x h) d

/-- Every window at the end of a clock. -/
def Dev.settleWindows (d : Dev) (x : Ctx) : Dev :=
  (Tab.keys (fun _ _ => true) d.windows).foldl (fun d h => d.settleWindow x h) d

end Sys2Proof.Machine
end

