-- ==== Sys2Proof/Machine/Graph.lean ====
section
/-! DEFINITION. Launching graphs (R23 to R25, R235, R318, R319) and the graph and scheduling instructions, major 0x48
(R233 to R240). -/

namespace Sys2Proof.Machine

/-! ## Completion records (R319) -/

/-- Table 23.3. -/
def completionRecord (tag : Word) (status node launch : Nat) : Bytes :=
  bytesOf 8 tag ++ bytesOfNat 2 status ++ bytesOfNat 2 node ++ bytesOfNat 4 launch

/-- The record at the host's address, unless it is not wanted, and then the completion event of a world's function. -/
def Dev.complete (d : Dev) (now : Now) (world queue doneAddr : Nat) (noRecord : Bool) (rec_ : Bytes) : Dev :=
  if (d.world world).tdisp = .error then d else
  let d : Dev := if noRecord then d else { d with hostMem := SMap.setRun d.hostMem doneAddr rec_ }
  d.event now 1 world 0 (rec_ ++ bytesOfNat 8 queue)

/-! ## Launching -/

def newNode (y : NodeEntry) (preds : Nat) : Node :=
  { kind := y.kind, body := y.body, valueSel := y.sel, place := y.place, program := y.program, command := y.command,
    va := y.va, vb := y.vb, vc := y.vc, operands := y.ops, preds := preds, state := .waiting, runs := 0 }

def Image.newNodes (g : Image) : Tab Node := g.nodes.zipIdx.map fun (y, i) => (i, newNode y (g.inDegree i))

/-- The die of a world's graph walker: that of its lowest-numbered quad (R24). -/
def World.walkerDie (w : World) : Nat := dieOfQuad (quadOfIndex (w.partition.foldl Nat.min 1023))

def Dev.recordNow (d : Dev) (seq die world tid : Nat) : Option Rec := (d.useRecord seq die world tid).2

/-- The checks of a launch (R23, R28, R32, R189): the graph and its lowest racing pair, or none where it is refused. -/
def Dev.checkGraph (d : Dev) (seq world level : Nat) (coreside : Bool) (r : Option Rec) : Option (Image × Option (Nat × Nat)) :=
  let w := d.world world
  let die := w.walkerDie
  match r.bind (d.readImage seq world) with
  | none => none
  | some g =>
    if g.ok w (fun t => (d.recordNow seq die world t).isSome) && g.placeable w level coreside then
      some (g, g.race fun t => match d.recordNow seq die world t with | some r => (r.base, r.base + r.span) | none => (0, 0))
    else none

/-- The roots of an accepted launch become ready, and firings that waited for it take effect (R24, R283, R240). -/
def Dev.acceptLaunch (d : Dev) (now : Now) (x : Launch) : Dev × Nat :=
  let l := d.nextLaunch
  let d : Dev := { d with nextLaunch := l + 1 }.setLaunch l x
  let roots := Tab.keys (fun _ (y : Node) => y.preds == 0 && decide (y.kind < 4)) x.nodes
  ((roots.foldl (fun d n => d.ready now l n) d).drainFirings now x.world, l)

/-- One launch: the checks, the race mode, the parameter set that stays with the graph, and acceptance. None where it is
refused. -/
def Dev.launchGraph (d : Dev) (x : Ctx) (world tid queue level : Nat) (coreside noRecord : Bool) (doneAddr : Nat) (tag : Word)
    (params : SMap 64) (r : Option Rec) (ltime : Nat) : Dev × Option Nat :=
  match d.checkGraph x.seq world level coreside r with
  | none => (d, none)
  | some (g, race) =>
    let d' := match race with | some (i, j) => d.event x.now 8 world 0 (items [189, i, j]) | none => d
    if race.isSome && !(d.world world).warn then (d', none)
    else
      let w := d'.world world
      let d' := d'.setWorld world { w with params := Tab.put w.params tid params }
      let (d', l) := d'.acceptLaunch x.now
        { world := world, graph := tid, queue := queue, level := level, coreside := coreside, noRecord := noRecord,
          doneAddr := doneAddr, tag := tag, params := params, nodes := g.newNodes, edges := g.edges,
          raced := race.isSome, failed := none, failSettled := false, ended := false, ltime := ltime }
      (d', some l)

/-! ## GLAUNCH, GPARAM, GDONE (R235 to R237) -/

/-- The 64 parameter loads of GLAUNCH. -/
def paramAccess (c : Core) (a : Word) : Access :=
  { pc := c.pc, kind := .load, bytes := 8, elems := (List.range 64).map fun i => { lane := i, va := a + BitVec.ofNat 64 (8 * i), data := 0, cmp := 0 },
    dst := .none, spread := 0, tag := 0 }

/-- An access of an instruction that waits at its pc for a page-fault resolution, the host told once (R137). The host's
answer `invalid` ends it in ACCESS. -/
def Dev.awaitPage (d : Dev) (now : Now) (k : Nat) (va : Word) : Res :=
  let mine := fun (f : PageFault) => f.party == .core k && f.va == va
  match d.faults.find? mine with
  | some f =>
    if f.invalid then .trapPart { d with faults := d.faults.filter fun f => !mine f } Cause.access va else .stall none
  | none => .wait (d.recordFault now (.core k) (d.core k).world (some (quadOfCore k)) va false) .none none

def Dev.glaunch (d : Dev) (x : Ctx) (k : Nat) (b : Reg) (tid : BitVec 11) (flags : BitVec 3) (params : SMap 64) : Res :=
  let c := d.core k
  let (d, r) := d.useKind x.seq (k / 1024) c.world tid.toNat [6]
  if r.isNone then .trap Cause.badHandle (zext64 tid) else
  let (d, l) := d.launchGraph x c.world tid.toNat 4096 (field flags 0 2) (bit flags 2) true 0 0 params r c.orderTime
  match l with
  | some l => .done (d.setCore k ((d.core k).writeG b (BitVec.ofNat 64 l)))
  | none =>
    let d := d.complete x.now c.world 4096 0 true (completionRecord 0 3 0xFFFF 0xFFFFFFFF)
    .done (d.setCore k ((d.core k).writeG b (BitVec.allOnes 64)))

/-- GLAUNCH (R235). -/
def execGlaunch (a b : Reg) (tid : BitVec 11) (flags : BitVec 3) : State → Host.Outcome State Fault Refusal :=
  syncOp [a] fun x k d =>
    let c := d.core k
    if c.readG a = 0 then d.glaunch x k b tid flags []
    else
      let acc := paramAccess c (c.readG a)
      match elemCheck 8 acc.elems with
      | some (cause, va) => .trap cause va
      | none =>
        match d.access x k acc with
        | .done d vals => d.glaunch x k b tid flags (SMap.ofList (vals.map Prod.snd))
        | .deny d va => .trapPart d Cause.access va
        | .fault va => d.awaitPage x.now k va

/-- GPARAM (R237). -/
def execGparam (a b : Reg) (tid : BitVec 11) : State → Host.Outcome State Fault Refusal :=
  syncOp [a, b] fun x k d =>
    let c := d.core k
    let (d, r) := d.useKind x.seq (k / 1024) c.world tid.toNat [6]
    if r.isNone then .trap Cause.badHandle (zext64 tid)
    else if 63 < (c.readG b).toNat then .trap Cause.illegal (wordOfInstr (.gparam a b tid))
    else
      let w := d.world c.world
      let set := SMap.set (Tab.getD w.params tid.toNat []) (c.readG b).toNat (c.readG a)
      .done (d.setWorld c.world { w with params := Tab.put w.params tid.toNat set })

/-- A team's channels are flushed (R210). -/
def Dev.flushChans (d : Dev) (team : Nat) : Dev :=
  { d with chans := Tab.map (fun _ (ch : Chan) => if ch.team = team then
      { ch with head := ch.tail, filled := 0, credits := ch.slots, reserved := 0, fills := [], backs := [] } else ch) d.chans }

/-- The cores on which a team's plane is ACTIVE. -/
def Dev.liveCores (d : Dev) (t : Team) : List Nat :=
  (t.cores.filter fun (k, n) => (d.core k).active == some n).map Prod.fst

/-- A core stops issuing for good; what it waited on is given up. -/
def Core.stop (c : Core) : Core := { c with halted := true, wait := none, stage := .none }

/-- GDONE (R236): every core of the team halts in one clock, and its channels are flushed. -/
def Dev.gdone (d : Dev) (team : Nat) (t : Team) : Dev :=
  let d := (d.liveCores t).foldl (fun d k =>
    d.setCore k { (d.core k).stop with ops := (d.core k).ops.filter fun (o : OpRef) => !o.done }) d
  { d with teams := Tab.put d.teams team { t with gone := true } }.flushChans team

def execGdone : State → Host.Outcome State Fault Refusal :=
  onCore fun _ k d =>
    let c := d.core k
    if c.blocked || !(c.fenceCounters true []).isEmpty then .stall (c.fenceWait (List.range 8))
    else
      let d := d.actFence k 3 5 []
      let team := c.cur.team
      match Tab.get? d.teams team with
      | none => .done (d.setCore k (d.core k).stop)
      | some t => .done (d.gdone team t)

/-! ## FORK and JOIN (R34, R233, R234) -/

/-- g1 to g15 of the forking core. -/
def Core.globals (c : Core) : SMap 64 := SMap.window (c.g.filter fun e => decide (e.1 < 16)) 0 16

/-- Starts a program; an entry outside the code ends it in fault. -/
def Dev.startProg (d : Dev) (k e : Nat) (entry : Word) : Dev :=
  let c := d.core k
  let q := quadOfCore k
  let p : Prog := { core := k, pc := BitVec.ofNat 64 (8 * entry.toNat), g := c.globals, joined := false, ended := none,
                    opsFault := false, wait := none }
  let d := d.setEngine q e { d.engine q e with prog := some p }
  if 8 ≤ entry.toNat ∧ entry.toNat < c.cur.codeWords then d else d.progFault q e 0x01

/-- Whether a core stands at its JOIN. -/
def Core.atJoin (c : Core) : Bool :=
  c.wait.isSome && !c.halted && (match decode (c.cur.word (c.pc.toNat / 8)) with | .ok .join => true | _ => false)

/-- Whether a program has reached its JOIN, or has ended there in fault (R34). -/
def Prog.arrived (p : Prog) : Bool := p.joined || p.wait.any fun w => w.kind == 6 && w.handle == 0

/-- The member mask of a quad's open rendezvous, and the mask of the members that have reached JOIN; `self` is a core that
stands at a JOIN (R41). -/
def Dev.memberMasks (d : Dev) (q : Nat) (self : Option Nat) : Nat × Nat :=
  match (d.quad q).rendezvous with
  | none => (1, 1)
  | some (k, es) =>
    let there := es.filter fun e => (d.engine q e).prog.all Prog.arrived
    (1 + bitMask (es.map (· + 1)), b2n (self == some k || (d.core k).atJoin) + bitMask (there.map (· + 1)))

/-- What a party of the rendezvous, or a FORK that it holds up, waits on (Table 1.7). -/
def Dev.memberWait (d : Dev) (q : Nat) (self : Option Nat) : Option Wait :=
  let m := d.memberMasks q self
  waitFor 6 0 m.1 m.2

def execFork (a b c : Reg) (mask : BitVec 3) : State → Host.Outcome State Fault Refusal :=
  onCore fun _ k d =>
    let r := d.core k
    let q := quadOfCore k
    let es := (List.range 3).filter fun i => bit mask i
    if (es.map fun i => [a, b, c].getD i 0).any r.pendingG || ((List.range 16).any fun i => r.pendingG (BitVec.ofNat 6 i)) then .stall none
    else if (d.quad q).rendezvous.isSome then .stall (d.memberWait q none)
    else
      let d := es.foldl (fun d i => d.startProg k i (r.readG ([a, b, c].getD i 0))) d
      .done (d.setQuad q { d.quad q with rendezvous := some (k, es) })

/-- The engines of the rendezvous that a core has open. -/
def Dev.forked (d : Dev) (k : Nat) : List Nat :=
  match (d.quad (quadOfCore k)).rendezvous with
  | some (k', es) => if k' = k then es else []
  | none => []

/-- Whether a program has commands that have not ended. -/
def Engine.progBusy (g : Engine) : Bool := (g.queue ++ g.running).any fun o => o.issuer.program

/-- Closes a core's rendezvous: its programs end. -/
def Dev.closeRendezvous (d : Dev) (k : Nat) : Dev :=
  let q := quadOfCore k
  let d := (d.forked k).foldl (fun d e => d.setEngine q e { d.engine q e with prog := none }) d
  d.setQuad q { d.quad q with rendezvous := none }

/-- Engines whose operation of this core, or whose program, ended in fault. -/
def Dev.joinFaults (d : Dev) (k : Nat) : List Nat :=
  let q := quadOfCore k
  (List.range 3).filter fun e =>
    (d.core k).ops.any (fun (o : OpRef) => o.eng == e && o.fault.isSome) ||
    ((d.forked k).contains e && match (d.engine q e).prog with | some p => p.ended.isSome || p.opsFault | none => false)

/-- JOIN on a core. -/
def Dev.joinCore (d : Dev) (k : Nat) : Res :=
  let q := quadOfCore k
  let es := d.forked k
  let arrived := es.filter fun e => match (d.engine q e).prog with | some p => p.joined | none => true
  if arrived.length < es.length || es.any (fun e => (d.engine q e).progBusy) || (d.core k).ops.any fun (o : OpRef) => !o.done then
    .stall (if es.isEmpty then waitFor 6 0 1 1 else d.memberWait q (some k))
  else
    let faults := d.joinFaults k
    let d' := (List.range 3).foldl (fun d e =>
      if es.contains e || (d.core k).ops.any (fun (o : OpRef) => o.eng == e) then (d.observeFault k e).joinEngine k e else d) d
    let d' := if es.isEmpty then d' else d'.closeRendezvous k
    match faults with
    | [] => .done d'
    | e :: _ => .trapNext d' Cause.engineFault (d.engine q e).status

/-- JOIN: on an engine sequencer it waits for the operations of the engine's own program and is its last instruction. -/
def execJoin : State → Host.Outcome State Fault Refusal :=
  run fun x d =>
    match x.actor with
    | .core k => d.finish x.now k (d.joinCore k)
    | .engine q e =>
      if (d.engine q e).progBusy then
        let d := d.mapProg q e fun p => { p with wait := waitFor 6 0 1 1 }
        d.mapProg q e fun p => { p with wait := d.memberWait q none }
      else ((d.issuedBy q e).mapProg q e fun p => { p with joined := true, wait := none }).latchQuad q

/-! ## Priority queues (R238) -/

def Dev.pqueue (d : Dev) (n : Nat) : PQueue := Tab.getD d.pqueues n { world := none, entries := [], ltime := 0 }

/-- A queue instruction: the queue that register `r` names must be the world's. -/
def queueOp (r : Reg) (regs : List Reg) (f : Ctx → Nat → Dev → Nat → PQueue → Res) : State → Host.Outcome State Fault Refusal :=
  syncOp (r :: regs) fun x k d =>
    let v := (d.core k).readG r
    if 64 ≤ v.toNat then .trap Cause.badHandle v
    else
      let p := d.pqueue v.toNat
      if p.world = some (d.core k).world then f x k d v.toNat p else .trap Cause.badHandle v

def queueWait (n : Nat) : Option Wait := waitFor 6 (0x40 + n) 1 0

/-- An access of the queue at one point of the total order. -/
def Dev.setPq (d : Dev) (k n : Nat) (p : PQueue) : Dev :=
  let c := d.core k
  let t := Nat.max c.orderTime p.ltime
  { d with pqueues := Tab.put d.pqueues n { p with ltime := t } }.setCore k { c with ltime := t }

/-- PQPUSH. -/
def execPqpush (a b c : Reg) : State → Host.Outcome State Fault Refusal :=
  queueOp c [a, b] fun _ k d n p =>
    let r := d.core k
    if 65536 ≤ p.entries.length then .stall (queueWait n)
    else .done (d.setPq k n { p with entries := p.entries ++ [((r.readG a).truncate 32, (r.readG b).truncate 32)] })

/-- Places of the entries that have fewer than 32 entries with a key below theirs. -/
def PQueue.lowest (p : PQueue) : List Nat :=
  (p.entries.zipIdx.filter fun (e, _) => decide ((p.entries.filter fun o => decide (o.1.toNat < e.1.toNat)).length < 32)).map Prod.snd

/-- PQPOP: which of the allowed entries it takes is free. -/
def execPqpop (a b c : Reg) : State → Host.Outcome State Fault Refusal :=
  queueOp c [] fun x k d n p =>
    match p.lowest with
    | [] => .stall (queueWait n)
    | i :: is =>
      let j := pick x.seq 1 i (i :: is)
      let e := p.entries.getD j (0, 0)
      let d := d.setPq k n { p with entries := dropAt p.entries j }
      .done (d.setCore k (((d.core k).writeG a (zext64 e.1)).writeG b (zext64 e.2)))

/-! ## Triggers (R239, R240) -/

/-- Binding a slot: it fires once if its pending bit is set, and a count that it kept readies instances. -/
def Dev.bindTrigger (d : Dev) (now : Now) (key : Nat) (w : Watch) (h : Nat × Nat) : Dev :=
  let t := Tab.getD d.triggers key Trigger.empty
  let n := if t.pending then Nat.min (t.count + 1) 0xFFFF else t.count
  { d with triggers := Tab.put d.triggers key { t with pending := false, count := n, watch := some w, handler := some h } }.drainTrigger
    now key

/-- TRIGBIND: g_a names the slot and the handler, whose node must be a data-triggered task of the graph. -/
def trigbind (a b c : Reg) (tid : BitVec 11) (i : Instr) (watch : Nat → Word → Word → Watch) : State → Host.Outcome State Fault Refusal :=
  syncOp [a, b, c] fun x k d =>
    let r := d.core k
    let v := r.readG a
    let node := field v 8 16
    let (d, g) := d.useKind x.seq (k / 1024) r.world tid.toNat [6]
    if 2 ^ 24 ≤ v.toNat then .trap Cause.illegal (wordOfInstr i)
    else if !d.nodeOfKind x.seq r.world g node 5 then .trap Cause.badHandle (zext64 tid)
    else .done (d.bindTrigger x.now (r.world * 256 + field v 0 8) (watch (quadOfCore k) (r.readG b) (r.readG c))
      (tid.toNat, node))

/-- TRIGBIND with a store watch. -/
def execTrigbindStoreWatch (a b c : Reg) (tid : BitVec 11) : State → Host.Outcome State Fault Refusal :=
  trigbind a b c tid (.trigbindStoreWatch a b c tid) fun q lo n => .stores lo.toNat (lo.toNat + n.toNat) q

/-- TRIGBIND with a ring watch. -/
def execTrigbindRingWatch (a b c : Reg) (tid : BitVec 11) : State → Host.Outcome State Fault Refusal :=
  trigbind a b c tid (.trigbindRingWatch a b c tid) fun _ ring n => .ring (field ring 0 11) (field n 0 12)

/-- TRIGBIND, unbind: the count stays for the next binding. -/
def execTrigbindUnbind (a : Reg) : State → Host.Outcome State Fault Refusal :=
  syncOp [a] fun _ k d =>
    let r := d.core k
    let v := r.readG a
    let key := r.world * 256 + field v 0 8
    if 2 ^ 24 ≤ v.toNat then .trap Cause.illegal (wordOfInstr (.trigbindUnbind a))
    else match Tab.get? d.triggers key with
      | none => .done d
      | some t => .done { d with triggers := Tab.put d.triggers key { t with watch := none, handler := none } }

/-- TRIGFIRE. -/
def execTrigfire (a : Reg) : State → Host.Outcome State Fault Refusal :=
  syncOp [a] fun _ k d =>
    let r := d.core k
    .done (d.fire (r.world * 256 + field (r.readG a) 0 8))

end Sys2Proof.Machine
end

