-- ==== Sys2Proof/Machine/System.lean ====
section
/-! DEFINITION. System instructions, major 0x01 (R106 to R110), and special registers and TLBI, major 0x02 (R111 to R113). -/

namespace Sys2Proof.Machine

def execNop : State → Host.Outcome State Fault Refusal := onRegs fun c => .done c

/-- HALT (R107). -/
def execHalt : State → Host.Outcome State Fault Refusal := onRegs fun c => .done { c with halted := true }

/-- BRK and TRAP (R106, Table 7.7): the instruction completes and TRAP_INFO holds the code. -/
def execBrk (code : BitVec 48) : State → Host.Outcome State Fault Refusal :=
  onCore fun _ _ d => .trapNext d Cause.brk (zext64 code)

def execTrap (code : BitVec 48) : State → Host.Outcome State Fault Refusal :=
  onCore fun _ _ d => .trapNext d Cause.trap (zext64 code)

/-- ERET (R133). -/
def execEret : State → Host.Outcome State Fault Refusal :=
  onRegs fun c => if c.inHandler then .jump c.eret c.trapPc else .trap Cause.illegal (wordOfInstr .eret)

/-- WFE (R108). A timeout of 0 traps; a set latch completes it at once; otherwise it waits until a clock count. -/
def execWfe (clocks : BitVec 32) : State → Host.Outcome State Fault Refusal :=
  onCore fun x k d =>
    let c := d.core k
    let go := Res.done (d.setCore k { c with latch := false })
    if clocks = 0 then .trap Cause.illegal (wordOfInstr (.wfe clocks))
    else if c.latch then go
    else match c.stage with
      | .wfe deadline => if deadline ≤ x.now.clock then go else .stall none
      | _ => .wait d (.wfe (x.now.clock + clocks.toNat)) none

/-- The members of a team's predicate network: the cores whose plane runs one of its roles (R35). -/
def Dev.members (d : Dev) (t : Team) : List Nat :=
  (t.cores.filter fun (k, n) => ((d.core k).plane n).member).map Prod.fst

/-- PHASE (R109, R35): it votes once every long-latency result has landed, and waits for the selection. -/
def execPhase (vote : BitVec 1) : State → Host.Outcome State Fault Refusal :=
  onCore fun _ k d =>
    let c := d.core k
    if c.inHandler then .trap Cause.illegal (wordOfInstr (.phase vote))
    else if !c.pend.isEmpty then .stall none
    else match Tab.get? d.teams c.cur.team with
      | none => .stall (waitFor 4 0xFFFFFFFF 0 0)
      | some t =>
        let w := fun (t : Team) => waitFor 4 0xFFFFFFFF (d.members t).length t.votes.length
        if t.votes.any fun v => v.1 == k then .stall (w t)
        else
          let t := { t with votes := t.votes ++ [(k, vote == 1)] }
          .wait { d with teams := Tab.put d.teams c.cur.team t } .voted (w t)

/-- A group of count tokens leaves for the world's statistics record (R67). -/
def Dev.emit (d : Dev) (world : Nat) (counts : Counts) : Dev :=
  { d with tokens := d.tokens ++ [{ tag := d.nextToken, world := world, counts := counts }], nextToken := d.nextToken + 1 }

/-- NCNT (R110): it always emits a group, and completes when that group has landed. -/
def execNcnt : State → Host.Outcome State Fault Refusal :=
  onCore fun _ k d =>
    let c := d.core k
    match c.stage with
    | .counting tag => if d.tokens.any fun t => t.tag == tag then .stall none else .done d
    | _ => .wait ((d.setCore k { c with counts := Counts.zero }).emit c.world c.counts) (.counting d.nextToken) none

/-! ## Special registers (Tables 5.2 to 5.5) -/

/-- SPILL_BASE: the local-window address of vault offset 0x8000 * (63 - core) (R126). -/
def spillBase (k : Nat) : Word := BitVec.ofNat 64 (vaLocal + 0x8000 * (63 - k % 4))

def Core.ctxStatus (c : Core) : Word :=
  BitVec.ofNat 64 (4 * b2n c.inHandler + 2 * b2n c.rngWrap + b2n c.scopeClamped)

def Core.winDepth (c : Core) : Word := BitVec.ofNat 64 (c.spilled * 2 ^ 16 + c.resident)

/-- The value of a special register; none for a number that Table 5.2 does not list. -/
def Dev.special (d : Dev) (now : Now) (k n : Nat) : Option Word :=
  let c := d.core k
  let nat := fun (x : Nat) => some (BitVec.ofNat 64 x)
  if 0x050 ≤ n ∧ n ≤ 0x08F then some (SMap.get c.cur.params (n - 0x050))
  else match n with
    | 0x000 => nat (k % 4)
    | 0x001 => nat (k / 4 % 256)
    | 0x002 => nat (k / 1024)
    | 0x003 => nat d.pkgId
    | 0x004 => nat c.cur.role
    | 0x005 => nat c.cur.team
    | 0x006 => nat c.world
    | 0x007 => nat (c.active.getD 0)
    | 0x010 => some c.trapPc
    | 0x011 => some (zext64 c.trapCause)
    | 0x012 => some c.trapInfo
    | 0x020 => some c.ctxStatus
    | 0x021 => some (zext64 c.fpstat)
    | 0x030 => some now.word
    | 0x040 => some c.winDepth
    | 0x041 => some (spillBase k)
    | 0x042 => some (spillBase k + BitVec.ofNat 64 (264 * c.cur.spillWindows))
    | 0x100 => nat now.clock
    | _ => none

/-- SRD (R111). -/
def execSrd (p : Pred) (rd : Reg) (sreg : BitVec 32) : State → Host.Outcome State Fault Refusal :=
  onCore fun x k d => scalarDev p [] (fun c =>
    match d.special x.now k sreg.toNat with
    | some v => .done (d.setCore k (c.writeG rd v))
    | none => .trap Cause.illegal (wordOfInstr (.srd p rd sreg))) d k

/-- The bits of SWR's value that a register's fields act on (R80, R112). A flag that a landing sets in the same clock ends
set (R147). -/
def Core.writeSpecial (c : Core) (n : Nat) (v word : Word) : CRes :=
  match n with
  | 0x010 => if v &&& 0x3FF8 = v then .done { c with trapPc := v } else .trap Cause.illegal word
  | 0x020 =>
    if v &&& 7 ≠ v then .trap Cause.illegal word
    else if bit v 2 then .trap Cause.priv (BitVec.ofNat 64 n)
    else .done { c with rngWrap := c.rngWrap && !bit v 1, scopeClamped := c.scopeClamped && !bit v 0 }
  | 0x021 =>
    if v &&& 0x1F ≠ v then .trap Cause.illegal word
    else .done { c with fpstat := (c.fpstat &&& ~~~v.truncate 5) ||| c.newFlags }
  | _ => .trap Cause.priv (BitVec.ofNat 64 n)

/-- SWR (R112). -/
def execSwr (p : Pred) (ra : Reg) (sreg : BitVec 32) : State → Host.Outcome State Fault Refusal :=
  onCore fun x k d => scalarDev p [ra] (fun c =>
    let word := wordOfInstr (.swr p ra sreg)
    if (d.special x.now k sreg.toNat).isNone then .trap Cause.illegal word
    else (c.writeSpecial sreg.toNat (c.readG ra) word).lift d k) d k

/-- The stale translations that a TLBI drops (R113). -/
def Dev.tlbi (d : Dev) (kind world va : Nat) : Dev :=
  let gone := fun (e : StaleLeaf) =>
    kind == 0 || (e.world == world && (kind == 1 || [2, 3, 4].any fun l => leafKeyAt l va == e.key))
  { d with stale := d.stale.filter fun e => !gone e }

/-- TLBI (R113): PRIV outside the root world, whatever the predicate selects (R89 check 5). -/
def execTlbi (p : Pred) (rd ra : Reg) (kind : BitVec 32) : State → Host.Outcome State Fault Refusal :=
  onCore fun _ k d =>
    if (d.core k).world ≠ 0 then .trap Cause.priv (wordOfInstr (.tlbi p rd ra kind))
    else scalarDev p [rd, ra] (fun c =>
      .done (d.tlbi kind.toNat (field (c.readG rd) 0 8) (field (c.readG ra) 0 56))) d k

end Sys2Proof.Machine
end

