-- ==== Sys2Proof/Machine/Events.lean ====
section
/-! DEFINITION. Events of a core and of the units that serve it: landing results (R33), asynchronous causes (R130), the
WFE timeout (R108), PHASE selections (R35, R36), arrivals on channels, beads and barriers (R187, R201, R209, R214), count
tokens (R68) and the expiry of leases (R178). An event that is not due leaves the device as it is. -/

namespace Sys2Proof.Machine

/-! ## Landing results -/

/-- What a landing result does: a live one writes its destination; its flags are set in any case (R33, R59, R147). -/
def Core.take (c : Core) (p : Landing) : Core :=
  let c : Core := { c with fpstat := c.fpstat ||| p.flags, newFlags := c.newFlags ||| p.flags }
  if !p.live then c else
  match p.dst with
  | .none => c
  | .g phys => { c with g := SMap.set c.g phys ((p.vals.headD (0, 0)).2) }
  | .v r => { c with v := setLanes c.v r (p.vals.map fun v => (v.1, v.2.truncate 32)) }

/-- A clock passes for the results of fixed latency: those whose time has come land, oldest first (R115, R147). -/
def Core.clock (c : Core) : Core :=
  let step := c.pend.map fun p => { p with timer := p.timer.map fun n => n - 1 }
  let c : Core := { c with newFlags := 0, pend := step.filter fun p => p.timer != some 0 }
  (step.filter fun p => p.timer == some 0).foldl Core.take c

/-- The reply of a load or atomic lands: a live result writes its destination (R33, R147). -/
def Core.land (c : Core) (i : Nat) : Core :=
  match c.pend[i]? with
  | none => c
  | some p =>
    if !p.ready || p.timer.isSome then c else
    ({ c with pend := dropAt c.pend i } : Core).take p

/-- RESULT_LANDS: result `i`, oldest first, of core `k`. -/
def execResultLands (k i : Nat) : State → Host.Outcome State Fault Refusal :=
  run fun _ d => d.setCore k ((d.core k).land i)

/-! ## Asynchronous causes (R130, R135) -/

/-- The stall of a core is given up with no effect: an arrival, a vote or a token group that the stalled instruction has
sent is taken back (log 18). -/
def Dev.abandon (d : Dev) (k : Nat) : Dev :=
  let c := d.core k
  match c.stage with
  | .arrived key epoch tagged =>
    let b := d.barrier key
    if b.epoch.toNat = epoch ∧ b.who.contains k = true then
      (d.setBarrier key { b with arrived := b.arrived - 1, who := b.who.erase k }).setCore k
        { c with arrivals := Tab.del c.arrivals key, barx := if tagged then some key else c.barx }
    else d
  | .voted =>
    match Tab.get? d.teams c.cur.team with
    | some t => { d with teams := Tab.put d.teams c.cur.team { t with votes := t.votes.filter fun v => v.1 != k } }
    | none => d
  | .counting tag =>
    match d.tokens.find? fun (t : Tokens) => t.tag == tag with
    | some t => { d with tokens := d.tokens.filter fun (t : Tokens) => t.tag != tag }.setCore k { c with counts := t.counts }
    | none => d
  | _ => d

/-- The pending cause of the lowest code, and the others. -/
def firstCause : List AsyncCause → Option (AsyncCause × List AsyncCause)
  | [] => none
  | a :: as =>
    match firstCause as with
    | none => some (a, as)
    | some (b, _) => if b.cause < a.cause then some (b, a :: as.erase b) else some (a, as)

/-- ASYNC_TRAP_TAKEN: the core takes a pending cause, unless it is in its handler; a halted core only tells the host. -/
def execAsyncTrapTaken (k : Nat) : State → Host.Outcome State Fault Refusal :=
  run fun x d =>
    let c := d.core k
    match firstCause c.async with
    | none => d
    | some (a, rest) =>
      if c.halted then (d.setCore k { c with async := rest }).trapEvent x.now k a.cause a.info c.trapPc
      else if !c.started || c.inHandler then d
      else
        let d := d.abandon k
        (d.setCore k { d.core k with async := rest }).takeTrap x.now k a.cause a.info c.pc

/-! ## WFE and PHASE -/

/-- WFE_TIMEOUT (R108). -/
def execWfeTimeout (k : Nat) : State → Host.Outcome State Fault Refusal :=
  run fun x d =>
    let c := d.core k
    match c.stage with
    | .wfe deadline => if deadline ≤ x.now.clock then (d.setCore k { c with latch := false }).retire k (c.pc + 8) else d
    | _ => d

/-- Entry of the phase table at an index (R35). -/
def Plane.phaseEntry (p : Plane) (i : Nat) : Nat := p.phaseTable / 2 ^ (4 * i) % 16

/-- A member restarts at a context in clock `at_`, or halts (R36): registers and bindings keep their values. -/
def Dev.restart (d : Dev) (at_ k i : Nat) : Dev :=
  let c := d.core k
  let e := c.cur.phaseEntry i
  if e = 15 then d.setCore k c.stop
  else
    (d.setCore k { c with resident := 1, spilled := 0, rets := [], startAt := at_ }).retire k (BitVec.ofNat 64 (8 * c.cur.entry e))

/-- PHASE_SELECT: every member has voted. -/
def execPhaseSelect (team : Nat) : State → Host.Outcome State Fault Refusal :=
  run fun x d =>
    match Tab.get? d.teams team with
    | none => d
    | some t =>
      let ms := d.members t
      if ms.isEmpty || !(ms.all fun k => t.votes.any fun v => v.1 == k) then d
      else
        let i := 2 * b2n (t.votes.all Prod.snd) + b2n (t.votes.any Prod.snd)
        ms.foldl (fun d k => d.restart (x.now.clock + 1) k i) { d with teams := Tab.put d.teams team { t with votes := [] } }

/-! ## Channels (R209) -/

/-- A core's latch is set if its ACTIVE plane is a team's. -/
def Dev.latchOf (d : Dev) (k team : Nat) : Dev := if (d.core k).active.isSome ∧ (d.core k).cur.team = team then d.setLatch k else d

/-- A token or bead for a core whose quad is no longer its world's is dropped at the quad, and its sender is not told
(R295). -/
def Dev.dropToken (d : Dev) (now : Now) (world sender target : Nat) : Dev :=
  let q := quadOfCore target
  d.foreignDrop now (dieOfQuad q) world (d.core sender).cur.gen (q % 256)

/-- CHANNEL_FILL_ARRIVAL: the oldest published count reaches the consumer. -/
def execChannelFillArrival (i : Nat) : State → Host.Outcome State Fault Refusal :=
  run fun x d =>
    match Tab.get? d.chans i with
    | none => d
    | some ch =>
      match ch.fills with
      | [] => d
      | n :: rest =>
        if !(d.world ch.world).owns (quadOfCore ch.cons) then
          (d.setChan i { ch with fills := rest }).dropToken x.now ch.world ch.prod ch.cons
        else
          ((d.setChan i { ch with filled := ch.filled + n, fills := rest }).latchOf ch.cons ch.team).fireRing ch.world ch.tid
            ch.filled (ch.filled + n)

/-- CHANNEL_CREDIT_ARRIVAL: the oldest consumed count returns to the producer. -/
def execChannelCreditArrival (i : Nat) : State → Host.Outcome State Fault Refusal :=
  run fun x d =>
    match Tab.get? d.chans i with
    | none => d
    | some ch =>
      match ch.backs with
      | [] => d
      | n :: rest =>
        if !(d.world ch.world).owns (quadOfCore ch.prod) then
          (d.setChan i { ch with backs := rest }).dropToken x.now ch.world ch.cons ch.prod
        else (d.setChan i { ch with credits := ch.credits + n, backs := rest }).latchOf ch.prod ch.team

/-! ## Beads (R213, R214) -/

/-- BEAD_ARRIVAL: the bead of route `i` enters its empty port, not in the clock in which BBEAD has emptied it, or is dropped
where the plane is no longer ACTIVE. -/
def execBeadArrival (i : Nat) : State → Host.Outcome State Fault Refusal :=
  run fun x d =>
    match Tab.get? d.beads i with
    | none => d
    | some r =>
      match r.fly with
      | none => d
      | some b =>
        let c := d.core r.dst
        let d' : Dev := { d with beads := Tab.put d.beads i { r with fly := none } }
        let world := (d.core r.src).world
        if c.active.isNone ∨ c.cur.team ≠ r.team ∨ c.cur.state ≠ .active then d'
        else if !(d.world c.world).owns (quadOfCore r.dst) then d'.dropToken x.now world r.src r.dst
        else if (Tab.get? c.ports r.port).isSome || Tab.get? c.portAt r.port == some x.now.clock then d
        else d'.setCore r.dst { c with ports := Tab.put c.ports r.port b, portTimes := Tab.put c.portTimes r.port r.flyTime,
                                       latch := true }

/-! ## Barriers (R187, R201) -/

/-- Whether an instance is complete. -/
def Dev.barDone (d : Dev) (key : Nat) : Bool :=
  let b := d.barrier key
  let n := d.declared key
  n != 0 && decide (n ≤ b.arrived) && b.pending == 0

/-- A participant of a completed instance: its later accesses, and its bead sends within the scope, follow every
participant's earlier ones, so its quad drops every copy; and it joins the operations tagged to the barrier (R178, R187). -/
def Dev.joinBarrier (d : Dev) (key t k : Nat) : Dev :=
  let d := (d.joinAt k t []).dropLeases fun l => l.quad == quadOfCore k
  let c := (d.core k).keep (barScope key)
  d.setCore k { c with ops := c.ops.filter fun (o : OpRef) => !(o.done && o.bar == some key && o.fault.isNone) }

/-- BARRIER_COMPLETE: the epoch moves on, and every participant joins. -/
def execBarrierComplete (key : Nat) : State → Host.Outcome State Fault Refusal :=
  run fun _ d =>
    if !d.barDone key then d else
    let b := d.barrier key
    let d := d.setBarrier key { b with arrived := 0, pending := 0, who := [], epoch := b.epoch + 1 }
    b.who.foldl (fun d k => d.joinBarrier key b.ltime k) d

/-! ## Count tokens (R67, R68) -/

/-- STATS_TOKENS_LAND: token group `i` reaches the statistics record of its world. -/
def execStatsTokensLand (i : Nat) : State → Host.Outcome State Fault Refusal :=
  run fun x d =>
    match d.tokens[i]? with
    | none => d
    | some t => { d with tokens := dropAt d.tokens i }.landCounts x t.world t.counts

/-! ## Leases (R178) -/

/-- LEASE_EXPIRY: a quad's copy of a line ends. -/
def execLeaseExpiry (q line : Nat) : State → Host.Outcome State Fault Refusal :=
  run fun _ d => d.dropLeases fun l => l.quad == q && l.line == line

end Sys2Proof.Machine
end

