-- ==== Sys2Proof/Machine/Copy.lean ====
section
/-! DEFINITION. The copy engine and the buffer slots, major 0x38 (R219 to R228), and the events of its operations. -/

namespace Sys2Proof.Machine

/-! ## Conversion of a copy (R225) -/

def Counts.add (n : Counts) : CountClass → Counts
  | .nanIn => { n with nanIn := n.nanIn + 1 }
  | .overflow => { n with overflow := n.overflow + 1 }
  | .underflow => { n with underflow := n.underflow + 1 }
  | .inexact => { n with inexact := n.inexact + 1 }
  | .none => n

def Counts.plus (a b : Counts) : Counts :=
  { nanIn := a.nanIn + b.nanIn, overflow := a.overflow + b.overflow, underflow := a.underflow + b.underflow,
    inexact := a.inexact + b.inexact, used := a.used || b.used }

/-- The elements of `w` bytes that a run of bytes holds. -/
def elemsOf (w : Nat) (bs : Bytes) : List Nat := (List.range (bs.length / w)).map fun i => natOfBytes (sliceB bs (i * w) w)

/-- RNE with SAT in force, never flushed. -/
def mdCopy : BitVec 4 := 8

/-- Converted bytes and their counts. -/
def convertBytes (src dst : NumFmt) (bs : Bytes) : Bytes × Counts :=
  (elemsOf (src.width / 8) bs).foldl (fun (out, n) x =>
    let r := convert src dst mdCopy x
    (out ++ bytesOfNat (dst.width / 8) r.bits, n.add r.cls)) ([], Counts.zero)

/-! ## Tile forms (R220, R225) -/

/-- K extent of a tile, and block size, by format. -/
def tileK (fmt : Nat) : Option Nat :=
  match fmt with | 5 => some 128 | 3 => some 64 | 4 => some 64 | 1 => some 32 | _ => none
def blockK (fmt : Nat) : Nat := if fmt = 3 ∨ fmt = 4 then 32 else 8

/-- Rows of a tensor: every combination of indices of dimensions 1 and up (R51). -/
def Rec.rows (r : Rec) : Nat := (List.range 5).foldl (fun n i => n * r.extent (i + 1)) 1

/-- Address of flat row `f`: dimension 1 varies fastest. -/
def Rec.rowVa (r : Rec) (f : Nat) : Nat :=
  let idx := loopIndices ((List.range 5).map fun i => r.extent (i + 1)) f
  ((idx.zip (r.strides.drop 1)).foldl (fun a (i, s) => a + i * s) r.base) % 2 ^ 64

/-- Bytes that a piece of a tile is made of: given, or read from an address. -/
inductive Part where
  | given (bs : Bytes)
  | read (va n : Nat)
deriving DecidableEq, Repr

/-- A piece of a tile, which lands at a slot offset once all its parts are at hand. -/
structure Piece where
  o : Nat
  parts : List Part
deriving DecidableEq, Repr

/-- Bytes that a piece reads by address. -/
def Piece.bytes (p : Piece) : Nat := p.parts.foldl (fun n a => match a with | .given _ => n | .read _ m => n + m) 0

/-- Element bytes of row `f` from K index `k0`: what lies beyond the tensor is element 0. A row whose elements do not lie
together lands by aligned 8-byte units (R188). -/
def rowPieces (r : Rec) (o f k0 kt : Nat) : List Piece :=
  let kin := if f < r.rows then Nat.min kt (r.extent 0 - k0) else 0
  let w := formatBytes r.format
  let va := r.rowVa f
  let row := fun (at_ n : Nat) => [{ o := o, parts := [Part.read at_ n, .given (List.replicate (64 - n) 0)] }]
  if r.format = 5 then row (va + k0 / 2) (kin / 2)
  else if r.stride 0 = w then row (va + k0 * w) (kin * w)
  else
    let elem := fun (k : Nat) =>
      if k < kin then Part.read ((va + (k0 + k) * r.stride 0) % 2 ^ 64) w else .given (List.replicate w 0)
    (List.range 8).map fun u => { o := o + 8 * u, parts := (List.range (8 / w)).map fun j => elem (8 / w * u + j) }

/-- Block scales of row `f`: an absent scale is 1.0, and one beyond the tensor is 0. -/
def scalePieces (r : Rec) (o f k0 kt : Nat) : List Piece :=
  let bk := blockK r.format
  let all := kt / bk
  let have_ := if f < r.rows then Nat.min all (ceilDiv (r.extent 0 - k0) bk) else 0
  let kept := if r.blockBase ≠ 0 ∧ r.format ≠ 1 then Part.read (r.blockBase + f * r.scaleStride + k0 / bk) have_
    else .given (List.replicate have_ 0x60)
  [{ o := o, parts := [kept, .given (List.replicate (all - have_) 0)] }]

/-- The band scale of the rows from `f`: one that is absent, or beyond the tensor, is 1.0 (log 11). -/
def bandPart (r : Rec) (f : Nat) : Part :=
  if r.bandBase ≠ 0 ∧ f < r.rows then .read (r.bandBase + 2 * (f / 64)) 2 else .given [0x80, 0x3F]

/-- The pieces of an A tile (128 rows) or a B tile (64 columns). -/
def tilePieces (r : Rec) (formB : Bool) (r0 k0 kt : Nat) : List Piece :=
  if formB then
    ((List.range 64).flatMap fun j =>
      rowPieces r (256 * j) (r0 + j) k0 kt ++ scalePieces r (256 * j + 64) (r0 + j) k0 kt) ++
    [{ o := 0x3FF8, parts := [bandPart r r0] }]
  else
    ((List.range 128).flatMap fun i =>
      rowPieces r (64 * i) (r0 + i) k0 kt ++ scalePieces r (0x2000 + 16 * i) (r0 + i) k0 kt) ++
    [{ o := 0x3FF8, parts := [bandPart r r0, bandPart r (r0 + 64)] }]

/-- The request of an issuer's operation on a quad through a record, and one that goes through none. -/
def Rec.req (r : Rec) (i : Issuer) (q : Nat) (write : Bool) : Req :=
  { world := i.world, gen := i.gen, die := dieOfQuad q, quad := some q, write := write, slot := some r.keySlot }

def plainReq (i : Issuer) (q : Nat) (write : Bool) : Req :=
  { world := i.world, gen := i.gen, die := dieOfQuad q, quad := some q, write := write, slot := none }

/-- The bytes of a piece's parts. -/
def Run.gather (r : Run) (x : Ctx) (req : Req) (pinned : Bool) (ps : List Part) : Run × Bytes :=
  ps.foldl (fun (r, bs) p => match p with
    | .given more => (r, bs ++ more)
    | .read va n => let (r, more) := Run.read r x req pinned va n; (r, bs ++ more)) (r, [])

def Run.pieces (r : Run) (x : Ctx) (req : Req) (pinned : Bool) (before : List Nat) (q slot : Nat) (ps : List Piece) : Run :=
  ps.zipIdx.foldl (fun r (p, i) => r.piece before i fun r =>
    let got := r.gather x req pinned p.parts
    if r.went got.1 then got.1.writeSlot req.world q slot p.o got.2 else got.1) r

/-- Tile alignment (R225): the first row is a multiple of 64, and the first K index of the block size. -/
def tileAligned (r : Rec) (r0 k0 : Nat) : Bool := r0 % 64 == 0 && k0 % blockK r.format == 0

/-- A tile copy from a record into a slot. -/
def Run.tile (r : Run) (x : Ctx) (cmd : Cmd) (q slot : Nat) (rc : Option Rec) (formB : Bool) (r0 k0 : Nat) : Run :=
  match rc with
  | none => r.fail 0x0A
  | some rc =>
    if rc.kind ≠ 0 then r.fail 0x0A else
    match tileK rc.format with
    | none => r.fail 0x01
    | some kt =>
      if !tileAligned rc r0 k0 then r.fail 0x01
      else r.pieces x (rc.req cmd.issuer q false) rc.pinned cmd.landed q slot (tilePieces rc formB r0 k0 kt)

/-- Bytes that a tile copy reads by address. -/
def tileBytes (r : Rec) (formB : Bool) (r0 k0 : Nat) : Nat :=
  match tileK r.format with
  | none => 0
  | some kt => if r.kind ≠ 0 ∨ !tileAligned r r0 k0 then 0 else (tilePieces r formB r0 k0 kt).foldl (fun n p => n + p.bytes) 0

/-! ## CPY (R224 to R226) -/

/-- The stream that a copy's register value names, of the issuing (or forking) core. -/
def Dev.copyStream (d : Dev) (cmd : Cmd) (v : Word) : Option (Nat × Stream) :=
  match cmd.issuer.core with
  | none => none
  | some k =>
    match Tab.get? (d.core k).streams v.toNat with
    | none => none
    | some n => if 16 ≤ v.toNat then none else (Tab.get? d.streams n).map fun s => (n, s)

/-- Source and target formats of a conversion. -/
def copyFormats (fl : BitVec 13) (r : Rec) : Option (NumFmt × NumFmt) :=
  match numFmt (cpySfmt fl), (if r.format = 5 ∨ r.format = 0xC then none else numFmt r.format) with
  | some s, some t => some (s, t)
  | _, _ => none

/-- Bytes that a copy of `n` source bytes writes. -/
def copyOut (fl : BitVec 13) (r : Rec) (n : Nat) : Nat :=
  if cpyConv fl then
    match copyFormats fl r with
    | some (s, t) => n / (s.width / 8) * (t.width / 8)
    | none => 0
  else n

/-- The TID that a copy between streams, or between a stream and a slot, must name. -/
def Dev.copyTidOk (d : Dev) (cmd : Cmd) (fl : BitVec 13) (tid : Nat) : Bool :=
  if cpySrc fl = 0 ∨ cpyDst fl = 0 then true
  else if cpySrc fl = 2 then (d.copyStream cmd cmd.b).any fun s => s.2.tid == tid
  else (d.copyStream cmd cmd.a).any fun s => s.2.tid == tid

/-- The checks of R225 and R226 that a byte copy makes when it starts: a fault code. -/
def Dev.copyCheck (d : Dev) (cmd : Cmd) (fl : BitVec 13) (tid : Nat) (r : Rec) : Option Nat :=
  let n := cmd.c.toNat
  let out := copyOut fl r n
  let src := d.copyStream cmd cmd.b
  let dst := d.copyStream cmd cmd.a
  if cpySrc fl = 1 ∧ cpyDst fl = 1 then some 0x01
  else if !d.copyTidOk cmd fl tid then some 0x0A
  else if cpyConv fl ∧ r.kind ≠ 0 then some 0x0A
  else if cpyConv fl && (match copyFormats fl r with | none => true | some (s, _) => n % (s.width / 8) != 0) then some 0x01
  else if cpySrc fl = 1 ∧ 16384 < n then some 0x01
  else if cpyDst fl = 1 ∧ 16384 < out then some 0x01
  else if cpySrc fl == 2 && (match src with | none => true | some s => s.2.toMemory || n % s.2.esize != 0) then some 0x01
  else if cpyDst fl == 2 && (match dst with | none => true | some s => !s.2.toMemory || out % s.2.esize != 0) then some 0x01
  else if (cpyDst fl = 0 ∨ (cpyDst fl = 2 ∧ cpySrc fl = 1)) ∧ r.readOnly then some 0x0C
  else none

/-- A running command is replaced by a later state of it. -/
def Dev.setRunning (d : Dev) (q e : Nat) (cmd : Cmd) : Dev :=
  let g := d.engine q e
  d.setEngine q e { g with running := g.running.map fun o => if o.seq = cmd.seq then cmd else o }

/-- The follow-on of a copy may start once the copy's last byte has landed; a faulted copy gives it the fault (R227). -/
def Dev.releaseFollow (d : Dev) (q : Nat) (cmd : Cmd) (fault : Option Nat) : Dev :=
  let g := d.engine q 1
  d.setEngine q 1 { g with queue := g.queue.map fun (o : Cmd) => if o.after = some cmd.seq then { o with ready := true, fault := fault } else o }

/-- A copy ends, with its statistics tokens landed before done can be seen (R67), or waits for a page. -/
def Dev.endCopy (_ : Dev) (x : Ctx) (q : Nat) (cmd : Cmd) (r : Run) (counts : Option Counts) : Dev :=
  if r.waits then r.d.waitOp x.now q 0 { cmd with counts := counts.getD Counts.zero } r
  else
    let d' := match counts with
      | some n => r.d.landCounts x cmd.issuer.world n
      | none => r.d
    (d'.endOp x.now.clock q 0 cmd r.t r.wrote r.lines r.err).releaseFollow q cmd r.err

def Run.start (d : Dev) (cmd : Cmd) : Run := Run.of d cmd.ltime

/-- A copy's accesses: a timed window's port takes its whole spans as records (R278). -/
def Run.copy (d : Dev) (cmd : Cmd) : Run := { Run.start d cmd with gathers := true }

/-- The counts that a running command has so far, if it converts (R67). -/
def Cmd.converted (cmd : Cmd) : Option Counts :=
  match cmd.instr with
  | .cpy _ _ _ _ _ fl => if cpyConv fl then some cmd.counts else none
  | .mdrain _ _ _ _ _ => some cmd.counts
  | _ => none

/-- The request of a memory endpoint: it goes through the named record for the destination, and for a source whose
destination is no memory. -/
def copyReq (cmd : Cmd) (q : Nat) (r : Rec) (named write : Bool) : Req :=
  if named then r.req cmd.issuer q write else plainReq cmd.issuer q write

/-- A byte copy to a stream, whose source bytes are all at hand. -/
def Dev.copyToStream (d : Dev) (x : Ctx) (q : Nat) (cmd : Cmd) (fl : BitVec 13) (r : Rec) (short : Bool) (t : Nat)
    (bs : Bytes) : Dev :=
  let (out, counts) := match cpyConv fl, copyFormats fl r with
    | true, some (s, f) => (fun (p : Bytes × Counts) => (p.1, some p.2)) (convertBytes s f bs)
    | _, _ => (bs, none)
  match d.copyStream cmd cmd.a with
  | none => d.endCopy x q cmd ((Run.of d t).fail 0x01) counts
  | some (n, s) =>
    if s.state = .fault then d.endCopy x q cmd ((Run.of d t).fail 0x0C) counts
    else
      let (d, m) := d.giveStream n t (out.drop cmd.given)
      let cmd : Cmd := { cmd with given := cmd.given + m }
      match Tab.get? d.streams n with
      | none => d
      | some s =>
        if s.owes then d.setRunning q 0 cmd
        else if cmd.given < out.length ∧ s.accepted < s.total then d.setRunning q 0 cmd
        else
          let run : Run := { Run.of d (Nat.max t s.ltime) with wrote := cmd.given }
          d.endCopy x q cmd (if short ∨ cmd.given < out.length then run.fail 0x01 else run) counts

/-- A byte copy of `n` source bytes to memory or a slot, by lines of the destination; a piece whose read or write finds no
page waits (R170, R181). `src` reads source bytes at an offset. An element counts with the piece where it begins. -/
def Run.copyPieces (run : Run) (x : Ctx) (q slot : Nat) (cmd : Cmd) (fl : BitVec 13) (r : Rec) (n : Nat)
    (src : Run → Nat → Nat → Run × Option Bytes) : Run × Counts :=
  let fmts := if cpyConv fl then copyFormats fl r else none
  let ws := match fmts with | some (s, _) => s.width / 8 | none => 1
  let wd := match fmts with | some (_, t) => t.width / 8 | none => 1
  let dva := if cpyDst fl = 1 then 0 else cmd.a.toNat
  (chunksOf dva (n / ws * wd)).foldl (fun (run, c) (va, m) =>
    let p := va - dva
    if run.err.isSome || cmd.landed.contains p then (run, c) else
    let first := p / wd
    let back := fun (r : Run) => { r with wrote := run.wrote, put := run.put, got := run.got }
    match src run (first * ws) ((ceilDiv (p + m) wd - first) * ws) with
    | (run', none) => (back run', c)
    | (run', some bs) =>
      let (out, more) := match fmts with
        | some (s, t) => ((convertBytes s t bs).1, (convertBytes s t (bs.drop (if p % wd = 0 then 0 else ws))).2)
        | none => (bs, Counts.zero)
      let out := sliceB out (p - first * wd) m
      let run' := if cpyDst fl = 1 then run'.writeSlot cmd.issuer.world q slot p out
        else run'.write x (copyReq cmd q r true true) r.pinned va out
      if run.went run' then ({ run' with landed := p :: run'.landed }, c.plus more) else (back run', c)) (run, cmd.counts)

/-- Source bytes by address, or none while they wait for a page. -/
def Run.source (x : Ctx) (req : Req) (pinned : Bool) (va : Nat) (run : Run) (o m : Nat) : Run × Option Bytes :=
  let p := Run.read run x req pinned (va + o) m
  (p.1, if run.went p.1 then some p.2 else none)

/-- A byte copy under way: from memory or a slot it moves piece by piece, and from a stream it gathers elements as they come. -/
def Dev.copyBytes (d : Dev) (x : Ctx) (q slot tid : Nat) (cmd : Cmd) (fl : BitVec 13) : Dev :=
  let (d, r) := d.cmdRecord x q cmd tid
  let cmd : Cmd := { cmd with record := r }
  let n := cmd.c.toNat
  let run := Run.copy d cmd
  let tokens := fun (c : Counts) => if cpyConv fl then some c else none
  if n = 0 then d.endCopy x q cmd run (tokens Counts.zero) else
  match r with
  | none => d.endCopy x q cmd (run.fail 0x0A) none
  | some r =>
    match d.copyCheck cmd fl tid r with
    | some code => d.endCopy x q cmd (run.fail code) none
    | none =>
      if cpySrc fl = 2 then
        match d.copyStream cmd cmd.b with
        | none => d.endCopy x q cmd (run.fail 0x01) none
        | some (i, s) =>
          if s.state = .fault then d.endCopy x q cmd (run.fail 0x0C) none
          else
            let (d, more) := d.takeStream i (n - cmd.taken.length)
            let t := Nat.max cmd.ltime s.ltime
            let cmd : Cmd := { cmd with taken := cmd.taken ++ more, ltime := t }
            let left := match Tab.get? d.streams i with
              | some s => s.state == .streaming || !s.returned.isEmpty
              | none => false
            let short : Bool := decide (cmd.taken.length < n)
            if short && left then d.setRunning q 0 cmd
            else if cpyDst fl = 2 then d.copyToStream x q cmd fl r short t cmd.taken
            else
              let (run, c) := (Run.copy d cmd).copyPieces x q slot cmd fl r cmd.taken.length fun run o m =>
                (run, some (sliceB cmd.taken o m))
              d.endCopy x q cmd (if short && run.misses.isEmpty then run.fail 0x01 else run) (tokens c)
      else if cpyDst fl = 2 then
        if cmd.taken.length = n then d.copyToStream x q cmd fl r false cmd.ltime cmd.taken
        else
          let (run, bs) := if cpySrc fl = 1 then run.readSlot q slot 0 n
            else Run.read run x (copyReq cmd q r true false) r.pinned cmd.b.toNat n
          if run.stopped then d.endCopy x q cmd { run with got := 0 } (tokens Counts.zero)
          else run.d.copyToStream x q { cmd with taken := bs, ltime := run.t } fl r false run.t bs
      else
        let named := cpyDst fl != 0
        let (run, c) := if cpySrc fl = 1 then
            run.copyPieces x q slot cmd fl r n fun run o m =>
              let p := run.readSlot q slot o m
              (p.1, some p.2)
          else run.copyPieces x q slot cmd fl r n
            (Run.source x (copyReq cmd q r named false) (r.pinned && named) cmd.b.toNat)
        d.endCopy x q cmd run (tokens c)

/-! ## CPYS (R228) -/

/-- The FP32 encoding of a BF16 band. -/
def bandVal (b : Lane) : Val := unpack f32 b.toNat

/-- x_n, rounded once. -/
def Acc.logit (a : Acc) (n : Nat) : Nat :=
  let band := if n / 64 < 64 then a.bandA0 else a.bandA1
  (roundV f32 0 false (mulV (mulV (unpack f32 (SMap.get a.elems n).toNat) (bandVal band)) (bandVal a.bandB))).bits

/-- What CPYS gathers over the selected elements. -/
structure Pick where
  max : Option Nat
  idx : Nat
  nan : Nat
  sel : Nat

def pickMax (xs : List (Nat × Nat)) : Pick :=
  xs.foldl (fun p (n, v) =>
    let p : Pick := { p with sel := p.sel + 1 }
    if isNan f32 v then { p with nan := p.nan + 1 }
    else match p.max with
      | none => { p with max := some v, idx := n }
      | some m => if orderKey f32 m < orderKey f32 v then { p with max := some v, idx := n } else p)
    { max := none, idx := 0xFFFFFFFF, nan := 0, sel := 0 }

/-- The sum of exp2 (x_n - mx), in ascending n. -/
def expSum (mx : Nat) (xs : List (Nat × Nat)) : Nat :=
  xs.foldl (fun s (_, v) => if isNan f32 v then s else (fadd f32 0 s (fexp2 f32 0 (fsub f32 0 v mx).bits).bits).bits) 0

/-- Table 15.8. -/
def pickRecord (xs : List (Nat × Nat)) : Bytes :=
  let p := pickMax xs
  let s := match p.max with | some m => expSum m xs | none => 0
  bytesOfNat 4 (p.max.getD 0x7FC00000) ++ bytesOfNat 4 p.idx ++ bytesOfNat 4 s ++ bytesOfNat 4 p.nan ++ bytesOfNat 4 p.sel ++
    bytesOfNat 12 0

/-- CPYS: the record is written once every logit has landed. -/
def Dev.copySelect (d : Dev) (x : Ctx) (q tid acc : Nat) (cmd : Cmd) : Dev :=
  let (d, r) := d.cmdRecord x q cmd tid
  let cmd : Cmd := { cmd with record := r }
  let run := Run.copy d cmd
  let i := cmd.issuer
  match r with
  | none => d.endCopy x q cmd (run.fail 0x0A) none
  | some r =>
    if cmd.c.toNat % 32 ≠ 0 then d.endCopy x q cmd (run.fail 0x01) none
    else if cmd.a ≠ 0 ∧ r.readOnly then d.endCopy x q cmd (run.fail 0x0C) none
    else
      let a := (d.quad q).acc acc
      let xs := (List.range 8192).map fun n => (n, a.logit n)
      let run := if cmd.a = 0 then run
        else run.writePieces x (r.req i q true) r.pinned cmd.landed 0 cmd.a.toNat (xs.flatMap fun v => bytesOfNat 4 v.2)
      if run.stopped then d.endCopy x q cmd run none
      else
        let mark := fun (run : Run) (sel : Bytes) =>
          let chosen := xs.filter fun v => ((sel.drop (v.1 / 8)).headD 0).getLsbD (v.1 % 8)
          run.write x (plainReq i q true) false cmd.c.toNat (pickRecord chosen)
        let run := run.piece cmd.landed 512 fun run =>
          if cmd.b = 0 then mark run (List.replicate 1024 0xFF)
          else run.readThen x (plainReq i q false) false cmd.b.toNat 1024 mark
        d.endCopy x q cmd run none

/-! ## Armed slots (R223) -/

/-- Number of tiles after which a pattern starts anew, and tile `t`'s first row and K index, for a tile pattern. -/
def armedTile (r : Rec) (formB : Bool) (kt r0 count t : Nat) : Nat × Nat :=
  let nk := ceilDiv (r.extent 0) kt
  let rows := if formB then 64 else 128
  let n := if count = 0 then nk * ceilDiv (r.rows - r0) rows else count
  let t' := t % Nat.max 1 n
  (r0 + rows * (t' / nk), kt * (t' % nk))

/-- A follow-on word of a CPYM or BFARM: an MMA, MMAZ or MLDB whose tid names a valid record of kind 0, which is read
here (R73, R227). -/
def Dev.followOn (d : Dev) (x : Ctx) (die world : Nat) (v : Word) : Dev × Option (Instr × Rec) :=
  match decode v with
  | .error _ => (d, none)
  | .ok i =>
    let check := fun (tid : BitVec 11) =>
      let (d, r) := d.useKind x.seq die world tid.toNat [0]
      (d, r.map fun r => (i, r))
    match i with
    | .mma _ _ tid => check tid
    | .mmaz _ _ tid => check tid
    | .mldb _ tid => check tid
    | _ => (d, none)

/-- The follow-on of an armed tile is issued at the tile's last byte. -/
def Dev.issueFollow (d : Dev) (q : Nat) (cmd : Cmd) (t : Nat) : Dev :=
  if cmd.c = 0 then d else
  match decode cmd.c with
  | .error _ => d
  | .ok i =>
    let g := d.engine q 1
    let new : Cmd := { cmd with seq := g.nextSeq, instr := i, a := 0, b := 0, c := 0, charged := [], bar := none, follow := none,
                                after := some cmd.seq, tile := none, ready := true, record := none, fault := none, taken := [],
                                given := 0, landed := [], counts := Counts.zero, ltime := t, lines := [] }
    (d.setEngine q 1 { g with queue := g.queue ++ [new], seq := g.nextSeq, used := true }).latchQuad q

/-- Tile `t` of an armed slot. -/
def Dev.copyArmed (d : Dev) (x : Ctx) (q slot tid form t : Nat) (cmd : Cmd) : Dev :=
  let (d, rc) := d.cmdRecord x q cmd tid
  let cmd : Cmd := { cmd with record := rc }
  let run := Run.copy d cmd
  let count := field cmd.b 0 32
  let run := match rc with
    | none => run.fail 0x0A
    | some r =>
      if form = 0 then
        let n := if count = 0 then ceilDiv r.span 16384 else count
        let o := 16384 * (t % Nat.max 1 n)
        let len := Nat.min 16384 (r.span - o)
        (chunksOf 0 len).foldl (fun (run : Run) (p, m) => run.piece cmd.landed p fun run =>
          run.readThen x (r.req cmd.issuer q false) r.pinned (r.base + o + p) m fun run bs =>
            run.writeSlot cmd.issuer.world q slot p bs) run
      else
        let (r0, k0) := match tileK r.format with
          | some kt => armedTile r (form == 2) kt cmd.a.toNat count t
          | none => (cmd.a.toNat, 0)
        if cmd.a.toNat % 64 ≠ 0 then run.fail (if r.kind ≠ 0 then 0x0A else 0x01)
        else run.tile x cmd q slot (some r) (form == 2) r0 k0
  let d' := d.endCopy x q cmd run none
  if run.stopped then d' else d'.issueFollow q cmd run.t

/-! ## COPY_COMPLETE -/

def Engine.find (g : Engine) (seq : Nat) : Option Cmd := g.running.find? fun o => o.seq == seq

/-- A tile copy of CPY or CPYM. -/
def Dev.copyTile (d : Dev) (x : Ctx) (q slot tid : Nat) (formB : Bool) (cmd : Cmd) : Dev :=
  let (d, rc) := d.cmdRecord x q cmd tid
  let cmd : Cmd := { cmd with record := rc }
  d.endCopy x q cmd ((Run.copy d cmd).tile x cmd q slot rc formB cmd.a.toNat cmd.b.toNat) none

/-- What a running copy does when its bytes land. -/
def Dev.copyRun (d : Dev) (x : Ctx) (q : Nat) (cmd : Cmd) : Dev :=
  match cmd.fault with
  | some code => d.endCopy x q cmd ((Run.copy d cmd).fail code) (if code = 0x0C then cmd.converted else none)
  | none =>
    match cmd.instr with
    | .cpy _ _ _ bs tid fl =>
      if cpyForm fl = 0 then d.copyBytes x q bs.toNat tid.toNat cmd fl
      else if cpySrc fl ≠ 0 ∨ cpyDst fl ≠ 1 ∨ cpyConv fl ∨ cmd.c ≠ 0 then
        let (d, rc) := d.cmdRecord x q cmd tid.toNat
        d.endCopy x q cmd ((Run.copy d cmd).fail (if rc.any fun r => r.kind == 0 then 0x01 else 0x0A)) none
      else d.copyTile x q bs.toNat tid.toNat (cpyForm fl == 2) cmd
    | .cpym _ _ _ bs tid form => d.copyTile x q bs.toNat tid.toNat (form == 1) cmd
    | .cpys _ _ _ tid acc => d.copySelect x q tid.toNat acc.toNat cmd
    | .bfarm _ _ _ bs tid form => d.copyArmed x q bs.toNat tid.toNat form.toNat (cmd.tile.getD 0) cmd
    | _ => d

/-- Whether a running copy can go on in a clock: it waits for no page, no event of a later row of Table 15.4 has reached
the slot it fills in this clock, a stream of it has something for it, and a follow-on that it issues at its last byte finds
room. -/
def Dev.copyEnabled (d : Dev) (clock q : Nat) (cmd : Cmd) : Bool :=
  !cmd.waiting && (match fillsSlot cmd.instr with | some s => ((d.quad q).slot s).allows clock 2 | none => true) &&
  (cmd.tile.isNone || cmd.c == 0 || !(d.engine q 1).full) &&
  (match cmd.instr with
    | .cpy _ _ _ _ _ fl =>
      if cpyForm fl ≠ 0 ∨ cmd.c = 0 then true
      else
        (match cpySrc fl, d.copyStream cmd cmd.b with
          | 2, some (_, s) => cmd.taken.length == cmd.c.toNat || !s.returned.isEmpty || s.state != .streaming
          | _, _ => true) &&
        (match cpyDst fl, d.copyStream cmd cmd.a with
          | 2, some (_, s) => !s.owes || s.state != .streaming
          | _, _ => true)
    | _ => true)

/-- COPY_COMPLETE (R225): the last byte of the copy numbered `seq` lands, or it ends in fault. -/
def execCopyComplete (q seq : Nat) : State → Host.Outcome State Fault Refusal :=
  run fun x d =>
    match (d.engine q 0).find seq with
    | none => d
    | some cmd => if d.copyEnabled x.now.clock q cmd then d.copyRun x q cmd else d

/-! ## Starting commands (R216, R221, R223, R227) -/

/-- Whether an engine may run one more command. -/
def Engine.hasPlace (g : Engine) (e : Nat) : Bool := decide (g.running.length < if e = 0 then 8 else 1)

def Slot.tileLeft (v : Slot) : Bool :=
  match v.armed with
  | none => false
  | some a => a.count == 0 || decide (v.tiles < a.count)

/-- The oldest notice whose slot is free: its armed tile starts ahead of queued commands (R223). -/
def Quad.notice (x : Quad) : Option Nat := x.notices.find? fun s => (x.slot s).state == .free && (x.slot s).tileLeft

/-- The head of a queue starts. -/
def Dev.startHead (d : Dev) (clock q e : Nat) : Dev :=
  let g := d.engine q e
  match g.queue with
  | [] => d
  | cmd :: rest => (d.setEngine q e { g with queue := rest, running := g.running ++ [cmd] }).startFill clock 1 q e cmd

/-- Whether the head of a queue can start in a clock; `follow` asks for a follow-on. -/
def Dev.canStart (d : Dev) (clock q e : Nat) (follow : Bool) : Bool :=
  let g := d.engine q e
  match g.queue with
  | [] => false
  | cmd :: _ => g.hasPlace e && cmd.after.isSome == follow && cmd.ready && (e != 0 || (d.quad q).notice.isNone) &&
      (cmd.fault.isSome && (fillsSlot cmd.instr).isNone || (d.quad q).slotReady clock cmd.instr)

/-- FOLLOW_ON_START (R227). -/
def execFollowOnStart (q : Nat) : State → Host.Outcome State Fault Refusal :=
  run fun x d => if d.canStart x.now.clock q 1 true then d.startHead x.now.clock q 1 else d

/-- Whether a running operation of the quad reads a slot (R221). -/
def Quad.hasReader (x : Quad) (s : Nat) : Bool :=
  [0, 1, 2].any fun e => (x.engine e).running.any fun o => readsSlot o.instr == some s

/-- A notice that slot `s` is free joins the queue, one per slot. -/
def Quad.notify (x : Quad) (s : Nat) : Quad :=
  if (x.slot s).tileLeft then { x with notices := (x.notices.filter fun o => o != s) ++ [s] } else x

/-- A slot's notice is given up. -/
def Quad.unnotify (x : Quad) (s : Nat) : Quad := { x with notices := x.notices.filter fun o => o != s }

/-- SLOT_DRAINED (R221): a freed-slot notice is sent if the slot is armed. -/
def execSlotDrained (q s : Nat) : State → Host.Outcome State Fault Refusal :=
  run fun x d =>
    let v := (d.quad q).slot s
    if v.state = .draining ∧ !(d.quad q).hasReader s ∧ v.allows x.now.clock 6 then
      let d := d.mapSlot q s fun v => { v with state := .free, last := (x.now.clock, 6) }
      d.setQuad q ((d.quad q).notify s)
    else d

/-- A tile of an armed slot starts, ahead of queued commands. It takes the next operation number. -/
def Dev.startTile (d : Dev) (clock q s : Nat) : Dev :=
  let v := (d.quad q).slot s
  match v.armed with
  | none => d
  | some a =>
    let g := d.engine q 0
    let cmd : Cmd := { a.cmd with seq := g.nextSeq, tile := some v.tiles }
    let d := (d.setEngine q 0 { g with seq := g.nextSeq, used := true, running := g.running ++ [cmd] }).startFill clock 7 q 0 cmd
    let d := d.mapSlot q s fun v => { v with tiles := v.tiles + 1 }
    d.setQuad q ((d.quad q).unnotify s)

/-- ARMED_TILE_START (R223). -/
def execArmedTileStart (q s : Nat) : State → Host.Outcome State Fault Refusal :=
  run fun x d =>
    if (d.quad q).notice = some s ∧ ((d.quad q).slot s).allows x.now.clock 7 ∧ (d.engine q 0).hasPlace 0 then
      d.startTile x.now.clock q s
    else d

/-! ## Issue of CPY, CPYM, CPYS -/

/-- Where a memory operand lies: from an address, cut at the top of the space. -/
def hull (dest : Bool) (a : Word) (n : Nat) : Operand := { lo := a.toNat, hi := a.toNat + n, bytes := n, dest := dest }

def spanOf (dest : Bool) (r : Rec) (n : Nat) : Operand := { lo := r.base, hi := r.base + r.span, bytes := n, dest := dest }

def streamOperand (dest : Bool) (s : Option (Nat × Stream)) (n : Nat) : List Operand :=
  match s with
  | some (_, s) => [{ lo := s.base.toNat, hi := s.base.toNat + s.span, bytes := n, dest := dest }]
  | none => []

/-- The address operands of a CPY: the destination, then the source (R184). -/
def Dev.copyOperands (d : Dev) (cmd : Cmd) (fl : BitVec 13) (r : Rec) : List Operand :=
  let n := cmd.c.toNat
  if cpyForm fl ≠ 0 then [spanOf false r (tileBytes r (cpyForm fl == 2) cmd.a.toNat cmd.b.toNat)]
  else
    (match cpyDst fl with
      | 0 => [spanOf true r (copyOut fl r n)]
      | 2 => streamOperand true (d.copyStream cmd cmd.a) (copyOut fl r n)
      | _ => []) ++
    (match cpySrc fl with
      | 0 => [if cpyDst fl = 0 then hull false cmd.b n else spanOf false r n]
      | 2 => streamOperand false (d.copyStream cmd cmd.b) n
      | _ => [])

def execCpy (a b c bs : Reg) (tid : BitVec 11) (flags : BitVec 13) : State → Host.Outcome State Fault Refusal :=
  onX 0 [a, b, c] [] fun x w d =>
    let cmd := d.newCmd w (.cpy a b c bs tid flags) (d.xread w a) (d.xread w b) (d.xread w c)
    match d.useRecord x.seq (dieOfQuad (quadOfCore w.core)) cmd.issuer.world tid.toNat with
    | (d, none) => d.badRecord w 0 tid.toNat cmd
    | (d, some r) => d.issueCmd w 0 { cmd with record := some r } (d.copyOperands cmd flags r)

/-- CPYM (R227): the copy enters its queue and the follow-on takes its place in the matrix array's. -/
def execCpym (a b c bs : Reg) (tid : BitVec 11) (form : BitVec 1) : State → Host.Outcome State Fault Refusal :=
  onX 0 [a, b, c] [] fun x w d =>
    let q := quadOfCore w.core
    let die := dieOfQuad q
    let cmd := d.newCmd w (.cpym a b c bs tid form) (d.xread w a) (d.xread w b) (d.xread w c)
    let (d, r) := d.useRecord x.seq die cmd.issuer.world tid.toNat
    match r, w.eng with
    | none, none => .trap Cause.badHandle (zext64 tid)
    | _, _ =>
      match d.followOn x die cmd.issuer.world cmd.c with
      | (_, none) => .trap Cause.illegal cmd.c
      | (d, some (i, rec)) =>
        if (d.engine q 0).full || (d.engine q 1).full then .stall none
        else
          let m := (d.engine q 1).nextSeq
          let ops := match r with
            | some r => [spanOf false r (tileBytes r (form == 1) cmd.a.toNat cmd.b.toNat)]
            | none => []
          let fault := if r.isNone then some 0x0A else none
          match d.enqueue w 0 { cmd with follow := some m, record := r, fault := fault } ops with
          | none => .stall none
          | some d =>
            let after := (d.engine q 0).seq
            match d.enqueue w 1 { d.newCmd w i 0 0 0 with after := some after, record := some rec, ready := false } [] with
            | none => .stall none
            | some d => .done d

/-- CPYS: its destinations are the logits and the record, and its source the selection (R184). -/
def execCpys (a b c : Reg) (tid : BitVec 11) (acc : BitVec 3) : State → Host.Outcome State Fault Refusal :=
  onX 0 [a, b, c] [] fun x w d =>
    let cmd := d.newCmd w (.cpys a b c tid acc) (d.xread w a) (d.xread w b) (d.xread w c)
    match d.useRecord x.seq (dieOfQuad (quadOfCore w.core)) cmd.issuer.world tid.toNat with
    | (d, none) => d.badRecord w 0 tid.toNat cmd
    | (d, some r) =>
      d.issueCmd w 0 { cmd with record := some r } ((if cmd.a = 0 then [] else [spanOf true r 32768]) ++ [hull true cmd.c 32] ++
        (if cmd.b = 0 then [] else [hull false cmd.b 1024]))

/-! ## Slot instructions (Table 15.5) -/

def slotCode : SlotState → Nat
  | .free => 0
  | .filling => 1
  | .full => 2
  | .draining => 3

def slotWait (s : Nat) (v : Slot) : Option Wait := waitFor 5 s 2 (slotCode v.state)

/-- Seeing a slot full joins the operation that filled it (R180). -/
def Dev.joinSlot (d : Dev) (k : Nat) (v : Slot) : Dev :=
  let d := d.joinAt k v.ltime []
  let c := d.core k
  let e := (v.filler.map Prod.fst).getD 0
  d.setCore k { c with ops := c.ops.filter fun (o : OpRef) => !(o.eng == e && o.seq == v.seq && o.done) }

/-- A faulted fill is this core's observation, of its own operation or of the fill of the slot it armed (R222). -/
def Dev.observeFill (d : Dev) (k e seq : Nat) : Dev :=
  let q := quadOfCore k
  let d := d.observeFault k e
  let g := d.engine q e
  match g.fault with
  | some (_, n, _) => if n = seq then (d.setEngine q e { g with fault := none }).latchQuad q else d
  | none => d

/-- Whether a core armed a slot. -/
def Slot.armedBy (v : Slot) (k : Nat) : Bool := match v.armed with | some a => a.cmd.issuer.core == some k | none => false

/-- BFWAIT: a faulted fill that this core issued, or whose slot it armed, traps with the filling engine's status word. -/
def execBfwait (bs : Reg) : State → Host.Outcome State Fault Refusal :=
  onX 0 [] [] fun _ w d =>
    let q := quadOfCore w.core
    let v := (d.quad q).slot bs.toNat
    if v.state ≠ .full then .stall (slotWait bs.toNat v)
    else
      let d' := d.joinSlot w.core v
      match v.faulted, v.filler with
      | true, some (e, k) =>
        if k == some w.core || v.armedBy w.core then
          .trapNext (d'.observeFill w.core e v.seq) Cause.engineFault (d.engine q e).status
        else .done d'
      | _, _ => .done d'

/-- BFREL: a release in the clock of a later row's event of Table 15.4 came before it, when the slot was free. It follows
the core's earlier accesses of the slot (log 13). -/
def execBfrel (bs : Reg) : State → Host.Outcome State Fault Refusal :=
  onX 0 [] [] fun x w d =>
    let q := quadOfCore w.core
    let v := (d.quad q).slot bs.toNat
    if w.eng.isNone && (d.core w.core).blocked then .stall none
    else if !v.allows x.now.clock 5 then .done d
    else match v.state with
    | .filling => .stall (slotWait bs.toNat v)
    | .full => .done (d.mapSlot q bs.toNat fun v =>
        { v with state := .draining, faulted := false, last := (x.now.clock, 5) })
    | _ => .done (d.setQuad q ((d.quad q).setSlot bs.toNat { v with faulted := false }))

/-- Table 15.6. -/
def Slot.status (v : Slot) : Word :=
  BitVec.ofNat 64 (v.tiles % 2 ^ 32 * 2 ^ 32 + v.seq * 2 ^ 16 + v.code * 2 ^ 8 + 8 * b2n v.faulted + 4 * b2n v.armed.isSome +
    slotCode v.state)

def execBfstat (a bs : Reg) : State → Host.Outcome State Fault Refusal :=
  onX 0 [] [a] fun _ w d =>
    let v := (d.quad (quadOfCore w.core)).slot bs.toNat
    let d := if v.state = .full then d.joinSlot w.core v else d
    .done (d.xwrite w a v.status)

/-- BFARM (R223): arming takes effect at once; if the slot is free, tile 0 starts. -/
def execBfarm (a b c bs : Reg) (tid : BitVec 11) (form : BitVec 2) : State → Host.Outcome State Fault Refusal :=
  onX 0 [a, b, c] [] fun x w d =>
    let q := quadOfCore w.core
    let die := dieOfQuad q
    let cmd := d.newCmd w (.bfarm a b c bs tid form) (d.xread w a) (d.xread w b) (d.xread w c)
    let (d, r) := d.useRecord x.seq die cmd.issuer.world tid.toNat
    match r, w.eng with
    | none, none => .trap Cause.badHandle (zext64 tid)
    | _, _ =>
      let (d, follow) := if cmd.c = 0 then (d, true) else
        match d.followOn x die cmd.issuer.world cmd.c with
        | (d, some _) => (d, true)
        | (d, none) => (d, false)
      if !follow then .trap Cause.illegal cmd.c
      else
        let cmd : Cmd := { cmd with ltime := (d.core w.core).orderTime }
        let d := d.mapSlot q bs.toNat fun v => { v with armed := some { cmd := cmd, count := field cmd.b 0 32 }, tiles := 0 }
        let x := (d.quad q).unnotify bs.toNat
        .done (d.setQuad q (if (x.slot bs.toNat).state = .free then x.notify bs.toNat else x))

/-- BFARM with the disarm bit. -/
def execBfarmDisarm (bs : Reg) : State → Host.Outcome State Fault Refusal :=
  onX 0 [] [] fun _ w d =>
    let q := quadOfCore w.core
    .done (d.setQuad q (((d.quad q).setSlot bs.toNat { (d.quad q).slot bs.toNat with armed := none }).unnotify bs.toNat))

end Sys2Proof.Machine
end

