-- ==== Sys2Proof/Machine/Network.lean ====
section
/-! DEFINITION. Pushdown networks as data: images and their checks (R241 to R245, R263), stepping (R250 to R257), limits
(R258, R259) and waypoints (R260, R269). -/

namespace Sys2Proof.Machine

/-! ## Cells (R244, R245) -/

def Cell.report (c : Cell) : Nat := field c.header 52 12
def Cell.accepting (c : Cell) : Bool := bit c.header 51
def Cell.head (c : Cell) : Bool := bit c.header 50
def Cell.count (c : Cell) : Nat := field c.header 45 5
def Cell.next (c : Cell) : Nat := field c.header 28 17

def tTarget (t : Word) : Nat := field t 47 17
def tMask (t : Word) : Nat := field t 39 8
def tTest (t : Word) : Nat := field t 37 2
def tV (t : Word) : Nat := field t 29 8
def tPop (t : Word) : Bool := bit t 28
def tPush (t : Word) : Nat := field t 26 2
def tSym (t : Word) (k : Nat) : Nat := field t (8 * k) 8

def Cell.empty : Cell := { header := 0, trans := [] }
def Network.cell (n : Network) (c : Nat) : Cell := Tab.getD n.cells c Cell.empty

/-- Transitions of a state: those of all its cells, in chain order. -/
def Network.transitions (n : Network) : Nat → Nat → List Word
  | 0, _ => []
  | fuel + 1, c =>
    let x := n.cell c
    x.trans ++ if x.next = 0 then [] else Network.transitions n fuel x.next

def Network.stateTrans (n : Network) (q : Nat) : List Word := n.transitions (n.cells.length + 1) q

/-! ## The image (R241 to R245, R263) -/

/-- The image header (Table 17.1). -/
structure ImageHeader where
  cells : Nat
  start : Nat
  netId : Word
  classOff : Nat
  maskOff : Nat
  cellOff : Nat
  classHash : Bytes
deriving DecidableEq, Repr

/-- The header, if its fields, its check and its sections agree with the record's span. -/
def parseImage (h : Bytes) (span : Nat) : Option ImageHeader :=
  let x : ImageHeader :=
    { cells := u32At h 8, start := u32At h 0xC, netId := BitVec.ofNat 64 (u64At h 0x10), classOff := u32At h 0x18,
      maskOff := u32At h 0x1C, cellOff := u32At h 0x20, classHash := sliceB h 0x28 16 }
  if u32At h 0 == 0x4E564C50 && u16At h 4 == 1 && u16At h 6 == 0 && u32At h 0x24 == 0 && u32At h 0x38 == 0 &&
      crc32c (sliceB h 0 0x3C) == u32At h 0x3C && decide (1 ≤ x.cells) && decide (x.cells ≤ 131072) &&
      decide (x.start < x.cells) && x.classOff % 64 == 0 && x.maskOff % 64 == 0 && x.cellOff % 64 == 0 &&
      decide (64 ≤ span) && decide (x.classOff + 65536 ≤ span) && decide (x.maskOff + 8192 ≤ span) &&
      decide (x.cellOff + 136 * x.cells ≤ span)
  then some x else none

/-- Cell `c` of a cell table. -/
def parseCell (bs : Bytes) : Cell :=
  let header := BitVec.ofNat 64 (u64At bs 0)
  { header := header, trans := (List.range (Nat.min 16 (field header 45 5))).map fun i => BitVec.ofNat 64 (u64At bs (8 + 8 * i)) }

/-- The checks of one transition word: `head` tells head cells. -/
def transOk (head : Nat → Bool) (t : Word) : Bool :=
  head (tTarget t) && field t 24 2 == 0 && (List.range 3).all (fun k => decide (k < tPush t) || tSym t k == 0) &&
  (decide (2 ≤ tTest t) || tV t == 0)

/-- The checks of one cell. -/
def cellOk (cells : Nat) (head : Nat → Bool) (c : Nat) (x : Cell) : Bool :=
  field x.header 0 28 == 0 && decide (x.count ≤ 16) && (x.head || (x.report == 0 && !x.accepting)) &&
  (x.next == 0 || (decide (c < x.next) && decide (x.next < cells) && !head x.next)) && x.trans.all (transOk head)

def imageOk (start : Nat) (cells : Tab Cell) : Bool :=
  let head := fun c => (Tab.getD cells c Cell.empty).head
  head start && cells.all fun (c, x) => cellOk cells.length head c x

/-! ## Configurations (R248) -/

def depthOf (nodes : Tab GssNode) (n : Option Nat) : Nat :=
  match n with | none => 0 | some i => match Tab.get? nodes i with | some x => x.depth | none => 0

def tnOf (nodes : Tab GssNode) (n : Option Nat) : Nat :=
  match n with | none => 0xFFFFFFFF | some i => match Tab.get? nodes i with | some x => x.tn | none => 0xFFFFFFFF

def parentOf (nodes : Tab GssNode) (n : Option Nat) : Option Nat :=
  match n with | none => none | some i => match Tab.get? nodes i with | some x => x.parent | none => none

/-- The nodes from `n` down to the bottom. -/
def chainOf (nodes : Tab GssNode) : Nat → Option Nat → List Nat
  | 0, _ => []
  | _, none => []
  | fuel + 1, some i => i :: chainOf nodes fuel (parentOf nodes (some i))

/-- Nodes that no configuration reaches are freed. -/
def sweep (frontier : List Config) (nodes : Tab GssNode) : Tab GssNode :=
  let live := frontier.flatMap fun c => chainOf nodes (nodes.length + 1) c.top
  nodes.filter fun e => live.contains e.1

/-- Configuration id (R251): the block's number of the top node (log 2). -/
def Network.configId (n : Network) (top : Option Nat) : Nat :=
  match top with | none => 0xFFFFFFFF | some i => (Config.nodeNumber n.stamp i).toNat

/-- The order of R251. -/
def Network.sorted (n : Network) (nodes : Tab GssNode) (cs : List Config) : List Config :=
  sortBy (fun a b =>
    decide (a.state < b.state) || (a.state == b.state && (decide (depthOf nodes a.top < depthOf nodes b.top) ||
      (depthOf nodes a.top == depthOf nodes b.top && decide (n.configId a.top < n.configId b.top))))) cs

/-! ## One step (R250) -/

/-- What a step has formed so far: the next set, and the nodes it made, each with the identity of R249. -/
structure Forming where
  next : List Config
  nodes : Tab GssNode
  made : List ((Nat × Option Nat × Nat × Nat) × Nat)
  fresh : Nat
  drop : Bool
deriving DecidableEq, Repr

/-- node(s, m), identified under R249. -/
def Forming.push (f : Forming) (tree : Bool) (target k sym : Nat) (m : Option Nat) : Forming × Option Nat :=
  let key := if tree then (sym, m, target + 1, k) else (sym, m, 0, 0)
  match f.made.find? fun e => e.1 == key with
  | some e => (f, some e.2)
  | none =>
    let x : GssNode := { symbol := sym, parent := m, depth := depthOf f.nodes m + 1, tn := tnOf f.nodes m, home := target }
    ({ f with nodes := Tab.put f.nodes f.fresh x, made := f.made ++ [(key, f.fresh)], fresh := f.fresh + 1 }, some f.fresh)

/-- One configuration and one transition. -/
def Forming.take (f : Forming) (n : Network) (cls : Nat) (c : Config) (t : Word) : Forming :=
  let sym := match c.top with | none => none | some i => (Tab.get? f.nodes i).map GssNode.symbol
  let topOk := match tTest t with
    | 0 => true
    | 1 => c.top.isNone
    | 2 => sym == some (tV t)
    | _ => c.top.isSome && sym != some (tV t)
  let inMask := (SMap.get n.masks (32 * tMask t + cls / 8)).getLsbD (cls % 8)
  if !(inMask && topOk && !(tPop t && c.top.isNone)) then f
  else
    let base := if tPop t then parentOf f.nodes c.top else c.top
    let (f, m) := (List.range (tPush t)).foldl
      (fun (p : Forming × Option Nat) k => p.1.push n.treeSink.isSome (tTarget t) k (tSym t k) p.2) (f, base)
    if 0xFFFFFF < depthOf f.nodes m then { f with drop := true }
    else
      let x : Config := { state := tTarget t, top := m }
      if f.next.contains x then f else { f with next := f.next ++ [x] }

def Network.form (n : Network) (sym : Nat) : Forming :=
  let cls := (SMap.get n.classMap (sym % 65536)).toNat
  let f : Forming := { next := [], nodes := n.nodes, made := [], fresh := n.nextNode, drop := false }
  n.frontier.foldl (fun f c => (n.stateTrans c.state).foldl (fun f t => f.take n cls c t) f) f

/-- The reports of a step, in order; with the dead latch set nothing fires (R251, R254). -/
def Network.reports (n : Network) (f : Forming) : List Config :=
  if n.dead then [] else n.sorted f.nodes (f.next.filter fun c => (n.cell c.state).report != 0)

/-- Nodes of this step on the chain of `m`. -/
def Network.newChain (n : Network) (f : Forming) (m : Option Nat) : List Nat :=
  (chainOf f.nodes (f.nodes.length + 1) m).takeWhile fun i => decide (n.nextNode ≤ i)

/-- The base node of a configuration: the deepest node of it that existed before the step. -/
def Network.base (n : Network) (f : Forming) (m : Option Nat) : Option Nat :=
  ((chainOf f.nodes (f.nodes.length + 1) m).dropWhile fun i => decide (n.nextNode ≤ i)).head?

/-- Tree fields of the nodes that the step made, with a tree sink bound (R257): the lowest tree index of the reports
whose push sequences made the node. -/
def Network.setTn (n : Network) (f : Forming) : Forming :=
  if n.treeSink.isNone then f else
  let rs := (n.reports f).zipIdx.map fun (c, i) => (n.newChain f c.top, n.cursor + i)
  let tn := fun (i : Nat) (x : GssNode) => match rs.find? fun r => r.1.contains i with
    | some r => { x with tn := r.2 }
    | none => { x with tn := tnOf f.nodes (n.base f (some i)) }
  { f with nodes := Tab.map (fun i x => if n.nextNode ≤ i then tn i x else x) f.nodes }

/-! ## Events and tree nodes (Tables 17.4, 17.5) -/

def eventRecord (pos code kind rank config depth : Nat) : Bytes :=
  bytesOfNat 4 pos ++ bytesOfNat 2 code ++ bytesOfNat 1 kind ++ bytesOfNat 1 rank ++ bytesOfNat 4 config ++ bytesOfNat 4 depth

def Network.reportEvent (n : Network) (f : Forming) (c : Config) : Bytes :=
  eventRecord n.pos (n.cell c.state).report 0 0 (n.configId c.top) (depthOf f.nodes c.top)

def Network.treeNode (n : Network) (f : Forming) (c : Config) : Bytes :=
  bytesOfNat 2 (n.cell c.state).report ++ bytesOfNat 2 0 ++ bytesOfNat 4 n.pos ++ bytesOfNat 4 (depthOf f.nodes c.top) ++
    bytesOfNat 4 (tnOf f.nodes (n.base f c.top))

/-! ## Limits (R258, R259) -/

/-- Entries beyond the caches of the blocks. -/
def spilled (frontier : List Config) (nodes : Tab GssNode) : Nat :=
  let cs := frontier.map fun (c : Config) => c.state / 512
  let ns := List.map (fun (e : Nat × GssNode) => e.2.home / 512) nodes
  (cs ++ ns).eraseDups.foldl (fun n b => n + (cs.count b - 4096) + (ns.count b - 16384)) 0

def Area.pages (a : Area) : Nat := a.span.toNat / 65536

/-- Whether spill space holds a number of entries. -/
def Network.spillOk (n : Network) (k : Nat) : Bool :=
  k == 0 || (match n.spill with | some a => decide (k ≤ 4096 * a.pages) | none => false)

/-! ## Whole steps -/

/-- What a symbol commits, with its reports; none where the network pauses. -/
def Network.symbol (n : Network) (sym : Nat) : Staged × List Config × Forming :=
  let f := n.setTn (n.form sym)
  let rs := n.reports f
  let dead := f.next.isEmpty && !n.dead
  let evs := rs.map (n.reportEvent f) ++ (if dead && n.deadEvents then [eventRecord n.pos 0 3 0 0xFFFFFFFF 0] else [])
  ({ frontier := f.next, nodes := sweep f.next f.nodes, nextNode := f.fresh, dead := n.dead || f.next.isEmpty,
     depthDrop := n.depthDrop || f.drop, accept := n.accept, cursor := if n.treeSink.isSome then n.cursor + rs.length else n.cursor,
     outbox := if n.eventSink.isSome then evs else [], marker := none }, rs, f)

/-- A configuration accepts in a mode (R253). -/
def Network.accepts (n : Network) (c : Config) : Bool :=
  let acc := (n.cell c.state).accepting
  match n.mode with
  | 0 => acc
  | 1 => c.top.isNone
  | _ => acc && c.top.isNone

/-- What a marker of rank `k` commits. -/
def Network.mark (n : Network) (k : Nat) : Staged :=
  let first := ((n.sorted n.nodes n.frontier).filter n.accepts).head?
  let ev := match first with
    | some c => eventRecord n.pos 0 1 k (n.configId c.top) (depthOf n.nodes c.top)
    | none => eventRecord n.pos 0 2 k 0xFFFFFFFF 0
  { frontier := [{ state := n.start, top := none }], nodes := [], nextNode := n.nextNode, dead := false,
    depthDrop := n.depthDrop, accept := first.isSome, cursor := n.cursor,
    outbox := if n.eventSink.isSome then [ev] else [], marker := some k }

/-- Stage 3 of R252: the position advances. -/
def Network.commit (n : Network) (s : Staged) : Network :=
  { n with frontier := s.frontier, nodes := s.nodes, nextNode := s.nextNode, dead := s.dead, depthDrop := s.depthDrop,
           accept := s.accept, cursor := s.cursor, pos := (n.pos + 1) % 2 ^ 32, staged := none, paused := false,
           spillFull := false }

/-- The initial frontier (R248), as ACLEAR leaves the network (R271). -/
def Network.clear (n : Network) : Network :=
  { n with frontier := [{ state := n.start, top := none }], nodes := [], pos := 0, dead := false, paused := false,
           spillFull := false, depthDrop := false, accept := false, events := 0, staged := none }

/-! ## Waypoints (R260, R269) -/

/-- Nodes in the order of R260: by depth, parent index, symbol, tn; `done` maps node numbers to indices. -/
def orderDepth (nodes : Tab GssNode) : Nat → Nat → List (Nat × GssNode) → List (Nat × GssNode)
  | 0, _, done => done
  | fuel + 1, depth, done =>
    let idx := fun (p : Option Nat) => match p with
      | none => 0xFFFFFFFF
      | some i => (done.map Prod.fst).idxOf i
    let level := nodes.filter fun e => e.2.depth == depth
    let key := fun (e : Nat × GssNode) => (idx e.2.parent, e.2.symbol, e.2.tn)
    let before := fun (a b : Nat × GssNode) =>
      decide ((key a).1 < (key b).1) || ((key a).1 == (key b).1 && (decide ((key a).2.1 < (key b).2.1) ||
        ((key a).2.1 == (key b).2.1 && decide ((key a).2.2 < (key b).2.2))))
    orderDepth nodes fuel (depth + 1) (done ++ sortBy before level)

def Network.ordered (n : Network) : List (Nat × GssNode) :=
  let live := sweep n.frontier n.nodes
  orderDepth live (live.foldl (fun m e => Nat.max m e.2.depth) 0) 1 []

def waypointFlags (n : Network) : Nat := b2n n.treeSink.isSome + 2 * b2n n.dead + 4 * b2n n.depthDrop + 8 * b2n n.accept

/-- The bytes of a waypoint (Table 17.6). -/
def Network.waypoint (n : Network) : Bytes :=
  let ns := n.ordered
  let idx := fun (p : Option Nat) => match p with
    | none => 0xFFFFFFFF
    | some i => (ns.map Prod.fst).idxOf i
  let cs := sortBy (fun (a b : Nat × Nat) => decide (a.1 < b.1) || (a.1 == b.1 && decide (a.2 < b.2)))
    (n.frontier.map fun c => (c.state, idx c.top))
  let body := (ns.flatMap fun (_, x) =>
      bytesOfNat 1 x.symbol ++ bytesOfNat 3 0 ++ bytesOfNat 4 (idx x.parent) ++ bytesOfNat 4 x.tn ++ bytesOfNat 4 x.depth) ++
    cs.flatMap fun c => bytesOfNat 4 c.1 ++ bytesOfNat 4 c.2
  let head := bytesOfNat 4 0x57504E54 ++ bytesOfNat 2 1 ++ bytesOfNat 2 (waypointFlags n) ++ bytesOf 8 n.netId ++ n.classHash ++
    bytesOfNat 4 n.pos ++ bytesOfNat 4 cs.length ++ bytesOfNat 4 ns.length ++ bytesOfNat 4 n.events ++ bytesOfNat 4 n.cursor ++
    bytesOfNat 4 (crc32c body) ++ bytesOfNat 4 0
  head ++ bytesOfNat 4 (crc32c head) ++ body

/-- A node of a waypoint's table: symbol, parent, tn, depth. -/
def wayNode (bs : Bytes) (i : Nat) : Nat × Nat × Nat × Nat :=
  (u8At bs (16 * i), u32At bs (16 * i + 4), u32At bs (16 * i + 8), u32At bs (16 * i + 12))

def pairsOk {α : Type} (p : α → α → Bool) : List α → Bool
  | a :: b :: rest => p a b && pairsOk p (b :: rest)
  | _ => true

/-- Nodes in the order of R260. -/
def nodeLe (a b : Nat × Nat × Nat × Nat) : Bool :=
  let (sa, pa, ta, da) := a
  let (sb, pb, tb, db) := b
  decide (da < db) || (da == db && (decide (pa < pb) || (pa == pb && (decide (sa < sb) || (sa == sb && decide (ta ≤ tb))))))

def configLt (a b : Nat × Nat) : Bool := decide (a.1 < b.1) || (a.1 == b.1 && decide (a.2 < b.2))

/-- The network that a waypoint restores, if its header and tables pass the checks of R269. `head` and `body` are its
bytes. Each node is kept with the state of the first configuration whose stack holds it. -/
def Network.resume (n : Network) (head body : Bytes) : Option Network :=
  let flags := u16At head 6
  let c := u32At head 0x24
  let k := u32At head 0x28
  let nodes := (List.range k).map (wayNode body)
  let cbytes := body.drop (16 * k)
  let cs := (List.range c).map fun i => (u32At cbytes (8 * i), u32At cbytes (8 * i + 4))
  let depth := fun (p : Nat) => if p = 0xFFFFFFFF then 0 else (wayNode body p).2.2.2
  let parentOk := fun (x : (Nat × Nat × Nat × Nat) × Nat) =>
    (x.1.2.1 == 0xFFFFFFFF || decide (x.1.2.1 < x.2)) && x.1.2.2.2 == depth x.1.2.1 + 1
  let top := fun (t : Nat) => if t = 0xFFFFFFFF then none else some t
  let frontier : List Config := cs.map fun c => { state := c.1, top := top c.2 }
  let table : Tab GssNode := nodes.zipIdx.map fun (x, i) =>
    (i, { symbol := x.1, parent := top x.2.1, depth := x.2.2.2, tn := x.2.2.1, home := 0 })
  let homeOf := fun (i : Nat) => ((frontier.find? fun c => (chainOf table (k + 1) c.top).contains i).map Config.state).getD n.start
  let table := Tab.map (fun i (x : GssNode) => { x with home := homeOf i }) table
  let ok := u32At head 0 == 0x57504E54 && u16At head 4 == 1 && crc32c (sliceB head 0 0x3C) == u32At head 0x3C &&
    crc32c body == u32At head 0x34 && u64At head 8 == n.netId.toNat && sliceB head 0x10 16 == n.classHash &&
    cs.all (fun c => (n.cell c.1).head && (c.2 == 0xFFFFFFFF || decide (c.2 < k))) && nodes.zipIdx.all parentOk &&
    pairsOk nodeLe nodes && pairsOk configLt cs && (flags % 2 == 1) == n.treeSink.isSome && n.spillOk (spilled frontier table)
  if ok then
    some { n with frontier := frontier, nodes := table, nextNode := k, pos := u32At head 0x20, dead := flags / 2 % 2 == 1,
                  depthDrop := flags / 4 % 2 == 1, accept := flags / 8 % 2 == 1, events := u32At head 0x2C,
                  cursor := if n.treeSink.isSome then u32At head 0x30 else n.cursor, staged := none }
  else none

end Sys2Proof.Machine
end

