-- ==== Sys2Proof/Machine/Pushdown.lean ====
section
/-! DEFINITION. The pushdown block, major 0x40 (R246, R247, R252, R256, R259, R262 to R273): its commands, its steps, and
starting a command on any engine. -/

namespace Sys2Proof.Machine

/-! ## Lent handles (R265) -/

def Dev.setLent (d : Dev) (k h chan : Nat) (lent : Bool) : Dev :=
  let c := d.core k
  match Tab.get? c.handles h with
  | none => d
  | some b => if b.chan = chan then d.setCore k { c with handles := Tab.put c.handles h { b with lent := lent } } else d

/-- The event handle of a network returns to its core. -/
def Dev.returnEvent (d : Dev) (n : Network) : Dev :=
  match n.eventSink with
  | some (k, h, ch) => d.setLent k h ch false
  | none => d

def Dev.setNet (d : Dev) (q : Nat) (n : Network) : Dev := d.setQuad q { d.quad q with net := some n }

/-- The image is unloaded: bindings clear, and the followers are free (R246, R271). -/
def Dev.unload (d : Dev) (q : Nat) : Dev :=
  match (d.quad q).net with
  | none => d
  | some n =>
    let d := d.returnEvent n
    let d := n.blocks.foldl (fun (d : Dev) b => if (d.quad b).lead = some q then d.setQuad b { d.quad b with lead := none } else d) d
    d.setQuad q { d.quad q with net := none }

/-! ## The attestation record (R306) -/

def World.extend (w : World) (time : Nat) (v : Bytes) : World :=
  { w with measurement := sha512 (w.measurement ++ v ++ bytesOfNat 4 w.extensions.toNat), extensions := w.extensions + 1,
           extendedAt := time }

/-! ## Ends of commands -/

def arunHandle (a : Word) : Nat := field a 0 4

/-- A pushdown command ends: the handle that an ARUN lent returns (R265, R266). -/
def Dev.endPush (d : Dev) (clock q : Nat) (cmd : Cmd) (t wrote : Nat) (lines : List Nat) (fault : Option Nat) : Dev :=
  let d := match cmd.instr, cmd.issuer.core with
    | .arun _ _, some k =>
      match Tab.get? (d.core k).handles (arunHandle cmd.a) with
      | some b => if cmd.tile.isSome then d.setLent k (arunHandle cmd.a) b.chan false else d
      | none => d
    | _, _ => d
  d.endOp clock q 2 cmd t wrote lines fault

/-- The end of a command's accesses. What it has written stays while it waits for a page (R170); its reads, which it makes
anew, stay on their counters. -/
def Dev.concludePush (_ : Dev) (x : Ctx) (q : Nat) (cmd : Cmd) (r : Run) : Dev :=
  if r.waits then r.d.waitOp x.now q 2 cmd { r with got := 0 }
  else r.d.endPush x.now.clock q cmd r.t r.wrote r.lines r.err

/-! ## ALOAD (R246, R263) -/

/-- The blocks of a network led by `q`: the lead, and the lowest-numbered higher quads of the issuing team's region on its
die; a graph node's command takes them from the partition (log 17). -/
def Dev.netBlocks (d : Dev) (cmd : Cmd) (q n : Nat) : List Nat :=
  let region := match cmd.issuer.node, Tab.get? d.teams cmd.issuer.team with
    | none, some t => (rectIndices t.left t.top t.width t.height).map quadOfIndex
    | _, _ => (d.world cmd.issuer.world).partition.map quadOfIndex
  let mine := (sortBy (fun a b => decide (a < b)) region).filter fun b => dieOfQuad b == dieOfQuad q && decide (q < b)
  q :: mine.take (n - 1)

/-- A block that the network may take: it belongs to none, or to one that this quad leads. -/
def Dev.blockFree (d : Dev) (q b : Nat) : Bool :=
  b == q || ((d.quad b).net.isNone && ((d.quad b).lead.isNone || (d.quad b).lead == some q))

/-- Cells `c` to `c + n - 1` of an image. -/
def readCells (r : Run) (x : Ctx) (req : Req) (pinned : Bool) (base : Nat) : Nat → Nat → Run × Tab Cell
  | _, 0 => (r, [])
  | c, n + 1 =>
    let (r, bs) := Run.read r x req pinned (base + 136 * c) 136
    let (r, rest) := readCells r x req pinned base (c + 1) n
    (r, (c, parseCell bs) :: rest)

def newNetwork (cmd : Cmd) (blocks : List Nat) (h : ImageHeader) (classMap masks : Bytes) (cells : Tab Cell) (stamp : Nat) : Network :=
  { blocks := blocks, world := cmd.issuer.world, gen := cmd.issuer.gen, team := cmd.issuer.team, start := h.start,
    netId := h.netId, classHash := h.classHash, classMap := SMap.ofList classMap, masks := SMap.ofList masks, cells := cells,
    frontier := [{ state := h.start, top := none }], nodes := [], nextNode := 0, pos := 0, dead := false, depthDrop := false,
    accept := false, paused := false, spillFull := false, events := 0, cursor := 0, maskSink := none, eventSink := none,
    treeSink := none, spill := none, limit := 2 ^ 24, mode := 0, deadEvents := false, binder := none, consumed := 0,
    staged := none, stamp := stamp }

/-- What ALOAD asks of the record (R241). -/
def imageRecordOk (r : Rec) : Bool := r.format == 8 && r.rank == 1 && r.stride 0 == 1

def Run.aload (r : Run) (x : Ctx) (q : Nat) (cmd : Cmd) (rc : Rec) : Run :=
  let n := cmd.a.toNat
  let blocks := r.d.netBlocks cmd q n
  if n = 0 ∨ 256 < n ∨ !imageRecordOk rc ∨ blocks.length < n ∨ !(blocks.all fun b => r.d.blockFree q b) then r.fail 0x01 else
  let req := rc.req cmd.issuer q false
  let (r, head) := Run.read r x req rc.pinned rc.base 64
  if r.stopped then r else
  match parseImage head rc.span with
  | none => r.fail 0x01
  | some h =>
    if 512 * n < h.cells then r.fail 0x01 else
    let (r, classMap) := Run.read r x req rc.pinned (rc.base + h.classOff) 65536
    let (r, masks) := Run.read r x req rc.pinned (rc.base + h.maskOff) 8192
    let (r, cells) := readCells r x req rc.pinned (rc.base + h.cellOff) 0 h.cells
    let (r, image) := Run.read r x req rc.pinned rc.base (rc.extent 0)
    if r.stopped then r
    else if (sha512 classMap).take 16 ≠ h.classHash ∨ !imageOk h.start cells then r.fail 0x01
    else
      let w := r.d.world cmd.issuer.world
      let d := (r.d.unload q).setWorld cmd.issuer.world (w.extend x.now.ns (sha512 image))
      let d := blocks.foldl (fun (d : Dev) b => if b = q then d else d.setQuad b { d.quad b with lead := some q }) d
      { r with d := d.setNet q (newNetwork cmd blocks h classMap masks cells x.seq) }

/-! ## ABIND (R264) -/

def areaOf (r : Rec) : Area :=
  { base := BitVec.ofNat 64 r.base, span := BitVec.ofNat 64 r.span, keySlot := r.keySlot, pinned := r.pinned, readOnly := r.readOnly }

def Dev.bindMask (d : Dev) (n : Network) (cmd : Cmd) (hi : BitVec 3) (r : Rec) : Option (Dev × Network) :=
  let a := cmd.a.toNat
  if a % 64 ≠ 0 ∨ a < r.base ∨ r.base + r.span < a + 512 ∨ field hi 1 2 ≠ 0 then none
  else some (d, { n with maskSink := some { area := areaOf r, addr := cmd.a, perStep := bit hi 0 } })

def Dev.bindEvent (d : Dev) (n : Network) (cmd : Cmd) (tid : Nat) (hi : BitVec 3) : Option (Dev × Network) :=
  match cmd.issuer.core with
  | none => none
  | some k =>
    let h := cmd.a.toNat
    match Tab.get? (d.core k).handles h with
    | none => none
    | some b =>
      match Tab.get? d.chans b.chan with
      | none => none
      | some ch =>
        if 16 ≤ h ∨ tid ≠ 0 ∨ hi ≠ 0 ∨ !b.producer ∨ b.lent ∨ ch.slotBytes ≠ 16 then none
        else some ((d.returnEvent n).setLent k h b.chan true, { n with eventSink := some (k, h, b.chan) })

def Dev.bindTree (d : Dev) (n : Network) (cmd : Cmd) (hi : BitVec 3) (r : Rec) : Option (Dev × Network) :=
  if 2 ^ 32 ≤ cmd.a.toNat ∨ hi ≠ 0 then none else some (d, { n with treeSink := some (areaOf r), cursor := cmd.a.toNat })

def Dev.bindSpill (d : Dev) (n : Network) (cmd : Cmd) (hi : BitVec 3) (r : Rec) : Option (Dev × Network) :=
  let used := ceilDiv (spilled n.frontier n.nodes) 4096
  if cmd.a ≠ 0 ∨ hi ≠ 0 ∨ r.base % 65536 ≠ 0 ∨ r.span = 0 ∨ r.span % 65536 ≠ 0 ∨ r.span / 65536 < used then none
  else some (d, { n with spill := some (areaOf r) })

def Dev.bindLimits (d : Dev) (n : Network) (cmd : Cmd) (tid : Nat) (hi : BitVec 3) : Option (Dev × Network) :=
  let mode := field hi 0 2
  if cmd.a = 0 ∨ 2 ^ 24 < cmd.a.toNat ∨ mode = 3 ∨ tid ≠ 0 then none
  else some (d, { n with limit := cmd.a.toNat, mode := mode, deadEvents := bit hi 2, binder := cmd.issuer.core })

def Dev.bindNone (d : Dev) (n : Network) (cmd : Cmd) (tid : Nat) (hi : BitVec 3) : Option (Dev × Network) :=
  if 4 ≤ cmd.a.toNat ∨ tid ≠ 0 ∨ hi ≠ 0 then none
  else match cmd.a.toNat with
    | 0 => some (d, { n with maskSink := none })
    | 1 => some (d.returnEvent n, { n with eventSink := none })
    | 2 => some (d, { n with treeSink := none })
    | _ => some (d, { n with spill := none })

/-! ## Starting a command (R247, R262, R266, R267) -/

/-- The consumer handle of an ARUN, with the channel, if the ring has 4-byte slots. -/
def Dev.arunRing (d : Dev) (cmd : Cmd) : Option (Nat × Nat × Chan) :=
  match cmd.issuer.core with
  | none => none
  | some k =>
    match Tab.get? (d.core k).handles (arunHandle cmd.a) with
    | none => none
    | some b =>
      match Tab.get? d.chans b.chan with
      | none => none
      | some ch => if b.producer ∨ ch.slotBytes ≠ 4 then none else some (k, b.chan, ch)

/-- An ARUN or ASTEP starts: it checks its operands, an ARUN lends its handle, and a paused network resumes. -/
def Dev.beginPush (d : Dev) (clock q : Nat) : Dev :=
  match (d.engine q 2).running with
  | [] => d
  | cmd :: _ =>
    let fail := d.endPush clock q cmd cmd.ltime 0 [] (some 0x01)
    match cmd.fault with
    | some code => d.endPush clock q cmd cmd.ltime 0 [] (some code)
    | none =>
      if (d.quad q).lead.isSome then fail else
      match cmd.instr, (d.quad q).net with
      | .arun _ _, none => fail
      | .astep _ _, none => fail
      | .arun _ _, some n =>
        match d.arunRing cmd with
        | none => fail
        | some (k, ch, _) =>
          if (Tab.get? (d.core k).handles (arunHandle cmd.a)).any Handle.lent then fail
          else
            ((d.setLent k (arunHandle cmd.a) ch true).setNet q
              { n with consumed := 0, paused := false, spillFull := false }).setRunning q 2 { cmd with tile := some 0 }
      | .astep _ mark, some n =>
        if (if mark = 1 then 8 else 65536) ≤ cmd.a.toNat then fail
        else d.setNet q { n with paused := false, spillFull := false }
      | _, _ => d

/-- ENGINE_COMMAND_START (R216): the head of an engine's queue starts once its buffer-slot condition holds. -/
def execEngineCommandStart (q e : Nat) : State → Host.Outcome State Fault Refusal :=
  run fun x d =>
    let clock := x.now.clock
    if d.canStart clock q e false then
      let d := d.startHead clock q e
      if e = 2 then d.beginPush clock q else d
    else d

/-! ## Sinks (R255 to R258) -/

def Area.req (a : Area) (i : Issuer) (q : Nat) (write : Bool) : Req :=
  { world := i.world, gen := i.gen, die := dieOfQuad q, quad := some q, write := write, slot := some a.keySlot }

def Run.sinkWrite (r : Run) (x : Ctx) (i : Issuer) (q : Nat) (a : Area) (va : Nat) (bs : Bytes) : Run :=
  if a.readOnly then r.fail 0x0C else r.write x (a.req i q true) a.pinned va bs

/-- The 8-byte unit `u` of a mask that holds exactly some codes. -/
def maskUnit (codes : List Nat) (u : Nat) : Nat :=
  (List.range 64).foldl (fun v i => v + if codes.contains (64 * u + i) then 2 ^ i else 0) 0

/-- A step's mask bits: each 8-byte unit is a piece of the step's work. -/
def Run.maskBits (r : Run) (x : Ctx) (cmd : Cmd) (q : Nat) (s : MaskSink) (codes : List Nat) : Run :=
  let at_ := fun u => s.addr.toNat + 8 * u
  let units := if s.perStep then List.range 64 else (codes.map fun c => c / 64).eraseDups
  units.foldl (fun r u => r.piece cmd.landed u fun r =>
    if s.perStep then r.sinkWrite x cmd.issuer q s.area (at_ u) (bytesOfNat 8 (maskUnit codes u))
    else r.readThen x (s.area.req cmd.issuer q false) s.area.pinned (at_ u) 8 fun r old =>
      r.sinkWrite x cmd.issuer q s.area (at_ u) (bytesOfNat 8 (natOfBytes old ||| maskUnit codes u))) r

/-- A step's tree nodes from the cursor; a node past the record's range ends the operation. -/
def Run.treeNodes (r : Run) (x : Ctx) (cmd : Cmd) (q : Nat) (n : Network) (f : Forming) (rs : List Config) : Run :=
  match n.treeSink with
  | none => r
  | some a => rs.zipIdx.foldl (fun r (c, i) =>
    if a.span.toNat / 16 ≤ n.cursor + i then r.fail 0x01
    else r.piece cmd.landed (64 + 2 * i) fun r =>
      r.sinkWrite x cmd.issuer q a (a.base.toNat + 16 * (n.cursor + i)) (n.treeNode f c)) r

/-- The accesses of `k` spilled entries (R258), of 16 bytes each: one 64-byte read and one 64-byte write of the line that
holds the entry. The bytes that the device keeps in its frontier pages are its own (log 17). -/
def Run.spillPages (r : Run) (x : Ctx) (cmd : Cmd) (q : Nat) (n : Network) (k : Nat) : Run :=
  match n.spill with
  | none => r
  | some a => (List.range k).foldl (fun r j => r.piece cmd.landed (65 + 2 * j) fun r =>
    let o := j / 4 * 64
    r.readThen x (a.req cmd.issuer q false) a.pinned (a.base.toNat + o) 64 fun r _ =>
      let r' := r.sinkWrite x cmd.issuer q a (a.base.toNat + o) ((List.range 64).map fun i => Config.spillByte x.seq (o + i))
      if r.went r' then { r' with d := r'.d.count cmd.issuer.world 11 128 } else r') r

/-! ## Stepping -/

/-- FRONTIER_LIMIT (R259): the network pauses, and the binding core takes the trap, or the host an event. -/
def Dev.pauseNet (d : Dev) (now : Now) (q : Nat) (n : Network) (size : Nat) (spillFull : Bool) : Dev :=
  let info := BitVec.ofNat 64 (n.pos % 2 ^ 32 + Nat.min size 0xFFFFFF * 2 ^ 32 + q % 256 * 2 ^ 56)
  let d := d.setNet q { n with paused := true, spillFull := spillFull }
  match n.binder with
  | some k =>
    let c := d.core k
    d.setCore k { c with async := c.async ++ [{ cause := Cause.frontierLimit, info := info }] }
  | none =>
    d.event now 2 n.world (dieOfQuad q) (items [Cause.frontierLimit, info.toNat, 0xFFFFFFFF, dieOfQuad q, q % 256, 0xFF])

/-- Publishes a staged step's events, each to one slot with tag 0, while the ring has credit (R252, R256). -/
def Dev.publish (q t0 : Nat) : Nat → Dev → Dev
  | 0, d => d
  | fuel + 1, d =>
    match (d.quad q).net with
    | none => d
    | some n =>
      match n.staged, n.eventSink with
      | some st, some (_, _, i) =>
        match st.outbox, Tab.get? d.chans i with
        | e :: rest, some ch =>
          if ch.credits = 0 then d
          else
            let pa := ch.addr ch.tail 0
            let (d, t) := d.storePa (Nat.max t0 ch.ltime) pa e
            let d := d.fireStores ch.world pa 16
            let ch' : Chan := { ch with tail := (ch.tail + 1) % ch.slots, credits := ch.credits - 1, reserved := ch.reserved - 1,
                                        tags := Tab.put ch.tags ch.tail 0, fills := ch.fills ++ [1], ltime := t }
            let d := (d.setChan i ch').setLatch ch.prod
            Dev.publish q t0 fuel (d.setNet q { n with staged := some { st with outbox := rest }, events := (n.events + 1) % 2 ^ 32 })
        | _, _ => d
      | _, _ => d

/-- The channel of a network's event sink. -/
def Dev.eventChan (d : Dev) (n : Network) : Option Chan :=
  match n.eventSink with | some (_, _, i) => Tab.get? d.chans i | none => none

/-- The logical time after a step's publications, which its credit return and the next step's writes follow (R252). -/
def Dev.stepTime (d : Dev) (n : Network) (t : Nat) : Nat :=
  match d.eventChan n with | some ch => Nat.max t ch.ltime | none => t

/-- The input slot is consumed, as by CCADV, at logical time `t` (R209, R252). -/
def Dev.consumeSlot (d : Dev) (cmd : Cmd) (t : Nat) : Dev :=
  match cmd.instr, d.arunRing cmd with
  | .arun _ _, some (k, i, ch) =>
    (d.setChan i { ch with head := (ch.head + 1) % ch.slots, filled := ch.filled - 1, waited := ch.waited - 1,
                           backs := ch.backs ++ [1], ltime := Nat.max ch.ltime t }).setLatch k
  | _, _ => d

/-- A staged step goes on: it publishes, and commits once nothing is left to publish (R252, R266). A ring whose record bars
writes ends the operation (R74). -/
def Dev.advance (d : Dev) (clock q : Nat) (cmd : Cmd) : Dev :=
  match (d.quad q).net with
  | none => d
  | some n =>
    match n.staged with
    | none => d
    | some st =>
      if !st.outbox.isEmpty && (d.eventChan n).any Chan.readOnly then
        (d.setNet q { n with staged := none }).endPush clock q cmd cmd.ltime cmd.given [] (some 0x0C)
      else
        let d := Dev.publish q cmd.ltime st.outbox.length d
        match (d.quad q).net with
        | none => d
        | some n =>
          match n.staged with
          | none => d
          | some st =>
            if !st.outbox.isEmpty then d
            else
              let t := d.stepTime n cmd.ltime
              let cmd : Cmd := { cmd with ltime := t, landed := [] }
              let n : Network := { n.commit st with consumed := n.consumed + 1 }
              let d := ((d.setNet q n).consumeSlot cmd t).count cmd.issuer.world 10 1
              let over_ := match cmd.instr with
                | .arun _ _ => (cmd.b != 0 && n.consumed == cmd.b.toNat) || st.marker == some 7
                | _ => true
              if over_ then d.endPush clock q cmd t cmd.given [] none else d.setRunning q 2 cmd

/-- What the command steps next: a symbol, or a marker's rank; none while the ring is empty. -/
def Dev.feed (d : Dev) (cmd : Cmd) : Option (Nat ⊕ Nat) :=
  match cmd.instr with
  | .astep _ mark => some (if mark = 1 then .inr (cmd.a.toNat % 8) else .inl (cmd.a.toNat % 65536))
  | .arun _ _ =>
    match d.arunRing cmd with
    | none => none
    | some (_, _, ch) =>
      if ch.filled = 0 then none
      else match Tab.getD ch.tags ch.head 0 with
        | 0 => some (.inl (natOfBytes (d.bytesAt (ch.addr ch.head 0) 2)))
        | k + 1 => some (.inr k)
  | _ => none

/-- The spilled entries that take part in a step: those of the frontier it reads, or of the one it forms if they are more
(log 17). -/
def Network.taking (n : Network) (st : Staged) : Nat := Nat.max (spilled n.frontier n.nodes) (spilled st.frontier st.nodes)

/-- Stages 1 and 2 of a symbol's step up to its sinks (R252): it may pause, wait for a page, or end in fault. Its counters
keep their bytes until it completes (R272). -/
def Dev.stageSymbol (d : Dev) (x : Ctx) (q : Nat) (cmd : Cmd) (n : Network) (sym : Nat) : Dev :=
  let (st, rs, f) := n.symbol sym
  let pause := fun (full : Bool) =>
    (d.pauseNet x.now q n st.frontier.length full).endPush x.now.clock q cmd cmd.ltime cmd.given [] none
  if n.limit < st.frontier.length then pause false
  else if !n.spillOk (spilled st.frontier st.nodes) then pause true
  else
    let run := (Run.start d cmd).treeNodes x cmd q n f rs
    let run := match n.maskSink with
      | some s => run.maskBits x cmd q s (rs.map fun (c : Config) => (n.cell c.state).report)
      | none => run
    let run := run.spillPages x cmd q n (n.taking st)
    if run.waits then d.concludePush x q cmd { run with put := 0 }
    else
      let cmd : Cmd := { cmd with given := cmd.given + run.wrote, ltime := run.t, lines := run.lines ++ cmd.lines }
      if run.err.isSome then d.concludePush x q cmd { run with wrote := cmd.given, lines := [] }
      else ((run.d.setNet q { n with staged := some st }).setRunning q 2 cmd).advance x.now.clock q cmd

def Dev.stageMarker (d : Dev) (clock q : Nat) (cmd : Cmd) (n : Network) (k : Nat) : Dev :=
  (d.setNet q { n with staged := some (n.mark k) }).advance clock q cmd

/-- The running ARUN or ASTEP of a quad, with its network. -/
def Dev.stepping (d : Dev) (q : Nat) : Option (Cmd × Network) :=
  match (d.engine q 2).running, (d.quad q).net with
  | cmd :: _, some n =>
    if cmd.waiting then none
    else match cmd.instr with
      | .arun _ _ =>
        let t := match d.arunRing cmd with | some (_, _, ch) => ch.ltime | none => 0
        if cmd.tile.isSome then some ({ cmd with ltime := Nat.max cmd.ltime t }, n) else none
      | .astep _ _ => some (cmd, n)
      | _ => none
  | _, _ => none

/-- PUSHDOWN_STEP (R250, R252): one symbol's step, or the next stage of it. -/
def execPushdownStep (q : Nat) : State → Host.Outcome State Fault Refusal :=
  run fun x d =>
    match d.stepping q with
    | none => d
    | some (cmd, n) =>
      match n.staged with
      | some st => if st.marker.isNone then d.advance x.now.clock q cmd else d
      | none =>
        match d.feed cmd with
        | some (.inl sym) => d.stageSymbol x q cmd n sym
        | _ => d

/-- PUSHDOWN_MARKER (R253): a marker slot, or the next stage of it. -/
def execPushdownMarker (q : Nat) : State → Host.Outcome State Fault Refusal :=
  run fun x d =>
    match d.stepping q with
    | none => d
    | some (cmd, n) =>
      match n.staged with
      | some st => if st.marker.isSome then d.advance x.now.clock q cmd else d
      | none =>
        match d.feed cmd with
        | some (.inr k) => d.stageMarker x.now.clock q cmd n k
        | _ => d

/-! ## The other commands: PUSHDOWN_COMMAND_DONE -/

/-- AWAY (R268). -/
def Run.away (r : Run) (x : Ctx) (q : Nat) (cmd : Cmd) (rc : Rec) (n : Network) : Run :=
  let bs := n.waypoint
  if rc.span < bs.length then r.fail 0x01
  else if rc.readOnly then r.fail 0x0C
  else r.writePieces x (rc.req cmd.issuer q true) rc.pinned cmd.landed 0 rc.base bs

/-- ARESUME (R269): it reads and checks the whole waypoint before it changes anything. -/
def Run.aresume (r : Run) (x : Ctx) (q : Nat) (cmd : Cmd) (rc : Rec) (n : Network) : Run :=
  let req := rc.req cmd.issuer q false
  if rc.span < 64 then r.fail 0x01 else
  let (r, head) := Run.read r x req rc.pinned rc.base 64
  let size := 16 * u32At head 0x28 + 8 * u32At head 0x24
  if r.stopped then r
  else if rc.span < 64 + size then r.fail 0x01
  else
    let (r, body) := Run.read r x req rc.pinned (rc.base + 64) size
    if r.stopped then r
    else match n.resume head body with
      | none => r.fail 0x01
      | some n => { r with d := r.d.setNet q n }

/-- What a running pushdown command other than ARUN and ASTEP does. -/
def Dev.pushRun (d : Dev) (x : Ctx) (q : Nat) (cmd : Cmd) : Dev :=
  let run := match cmd.fault with | some code => (Run.start d cmd).fail code | none => Run.start d cmd
  if run.err.isSome then d.concludePush x q cmd run else
  let withRec := fun (tid : BitVec 11) (kind : Nat) (f : Run → Rec → Run) =>
    match d.cmdRecord x q cmd tid.toNat with
    | (d, none) => d.concludePush x q cmd ((Run.start d cmd).fail 0x0A)
    | (d, some rc) =>
      let cmd : Cmd := { cmd with record := some rc }
      d.concludePush x q cmd (if rc.kind = kind then f (Run.start d cmd) rc else (Run.start d cmd).fail 0x0A)
  let bound := fun (r : Run) (o : Option (Dev × Network)) => match o with
    | some (d, n) => { r with d := d.setNet q n }
    | none => r.fail 0x01
  match (d.quad q).net with
  | none =>
    match cmd.instr with
    | .aload _ tid => if (d.quad q).lead.isSome then d.concludePush x q cmd (run.fail 0x01) else withRec tid 3 fun r rc => r.aload x q cmd rc
    | .aclear _ => d.concludePush x q cmd run
    | _ => d.concludePush x q cmd (run.fail 0x01)
  | some n =>
    match cmd.instr with
    | .aload _ tid => withRec tid 3 fun r rc => r.aload x q cmd rc
    | .abindMaskSink _ tid hi => withRec tid 0 fun r rc => bound r (r.d.bindMask n cmd hi rc)
    | .abindEventSink _ tid hi => d.concludePush x q cmd (bound run (d.bindEvent n cmd tid.toNat hi))
    | .abindTreeSink _ tid hi => withRec tid 0 fun r rc => bound r (r.d.bindTree n cmd hi rc)
    | .abindSpillArea _ tid hi => withRec tid 0 fun r rc => bound r (r.d.bindSpill n cmd hi rc)
    | .abindLimits _ tid hi => d.concludePush x q cmd (bound run (d.bindLimits n cmd tid.toNat hi))
    | .abindUnbind _ tid hi => d.concludePush x q cmd (bound run (d.bindNone n cmd tid.toNat hi))
    | .away tid => withRec tid 4 fun r rc => r.away x q cmd rc n
    | .aresume tid => withRec tid 4 fun r rc => r.aresume x q cmd rc n
    | .aclear unload =>
      let d' := if unload = 1 then d.unload q else d.setNet q n.clear
      d'.concludePush x q cmd (Run.start d' cmd)
    | _ => d

/-- PUSHDOWN_COMMAND_DONE: a command that moves bytes or state, other than ARUN and ASTEP, completes. -/
def execPushdownCommandDone (q : Nat) : State → Host.Outcome State Fault Refusal :=
  run fun x d =>
    match (d.engine q 2).running with
    | [] => d
    | cmd :: _ => if cmd.waiting then d else d.pushRun x q cmd

/-! ## Issue (R262) -/

/-- A pushdown command: on a follower's core it traps BAD_HANDLE with the lead's number; from a follower's sequencer it
ends in fault (R247). `named` is its TID with the kind it must have. -/
def issuePush (reads : List Reg) (i : Instr) (named : Option (BitVec 11 × Nat)) (vals : Dev → Who → Word × Word)
    (ops : Dev → Cmd → Option Rec → List Operand) : State → Host.Outcome State Fault Refusal :=
  onX 2 reads [] fun x w d =>
    let q := quadOfCore w.core
    let (a, b) := vals d w
    let cmd := d.newCmd w i a b 0
    match (d.quad q).lead with
    | some l =>
      match w.eng with
      | none => .trap Cause.badHandle (BitVec.ofNat 64 (l % 256))
      | some _ => d.issueCmd w 2 { cmd with fault := some 0x01 } []
    | none =>
      match named with
      | none => d.issueCmd w 2 cmd (ops d cmd none)
      | some (tid, kind) =>
        match d.useKind x.seq (dieOfQuad q) cmd.issuer.world tid.toNat [kind] with
        | (d, none) => d.badRecord w 2 tid.toNat cmd
        | (d, some r) => d.issueCmd w 2 { cmd with record := some r } (ops d cmd (some r))

def noOps : Dev → Cmd → Option Rec → List Operand := fun _ _ _ => []
/-- The operand of AWAY, which it writes, or of ALOAD or ARESUME, which they read. -/
def recordOps (dest : Bool) : Dev → Cmd → Option Rec → List Operand :=
  fun _ _ r => match r with | some r => [spanOf dest r r.span] | none => []

def chanRange (dest : Bool) (ch : Chan) : Operand := { lo := ch.va.toNat, hi := ch.va.toNat + ch.span, bytes := ch.span, dest := dest }

/-- The operands that a network's bound sinks are to a step. -/
structure Sinks where
  mask : Option Operand
  tree : Option Operand
  event : Option Operand

def Sinks.empty : Sinks := { mask := none, tree := none, event := none }

def Network.sinks (n : Network) (d : Dev) : Sinks :=
  { mask := n.maskSink.map fun s => hull true s.addr 512,
    tree := n.treeSink.map fun a => { lo := a.base.toNat, hi := a.base.toNat + a.span.toNat, bytes := a.span.toNat, dest := true },
    event := (d.eventChan n).map (chanRange true) }

/-- What a command ahead in the queue makes of the sinks. -/
def Dev.sinksAfter (d : Dev) (s : Sinks) (cmd : Cmd) : Sinks :=
  match cmd.instr with
  | .aload _ _ => Sinks.empty
  | .aclear unload => if unload = 1 then Sinks.empty else s
  | .abindMaskSink _ _ _ => { s with mask := some (hull true cmd.a 512) }
  | .abindTreeSink _ _ _ => { s with tree := cmd.record.map fun r => spanOf true r r.span }
  | .abindEventSink _ _ _ =>
    { s with event := match cmd.issuer.core with
        | none => none
        | some k => match Tab.get? (d.core k).handles cmd.a.toNat with
          | none => none
          | some b => (Tab.get? d.chans b.chan).map (chanRange true) }
  | .abindUnbind _ _ _ =>
    match cmd.a.toNat with
    | 0 => { s with mask := none }
    | 1 => { s with event := none }
    | 2 => { s with tree := none }
    | _ => s
  | _ => s

/-- The operands of an ARUN or ASTEP (R272): the mask sink, the tree record and the event ring that it will find bound, and
the input ring. -/
def stepOps : Dev → Cmd → Option Rec → List Operand := fun d cmd _ =>
  match cmd.issuer.core with
  | none => []
  | some k =>
    let q := quadOfCore k
    let input := match cmd.instr, d.arunRing cmd with
      | .arun _ _, some (_, _, ch) => [chanRange false ch]
      | _, _ => []
    let now := match (d.quad q).net with | some n => n.sinks d | none => Sinks.empty
    let s := ((d.engine q 2).running ++ (d.engine q 2).queue).foldl d.sinksAfter now
    s.mask.toList ++ s.tree.toList ++ s.event.toList ++ input

def valA (a : Reg) : Dev → Who → Word × Word := fun d w => (d.xread w a, 0)

def execAload (a : Reg) (tid : BitVec 11) : State → Host.Outcome State Fault Refusal :=
  issuePush [a] (.aload a tid) (some (tid, 3)) (valA a) (recordOps false)

def execAbindMaskSink (a : Reg) (tid : BitVec 11) (hi : BitVec 3) : State → Host.Outcome State Fault Refusal :=
  issuePush [a] (.abindMaskSink a tid hi) (some (tid, 0)) (valA a) noOps

def execAbindEventSink (a : Reg) (tid : BitVec 11) (hi : BitVec 3) : State → Host.Outcome State Fault Refusal :=
  issuePush [a] (.abindEventSink a tid hi) none (valA a) noOps

def execAbindTreeSink (a : Reg) (tid : BitVec 11) (hi : BitVec 3) : State → Host.Outcome State Fault Refusal :=
  issuePush [a] (.abindTreeSink a tid hi) (some (tid, 0)) (valA a) noOps

def execAbindSpillArea (a : Reg) (tid : BitVec 11) (hi : BitVec 3) : State → Host.Outcome State Fault Refusal :=
  issuePush [a] (.abindSpillArea a tid hi) (some (tid, 0)) (valA a) noOps

def execAbindLimits (a : Reg) (tid : BitVec 11) (hi : BitVec 3) : State → Host.Outcome State Fault Refusal :=
  issuePush [a] (.abindLimits a tid hi) none (valA a) noOps

def execAbindUnbind (a : Reg) (tid : BitVec 11) (hi : BitVec 3) : State → Host.Outcome State Fault Refusal :=
  issuePush [a] (.abindUnbind a tid hi) none (valA a) noOps

def execArun (a b : Reg) : State → Host.Outcome State Fault Refusal :=
  issuePush [a, b] (.arun a b) none (fun d w => (d.xread w a, d.xread w b)) stepOps

def execAstep (a : Reg) (mark : BitVec 1) : State → Host.Outcome State Fault Refusal :=
  issuePush [a] (.astep a mark) none (valA a) stepOps

def execAway (tid : BitVec 11) : State → Host.Outcome State Fault Refusal :=
  issuePush [] (.away tid) (some (tid, 4)) (fun _ _ => (0, 0)) (recordOps true)

def execAresume (tid : BitVec 11) : State → Host.Outcome State Fault Refusal :=
  issuePush [] (.aresume tid) (some (tid, 4)) (fun _ _ => (0, 0)) (recordOps false)

def execAclear (unload : BitVec 1) : State → Host.Outcome State Fault Refusal :=
  issuePush [] (.aclear unload) none (fun _ _ => (0, 0)) noOps

/-- Table 17.8. -/
def Dev.netStatus (d : Dev) (q : Nat) : Word :=
  match (d.quad q).net with
  | none => 0
  | some n =>
    let running := match (d.engine q 2).running with
      | cmd :: _ => (match cmd.instr with | .arun _ _ => true | .astep _ _ => true | _ => false)
      | [] => false
    BitVec.ofNat 64 (Nat.min n.frontier.length 0xFFFFFF * 2 ^ 40 + n.pos % 2 ^ 32 * 2 ^ 8 + 2 ^ 7 + 2 ^ 6 * b2n running +
      2 ^ 5 * b2n n.paused + 2 ^ 4 * b2n n.spillFull + 2 ^ 3 * b2n n.dead + 2 ^ 2 * b2n n.depthDrop +
      2 * b2n (decide (0 < spilled n.frontier n.nodes)) + b2n n.accept)

/-- ASTAT (R270) acts at issue. -/
def execAstat (a : Reg) : State → Host.Outcome State Fault Refusal :=
  onX 2 [] [a] fun _ w d =>
    let q := quadOfCore w.core
    match (d.quad q).lead, w.eng with
    | some l, none => .trap Cause.badHandle (BitVec.ofNat 64 (l % 256))
    | _, _ => .done (d.xwrite w a (d.netStatus q))

end Sys2Proof.Machine
end

