-- ==== Sys2Proof/Machine/Teams.lean ====
section
/-! DEFINITION. Teams and planes: loading a team (R18, R97, R103, R204, R296, R308), its start (R19, R75), plane swap
(R20, R43), kill (R44, R45, R309), completion and the deadlock survey (R38 to R41). -/

namespace Sys2Proof.Machine

/-- The next unused number of a table. -/
def freshKey {α : Type} (t : Tab α) : Nat := match t.getLast? with | some e => e.1 + 1 | none => 0

def Team.quads (t : Team) : List Nat := (rectIndices t.left t.top t.width t.height).map quadOfIndex

def Dev.setTeam (d : Dev) (n : Nat) (t : Team) : Dev := { d with teams := Tab.put d.teams n t }

/-! ## Loading (R97, R98, R204, R308) -/

/-- The image of one HALT that a core without a role receives (log 19). -/
def haltImage : SMap 64 :=
  SMap.ofList [0x000000014B484E47, 0x0001F0FF00000000, 0xFFFFFFFFFFFF0008, 0x000000090000FFFF, 0, 0, 0, 0, 0x0101000000000000]

def Program.places (p : Program) : List (Nat × Nat × Nat) := p.roles.flatMap RoleImage.places

/-- The core at a place of a region. -/
def coreAt (left top : Nat) (pl : Nat × Nat × Nat) : Nat := 4 * quadAt (left + pl.1) (top + pl.2.1) + pl.2.2

/-- The core of a placement index (Table 5.13). -/
def Program.coreOf (p : Program) (left top i : Nat) : Nat := coreAt left top (p.places.getD i (0, 0, 0))

/-- Physical address of a ring whose consumer is on a quad; none where its base lies elsewhere (R204). -/
def Dev.ringAt (d : Dev) (r : Rec) (q : Nat) : Option Nat :=
  if vaLocal ≤ r.base then some (vaultPa d.pkgId q (r.base - vaLocal))
  else if vaWindow ≤ r.base ∧ (r.base - vaWindow) / 0x200000 = q then some (vaultPa d.pkgId q ((r.base - vaWindow) % 0x200000))
  else none

/-- A ring TID whose base does not lie with its consumer, if any. -/
def Dev.strayRing (d : Dev) (seq world left top : Nat) (p : Program) : Option Nat :=
  p.routes.findSome? fun (r : Route) =>
    if r.kind ≠ 0 then none
    else
      let q := quadOfCore (p.coreOf left top r.dst)
      match d.recordNow seq (dieOfQuad q) world r.tid with
      | some rc => if (d.ringAt rc q).isSome then none else some r.tid
      | none => some r.tid

/-- Whether every page that the role images come from is in EXEC (R308). -/
def World.loadable (w : World) (program : Nat) (p : Program) : Bool :=
  p.roles.zipIdx.all fun ((r : RoleImage), i) => r.pages.all fun va => w.code.any fun (c : CodePage) =>
    c.va == va && c.program == program && c.role == i && c.state == .exec

/-- The coordinates after a hop. -/
def hopTo (h x y : Nat) : Nat × Nat :=
  match h with | 0 => (x, y - 1) | 1 => (x + 1, y) | 2 => (x, y + 1) | _ => (x - 1, y)

/-- Whether a hop stays on the package's grid. -/
def hopOnGrid (h x y : Nat) : Bool :=
  match h with | 0 => decide (0 < y) | 1 => decide (x < 31) | 2 => decide (y < 31) | _ => decide (0 < x)

/-- The quads that a route passes through after its source, hop by hop. -/
def hops : List Nat → Nat → Nat → List Nat
  | [], _, _ => []
  | h :: hs, x, y => let (x', y') := hopTo h x y; quadAt x' y' :: hops hs x' y'

/-- The segments that a route takes: 4 * the quad left + the direction (R300). -/
def segments : List Nat → Nat → Nat → List Nat
  | [], _, _ => []
  | h :: hs, x, y => let (x', y') := hopTo h x y; (4 * quadAt x y + h) :: segments hs x' y'

/-- Whether a quad belongs to the partition of another world. -/
def Dev.foreign (d : Dev) (world q : Nat) : Bool := d.worlds.any fun (n, w) => n != world && w.owns q

/-- Whether a fence router stands on the link between two quads (R296). -/
def Dev.fenceLink (d : Dev) (a b : Nat) : Bool :=
  dieOfQuad a != dieOfQuad b || (d.worlds.any fun (n, w) => w.owns a && d.foreign n b)

/-- Whether a route leaves its world's partition by fence routers alone, and never the grid (R103). -/
def Dev.exitsOk (d : Dev) (world : Nat) : List Nat → Nat → Nat → Bool
  | [], _, _ => true
  | h :: hs, x, y =>
    let w := d.world world
    let (x', y') := hopTo h x y
    let a := quadAt x y
    let b := quadAt x' y'
    hopOnGrid h x y && (!w.owns a || w.owns b || d.fenceLink a b) && Dev.exitsOk d world hs x' y'

/-- The dies of the exits from foreign partitions on a run of quads: each passage is a tunnel (R296). -/
def passages (foreign : Nat → Bool) : Option Nat → List Nat → List Nat
  | none, [] => []
  | some die, [] => [die]
  | at_, q :: qs => if foreign q then passages foreign (some (dieOfQuad q)) qs else at_.toList ++ passages foreign none qs

/-- Where a route of a program begins, for a region. -/
def Program.routeFrom (p : Program) (left top : Nat) (r : Route) : Nat × Nat :=
  let q := quadOfCore (p.coreOf left top r.src)
  (quadX q, quadY q)

/-- The segments that a program's routes take from a region. -/
def Program.segs (p : Program) (left top : Nat) : List Nat :=
  (p.routes.flatMap fun r => let (x, y) := p.routeFrom left top r; segments r.path x y).eraseDups

/-- Whether fewer than 16 other worlds hold a lane of a segment (R29, R300). -/
def Dev.laneFree (d : Dev) (world s : Nat) : Bool :=
  let others := d.teams.filter fun (_, (t : Team)) => t.world != world && t.segs.contains s
  decide ((others.map fun (e : Nat × Team) => e.2.world).eraseDups.length < 16)

/-- Whether a region suits a program's routes: each leaves the partition by fence routers alone, and finds its lanes. -/
def Dev.routesFit (d : Dev) (world : Nat) (p : Program) (i : Nat) : Bool :=
  (p.routes.all fun r => let (x, y) := p.routeFrom (i % 32) (i / 32) r; d.exitsOk world r.path x y) &&
  (p.segs (i % 32) (i / 32)).all (d.laneFree world)

/-- Writes a team's role image, or the HALT image, into the lowest FREE plane of a core. -/
def Dev.loadCore (d : Dev) (world team k : Nat) (params : SMap 64) (img : Option RoleImage) : Dev × Nat × Nat :=
  let c := d.core k
  let n := ((List.range 4).find? fun i => (c.plane i).state == .free).getD 0
  let order := 1 + c.planes.foldl (fun m (_, p) => Nat.max m p.order) 0
  let p : Plane := { state := .loaded, world := world, gen := (c.plane n).gen,
                     store := match img with | some r => r.words | none => haltImage,
                     team := team, order := order, params := params, member := img.isSome }
  (d.setCore k (c.setPlane n p), k, n)

def Dev.loadRoute (d : Dev) (seq world team left top : Nat) (p : Program) (r : Route) : Dev :=
  let src := p.coreOf left top r.src
  let dst := p.coreOf left top r.dst
  let q := quadOfCore dst
  let path := hops r.path (quadX (quadOfCore src)) (quadY (quadOfCore src))
  let d := (passages (d.foreign world) none path).foldl (fun (d : Dev) die =>
    let tunnel : Tunnel := { team := team, world := world, sent := 0, counter := none, die := die, isOpen := true }
    { d with tunnels := Tab.put d.tunnels (freshKey d.tunnels) tunnel }) d
  if r.kind = 1 then
    let b : BeadRoute := { team := team, src := src, number := r.endSrc, dst := dst, port := r.endDst, fly := none, flyTime := 0 }
    { d with beads := Tab.put d.beads (freshKey d.beads) b }
  else match d.recordNow seq (dieOfQuad q) world r.tid with
    | none => d
    | some rc =>
      let ch : Chan :=
        { team := team, world := world, tid := r.tid, prod := src, prodHandle := r.endSrc, cons := dst, consHandle := r.endDst,
          ring := (d.ringAt rc q).getD 0, va := BitVec.ofNat 64 rc.base, span := rc.span, readOnly := rc.readOnly, slots := r.slots,
          slotBytes := r.slotBytes, head := 0, filled := r.initial, waited := 0, tail := r.initial % r.slots,
          credits := r.slots - r.initial, reserved := 0, tags := [], fills := [], backs := [], ltime := 0 }
      { d with chans := Tab.put d.chans (freshKey d.chans) ch }

/-- A team of a launch's node is loaded on a region; the answer names it. -/
def Dev.loadTeam (d : Dev) (seq l n : Nat) (x : Launch) (p : Program) (left top : Nat) : Dev × Nat :=
  let team := d.nextTeam
  let places := (List.range p.height).flatMap fun y => (List.range p.width).flatMap fun x => (List.range 4).map fun c => (x, y, c)
  let (d, cores) := places.foldl (fun (d, cores) pl =>
    let img := p.roles.find? fun (r : RoleImage) => r.places.contains pl
    let (d, kn) := Dev.loadCore d x.world team (coreAt left top pl) x.params img
    (d, cores ++ [kn])) (d, [])
  let t : Team := { world := x.world, launch := l, node := n, left := left, top := top, width := p.width, height := p.height,
                    cores := cores, group := [team], started := false, votes := [], quietSince := none, surveyed := false,
                    gone := false, finished := false, segs := p.segs left top }
  let d := { d with nextTeam := team % 65535 + 1 }.setTeam team t
  (p.routes.foldl (fun d r => d.loadRoute seq x.world team left top p r) d, team)

/-! ## Start (R19, R32, R75) -/

def Dev.teamReady (d : Dev) (team : Nat) : Bool :=
  match Tab.get? d.teams team with
  | none => false
  | some t => !t.started && !t.finished && (t.cores.all fun (k, n) => (d.core k).active == some n && ((d.core k).plane n).state == .active) &&
      t.quads.all fun q => [0, 1, 2].all fun e => !(d.engine q e).busy

/-- Handles whose header bit is set are bound at load (R208). -/
def Dev.boundHandles (d : Dev) (k : Nat) : Tab Handle :=
  let c := d.core k
  let mask := c.cur.header 0x24 2
  d.chans.foldl (fun t (i, (ch : Chan)) =>
    if ch.team ≠ c.cur.team then t else
    let t := if ch.prod = k ∧ mask / 2 ^ ch.prodHandle % 2 = 1 then Tab.put t ch.prodHandle { chan := i, producer := true, lent := false } else t
    if ch.cons = k ∧ mask / 2 ^ ch.consHandle % 2 = 1 then Tab.put t ch.consHandle { chan := i, producer := false, lent := false } else t) []

/-- A core issues from its entry point, from clock `at_` on (R19). -/
def Dev.startCore (d : Dev) (at_ k ltime : Nat) : Dev :=
  let c := d.core k
  d.setCore k { c with started := true, startAt := at_, pc := BitVec.ofNat 64 (8 * c.cur.entry 0), handles := d.boundHandles k,
                       ltime := Nat.max c.ltime ltime }

/-- The state of R75 that a quad starts in; a network that a graph node loaded stays. -/
def Quad.restart (x : Quad) : Quad := { Quad.fresh with net := x.net, lead := x.lead }

def Dev.startTeam (d : Dev) (at_ team : Nat) : Dev :=
  match Tab.get? d.teams team with
  | none => d
  | some t =>
    let lt := match Tab.get? d.launches t.launch with | some x => x.ltime | none => 0
    let d := t.quads.foldl (fun d q => (d.setQuad q (d.quad q).restart).dropLeases fun l => l.quad == q) d
    let d := t.cores.foldl (fun d (k, _) => d.startCore at_ k lt) d
    d.setTeam team { t with started := true }

/-- TEAM_START: every core of every team of the set has its plane ACTIVE; all begin issue in one clock. Where a member of a
co-resident set is killed before that, the others never start (log 26). -/
def execTeamStart (team : Nat) : State → Host.Outcome State Fault Refusal :=
  run fun x d =>
    match Tab.get? d.teams team with
    | none => d
    | some t => if t.group.all d.teamReady then t.group.foldl (fun d g => d.startTeam (x.now.clock + 1) g) d else d

/-! ## Idle cores and plane swap (R20, R43) -/

def Chan.empty (ch : Chan) : Bool := ch.filled == 0 && ch.fills.isEmpty

/-- The plane `n` of core `k` still holds a team. -/
def Dev.holds (d : Dev) (k n team : Nat) : Bool :=
  let p := (d.core k).plane n
  p.team == team && p.state != .free

/-- R20; what the core still has in flight must land first (R107). An open stream is no engine operation that JOIN joins
(R234), and keeps no core from being idle; nor does a forked program that still runs with no operation of its own (log 24,
log 27). -/
def Dev.idle (d : Dev) (k : Nat) : Bool :=
  let c := d.core k
  let team := c.cur.team
  c.halted && c.held.isEmpty && c.pend.isEmpty && c.ops.isEmpty &&
  d.chans.all fun (_, ch) => !(ch.team == team && (ch.prod == k || ch.cons == k)) || ch.empty

/-- A team whose last plane is gone retires: its channels, beads, tunnels and networks go with it. -/
def Dev.retireTeam (d : Dev) (team : Nat) : Dev :=
  match Tab.get? d.teams team with
  | none => d
  | some t =>
    if !t.finished || t.cores.any (fun (k, n) => d.holds k n team) then d else
    let d := t.quads.foldl (fun (d : Dev) q =>
      if ((d.quad q).net).any fun (n : Network) => n.team == team then d.unload q else d) d
    { d with teams := Tab.del d.teams team, chans := d.chans.filter fun e => e.2.team != team,
             beads := d.beads.filter fun e => e.2.team != team, tunnels := d.tunnels.filter fun e => e.2.team != team }

/-- The streams of a core close, and their pending resolutions are cancelled (R174). -/
def Dev.closeStreams (d : Dev) (k : Nat) : Dev :=
  let mine := List.map (fun (e : Nat × Nat) => e.2) (d.core k).streams
  { d with streams := d.streams.filter fun e => !mine.contains e.1,
           faults := d.faults.filter fun (f : PageFault) => match f.party with | .stream i => !mine.contains i | _ => true }

/-- A plane leaves ACTIVE (R18, R21, R67, R184): its generation moves on, its counts leave, its counters are reset, its
streams and its rendezvous close, and a forked program that still runs ends (log 27). -/
def Dev.drainPlane (d : Dev) (now : Now) (k n : Nat) : Dev :=
  let c := d.core k
  let p := c.plane n
  let tag := d.nextToken
  let d := if c.counts.used then d.emit p.world c.counts else d
  let d := (d.count p.world 0 (now.clock - c.activeSince)).closeStreams k
  let d := if ((d.quad (quadOfCore k)).rendezvous).any fun r => r.1 == k then d.closeRendezvous k else d
  let c := d.core k
  d.setCore k { c.setPlane n { p with state := .draining, gen := p.gen + 1 } with
    started := false, streams := [], counts := Counts.zero, ranges := [], ended := [], wait := none,
    stage := if c.counts.used then .counting tag else .none }

/-- The oldest LOADED plane becomes ACTIVE, with the registers of R75. -/
def Dev.selectPlane (d : Dev) (now : Now) (k : Nat) : Dev :=
  let c := d.core k
  let clear : Core := { Core.fresh with planes := c.planes, nextTag := c.nextTag, ltime := c.ltime }
  let loaded := c.planes.filter fun e => e.2.state == .loaded
  match sortBy (fun (a b : Nat × Plane) => decide (a.2.order < b.2.order)) loaded with
  | [] => d.setCore k clear
  | (n, p) :: _ => d.setCore k { clear.setPlane n { p with state := .active } with active := some n, activeSince := now.clock }

/-- Counts in flight on the core's channels arrive, as they would by themselves (R43 step 1, R205). -/
def Dev.drainRoutes (d : Dev) (k team : Nat) : Dev :=
  d.chans.foldl (fun (d : Dev) (i, (ch : Chan)) =>
    if ch.team ≠ team ∨ (ch.prod ≠ k ∧ ch.cons ≠ k) then d else
    let up := if ch.prod = k then ch.fills.foldl (· + ·) 0 else 0
    let back := if ch.cons = k then ch.backs.foldl (· + ·) 0 else 0
    let d := d.setChan i { ch with filled := ch.filled + up, fills := if ch.prod = k then [] else ch.fills,
                                   credits := ch.credits + back, backs := if ch.cons = k then [] else ch.backs }
    let d := if up = 0 then d else (d.latchOf ch.cons team).fireRing ch.world ch.tid ch.filled (ch.filled + up)
    if back = 0 then d else d.latchOf ch.prod team) d

/-- Whether PLANE_SWAP has something to do on a core, and what (R18, R43). -/
def Dev.swapDue (d : Dev) (k : Nat) : Bool :=
  let c := d.core k
  match c.active with
  | none => c.planes.any fun e => e.2.state == .loaded
  | some n =>
    match (c.plane n).state with
    | .active => c.started && d.idle k
    | .draining => match c.stage with
      | .counting tag => !d.tokens.any fun (t : Tokens) => t.tag == tag
      | _ => true
    | _ => false

/-- PLANE_SWAP: an idle core's plane starts DRAINING; once its counts have landed it becomes FREE and the oldest LOADED
plane becomes ACTIVE. -/
def execPlaneSwap (k : Nat) : State → Host.Outcome State Fault Refusal :=
  run fun x d =>
    if !d.swapDue k then d else
    let c := d.core k
    match c.active with
    | none => d.selectPlane x.now k
    | some n =>
      let p := c.plane n
      if p.state = .active then d.drainPlane x.now k n
      else
        let d := d.drainRoutes k p.team
        let d := d.setCore k ((d.core k).setPlane n { Plane.empty with gen := p.gen })
        (d.selectPlane x.now k).retireTeam p.team

/-! ## Kill (R44, R45, R203, R210, R273, R309) -/

/-- A killed core's arrivals are withdrawn from every open instance. -/
def Dev.withdraw (d : Dev) (k : Nat) : Dev :=
  { d with barriers := Tab.map (fun _ (b : Barrier) =>
      if b.who.contains k then { b with arrived := b.arrived - 1, who := b.who.erase k } else b) d.barriers }

/-- Engine operations are stopped: they leave their engine, and the counts of what they have converted go to their world's
statistics (R67). -/
def Dev.stopOps (d : Dev) (q e : Nat) (gone : Cmd → Bool) : Dev :=
  let g := d.engine q e
  let d := (g.running.filter gone).foldl (fun d o => match o.converted with
    | some n => d.emit o.issuer.world n
    | none => d) d
  let stopped : Dev := { d with faults := d.faults.filter fun (f : PageFault) => match f.party with
    | .engine q' e' s => !(q' == q && e' == e && g.running.any fun o => o.seq == s && gone o)
    | _ => true }
  stopped.setEngine q e { g with queue := g.queue.filter fun o => !gone o, running := g.running.filter fun o => !gone o }

/-- A slot returns to free (row 4 of Table 15.4). -/
def Slot.release (v : Slot) (clock : Nat) : Slot :=
  { v with state := .free, faulted := false, code := 0, armed := none, filler := none, team := none, last := (clock, 4) }

/-- Whether a slot is held, or armed, by a command that a test accepts. -/
def Slot.heldBy (v : Slot) (team : Nat → Bool) : Bool :=
  v.team.any team || v.armed.any fun a => a.cmd.issuer.core.isSome && team a.cmd.issuer.team

/-- The slots of a quad that a test accepts return to free, and their notices are given up. -/
def Quad.freeSlots (x : Quad) (clock : Nat) (mine : Slot → Bool) : Quad :=
  { x with slots := Tab.map (fun _ (v : Slot) => if mine v then v.release clock else v) x.slots,
           notices := x.notices.filter fun s => !mine (x.slot s) }

/-- A core of the region whose ACTIVE plane is the team's: it halts, its replies in flight will be dropped, its held access
is cancelled and its plane enters DRAINING. -/
def Dev.killCore (d : Dev) (now : Now) (k n : Nat) : Dev :=
  let c := d.core k
  let lost := (c.pend.filter fun p => p.ready && p.reply).length
  let die := d.die (k / 1024)
  let d := (d.setDie (k / 1024) { die with stale := die.stale + lost }).count c.world 15 lost
  let d : Dev := { d with faults := d.faults.filter fun (f : PageFault) => f.party != .core k }
  let d := d.withdraw k
  (d.setCore k { (d.core k).stop with pend := [], held := [], async := [], ops := [] }).drainPlane now k n

/-- A quad of a killed region: the team's operations stop, its slots return to free, and its network is unloaded. A network
of a graph node that the team was running loses its uncommitted step and the handle that the team lent it (R273). -/
def Dev.killQuad (d : Dev) (clock team q : Nat) : Dev :=
  let mine := fun (o : Cmd) => o.issuer.core.isSome && o.issuer.team == team
  let d := match (d.quad q).net with
    | none => d
    | some n =>
      if n.team = team then d.unload q
      else if (d.engine q 2).running.any mine then
        let lent := (d.eventChan n).any fun (ch : Chan) => ch.team == team
        d.setNet q { n with staged := none, eventSink := if lent then none else n.eventSink }
      else d
  let d := [0, 1, 2].foldl (fun d e => d.stopOps q e mine) d
  d.setQuad q ((d.quad q).freeSlots clock fun v => v.heldBy fun t => t == team)

/-- A team is killed with its region. -/
def Dev.kill (d : Dev) (now : Now) (team : Nat) : Dev :=
  match Tab.get? d.teams team with
  | none => d
  | some t =>
    let live := t.cores.filter fun (k, n) => (d.core k).active == some n && ((d.core k).plane n).state == .active && d.holds k n team
    let d := t.cores.foldl (fun (d : Dev) (k, n) =>
      if d.holds k n team && ((d.core k).plane n).state == .loaded then
        d.setCore k ((d.core k).setPlane n { Plane.empty with gen := ((d.core k).plane n).gen })
      else d) d
    let d := d.flushChans team
    let d : Dev := { d with beads := Tab.map (fun _ (b : BeadRoute) => if b.team = team then { b with fly := none } else b) d.beads,
                            tunnels := d.tunnels.filter fun e => e.2.team != team }
    let d := t.quads.foldl (fun d q => d.killQuad now.clock team q) d
    let d := live.foldl (fun d (k, n) => d.killCore now k n) d
    let d := if t.finished then d else d.endNode t.launch t.node 2 0
    (d.setTeam team { t with finished := true, votes := [] }).retireTeam team

/-- Every region of a world is killed; of the nodes of one graph that fall together, the lowest index fails first. -/
def Dev.killWorld (d : Dev) (now : Now) (world : Nat) : Dev :=
  let ts := d.teams.filter fun e => e.2.world == world
  let ts := sortBy (fun (a b : Nat × Team) => decide (a.2.node < b.2.node)) ts
  ts.foldl (fun d e => d.kill now e.1) d

/-! ## Completion (R25, R38) -/

/-- Whether a command in an engine's queue or running was issued by a team's cores. -/
def Engine.serves (g : Engine) (team : Nat) : Bool :=
  (g.queue ++ g.running).any fun o => o.issuer.core.isSome && o.issuer.team == team

def Dev.teamDone (d : Dev) (team : Nat) (t : Team) : Bool :=
  t.started && !t.finished &&
  (t.cores.all fun (k, n) => !d.holds k n team || ((d.core k).plane n).state == .draining ||
    ((d.core k).active == some n && d.idle k)) &&
  (d.chans.all fun (_, ch) => ch.team != team || ch.empty) &&
  t.quads.all fun q => [0, 1, 2].all fun e => !(d.engine q e).serves team

/-- TEAM_COMPLETION: the quiescence detector reports completion, and the team's node finishes. -/
def execTeamCompletion (team : Nat) : State → Host.Outcome State Fault Refusal :=
  run fun _ d =>
    match Tab.get? d.teams team with
    | none => d
    | some t =>
      if d.teamDone team t then ((d.setTeam team { t with finished := true }).endNode t.launch t.node 0 0).retireTeam team
      else d

/-! ## Deadlock (R38 to R41) -/

/-- A waiting party of a team, with the world and team of its record. -/
structure WaitingParty where
  die : Nat
  quad : Nat
  party : Nat
  plane : Nat
  wait : Wait
  pc : Nat
  world : Nat
  team : Nat
deriving DecidableEq, Repr

/-- A party's wait as it stands: the members of a rendezvous may have come since. -/
def Dev.waitNow (d : Dev) (q : Nat) (w : Wait) : Wait :=
  if w.kind = 6 ∧ w.handle = 0 ∧ (d.quad q).rendezvous.isSome then (d.memberWait q none).getD w else w

/-- A waiting core. -/
def Dev.coreParty (d : Dev) (k n : Nat) : Option WaitingParty :=
  let c := d.core k
  if c.halted then none
  else match c.wait with
    | none => none
    | some w => if w.kind = 0 then none else
      some { die := k / 1024, quad := k / 4 % 256, party := k % 4, plane := n, wait := d.waitNow (quadOfCore k) w,
             pc := c.pc.toNat, world := (c.plane n).world, team := (c.plane n).team }

/-- What the head of an engine's queue waits on: the state of a buffer slot. -/
def Quad.headWait (x : Quad) (cmd : Cmd) : Option Wait :=
  let awaits := fun (s need : Nat) => if slotCode (x.slot s).state = need then none else waitFor 5 s need (slotCode (x.slot s).state)
  match fillsSlot cmd.instr with
  | some s => awaits s 0
  | none => match readsSlot cmd.instr with
    | some s => awaits s 2
    | none => none

/-- What a network's run waits on: its ring, or the credit of its event sink (R252, R266). -/
def Dev.runWait (d : Dev) (q : Nat) (cmd : Cmd) : Option Wait :=
  match (d.quad q).net with
  | none => none
  | some n =>
    match n.staged, n.eventSink with
    | some _, some (_, h, i) => waitFor 2 h 1 (match Tab.get? d.chans i with | some ch => ch.credits | none => 0)
    | some _, none => none
    | none, _ => if (d.feed cmd).isNone then waitFor 1 (arunHandle cmd.a) 1 0 else none

/-- A command of a team's cores, or of a graph node. -/
def Cmd.concerns (o : Cmd) (team : Nat) : Bool := o.issuer.core.isNone || o.issuer.team == team

/-- The command that an engine of a team's quad waits on, with its wait. -/
def Dev.engineWait (d : Dev) (team q e : Nat) : Option (Cmd × Wait) :=
  let g := d.engine q e
  match e, g.running with
  | 2, cmd :: _ => if cmd.concerns team && !cmd.waiting then (d.runWait q cmd).map fun w => (cmd, w) else none
  | _, _ =>
    match g.queue with
    | cmd :: _ => if cmd.concerns team && g.hasPlace e then ((d.quad q).headWait cmd).map fun w => (cmd, w) else none
    | [] => none

/-- A waiting engine: by its command, else by its own program. -/
def Dev.engineParty (d : Dev) (team q e : Nat) : Option WaitingParty :=
  let base := fun (plane : Nat) (w : Wait) (pc world team : Nat) =>
    some ({ die := dieOfQuad q, quad := q % 256, party := 4 + e, plane := plane, wait := w, pc := pc, world := world,
            team := team } : WaitingParty)
  match d.engineWait team q e with
  | some (cmd, w) =>
    if cmd.issuer.core.isNone then base 0xFF w 0xFFFFFFFF cmd.issuer.world 0xFFFF
    else base cmd.issuer.plane w cmd.issuer.pc.toNat cmd.issuer.world team
  | none =>
    match (d.engine q e).prog with
    | none => none
    | some p =>
      let c := d.core p.core
      if c.cur.team ≠ team ∨ p.ended.isSome then none
      else
        let plane := c.active.getD 0
        if p.joined then (d.memberWait q none).bind fun w => base plane w p.pc.toNat c.world team
        else match p.wait with
          | none => none
          | some w => if w.kind = 0 then none else base plane (d.waitNow q w) p.pc.toNat c.world team

def Dev.waiting (d : Dev) (team : Nat) (t : Team) : List WaitingParty :=
  let cores := t.cores.filterMap fun (k, n) => if (d.core k).active = some n ∧ (d.core k).started = true then d.coreParty k n else none
  let engines := t.quads.flatMap fun q => [0, 1, 2].filterMap fun e => d.engineParty team q e
  sortBy (fun (a b : WaitingParty) => decide (a.die < b.die ∨ (a.die = b.die ∧ (a.quad < b.quad ∨ (a.quad = b.quad ∧
    a.party < b.party))))) (cores ++ engines)

/-- Some party of the team is issuing. -/
def Dev.issuing (d : Dev) (t : Team) : Bool :=
  (t.cores.any fun (k, n) =>
    let c := d.core k
    c.active == some n && c.started && !c.halted && (c.wait.isNone || match c.stage with | .wfe _ => true | _ => false)) ||
  t.quads.any fun q => [0, 1, 2].any fun e => match (d.engine q e).prog with
    | some p => !p.joined && p.wait.isNone && t.cores.any fun kn => kn.1 == p.core
    | none => false

/-- The open barrier instances that a core has arrived at. -/
def Core.atBarriers (c : Core) (d : Dev) : List Nat :=
  (match c.stage with | .arrived key _ _ => [key] | _ => []) ++
  Tab.keys (fun key epoch => (d.barrier key).epoch.toNat == epoch) c.arrivals

/-- Whether an engine operation goes on by itself, or waits for the host: a network's run that waits on its ring does
not. -/
def Dev.moves (d : Dev) (q e : Nat) (o : Cmd) : Bool := o.waiting || !(e == 2 && (d.runWait q o).isSome)

/-- An operation of any issuer that is tagged to a barrier in a list moves bytes, or waits for a page. -/
def Dev.taggedMoves (d : Dev) (keys : List Nat) : Bool :=
  d.quads.any fun (q, _) => [0, 1, 2].any fun e =>
    (d.engine q e).running.any fun o => (o.bar.any fun b => keys.contains b) && d.moves q e o

/-- A record for the window that a core waits on in TWGET is in flight. -/
def Dev.recordComes (d : Dev) (w : Wait) : Bool :=
  w.kind == 6 && decide (0x100 ≤ w.handle) && match Tab.get? d.windows (w.handle - 0x100) with
    | some x => !x.inbox.isEmpty
    | none => false

/-- Something that could release a waiting party is in flight, or a core has halted with an operation unjoined (R38). -/
def Dev.inFlight (d : Dev) (team : Nat) (t : Team) : Bool :=
  (t.cores.any fun (k, n) =>
    let c := d.core k
    c.active == some n && c.started && (!c.pend.isEmpty || !c.held.isEmpty || (c.halted && !c.ops.isEmpty) ||
      (match c.stage with | .counting _ => true | _ => false) || d.taggedMoves (c.atBarriers d) || c.wait.any d.recordComes ||
      c.streams.any fun (_, i) => match Tab.get? d.streams i with | some s => !s.inFlight.isEmpty || s.frozen | none => false)) ||
  (d.chans.any fun (_, ch) => ch.team == team && !(ch.fills.isEmpty && ch.backs.isEmpty)) ||
  (d.beads.any fun (_, b) => b.team == team && b.fly.isSome) ||
  t.quads.any fun q => [0, 1, 2].any fun e => (d.engine q e).running.any (d.moves q e)

/-- The three conditions of a deadlock hold (R38). -/
def Dev.stuck (d : Dev) (team : Nat) (t : Team) : Bool :=
  t.started && !t.finished && !d.issuing t && !d.inFlight team t && !(d.waiting team t).isEmpty

/-- The detectors watch every clock how long the conditions have held. -/
def Dev.watch (d : Dev) (clock : Nat) : Dev :=
  { d with teams := Tab.map (fun n (t : Team) =>
      if d.stuck n t then { t with quietSince := some (t.quietSince.getD clock) }
      else { t with quietSince := none, surveyed := t.surveyed && !d.issuing t }) d.teams }

/-- Table 1.6. -/
def surveyRecord (pkg clock seq total flag : Nat) (p : WaitingParty) : Bytes :=
  bytesOfNat 1 p.die ++ bytesOfNat 1 p.quad ++ bytesOfNat 1 p.party ++ bytesOfNat 1 p.plane ++ bytesOfNat 2 p.world ++
  bytesOfNat 1 p.wait.kind ++ bytesOfNat 1 flag ++ bytesOfNat 4 p.pc ++ bytesOfNat 4 p.wait.handle ++
  bytesOfNat 4 p.wait.needed ++ bytesOfNat 4 p.wait.held ++ bytesOfNat 8 clock ++ bytesOfNat 2 p.team ++
  bytesOfNat 2 pkg ++ bytesOfNat 4 seq ++ bytesOfNat 4 total ++ bytesOfNat 4 p.wait.pendingBytes ++ bytesOfNat 16 0

/-- Whether some node of a running graph of the team's world has not been dispatched. -/
def Dev.undispatched (d : Dev) (t : Team) : Bool :=
  d.launches.any fun (_, (x : Launch)) => x.world == t.world && !x.ended && x.nodes.any fun (_, y) =>
    y.state == .waiting || y.state == .ready

/-- Whether a survey is due. -/
def surveyDue (clock : Nat) (t : Team) : Bool :=
  !t.surveyed && match t.quietSince with | some c => decide (c + 4096 ≤ clock) | none => false

/-- DEADLOCK_SURVEY: each die writes its records to its buffer, and the host receives one event (R39). Bit 0 of a record's
flags, whether the party's release depends on an undispatched node, is open where the world has one (log 20). -/
def execDeadlockSurvey (team : Nat) : State → Host.Outcome State Fault Refusal :=
  run fun x d =>
    match Tab.get? d.teams team with
    | none => d
    | some t =>
      if !(surveyDue x.now.clock t && d.stuck team t) then d else
      let ps := d.waiting team t
      let open_ := d.undispatched t
      let recs := ps.zipIdx.map fun (p, i) =>
        (p.die, surveyRecord d.pkgId x.now.clock i ps.length (if open_ then b2n (freeBit x.seq (100 + i)) else 0) p)
      let dies := (ps.map WaitingParty.die).eraseDups
      let d' := dies.foldl (fun (d : Dev) i =>
        match (d.die i).survey with
        | none => d
        | some (pa, size) =>
          let mine := (recs.filter fun r => r.1 == i).take size
          { d with mem := SMap.setRun d.mem pa (mine.flatMap Prod.snd) }) d
      let addrs := dies.map fun i => match (d.die i).survey with | some (pa, _) => pa | none => 0
      (d'.setTeam team { t with surveyed := true }).event x.now 3 t.world (dies.headD 0) (items (addrs ++ [ps.length]))

end Sys2Proof.Machine
end

