-- ==== Sys2Proof/Machine/Sched.lean ====
section
/-! DEFINITION. The ready pool (R26 to R32), engine nodes (R23, R30), and the finish of nodes and graphs (R24, R25, R283,
R319). -/

namespace Sys2Proof.Machine

/-! ## Placing teams (R29, R31, R32) -/

/-- The partition is power-gated, or changes to or from it (R328). -/
def World.off (w : World) : Bool := w.gated || w.gating.isSome

/-- Package indices of the usable quads in which every core has a FREE plane. -/
def Dev.freeQuads (d : Dev) (w : World) (level : Nat) : List Nat :=
  if w.off then [] else
  (w.usable level).filter fun i => (List.range 4).all fun c => (List.range 4).any fun n =>
    ((d.core (4 * quadOfIndex i + c)).plane n).state == .free

def Dev.setNode (d : Dev) (l n : Nat) (f : Node → Node) : Dev :=
  match Tab.get? d.launches l with
  | none => d
  | some x => match x.node n with
    | none => d
    | some y => d.setLaunch l { x with nodes := Tab.put x.nodes n (f y) }

/-- A placed node is no longer ready. -/
def Node.place_ (y : Node) : Node := if y.state = .ready then { y with state := .placed } else y

/-- One node of a dispatch decision is loaded on its region; a ring that does not lie with its consumer (R204), or a page
that is not in EXEC (R308), fails the node. -/
def Dev.loadNode (d : Dev) (x : Ctx) (l n : Nat) (g : Launch) (i : Nat) : Dev × Option Nat :=
  let d := d.setNode l n Node.place_
  let i0 := match g.node n with | some y => y.program | none => 0
  match (d.world g.world).programs[i0]? with
  | none => (d.endNode l n 1 102, none)
  | some p =>
    match d.strayRing x.seq g.world (i % 32) (i / 32) p with
    | some tid => ((d.event x.now 8 g.world 0 (items [204, tid])).endNode l n 1 204, none)
    | none =>
      if !(d.world g.world).loadable i0 p then (d.endNode l n 1 308, none)
      else
        let (d, t) := d.loadTeam x.seq l n g p (i % 32) (i / 32)
        (d, some t)

/-- The teams of one decision start together (R32). -/
def Dev.groupTeams (d : Dev) (ts : List Nat) : Dev :=
  ts.foldl (fun d t => match Tab.get? d.teams t with | some x => d.setTeam t { x with group := ts } | none => d) d

/-- What a team node asks of its region: its shape, and what its program's routes need there (R29, R103, R300). -/
def Dev.shapeOf (d : Dev) (g : Launch) (n : Nat) : Shape :=
  match g.node n with
  | none => { width := 1, height := 1, lanes := fun _ => true }
  | some y => { width := y.place % 256, height := y.place / 256, lanes := fun i =>
      match (d.world g.world).programs[y.program]? with
      | some p => d.routesFit g.world p i
      | none => true }

/-- All the team nodes of an item are placed on disjoint regions, or none is. -/
def Dev.placeTeams (d : Dev) (x : Ctx) (it : PoolItem) (g : Launch) : Option Dev :=
  match placeAll (d.freeQuads (d.world g.world) it.entryLevel) (it.nodes.map (d.shapeOf g)) with
  | none => none
  | some is =>
    let (d, ts) := (it.nodes.zip is).foldl (fun (d, ts) (n, i) =>
      let (d, t) := Dev.loadNode d x it.launch n g i
      (d, match t with | some t => ts ++ [t] | none => ts)) (d, ([] : List Nat))
    some (d.groupTeams ts)

/-! ## Placing engine nodes (R23, R30) -/

/-- A quad inside the region of a team that has started and not retired; a team that waits to start with its planes ACTIVE
bars no engine node (log 27). -/
def Dev.inTeam (d : Dev) (q : Nat) : Bool := d.teams.any fun (_, t) => t.started && t.quads.contains q

/-- Whether the command needs a place in the matrix queue too. -/
def isCpym : Instr → Bool
  | .cpym _ _ _ _ _ _ => true
  | _ => false

/-- The quad that an engine node may go to now. -/
def Dev.engineQuad (d : Dev) (w : World) (level : Nat) (y : Node) (i : Instr) : Option Nat :=
  let e := y.body - 1
  let usable := if w.off then [] else w.usable level
  let ok := fun (p : Nat) => !d.inTeam (quadOfIndex p) && !(isCpym i && (d.engine (quadOfIndex p) 1).full)
  let place :=
    if y.place ≠ 0xFFFF then (if usable.contains y.place && ok y.place && !(d.engine (quadOfIndex y.place) e).full then some y.place else none)
    else (sortBy (fun a b => decide (a < b)) usable).find? fun p => ok p && !(d.engine (quadOfIndex p) e).busy
  place.map quadOfIndex

/-- A command operand: a literal, or a parameter of the launch. -/
def Launch.value (g : Launch) (sel : Nat) (v : Word) : Word := if sel % 4 = 1 then SMap.get g.params (field v 0 6) else v

/-- The command of an engine node, as if a core of the quad had issued it; it counts on no counter. -/
def nodeCmd (g : Launch) (l n : Nat) (y : Node) (i : Instr) : Cmd :=
  { seq := 0, instr := i, a := g.value y.valueSel y.va, b := g.value (y.valueSel / 4) y.vb, c := g.value (y.valueSel / 16) y.vc,
    issuer := { core := none, program := false, node := some (l, n), plane := 0xFF, pc := 0xFFFFFFFF, world := g.world,
                gen := 0, team := 0 },
    charged := [], bar := none, follow := none, after := none, tile := none, ready := true, record := none, fault := none, waiting := false, lines := [],
    taken := [], given := 0, landed := [], counts := Counts.zero, ltime := g.ltime }

/-- A command without an issuing core enters a queue. -/
def Dev.queueCmd (d : Dev) (q e : Nat) (cmd : Cmd) : Dev :=
  let g := d.engine q e
  (d.setEngine q e { g with queue := g.queue ++ [{ cmd with seq := g.nextSeq }], seq := g.nextSeq, used := true }).latchQuad q

/-- The node's command enters the queue; a CPYM brings its follow-on, and a follow-on word that is none fails the node. -/
def Dev.sendNode (d : Dev) (x : Ctx) (q : Nat) (cmd : Cmd) (y : Node) (l n : Nat) : Dev :=
  if isCpym cmd.instr then
    match d.followOn x (dieOfQuad q) cmd.issuer.world cmd.c with
    | (d, none) => d.endNode l n 1 0x01
    | (d, some (i, rec)) =>
      let m := (d.engine q 1).nextSeq
      let d := d.queueCmd q 0 { cmd with follow := some m }
      d.queueCmd q 1 { cmd with instr := i, a := 0, b := 0, c := 0, record := some rec, issuer := { cmd.issuer with node := none },
                                after := some (d.engine q 0).seq, ready := false }
  else d.queueCmd q (y.body - 1) cmd

def Dev.placeEngine (d : Dev) (x : Ctx) (it : PoolItem) (g : Launch) (n : Nat) (y : Node) : Option Dev :=
  match decode y.command with
  | .error _ => some ((d.setNode it.launch n Node.place_).endNode it.launch n 1 0x01)
  | .ok i =>
    match d.engineQuad (d.world g.world) it.entryLevel y i with
    | none => none
    | some q => some ((d.setNode it.launch n Node.place_).sendNode x q (nodeCmd g it.launch n y i) y it.launch n)

/-! ## The scan (R27, R28) -/

/-- World and target kind of an item. -/
def Dev.itemKind (d : Dev) (it : PoolItem) : Nat × Nat :=
  match Tab.get? d.launches it.launch with
  | none => (0, 0)
  | some g => (g.world, match g.node (it.nodes.headD 0) with | some y => y.body | none => 0)

def Dev.placeItem (d : Dev) (x : Ctx) (it : PoolItem) : Option Dev :=
  match Tab.get? d.launches it.launch with
  | none => none
  | some g =>
    match it.nodes, g.node (it.nodes.headD 0) with
    | n :: _, some y => if y.body = 0 then d.placeTeams x it g else d.placeEngine x it g n y
    | _, _ => none

/-- The first item in scan order that can be placed, past no held item of its kind and partition. -/
def Dev.scanPool (d : Dev) (x : Ctx) : List PoolItem → List (Nat × Nat) → Option (PoolItem × Dev)
  | [], _ => none
  | it :: rest, held =>
    let key := d.itemKind it
    if held.contains key then Dev.scanPool d x rest held
    else match d.placeItem x it with
      | some d' => some (it, d')
      | none => Dev.scanPool d x rest (if it.held then key :: held else held)

/-- POOL_DISPATCH: the first node or set that the scan can place. -/
def execPoolDispatch : State → Host.Outcome State Fault Refusal :=
  run fun x d =>
    match d.scanPool x d.pool [] with
    | none => d
    | some (it, d') => { d' with pool := d.pool.erase it }

def PoolItem.aged (it : PoolItem) (ns : Nat) : Bool := decide (it.since + 50000 ≤ ns)

/-- POOL_PROMOTE: item `i` of the scan order has waited 50 µs at its level. -/
def execPoolPromote (i : Nat) : State → Host.Outcome State Fault Refusal :=
  run fun x d =>
    match d.pool[i]? with
    | none => d
    | some it =>
      if it.level ≠ 0 ∧ it.aged x.now.ns = true then
        let it' : PoolItem := { it with level := it.level - 1, since := it.since + 50000 }
        { d with pool := insertBy PoolItem.before it' (dropAt d.pool i) }
      else d

/-- POOL_HOLD: item `i` has waited 50 µs at level 0. -/
def execPoolHold (i : Nat) : State → Host.Outcome State Fault Refusal :=
  run fun x d =>
    match d.pool[i]? with
    | none => d
    | some it =>
      if it.level = 0 ∧ it.held = false ∧ it.aged x.now.ns = true then
        let it' : PoolItem := { it with held := true }
        { d with pool := d.pool.map fun (o : PoolItem) => if o = it then it' else o }
      else d

/-! ## Finish of a node (R24, R25, R283) -/

/-- Successors' counts fall once per edge; a node whose count reaches zero becomes ready. -/
def Dev.releaseNode (d : Dev) (now : Now) (l n : Nat) : Dev :=
  match Tab.get? d.launches l with
  | none => d
  | some g =>
    let fall := fun (m : Nat) => (g.edges.filter fun e => e.1 == n && e.2 == m).length
    let free := Tab.keys (fun m (y : Node) => fall m != 0 && y.preds == fall m) g.nodes
    let g : Launch := { g with nodes := Tab.map (fun m (y : Node) => { y with preds := y.preds - fall m }) g.nodes }
    let d := d.setLaunch l g
    let d := free.foldl (fun d m => match g.node m with
      | some y => if y.kind < 4 then d.ready now l m else d
      | none => d) d
    d.drainFirings now g.world

/-- Whether a window is armed for a node of a launch. -/
def Dev.nodeArmed (d : Dev) (world graph n : Nat) : Bool :=
  d.windows.any fun (_, (w : TWin)) => w.world == world && w.armed == some (graph, n)

/-- What the end of an instance does to its node: `status` as in `Dev.endNode`. -/
def Dev.finishNode (d : Dev) (now : Now) (l n status cause : Nat) : Dev :=
  let d := if status = 3 then d else d.setNode l n fun y => { y with runs := y.runs - 1 }
  match Tab.get? d.launches l with
  | none => d
  | some g =>
    match g.node n with
    | none => d
    | some y =>
      if status = 1 ∨ status = 2 then
        let d := d.setNode l n fun y => { y with state := if status = 1 then .faulted else .killed }
        (d.event now 8 g.world 0 (items [25, n, cause])).drainFirings now g.world
      else if y.state = .faulted ∨ y.state = .killed ∨ y.state = .finished then d.drainFirings now g.world
      else if y.kind = 4 ∧ (d.nodeArmed g.world g.graph n = true ∨ y.runs ≠ 0) then
        (d.setNode l n fun y => { y with state := if y.runs = 0 then .waiting else y.state }).drainFirings now g.world
      else (d.setNode l n fun y => { y with state := .finished }).releaseNode now l n

/-- A graph has ended when nothing of it is ready, dispatched or running, no tick-fired node of it is armed, and, unless it
failed, none still waits to be armed (R25). -/
def Dev.graphOver (d : Dev) (l : Nat) (g : Launch) : Bool :=
  !g.ended && (g.nodes.all fun (_, y) => y.runs == 0) && !(d.ended.any fun e => e.1 == l) &&
  (g.nodes.all fun (n, y) => y.kind != 4 || !(d.nodeArmed g.world g.graph n)) &&
  (g.failed.isSome || g.nodes.all fun (_, y) => !(y.kind == 4 && y.preds == 0 && y.state != .finished))

/-- A launch has ended: what waited for it in its queue waits no longer. -/
def WorkQueue.forget (w : WorkQueue) (l : Nat) : WorkQueue :=
  let drop := fun (us : List Nat) => us.filter fun u => u != l
  let fences := w.fences.map fun (f : QueueFence) => { f with waits := drop f.waits }
  { w with unended := drop w.unended, fences := fences }

/-- The completion record and event of an ended graph (R319). -/
def Dev.endGraph (d : Dev) (now : Now) (l : Nat) (g : Launch) : Dev :=
  let (status, node) := match g.failed with | none => (0, 0xFFFF) | some (s, n) => (s, n)
  let d := (d.setLaunch l { g with ended := true }).complete now g.world g.queue g.doneAddr g.noRecord
    (completionRecord g.tag status node l)
  { d with queues := Tab.map (fun _ (w : WorkQueue) => w.forget l) d.queues }

/-- NODE_FINISH: an instance of a node has ended; the graph ends with its last. -/
def execNodeFinish (l n : Nat) : State → Host.Outcome State Fault Refusal :=
  run fun x d =>
    let d := match findAt (fun (e : Nat × Nat × Nat × Nat) => e.1 == l && e.2.1 == n) d.ended 0 with
      | none => d
      | some (i, (_, _, status, cause)) => { d with ended := dropAt d.ended i }.finishNode x.now l n status cause
    match Tab.get? d.launches l with
    | none => d
    | some g => if d.graphOver l g then d.endGraph x.now l g else d

end Sys2Proof.Machine
end

