-- ==== Sys2Proof/Machine/Host.lean ====
section
/-! DEFINITION. The host link: accesses through BAR 2 (R331), the function register page and doorbells (R315 to R317), and
the work-queue entries launch, replay and queue fence (R317 to R319). -/

namespace Sys2Proof.Machine

/-! ## BAR 2 (R331) -/

/-- A host access of a function's world; it asks no TLB slice. -/
def hostReq (world : Nat) (write : Bool) : Req :=
  { world := world, gen := 0, die := 4, quad := none, write := write, slot := none }

/-- How each line of a host access translates. -/
def Dev.hostViews (d : Dev) (seq world va n : Nat) (write : Bool) : List Xlate :=
  (chunksOf va n).map fun c => d.translate seq (hostReq world write) c.1

/-- Whether the device leaves a host access undone: it passes the end of the BAR, or finds no mapping, a leaf that is not
present or forbids it, or an aperture. -/
def Dev.hostBlocked (d : Dev) (seq world va n : Nat) (write : Bool) : Bool :=
  decide (2 ^ 48 < va + n) || (d.hostViews seq world va n write).any fun
    | .mem _ => false
    | .port _ => false
    | .regs _ _ => false
    | _ => true

/-- An access that is not performed: a request dropped at another world's port is counted (R295), and the function hears of
it. -/
def Dev.hostRefuse (d : Dev) (x : Ctx) (world : Nat) (va : Word) (n : Nat) (write : Bool) : Dev :=
  let dropped := (d.hostViews x.seq world va.toNat n write).find? fun | .drop _ _ => true | _ => false
  let d := match dropped with | some v => d.refused x.now (hostReq world write) v | none => d
  d.faultEvent x.now world none va write

def Dev.answer (d : Dev) (world : Nat) (bs : Bytes) (unsupported : Bool) : Dev :=
  { d with hostReply := some { world := world, data := bs, unsupported := unsupported } }

/-- Whether an access lies in the function's BAR 0, which the model's host offsets place after BAR 2 (log 21). -/
def inBar0 (va n : Nat) : Bool := decide (2 ^ 48 ≤ va) && decide (va + n ≤ 2 ^ 48 + 0x10000)

/-- HOST_READ: `size` bytes at offset `va` of the function's BAR 2, or of its register page. -/
def execHostRead (world : Nat) (va : Word) (size : Nat) : State → Host.Outcome State Fault Refusal :=
  run fun x d =>
    if (d.world world).tdisp = .error then d.answer world [] true
    else if inBar0 va.toNat size then d.answer world (d.registerBytes x.now.clock world (va.toNat - 2 ^ 48) size) false
    else if d.hostBlocked x.seq world va.toNat size false then (d.hostRefuse x world va size false).answer world [] true
    else
      let (r, bs) := (Run.of d d.hostTime).read x (hostReq world false) true va.toNat size
      { r.d with hostTime := r.t }.answer world bs false

/-! ## Registers and doorbells (Table 23.1) -/

/-- REGISTER_WRITE. -/
def execRegisterWrite (world off : Nat) (value : Word) : State → Host.Outcome State Fault Refusal :=
  run fun _ d => if (d.world world).tdisp = .error then d else d.setWorld world ((d.world world).setRegister off value)

/-- DOORBELL. -/
def execDoorbell (world off value : Nat) : State → Host.Outcome State Fault Refusal :=
  run fun x d => d.ring x.now world off value

/-- A host write that is performed. One that is an aligned 32 bytes gives a window's port a record (R278). -/
def Dev.hostStore (d : Dev) (x : Ctx) (world va : Nat) (bs : Bytes) : Dev :=
  let r := { Run.of d d.hostTime with gathers := bs.length == 32 && va % 32 == 0 }.write x (hostReq world true) true va bs
  { r.d with hostTime := r.t }

/-- HOST_WRITE: bytes at offset `va` of the function's BAR 2, or of its register page. -/
def execHostWrite (world : Nat) (va : Word) (bytes : Bytes) : State → Host.Outcome State Fault Refusal :=
  run fun x d =>
    if (d.world world).tdisp = .error then d
    else if inBar0 va.toNat bytes.length then d.writeRegister x.now world (va.toNat - 2 ^ 48) (wordOf bytes)
    else if d.hostBlocked x.seq world va.toNat bytes.length true then d.hostRefuse x world va bytes.length true
    else d.hostStore x world va.toNat bytes

/-! ## Entries (R317) -/

/-- The entry at a queue's consumer index, where there is one to consume. -/
def Dev.entry (d : Dev) (n : Nat) : Option (WorkQueue × Nat × Bytes) :=
  match Tab.get? d.queues n with
  | none => none
  | some q =>
    match q.world with
    | none => none
    | some w =>
      if q.error ∨ q.consumer = q.producer ∨ (d.world w).tdisp = .error then none
      else some (q, w, SMap.getRun d.hostMem (q.base + 64 * (q.consumer.toNat % 2 ^ q.logSize)) 64)

def entryOp (e : Bytes) : Nat := u8At e 0
def entryLevel (e : Bytes) : Nat := u8At e 1
def entryFlags (e : Bytes) : Nat := u16At e 2
def entryDone (e : Bytes) : Nat := u64At e 0x10
def entryTag (e : Bytes) : Word := BitVec.ofNat 64 (u64At e 0x18)
def entryQuiet (e : Bytes) : Bool := entryFlags e / 2 % 2 == 1

def Dev.setQueue (d : Dev) (n : Nat) (q : WorkQueue) : Dev := { d with queues := Tab.put d.queues n q }

def WorkQueue.consume (q : WorkQueue) : WorkQueue := { q with consumer := q.consumer + 1 }

/-- Completion of an entry (R319). -/
def Dev.completeEntry (d : Dev) (now : Now) (n w : Nat) (e : Bytes) (status node launch : Nat) : Dev :=
  d.complete now w n (entryDone e) (entryQuiet e) (completionRecord (entryTag e) status node launch)

/-- A refused entry launches nothing. -/
def Dev.refuseEntry (d : Dev) (now : Now) (n w : Nat) (e : Bytes) : Dev := d.completeEntry now n w e 3 0xFFFF 0xFFFFFFFF

/-- The checks of R319 on an entry of Table 23.2. -/
def entryOk (q : WorkQueue) (e : Bytes) : Bool :=
  decide (q.ceiling ≤ entryLevel e) && decide (entryLevel e ≤ 3) && decide (entryFlags e < 4) && u8At e 7 == 0 &&
  zeroB (sliceB e 0x23 5)

def patches (e : Bytes) : List (Nat × Word) :=
  (List.range (u8At e 6)).map fun i => (u8At e (0x20 + i), BitVec.ofNat 64 (u64At e (0x28 + 8 * i)))

def launchOk (q : WorkQueue) (e : Bytes) : Bool :=
  entryOk q e && decide (u16At e 4 < 2048) && decide (u8At e 6 ≤ 3) && (patches e).all fun p => decide (p.1 ≤ 63)

/-- The 64 parameter values at a host address, or zeros. -/
def Dev.hostParams (d : Dev) (a : Nat) : SMap 64 :=
  if a = 0 then [] else SMap.ofList ((List.range 64).map fun i => wordOf (SMap.getRun d.hostMem (a + 8 * i) 8))

/-- A launch or replay entry is consumed with a parameter set, to which its patches apply in index order. -/
def Dev.launchEntry (d : Dev) (x : Ctx) (n : Nat) (q : WorkQueue) (w : Nat) (e : Bytes) (params : SMap 64) : Dev :=
  let d := d.setQueue n q.consume
  let tid := u16At e 4
  let params := (patches e).foldl (fun m p => SMap.set m p.1 p.2) params
  let (d, r) := d.useKind x.seq (d.world w).walkerDie w tid [6]
  let (d, l) := d.launchGraph x w tid n (entryLevel e) (entryFlags e % 2 == 1) (entryQuiet e) (entryDone e) (entryTag e)
    params r d.hostTime
  match l with
  | none => d.refuseEntry x.now n w e
  | some l => { d with queues := Tab.put d.queues n { q.consume with unended := q.unended ++ [l] } }

/-- LAUNCH: the launch entry at the head of queue `n`; an entry with an invalid op is refused here too. -/
def execLaunch (n : Nat) : State → Host.Outcome State Fault Refusal :=
  run fun x d =>
    match d.entry n with
    | none => d
    | some (q, w, e) =>
      let op := entryOp e
      if op = 1 then
        if launchOk q e then d.launchEntry x n q w e (d.hostParams (u64At e 8))
        else (d.setQueue n q.consume).refuseEntry x.now n w e
      else if op = 2 ∨ op = 3 ∨ (w = 0 ∧ 0x10 ≤ op ∧ op ≤ 0x1E) then d
      else (d.setQueue n q.consume).refuseEntry x.now n w e

/-- REPLAY: the set stays as it is, then the patches apply. -/
def execReplay (n : Nat) : State → Host.Outcome State Fault Refusal :=
  run fun x d =>
    match d.entry n with
    | none => d
    | some (q, w, e) =>
      if entryOp e ≠ 2 then d
      else if launchOk q e ∧ u64At e 8 = 0 then d.launchEntry x n q w e (Tab.getD (d.world w).params (u16At e 4) [])
      else (d.setQueue n q.consume).refuseEntry x.now n w e

/-- The oldest fence of a queue has completed: every launch before it has ended. -/
def WorkQueue.fenceDone (q : WorkQueue) : Bool := match q.fences with | f :: _ => f.waits.isEmpty | [] => false

/-- QUEUE_FENCE: the oldest waiting fence of queue `n` completes, or the fence entry at its head is consumed. -/
def execQueueFence (n : Nat) : State → Host.Outcome State Fault Refusal :=
  run fun x d =>
    match Tab.get? d.queues n with
    | none => d
    | some q =>
      match q.fences, q.fenceDone with
      | f :: rest, true =>
        (d.setQueue n { q with fences := rest }).complete x.now f.world n f.doneAddr f.noRecord
          (completionRecord f.tag 0 0xFFFF 0xFFFFFFFF)
      | _, _ =>
        match d.entry n with
        | none => d
        | some (q, w, e) =>
          if entryOp e ≠ 3 then d
          else if entryOk q e then
            let f : QueueFence := { waits := q.unended, doneAddr := entryDone e, tag := entryTag e, noRecord := entryQuiet e,
                                    world := w }
            d.setQueue n { q.consume with fences := q.fences ++ [f] }
          else (d.setQueue n q.consume).refuseEntry x.now n w e

end Sys2Proof.Machine
end

