-- ==== Sys2Proof/Machine/Manage.lean ====
section
/-! DEFINITION. Management commands (R293, R298, R302 to R305, R316, R320, R321, R328): one event for each, and the events
of the scrubber, the key slots and power gating that follow them. -/

namespace Sys2Proof.Machine

/-! ## The entry (Table 23.8) -/

structure Mgmt where
  world : Nat
  a0 : Nat
  a1 : Nat
  a2 : Nat
  a3 : Nat
deriving DecidableEq, Repr

def parseMgmt (e : Bytes) : Mgmt :=
  { world := u16At e 4, a0 := u64At e 8, a1 := u64At e 0x20, a2 := u64At e 0x28, a3 := u64At e 0x30 }

def mgmtOk (q : WorkQueue) (e : Bytes) : Bool :=
  decide (q.ceiling ≤ entryLevel e) && decide (entryLevel e ≤ 3) && (entryFlags e == 0 || entryFlags e == 2) &&
  u16At e 6 == 0 && u64At e 0x38 == 0

/-- The management entry of an op at the head of a queue of world 0. -/
def Dev.mgmtEntry (d : Dev) (n op : Nat) : Option (WorkQueue × Bytes) :=
  match d.entry n with
  | none => none
  | some (q, w, e) => if w = 0 ∧ entryOp e = op then some (q, e) else none

/-- A command is consumed and completes: status 0, or 4 with its reason. -/
def Dev.manage (d : Dev) (x : Ctx) (n : Nat) (q : WorkQueue) (e : Bytes) (f : Dev → Mgmt → Except Nat Dev) : Dev :=
  let d := d.setQueue n q.consume
  if !mgmtOk q e then d.refuseEntry x.now n 0 e
  else match f d (parseMgmt e) with
    | .ok d => d.completeEntry x.now n 0 e 0 0xFFFF 0xFFFFFFFF
    | .error r => d.completeEntry x.now n 0 e 4 r 0xFFFFFFFF

def command (op n : Nat) (f : Ctx → Dev → Mgmt → Except Nat Dev) : State → Host.Outcome State Fault Refusal :=
  run fun x d =>
    match d.mgmtEntry n op with
    | none => d
    | some (q, e) => d.manage x n q e (f x)

/-- Arguments that a command does not use must be 0; the world must be a world number. -/
def Mgmt.unused (m : Mgmt) (xs : List Nat) : Bool := decide (m.world < 256) && xs.all fun v => v == 0

/-! ## Partitions, key slots and L2 shares -/

/-- The set bits of a map of package indices. -/
def bitsOf (bs : Bytes) : List Nat := (List.range (8 * bs.length)).filter fun i => ((bs.drop (i / 8)).headD 0).getLsbD (i % 8)

/-- Every plane of a quad is FREE (R43, R328). -/
def Dev.quadFree (d : Dev) (i : Nat) : Bool :=
  (List.range 4).all fun c => (List.range 4).all fun n => ((d.core (4 * quadOfIndex i + c)).plane n).state == .free

def Dev.ownedByOther (d : Dev) (world i : Nat) : Bool := d.worlds.any fun (n, w) => n != world && w.partition.contains i

/-- The share (w, base) of L2 is well formed and overlaps no other live world's (R167). -/
def shareOk (s : Nat × Nat) : Bool := decide (s.1 ≤ 10) && s.2 % 2 ^ s.1 == 0 && decide (s.2 + 2 ^ s.1 ≤ 1024)
def Dev.shareTaken (d : Dev) (world : Nat) (s : Nat × Nat) : Bool :=
  d.worlds.any fun (n, w) => n != world && w.live && match w.l2 with
    | some (w', b') => decide (s.2 < b' + 2 ^ w') && decide (b' < s.2 + 2 ^ s.1)
    | none => false

def Dev.setKey (d : Dev) (n : Nat) (k : KeySlot) : Dev := { d with keySlots := Tab.put d.keySlots n k }

/-- A slot leaves a world: lines tagged with it leave every cache (R298, R299). -/
def Dev.retireKey (d : Dev) (world n : Nat) : Dev :=
  (d.setKey n { state := .retiring, world := world }).dropCached fun line => (d.frame (line / 512)).slots.contains n

def u16List (bs : Bytes) : List Nat := (List.range (bs.length / 2)).map fun i => u16At bs (2 * i)

def keyList (bs : Bytes) (n : Nat) : List Bytes := (List.range n).map fun i => sliceB bs (32 * i) 32

/-! ## WORLD_CREATE (Table 23.9) -/

/-- The L2 share that an image gives. -/
def imageShare (bs : Bytes) : Option (Nat × Nat) :=
  if u16At bs 0x84 = 0xFFFF then none else some (u8At bs 0x83, u16At bs 0x84)

/-- The world that an image describes, if it is valid. -/
def Dev.worldOf (d : Dev) (n : Nat) (bs : Bytes) : Option World :=
  let part := bitsOf (sliceB bs 0 128)
  let reserve := u16At bs 0x80
  let keys := u8At bs 0x82
  let slots := u16List (sliceB bs 0xB0 128)
  let mine := slots.take keys
  let share := imageShare bs
  let signers := u8At bs 0x88
  let old := d.world n
  if zeroB (sliceB bs 0x89 7) ∧ zeroB (sliceB bs 0x9A 6) ∧ zeroB (sliceB bs 0xA8 8) ∧ zeroB (sliceB bs 0x230 16) ∧
      reserve ≤ part.length ∧ 1 ≤ keys ∧ keys ≤ 64 ∧ u8At bs 0x83 ≤ 10 ∧ share.all shareOk ∧ u8At bs 0x86 ≤ 1 ∧
      u8At bs 0x87 ≤ 1 ∧ signers ≤ 8 ∧ u64At bs 0x90 % 64 = 0 ∧ u64At bs 0x90 < 2 ^ 56 ∧ u16At bs 0x98 < 2048 ∧
      u64At bs 0xA0 % 65536 = 0 ∧ u64At bs 0xA0 < 2 ^ 48 ∧ (slots.drop keys).all (· == 0) ∧ mine.eraseDups.length = keys ∧
      mine.all (fun s => decide (s < 1024) && (d.keySlot s).state == .free) ∧
      zeroB (sliceB bs (0x130 + 32 * signers) (256 - 32 * signers)) ∧ part.all (fun i => !d.ownedByOther n i) ∧
      !share.any (d.shareTaken n) then
    some { World.fresh with
      live := true, partition := part, reserve := reserve, keySlots := mine, l2 := share, tenantScope := u8At bs 0x86 == 1,
      warn := u8At bs 0x87 == 1, signers := keyList (sliceB bs 0x130 256) signers,
      legendBase := BitVec.ofNat 64 (u64At bs 0x90), statsTid := u16At bs 0x98, ptRoot := some (u64At bs 0xA0),
      tdisp := old.tdisp, report := old.report, evBase := old.evBase, evSize := old.evSize, evHead := old.evHead,
      evTail := old.evTail, evLost := old.evLost, evSeq := old.evSeq }
  else none

def Dev.createWorld (d : Dev) (now : Now) (m : Mgmt) : Except Nat Dev :=
  if !m.unused [m.a1, m.a2, m.a3] then .error 12
  else if (d.world m.world).live then .error 1
  else if d.keySlots.any fun (_, k) => k.state == .retiring && k.world == m.world then .error 12
  else
    let bs := SMap.getRun d.hostMem m.a0 576
    match d.worldOf m.world bs with
    | none => .error 9
    | some w =>
      if !(w.partition.all d.quadFree) then .error 12
      else
        let d := w.keySlots.foldl (fun d s => d.setKey s { state := .assigned, world := m.world }) d
        .ok ({ d with barriers := d.barriers.filter fun e => barWorld e.1 != m.world }.setWorld m.world
          { w with changedAt := some now.clock })

/-- The host hears of a share that is refused because it overlaps another live world's (R167). -/
def Dev.overlapEvent (d : Dev) (now : Now) (world : Nat) (share : Option (Nat × Nat)) : Dev :=
  if share.any fun s => shareOk s && d.shareTaken world s then d.event now 8 0 0 (items [167, world]) else d

/-- WORLD_CREATE. -/
def execWorldCreate (n : Nat) : State → Host.Outcome State Fault Refusal :=
  run fun x d =>
    match d.mgmtEntry n 0x10 with
    | none => d
    | some (q, e) =>
      let m := parseMgmt e
      let heard := match d.createWorld x.now m with
        | .error 9 => mgmtOk q e
        | _ => false
      let d := if heard then d.overlapEvent x.now m.world (imageShare (SMap.getRun d.hostMem m.a0 576)) else d
      d.manage x n q e fun d m => d.createWorld x.now m

/-! ## WORLD_DESTROY (R293) -/

/-- The page tables of a world lose every leaf that names a frame, and its code pages with them. -/
def World.unmapAll (w : World) : World :=
  { w with code := [], tables := Tab.map (fun _ (t : Tab Word) => t.filter fun e => leafPort e.2) w.tables }

/-- The frames of a world enter SCRUB_PENDING, in ascending order; no translation names them any more (R302). -/
def Dev.scrubWorld (d : Dev) (world : Nat) : Dev :=
  let mine := Tab.keys (fun _ (f : Frame) => f.world == world && (f.state == .inUse || f.state == .freeing)) d.frames
  let d := mine.foldl (fun (d : Dev) i => d.setFrame i { d.frame i with state := .scrubPending }) d
  ({ d with scrubQueue := d.scrubQueue ++ mine, stale := d.stale.filter fun s => s.world != world } : Dev).setWorld world
    (d.world world).unmapAll

/-- The commands of a world's graph nodes stop, the slots they hold are free, and the networks they loaded go (log 22). -/
def Dev.stopNodes (d : Dev) (clock world : Nat) : Dev :=
  (Tab.keys (fun _ _ => true) d.quads).foldl (fun d q =>
    let d := if ((d.quad q).net).any fun (n : Network) => n.world == world then d.unload q else d
    let d := [0, 1, 2].foldl (fun d e => d.stopOps q e fun o => o.issuer.world == world) d
    d.setQuad q ((d.quad q).freeSlots clock fun v => v.state != .free && v.world == world)) d

/-- The graphs of a world that have not ended end as killed, with their records and events (R319): where no node of one has
failed, its lowest-numbered node that has not finished is the one killed. -/
def Dev.endLaunches (d : Dev) (now : Now) (world : Nat) : Dev :=
  let mine := Tab.keys (fun _ (g : Launch) => g.world == world && !g.ended) d.launches
  let d := mine.foldl (fun d l => match Tab.get? d.launches l with
    | none => d
    | some g =>
      let left := (Tab.keys (fun _ (y : Node) => y.state != .finished) g.nodes).head?
      let g := if g.failed.isSome then g else match left with | some n => g.fail 2 n | none => g
      d.endGraph now l g) d
  { d with ended := d.ended.filter fun e => !mine.contains e.1 }

def Trigger.keyOf (world key : Nat) : Bool := key / 256 == world

def Dev.destroyWorld (d : Dev) (now : Now) (m : Mgmt) : Except Nat Dev :=
  if !m.unused [m.a0, m.a1, m.a2, m.a3] || m.world == 0 then .error 12
  else if !(d.world m.world).live then .error 2
  else
    let w := m.world
    let d := ((d.killWorld now w).stopNodes now.clock w).endLaunches now w
    let d : Dev := { d with windows := d.windows.filter fun e => e.2.world != w,
                            triggers := d.triggers.filter fun e => !Trigger.keyOf w e.1,
                            pool := d.pool.filter fun it => (d.itemKind it).1 != w,
                            faults := d.faults.filter fun f => f.world != w }
    let d : Dev := { d with
      queues := Tab.map (fun _ (q : WorkQueue) => if q.world = some w then { q with world := none } else q) d.queues,
      pqueues := Tab.map (fun _ (p : PQueue) => if p.world = some w then { p with world := none, entries := [] } else p) d.pqueues }
    let d := d.scrubWorld w
    let d := (d.world w).keySlots.foldl (fun d s => d.retireKey w s) d
    .ok (d.setWorld w { d.world w with live := false, partition := [], keySlots := [], l2 := none, tables := [], ptRoot := none,
                                       programs := [], code := [], params := [] })

def execWorldDestroy (n : Nat) : State → Host.Outcome State Fault Refusal := command 0x11 n fun x d m => d.destroyWorld x.now m

/-! ## WORLD_SET (Table 23.10) -/

def lockedItem (item : Nat) : Bool := [0, 2, 3, 4, 6, 7, 8].contains item

/-- The function is in CONFIG_LOCKED or RUN (R313). -/
def World.locked (w : World) : Bool := w.tdisp == .configLocked || w.tdisp == .run

/-- An old leaf that the TLB slices of every die may still hold (R113, R169). -/
def staleLeaf (world key : Nat) (leaf : Word) : List StaleLeaf :=
  (List.range 4).map fun die => { die := die, world := world, key := key, leaf := leaf, renewed := [] }

def staleLeaves (world : Nat) (w : World) : List StaleLeaf := w.leaves.flatMap fun (e : Nat × Word) => staleLeaf world e.1 e.2

def Dev.setItem (d : Dev) (m : Mgmt) (w : World) : Except Nat Dev :=
  let set := fun (w : World) => Except.ok (d.setWorld m.world w)
  match m.a0 with
  | 0 =>
    let part := bitsOf (SMap.getRun d.hostMem m.a1 128)
    let moved := (part.filter fun i => !w.partition.contains i) ++ w.partition.filter fun i => !part.contains i
    if m.a2 = 0 ∧ part.all (fun i => !d.ownedByOther m.world i) ∧ moved.all d.quadFree ∧ w.reserve ≤ part.length then
      set { w with partition := part }
    else .error 12
  | 1 => if m.a2 = 0 ∧ m.a1 ≤ w.partition.length then set { w with reserve := m.a1 } else .error 12
  | 2 =>
    let slots := u16List (SMap.getRun d.hostMem m.a1 128)
    let mine := slots.take m.a2
    let free := mine.all fun s => decide (s < 1024) && ((d.keySlot s).state == .free || w.keySlots.contains s)
    if 1 ≤ m.a2 ∧ m.a2 ≤ 64 ∧ free ∧ mine.eraseDups.length = m.a2 ∧ (slots.drop m.a2).all (· == 0) then
      let d := (w.keySlots.filter fun s => !mine.contains s).foldl (fun d s => d.retireKey m.world s) d
      let d := mine.foldl (fun d s => d.setKey s { state := .assigned, world := m.world }) d
      .ok (d.setWorld m.world { w with keySlots := mine })
    else .error 12
  | 3 =>
    if m.a2 ≠ 0 then .error 12
    else if m.a1 = 2 ^ 64 - 1 then set { w with l2 := none }
    else
      let s := (m.a1 % 16, m.a1 / 2 ^ 16 % 1024)
      if m.a1 ≠ s.1 + s.2 * 2 ^ 16 ∨ !shareOk s then .error 12
      else if d.shareTaken m.world s then .error 12
      else set { w with l2 := some s }
  | 4 => if m.a1 ≤ 1 ∧ m.a2 = 0 then set { w with tenantScope := m.a1 == 1 } else .error 12
  | 5 => if m.a1 ≤ 1 ∧ m.a2 = 0 then set { w with warn := m.a1 == 1 } else .error 12
  | 6 => if m.a2 ≤ 8 then set { w with signers := keyList (SMap.getRun d.hostMem m.a1 256) m.a2 } else .error 12
  | 7 => if m.a2 = 0 ∧ m.a1 % 64 = 0 ∧ m.a1 < 2 ^ 56 then set { w with legendBase := BitVec.ofNat 64 m.a1 } else .error 12
  | 8 => if m.a2 = 0 ∧ m.a1 < 2048 then set { w with statsTid := m.a1, statsRefused := false } else .error 12
  | 9 =>
    if m.a2 = 0 ∧ m.a1 % 65536 = 0 ∧ m.a1 < 2 ^ 48 then
      .ok ({ d with stale := d.stale ++ staleLeaves m.world w }.setWorld m.world { w with ptRoot := some m.a1 })
    else .error 12
  | _ => .error 12

/-- A change to a locked item is not made, and sends the function to ERROR (R313). A share that overlaps another is refused
with an event (R167). -/
def Dev.worldSet (d : Dev) (now : Now) (m : Mgmt) : Dev × Except Nat Unit :=
  let w := d.world m.world
  if !m.unused [m.a3] then (d, .error 12)
  else if !w.live then (d, .error 2)
  else if lockedItem m.a0 && w.locked && m.world != 0 then (d.setWorld m.world { w with tdisp := .error }, .error 3)
  else match d.setItem m w with
    | .ok d =>
      (if lockedItem m.a0 then d.setWorld m.world { d.world m.world with changedAt := some now.clock } else d, .ok ())
    | .error r =>
      (if m.a0 = 3 then d.overlapEvent now m.world (some (m.a1 % 16, m.a1 / 2 ^ 16 % 1024)) else d, .error r)

def execWorldSet (n : Nat) : State → Host.Outcome State Fault Refusal :=
  run fun x d =>
    match d.mgmtEntry n 0x12 with
    | none => d
    | some (q, e) =>
      if !mgmtOk q e then d.manage x n q e fun d _ => .ok d
      else
        let (d, r) := d.worldSet x.now (parseMgmt e)
        d.manage x n q e fun d _ => r.map fun _ => d

/-! ## MAP, FREE, INGEST_MAP and RESOLVE (R302, R303, R321) -/

/-- Level of a size code, and its frames of 64 KiB. -/
def sizeLevel (code : Nat) : Option Nat := match code with | 0 => some 4 | 1 => some 3 | 2 => some 2 | _ => none

def framesOf (level pa : Nat) : List Nat := (List.range (2 ^ (pageBits level - 16))).map fun i => pa / 65536 + i

/-- Whether a leaf of another size maps part of a page. -/
def World.clash (w : World) (level va : Nat) : Bool :=
  w.leaves.any fun (key, _) =>
    let l := key / 2 ^ 40
    let lo := key % 2 ^ 40 * 2 ^ pageBits l
    l != level && decide (lo < va + 2 ^ pageBits level) && decide (va < lo + 2 ^ pageBits l)

/-- The world's code pages that lie in a page: one remapped for writing, or to other frames, leaves EXEC in the same step
(R307, log 28). -/
def World.remap (w : World) (va size : Nat) : World :=
  { w with code := w.code.map fun (c : CodePage) =>
      if va ≤ c.va.toNat ∧ c.va.toNat < va + size ∧ c.state ≠ .writable then { c with state := .writable } else c }

/-- A frame mapped for a world under a key slot: it counts for every slot it has been mapped under (R298). -/
def Frame.mapped (f : Frame) (world slot : Nat) : Frame :=
  { state := .inUse, world := world, slots := if f.slots.contains slot then f.slots else f.slots ++ [slot], notify := false,
    askedAt := f.askedAt }

/-- A request names frames: those that it finds not CLEAN make no transition after it in its clock (R305). -/
def Dev.ask (d : Dev) (clock : Nat) (frames : List Nat) : Dev :=
  frames.foldl (fun d f =>
    if (d.frame f).state = .freeing ∨ (d.frame f).state = .scrubPending then d.setFrame f { d.frame f with askedAt := some clock }
    else d) d

def Dev.map (d : Dev) (m : Mgmt) : Except Nat Dev :=
  let w := d.world m.world
  let attr := m.a2
  let write := attr / 4 % 2 == 1
  let exec := attr / 8 % 2 == 1
  let slot := attr / 2 ^ 16 % 1024
  match sizeLevel (attr % 4) with
  | none => .error 12
  | some level =>
    let size := 2 ^ pageBits level
    if !m.unused [m.a3] ∨ !w.live ∨ w.ptRoot.isNone ∨ attr ≠ attr % 32 + slot * 2 ^ 16 then .error 12
    else if m.a0 % size ≠ 0 ∨ m.a1 % size ≠ 0 then .error 5
    else if vaWindow < m.a0 + size ∨ 2 ^ 48 < m.a1 + size ∨ !isHbm m.a1 ∨ w.clash level m.a0 then .error 12
    else if (write && exec) || !w.keySlots.contains slot then .error 13
    else if !((framesOf level m.a1).all fun f => (d.frame f).state == .clean || ((d.frame f).state == .inUse && (d.frame f).world == m.world)) then
      .error 4
    else
      let key := leafKeyAt level m.a0
      let old := Tab.get? w.leaves key
      let moved := old.any fun e => !leafPort e && leafBase e != m.a1
      let d := (framesOf level m.a1).foldl (fun d f => d.setFrame f ((d.frame f).mapped m.world slot)) d
      let w := w.setLeaves (Tab.put w.leaves key (makeLeaf m.a1 slot write exec (attr / 16 % 2 == 1) false))
      .ok ({ d with stale := d.stale ++ (match old with | some e => staleLeaf m.world key e | none => []) }.setWorld m.world
        (if write || moved then w.remap m.a0 size else w))

/-- MAP. -/
def execMap (n : Nat) : State → Host.Outcome State Fault Refusal :=
  run fun x d =>
    match d.mgmtEntry n 0x13 with
    | none => d
    | some (q, e) =>
      let m := parseMgmt e
      let d := if mgmtOk q e then d.ask x.now.clock (match sizeLevel (m.a2 % 4) with | some l => framesOf l m.a1 | none => []) else d
      d.manage x n q e fun d m => d.map m

/-- Whether a leaf maps one of the frames of a run. -/
def leafMeets (lo n : Nat) (key : Nat) (e : Word) : Bool :=
  let size := 2 ^ (pageBits (key / 2 ^ 40) - 16)
  !leafPort e && decide (lo < leafBase e / 65536 + size) && decide (leafBase e / 65536 < lo + n)

/-- FREE removes every translation of the leaf's frames, which wait for the accesses translated before (R302, R303): with
the leaf, the world's other leaves over them (log 28). -/
def Dev.free (d : Dev) (m : Mgmt) : Except Nat Dev :=
  let w := d.world m.world
  match sizeLevel m.a1 with
  | none => .error 12
  | some level =>
    let size := 2 ^ pageBits level
    let key := leafKeyAt level m.a0
    if !m.unused [m.a2, m.a3] ∨ !w.live then .error 12
    else if m.a0 % size ≠ 0 then .error 5
    else match Tab.get? w.leaves key with
      | none => .error 14
      | some e =>
        let w := { w with code := w.code.filter fun (c : CodePage) => !(decide (m.a0 ≤ c.va.toNat) && decide (c.va.toNat < m.a0 + size)) }
        if leafPort e then
          .ok ({ d with stale := d.stale.filter fun s => !(s.world == m.world && s.key == key) }.setWorld m.world
            (w.setLeaves (Tab.del w.leaves key)))
        else
          let gone := leafMeets (leafBase e / 65536) (2 ^ (pageBits level - 16))
          let d := (framesOf level (leafBase e)).foldl (fun d f => d.setFrame f { d.frame f with state := .freeing }) d
          let w := { w with tables := Tab.map (fun _ (t : Tab Word) => t.filter fun (key, e) => !gone key e) w.tables }
          let w := { w with code := w.code.filter fun (c : CodePage) => (w.leafOf c.va.toNat).isSome }
          .ok ({ d with stale := d.stale.filter fun s => !gone s.key s.leaf }.setWorld m.world w)

def execFree (n : Nat) : State → Host.Outcome State Fault Refusal := command 0x14 n fun _ d m => d.free m

/-- FRAME_SCRUB_PENDING: the accesses translated before the free have been performed. -/
def execFrameScrubPending (f : Nat) : State → Host.Outcome State Fault Refusal :=
  run fun x d =>
    if (d.frame f).state = .freeing ∧ (d.frame f).askedAt ≠ some x.now.clock then
      { d with scrubQueue := d.scrubQueue ++ [f] }.setFrame f { d.frame f with state := .scrubPending }
    else d

/-- INGEST_MAP: the port leaf of a window's ingest page. -/
def Dev.ingestMap (d : Dev) (m : Mgmt) : Except Nat Dev :=
  let w := d.world m.world
  let key := leafKeyAt 4 m.a0
  let leaf := Tab.get? w.leaves key
  if !m.unused [m.a3] ∨ !w.live ∨ w.ptRoot.isNone then .error 12
  else if m.a0 % 65536 ≠ 0 then .error 5
  else if vaWindow ≤ m.a0 ∨ 256 ≤ m.a1 ∨ 1 < m.a2 then .error 12
  else if m.a2 = 0 then
    if leaf.isSome ∨ w.clash 4 m.a0 then .error 12
    else .ok (d.setWorld m.world (w.setLeaves (Tab.put w.leaves key (makeLeaf (m.a1 * 2 ^ 16) 0 true false true true))))
  else match leaf with
    | none => .error 12
    | some e =>
      if leafPort e ∧ leafWindow e = m.a1 then
        .ok ({ d with stale := d.stale ++ staleLeaf m.world key e }.setWorld m.world (w.setLeaves (Tab.del w.leaves key)))
      else .error 12

def execIngestMap (n : Nat) : State → Host.Outcome State Fault Refusal := command 0x1D n fun _ d m => d.ingestMap m

/-- Bits of the offset in the page that holds an address: that of its leaf, else 64 KiB. -/
def World.offsetBits (w : World) (va : Nat) : Nat := match w.leafOf va with | some (l, _) => pageBits l | none => 16

/-! ### A core's held accesses (R137) -/

/-- An access that waited has been performed: its result may land. -/
def Core.performed (c : Core) (a : Access) (vals : List (Nat × Word)) : Core :=
  { c with pend := if a.kind = .store then c.pend.filter fun p => p.tag != a.tag
      else c.pend.map fun (p : Landing) => if p.tag = a.tag then { p with vals := a.result vals, ready := true } else p }

/-- A queued command whose core's earlier accesses have been performed may start (R179). -/
def Dev.readyIssued (d : Dev) (k e seq : Nat) : Dev :=
  let q := quadOfCore k
  let g := d.engine q e
  d.setEngine q e { g with queue := g.queue.map fun (o : Cmd) =>
    if o.seq = seq then { o with ready := true, ltime := Nat.max o.ltime (d.core k).orderTime } else o }

/-- What was held behind an access that traps has not happened (R127): its command or stream is gone, with the counters
and the follow-on that the command took. -/
def Dev.undoHeld (d : Dev) (k : Nat) : Held → Dev
  | .access a => d.setCore k { d.core k with pend := (d.core k).pend.filter fun p => p.tag != a.tag }
  | .issue e seq =>
    let q := quadOfCore k
    let mine := fun (o : Cmd) => o.seq == seq
    let d := ((d.engine q e).queue.filter mine).foldl (fun (d : Dev) o =>
      d.setCore k (o.charged.foldl (fun c h => c.lower h.ctr h.n) (d.core k))) d
    let d := d.setEngine q e { d.engine q e with queue := (d.engine q e).queue.filter fun o => !mine o }
    let after := fun (o : Cmd) => e == 0 && o.after == some seq
    let seqs := ((d.engine q 1).queue.filter after).map Cmd.seq
    let d := d.setEngine q 1 { d.engine q 1 with queue := (d.engine q 1).queue.filter fun o => !after o }
    let c := d.core k
    d.setCore k { c with ops := c.ops.filter fun (o : OpRef) => !((o.eng == e && o.seq == seq) || (o.eng == 1 && seqs.contains o.seq)) }
  | .stream i =>
    let c := d.core k
    { d with streams := Tab.del d.streams i }.setCore k { c with streams := c.streams.filter fun e => e.2 != i }
  | _ => d

/-- A held access is denied, or declared invalid: the core traps ACCESS, and what is behind it is given up (log 13). -/
def Dev.failHeld (d : Dev) (x : Ctx) (k : Nat) (held : List Held) (va pc : Word) : Dev :=
  let d := held.foldl (fun d h => d.undoHeld k h) d
  (d.setCore k { d.core k with held := [] }).takeTrap x.now k Cause.access va pc

/-- What a core holds goes on in order, as far as the next access that finds no page (R177). -/
def Dev.replayHeld (x : Ctx) (k : Nat) : List Held → Dev → Dev
  | [], d => d.setCore k { d.core k with held := [] }
  | h :: rest, d =>
    match h with
    | .access a =>
      match d.access x k a with
      | .done d vals => Dev.replayHeld x k rest (d.setCore k ((d.core k).performed a vals))
      | .deny d va => d.failHeld x k (h :: rest) va a.pc
      | .fault va =>
        (d.setCore k { d.core k with held := h :: rest }).recordFault x.now (.core k) (d.core k).world (some (quadOfCore k)) va
          (a.kind != .load)
    | .push i slot tag pa bs => Dev.replayHeld x k rest (d.writeSlotWord k i slot tag pa bs)
    | .fill i n => Dev.replayHeld x k rest (d.sendCount k i n true)
    | .back i n => Dev.replayHeld x k rest (d.sendCount k i n false)
    | .issue e seq => Dev.replayHeld x k rest (d.readyIssued k e seq)
    | .stream i => Dev.replayHeld x k rest { d with streams := Tab.map (fun n (s : Stream) =>
        if n = i then { s with ltime := Nat.max s.ltime (d.core k).orderTime } else s) d.streams }

/-- The host's answer reaches a core: its held access is replayed, or traps ACCESS (R137). An instruction that waits with
no access held (log 6) reads its page again. -/
def Dev.resolveCore (d : Dev) (x : Ctx) (invalid : Bool) (f : PageFault) (k : Nat) : Dev :=
  match (d.core k).held with
  | .access a :: rest => if invalid then d.failHeld x k (.access a :: rest) f.va a.pc else Dev.replayHeld x k (.access a :: rest) d
  | _ => if invalid then { d with faults := d.faults ++ [{ f with invalid := true }] } else d

/-- It reaches an engine's operation: the access is replayed, or the operation ends in fault 0x0C (R170, R273). -/
def Dev.resolveEngine (d : Dev) (clock : Nat) (invalid : Bool) (q e seq : Nat) : Dev :=
  match (d.engine q e).find seq with
  | none => d
  | some cmd =>
    if !invalid then d.setRunning q e { cmd with waiting := false }
    else if e = 2 then
      let d := match (d.quad q).net with | some n => d.setNet q { n with staged := none } | none => d
      d.endPush clock q cmd cmd.ltime cmd.given [] (some 0x0C)
    else d.setRunning q e { cmd with waiting := false, fault := some 0x0C }

def Dev.resolveOne (d : Dev) (x : Ctx) (invalid : Bool) (f : PageFault) : Dev :=
  match f.party with
  | .core k => d.resolveCore x invalid f k
  | .engine q e seq => d.resolveEngine x.now.clock invalid q e seq
  | .stream i => d.streamResolve x invalid i

/-- RESOLVE applies to every access that waits on the page (R321). -/
def Dev.resolve (d : Dev) (x : Ctx) (m : Mgmt) : Except Nat Dev :=
  let w := d.world m.world
  let bits := w.offsetBits m.a0
  let onPage := fun (va : Nat) => va / 2 ^ bits == m.a0 / 2 ^ bits
  if !m.unused [m.a2, m.a3] ∨ !w.live ∨ 1 < m.a1 then .error 12
  else
    let hit := d.faults.filter fun f => f.world == m.world && !f.invalid && onPage f.va.toNat
    let streams := Tab.keys (fun _ (s : Stream) => s.world == m.world && s.frozen && s.spill.any fun p => onPage (s.addr p.1)) d.streams
    if hit.isEmpty && streams.isEmpty then .error 6
    else
      let d : Dev := { d with faults := d.faults.filter fun f => !(f.world == m.world && !f.invalid && onPage f.va.toNat) }
      let d := hit.foldl (fun d f => d.resolveOne x (m.a1 == 1) f) d
      let d := streams.foldl (fun d i => d.streamResolve x (m.a1 == 1) i) d
      .ok (d.count m.world 13 (hit.length + streams.length))

def execResolve (n : Nat) : State → Host.Outcome State Fault Refusal := command 0x15 n fun x d m => d.resolve x m

/-! ## BARRIER_RESET, KILL, DIE_SET -/

/-- The instance that arg1 names for a scope, if its unused fields are zero. -/
def instanceOf (pkg scope a : Nat) : Option Nat :=
  let quad := a % 256
  let die := a / 2 ^ 8 % 4
  let core := a / 2 ^ 10 % 4
  let ok := fun (v : Nat) => decide (a = v + a / 2 ^ 16 % 16 * 2 ^ 16) && a / 2 ^ 16 % 16 == pkg
  match scope with
  | 0 => if ok (quad + die * 2 ^ 8 + core * 2 ^ 10) then some (die * 1024 + quad * 4 + core) else none
  | 1 => if ok (quad + die * 2 ^ 8) then some (die * 256 + quad) else none
  | 2 => if ok (die * 2 ^ 8) then some die else none
  | 3 => if ok 0 then some 0 else none
  | 4 => if a = 0 then some 0 else none
  | 5 => if a = 0 then some 0 else none
  | 6 => if a = 0 then some 0 else none
  | _ => none

/-- The barrier of the instruction at a core's pc, if it is one that waits. -/
def Dev.barAtPc (d : Dev) (k : Nat) : Option Nat :=
  let c := d.core k
  match decode (c.cur.word (c.pc.toNat / 8)) with
  | .ok (.bar _ scope id) => some (d.barOf k scope id).1
  | .ok (.bara _ scope _ id) => some (d.barOf k scope id).1
  | .ok (.barw _ scope id) => some (d.barOf k scope id).1
  | _ => none

/-- A core that waits on a barrier of that scope, instance and number (Table 23.4). -/
def Dev.waitsOn (d : Dev) (k key : Nat) : Bool :=
  let c := d.core k
  (match c.wait with | some w => w.kind == 4 | none => false) &&
  match c.stage with
  | .arrived at_ _ _ => at_ == key
  | _ => d.barAtPc k == some key

def Dev.barrierReset (d : Dev) (m : Mgmt) : Except Nat Dev :=
  if !m.unused [m.a3] ∨ !(d.world m.world).live ∨ 256 ≤ m.a2 then .error 12
  else match instanceOf d.pkgId m.a0 m.a1 with
    | none => .error 12
    | some place =>
      let key := barKey m.world m.a0 place m.a2
      if d.cores.any fun (k, c) => c.world == m.world && d.waitsOn k key then .error 7
      else .ok (d.setBarrier key { d.barrier key with declared := 0, arrived := 0, pending := 0, who := [] })

def execBarrierReset (n : Nat) : State → Host.Outcome State Fault Refusal := command 0x16 n fun _ d m => d.barrierReset m

def Dev.killCommand (d : Dev) (now : Now) (m : Mgmt) : Except Nat Dev :=
  if !m.unused [m.a1, m.a2, m.a3] then .error 12
  else if !(d.world m.world).live then .error 2
  else match Tab.get? d.teams m.a0 with
    | none => .error 10
    | some t => if t.world ≠ m.world ∨ t.finished then .error 10 else .ok (d.kill now m.a0)

def execKill (n : Nat) : State → Host.Outcome State Fault Refusal := command 0x19 n fun x d m => d.killCommand x.now m

def Dev.dieCommand (d : Dev) (m : Mgmt) : Except Nat Dev :=
  if !m.unused [m.world] ∨ 3 < m.a0 then .error 12
  else match m.a1 with
    | 0 =>
      if m.a2 % 64 = 0 ∧ m.a2 < 2 ^ 48 ∧ 1 ≤ m.a3 ∧ m.a3 ≤ 65536 then
        .ok (d.setDie m.a0 { d.die m.a0 with survey := some (m.a2, m.a3) })
      else .error 12
    | 1 => if 1 ≤ m.a2 ∧ m.a2 ≤ 12 ∧ m.a3 = 0 then .ok (d.setDie m.a0 { d.die m.a0 with scrubCap := m.a2 }) else .error 12
    | _ => .error 12

def execDieSet (n : Nat) : State → Host.Outcome State Fault Refusal := command 0x1A n fun _ d m => d.dieCommand m

/-! ## QUEUE_SET, PQ_SET (R238, R316) -/

def Dev.queueCommand (d : Dev) (m : Mgmt) : Except Nat Dev :=
  let held := (Tab.get? d.queues m.a0).bind fun (q : WorkQueue) => q.world
  let log := m.a2 % 32
  let vector := m.a2 / 2 ^ 8 % 256
  let ceiling := m.a2 / 2 ^ 16 % 4
  if 256 ≤ m.world ∨ 4096 ≤ m.a0 ∨ 1 < m.a3 ∨ !(d.world m.world).live then .error 12
  else if held.any fun w => w != m.world then .error 11
  else if m.a3 = 1 then
    if m.a1 ≠ 0 ∨ m.a2 ≠ 0 ∨ held.isNone then .error 12
    else match Tab.get? d.queues m.a0 with
      | some q => .ok (d.setQueue m.a0 { q with world := none })
      | none => .error 12
  else if m.a1 % 4096 ≠ 0 ∨ m.a2 ≠ log + vector * 2 ^ 8 + ceiling * 2 ^ 16 ∨ log < 4 ∨ 16 < log then .error 12
  else if held.isNone && decide (512 ≤ (d.queuesOf m.world).length) then .error 11
  else
    let old := Tab.get? d.queues m.a0
    .ok (d.setQueue m.a0 { world := some m.world, base := m.a1, logSize := log, vector := vector, ceiling := ceiling,
                           producer := 0, consumer := 0, error := false,
                           unended := match old with | some q => q.unended | none => [],
                           fences := match old with | some q => q.fences | none => [] })

def execQueueSet (n : Nat) : State → Host.Outcome State Fault Refusal := command 0x1B n fun _ d m => d.queueCommand m

def Dev.pqCommand (d : Dev) (m : Mgmt) : Except Nat Dev :=
  let p := d.pqueue m.a0
  let waits := d.cores.any fun (_, c) => c.world == m.world && match c.wait with
    | some w => w.kind == 6 && w.handle == 0x40 + m.a0
    | none => false
  if !m.unused [m.a2, m.a3] ∨ 64 ≤ m.a0 ∨ 1 < m.a1 ∨ !(d.world m.world).live then .error 12
  else if p.world.any fun w => w != m.world then .error 11
  else if m.a1 = 0 then .ok { d with pqueues := Tab.put d.pqueues m.a0 { p with world := some m.world } }
  else if p.world.isNone then .error 12
  else if waits then .error 15
  else .ok { d with pqueues := Tab.put d.pqueues m.a0 { p with world := none, entries := [] } }

def execPqSet (n : Nat) : State → Host.Outcome State Fault Refusal := command 0x1C n fun _ d m => d.pqCommand m

/-! ## Scrubbing (R304, R305) -/

/-- The die that homes a frame's stack (Table 11.1). -/
def frameDie (f : Nat) : Nat := f * 65536 % 2 ^ 39 / 2 ^ 37

def Dev.scrubFirst (d : Dev) (m : Mgmt) : Except Nat Dev :=
  let f := m.a0 / 65536
  if !m.unused [m.world, m.a1, m.a2, m.a3] ∨ m.a0 % 65536 ≠ 0 then .error 12
  else if (d.frame f).state ≠ .scrubPending then .error 8
  else .ok ({ d with scrubQueue := f :: d.scrubQueue.filter fun o => o != f }.setFrame f { d.frame f with notify := true })

/-- SCRUB_FIRST. -/
def execScrubFirst (n : Nat) : State → Host.Outcome State Fault Refusal :=
  run fun x d =>
    match d.mgmtEntry n 0x17 with
    | none => d
    | some (q, e) =>
      (if mgmtOk q e then d.ask x.now.clock [(parseMgmt e).a0 / 65536] else d).manage x n q e fun d m => d.scrubFirst m

/-- SCRUB_FRAME_CLEAN: the scrubber of a die has zeroed the first frame of its queue. -/
def execScrubFrameClean (die : Nat) : State → Host.Outcome State Fault Refusal :=
  run fun x d =>
    match d.scrubQueue.find? fun f => frameDie f == die with
    | none => d
    | some f =>
      if (d.frame f).askedAt = some x.now.clock then d else
      let lo := f * 65536
      let notify := (d.frame f).notify
      let d : Dev := { d with scrubQueue := d.scrubQueue.erase f,
                              mem := d.mem.filter fun c => !(decide (lo ≤ c.1) && decide (c.1 < lo + 65536)) }
      let d := (d.dropCached fun line => line / 512 == f).setFrame f Frame.clean
      if notify then d.event x.now 7 0 die (items [lo]) else d

/-- KEY_SLOT_FREED: every frame of a RETIRING slot is CLEAN. -/
def Dev.keyIdle (d : Dev) (slot : Nat) : Bool :=
  (d.keySlot slot).state == .retiring && d.frames.all fun (_, f) => f.state == .clean || !f.slots.contains slot

def execKeySlotFreed (slot : Nat) : State → Host.Outcome State Fault Refusal :=
  run fun _ d => if d.keyIdle slot then d.setKey slot { state := .free, world := 0 } else d

/-! ## POWER (R328) -/

def Dev.power (d : Dev) (now : Now) (m : Mgmt) : Except Nat Dev :=
  let w := d.world m.world
  if !m.unused [m.a1, m.a2, m.a3] ∨ 1 < m.a0 then .error 12
  else if !w.live then .error 2
  else if m.a0 = 0 ∧ !(w.partition.all d.quadFree) then .error 16
  else .ok (d.setWorld m.world { w with gating := some (m.a0 == 0, now.ns) })

def execPower (n : Nat) : State → Host.Outcome State Fault Refusal := command 0x1E n fun x d m => d.power x.now m

/-- POWER_GATE_COMPLETE: the change takes 200 µs. -/
def execPowerGateComplete (world : Nat) : State → Host.Outcome State Fault Refusal :=
  run fun x d =>
    let w := d.world world
    match w.gating with
    | none => d
    | some (off, since) => if since + 200000 ≤ x.now.ns then d.setWorld world { w with gated := off, gating := none } else d

/-! ## TIME_ADJ (R275, R320) -/

/-- An offset correction in nanoseconds: forward ones of more than 1 ms step, others are slewed. -/
def Now.correct (n : Now) (offset : Int) : Now :=
  if 1000000 < offset then { n with time := n.time + offset.toNat * 2 ^ 32 } else { n with slew := n.slew + offset * 2 ^ 32 }

/-- The rate and the offset of a TIME_ADJ entry that takes effect. -/
def timeArgs (q : WorkQueue) (e : Bytes) : Option (Int × Int) :=
  let m := parseMgmt e
  if mgmtOk q e ∧ m.unused [m.world, m.a2, m.a3] then some (toSigned 64 m.a0, toSigned 64 m.a1) else none

def execTimeAdj (n : Nat) (s : State) : Host.Outcome State Fault Refusal :=
  match s.dev.mgmtEntry n 0x18 with
  | none => .next s
  | some (q, e) =>
    let d := s.dev.manage s.ctx n q e fun d m => if m.unused [m.world, m.a2, m.a3] then .ok d else .error 12
    match timeArgs q e with
    | none => .next { s with dev := d }
    | some (rate, offset) =>
      let now : Now := { s.now with rate := rate }
      .next { s with dev := d, now := now.correct offset }

end Sys2Proof.Machine
end

