-- ==== Sys2Proof/Machine/Tenancy.lean ====
section
/-! DEFINITION. Tag checks at boundaries (R294, R295), sealed tunnels (R297), TDISP (R313) and the SPDM responder (R310 to
R312). -/

namespace Sys2Proof.Machine

/-! ## Tag checks (Table 21.2) -/

/-- The outcome of a check: the packet passes, is dropped at a router of a die, or is dropped as a stale reply. -/
inductive Check where
  | pass
  | drop (die router : Nat)
  | stale (die : Nat)
deriving DecidableEq, Repr

/-- A key slot below 1,024, or the device-register page of world `place` - 1,024. -/
def Dev.portOpen (d : Dev) (world place : Nat) : Bool :=
  if place < 1024 then (d.world world).keySlots.contains place && (d.keySlot place).state == .assigned
  else world == 0 || place == 1024 + world

/-- Row 0: quad `place`. Row 1: the fence port of die `place` / 2^32 at which tunnel `place` mod 2^32 ends. Row 2: the memory
port of stack `place` / 2,048, for a key slot or a device register. Row 3: plane `place` mod 4 of core `place` / 4, as a
reply's target (log 12). -/
def Dev.tagCheck (d : Dev) (row place world : Nat) (gen : BitVec 16) : Check :=
  match row with
  | 0 => if (d.world world).owns place then .pass else .drop (place / 256) (place % 256)
  | 1 =>
    let die := place / 2 ^ 32
    let n := place % 2 ^ 32
    if (Tab.get? d.tunnels n).any fun t => t.isOpen && t.world == world && t.die == die then .pass else .drop die n
  | 2 => if d.portOpen world (place % 2048) then .pass else .drop (place / 4096 % 4) (256 + place / 2048)
  | _ =>
    let p := (d.core (place / 4)).plane (place % 4)
    if p.world = world ∧ p.gen = gen then .pass else .stale (place / 4096)

/-- A stale reply is counted by its die (R44) and its world (R329). -/
def Dev.countStale (d : Dev) (die world n : Nat) : Dev :=
  let x := d.die die
  (d.setDie die { x with stale := x.stale + n }).count world 15 n

/-- MESH_PACKET_ENTERS. A packet that passes goes on and changes nothing here. -/
def execMeshPacketEnters (row place world gen : Nat) : State → Host.Outcome State Fault Refusal :=
  run fun x d =>
    match d.tagCheck row place world (BitVec.ofNat 16 gen) with
    | .pass => d
    | .drop die router => d.foreignDrop x.now die world (BitVec.ofNat 16 gen) router
    | .stale die => d.countStale die world 1

/-! ## Sealed tunnels (R297) -/

/-- A function in CONFIG_LOCKED or RUN goes to ERROR (Table 21.7). -/
def World.fail (w : World) : World := if w.locked then { w with tdisp := .error } else w

/-- The generation that a team's packets carry. -/
def Dev.teamGen (d : Dev) (team : Nat) : BitVec 16 :=
  match Tab.get? d.teams team with
  | some t => match t.cores with | (k, n) :: _ => ((d.core k).plane n).gen | [] => 0
  | none => 0

/-- A failed tunnel is closed, its team is killed and its world's function goes to ERROR; its exit router's die counts the
drop. -/
def Dev.tunnelFail (d : Dev) (now : Now) (n : Nat) (t : Tunnel) : Dev :=
  let d := d.foreignDrop now t.die t.world (d.teamGen t.team) n
  let d := { d with tunnels := Tab.put d.tunnels n { t with isOpen := false } }.kill now t.team
  d.setWorld t.world (d.world t.world).fail

/-- Whether the exit router accepts a packet. -/
def Tunnel.accepts (t : Tunnel) (counter : Word) (tagOk : Bool) : Bool :=
  tagOk && match t.counter with | none => true | some c => decide (c < counter)

/-- TUNNEL_PACKET_EXIT. The entry router counts the packets it seals, from 0, so it has sealed those up to this one. -/
def execTunnelPacketExit (tunnel counter : Nat) (tagOk : Bool) : State → Host.Outcome State Fault Refusal :=
  run fun x d =>
    match Tab.get? d.tunnels tunnel with
    | none => d
    | some t =>
      if !t.isOpen then d
      else if t.accepts (BitVec.ofNat 64 counter) tagOk then
        { d with tunnels := Tab.put d.tunnels tunnel { t with counter := some (BitVec.ofNat 64 counter),
                                                              sent := Nat.max t.sent (counter % 2 ^ 64 + 1) } }
      else d.tunnelFail x.now tunnel t

/-! ## TDISP (R313) -/

/-- Whether a number is that of a virtual function. -/
def isVf (fn : Nat) : Bool := decide (1 ≤ fn) && decide (fn < 256)

/-- The items of Table 21.1 as numbers. -/
def World.configItems (w : World) : List Nat :=
  w.partition ++ [w.reserve] ++ w.keySlots ++ (match w.l2 with | some (a, b) => [1, a, b] | none => [0]) ++
    [b2n w.tenantScope, b2n w.warn] ++ w.signers.map natOfBytes ++ [w.legendBase.toNat, w.statsTid, w.ptRoot.getD 0]

def execIdeIntegrityFailure (world : Nat) : State → Host.Outcome State Fault Refusal :=
  run fun _ d => if isVf world then d.setWorld world (d.world world).fail else d

/-- LOCK_INTERFACE_REQUEST: the items marked locked are frozen, and the interface report is fixed. A change of the same
clock comes after the lock (R313), so that the lock waits for the next clock where one has been made (log 22). -/
def execLockInterfaceRequest (fn : Nat) : State → Host.Outcome State Fault Refusal :=
  run fun x d =>
    let w := d.world fn
    if isVf fn ∧ w.tdisp = .configUnlocked ∧ w.changedAt ≠ some x.now.clock then
      d.setWorld fn { w with tdisp := .configLocked, report := Config.configBytes w.configItems }
    else d

def execStartInterfaceRequest (fn : Nat) : State → Host.Outcome State Fault Refusal :=
  run fun _ d =>
    let w := d.world fn
    if isVf fn ∧ w.tdisp = .configLocked then d.setWorld fn { w with tdisp := .run } else d

/-- STOP_INTERFACE_REQUEST: the world's regions are killed and its frames enter SCRUB_PENDING. -/
def execStopInterfaceRequest (fn : Nat) : State → Host.Outcome State Fault Refusal :=
  run fun x d =>
    if isVf fn ∧ (d.world fn).tdisp ≠ .configUnlocked then
      let d := (d.killWorld x.now fn).scrubWorld fn
      d.setWorld fn { d.world fn with tdisp := .configUnlocked }
    else d

/-! ## SPDM (R310; log 8): an empty answer stands for an error -/

def Dev.spdmOf (d : Dev) (fn : Nat) : Spdm := Tab.getD d.spdm fn Spdm.none
def Dev.setSpdm (d : Dev) (fn : Nat) (x : Spdm) : Dev := { d with spdm := Tab.put d.spdm fn x }

/-- The function answers, and its transcript goes on with the request and the answer. -/
def Spdm.answer (s : Spdm) (request reply : Bytes) : Spdm :=
  { s with transcript := s.transcript ++ request ++ reply, reply := reply }

/-- A request that its connection is ready for. -/
def spdm (fn : Nat) (ready : Spdm → Bool) (f : Ctx → Dev → Spdm → Spdm) : State → Host.Outcome State Fault Refusal :=
  run fun x d =>
    if 256 ≤ fn then d else
    let s := d.spdmOf fn
    d.setSpdm fn (if ready s then f x d s else { s with reply := [] })

/-- GET_VERSION begins a new connection. -/
def execGetVersion (fn : Nat) : State → Host.Outcome State Fault Refusal :=
  spdm fn (fun _ => true) fun _ _ _ => { Spdm.none with version := true }.answer [] (Config.spdmAnswer 0)

def execGetCapabilities (fn : Nat) : State → Host.Outcome State Fault Refusal :=
  spdm fn Spdm.version fun _ _ s => { s with capabilities := true }.answer [] (Config.spdmAnswer 1)

def execNegotiateAlgorithms (fn : Nat) : State → Host.Outcome State Fault Refusal :=
  spdm fn Spdm.capabilities fun _ _ s => { s with algorithms := true }.answer [] (Config.spdmAnswer 2)

/-- The digests of the five certificate chains. -/
def execGetDigests (fn : Nat) : State → Host.Outcome State Fault Refusal :=
  spdm fn Spdm.algorithms fun _ _ s => s.answer [] ((List.range 5).flatMap fun i => sha512 (Config.certificate i))

def execGetCertificate (fn slot : Nat) : State → Host.Outcome State Fault Refusal :=
  spdm fn (fun s => s.algorithms && decide (slot < 5)) fun _ _ s => s.answer [] (Config.certificate slot)

/-- CHALLENGE: the certificate's digest and a nonce, signed with the leaf key of the slot over the transcript and both nonces. -/
def execChallenge (fn slot : Nat) (nonce : Bytes) : State → Host.Outcome State Fault Refusal :=
  spdm fn (fun s => s.algorithms && decide (slot < 5)) fun x _ s =>
    let body := sha512 (Config.certificate slot) ++ Config.nonce x.seq
    s.answer nonce (body ++ Config.ed25519Sign slot (s.transcript ++ nonce ++ body))

/-- The condition of a world (R312). -/
def Dev.condition (d : Dev) (fn : Nat) : Nat :=
  if (d.world fn).gated then 2
  else if d.cores.any fun (_, c) => c.planes.any fun (_, p) => p.world == fn && (p.state == .active || p.state == .loaded) then 0
  else 1

def tdispCode : Tdisp → Nat
  | .configUnlocked => 0
  | .configLocked => 1
  | .run => 2
  | .error => 3

/-- Block 0xF0. -/
def Dev.statusBlock (d : Dev) (fn : Nat) : Bytes :=
  let w := d.world fn
  [BitVec.ofNat 8 fn, BitVec.ofNat 8 (d.condition fn), BitVec.ofNat 8 (if fn = 0 then 0xFF else tdispCode w.tdisp), 0] ++
    bytesOfNat 4 w.extensions.toNat ++ bytesOfNat 8 w.extendedAt

/-- The items of a die's configuration: the quads of each live world on it, and the reserve counts. -/
def Dev.dieItems (d : Dev) (die : Nat) : List Nat :=
  d.worlds.flatMap fun (n, w) =>
    if w.live then [n] ++ (w.partition.filter fun i => dieOfQuad (quadOfIndex i) == die) ++ [w.reserve] else []

/-- The items of the log of the current start. -/
def Dev.logItems (d : Dev) : List Nat :=
  (d.stepLog.filter fun e => e.start == d.starts).flatMap fun e => [e.start, e.step, e.attempt, e.method, e.outcome, e.time]

/-- The value of a measurement block (Table 21.6). -/
def Dev.block (d : Dev) (fn index : Nat) : Option Bytes :=
  if index = 0x01 then some (sha512 d.firmware)
  else if index = 0x02 then some (sha512 (Config.configBytes d.logItems))
  else if 0x10 ≤ index ∧ index ≤ 0x13 then some (sha512 (Config.configBytes (d.dieItems (index - 0x10))))
  else if index = 0x20 then some (d.world fn).measurement
  else if index = 0x21 then some (sha512 (Config.configBytes (d.world fn).configItems))
  else if index = 0xF0 then some (d.statusBlock fn)
  else none

def blockIndices : List Nat := [0x01, 0x02, 0x10, 0x11, 0x12, 0x13, 0x20, 0x21, 0xF0]

/-- The blocks that a request for one, or with 0xFF for every, block returns. -/
def Dev.blocks (d : Dev) (fn index : Nat) : Bytes :=
  (blockIndices.filter fun i => index == 0xFF || i == index).flatMap fun i =>
    match d.block fn i with | some b => BitVec.ofNat 8 i :: b | none => []

/-- GET_MEASUREMENTS: the signature covers the requester's nonce and every block. -/
def execGetMeasurements (fn index : Nat) (nonce : Bytes) : State → Host.Outcome State Fault Refusal :=
  spdm fn (fun s => s.algorithms && (index == 0xFF || blockIndices.contains index)) fun x d s =>
    let body := d.blocks fn index ++ Config.nonce x.seq
    s.answer nonce (body ++ Config.ed25519Sign 0 (nonce ++ body))

/-- KEY_EXCHANGE: Lenivar's public value, signed over the transcript. -/
def execKeyExchange (fn : Nat) (pub : Bytes) : State → Host.Outcome State Fault Refusal :=
  spdm fn Spdm.algorithms fun x _ s =>
    let mine := Config.x25519Public x.seq
    { s with exchanged := true, session := false, secret := Config.x25519Shared x.seq pub }.answer pub
      (mine ++ Config.ed25519Sign 0 (s.transcript ++ pub ++ mine))

/-- FINISH: the session is established when the requester's check over the transcript holds. -/
def execFinish (fn : Nat) (verify : Bytes) : State → Host.Outcome State Fault Refusal :=
  spdm fn (fun s => s.exchanged && verify == Config.finishVerify s.secret s.transcript) fun _ _ s =>
    { s with session := true, exchanged := false }.answer verify (Config.spdmAnswer 3)

def execEndSession (fn : Nat) : State → Host.Outcome State Fault Refusal :=
  spdm fn Spdm.session fun _ _ s => { s with session := false, secret := [] }.answer [] (Config.spdmAnswer 4)

end Sys2Proof.Machine
end

