-- ==== Sys2Proof/Machine/Loader.lean ====
section
/-! DEFINITION. The loader (R97 to R103, R204, R306, R307): admission of a spatial program file, and re-admission of a
code page. The ELF64 layout is the standard one (log 9). -/

namespace Sys2Proof.Machine

/-! ## The container (R100) -/

/-- A program header. -/
structure Seg where
  kind : Nat
  flags : Nat
  off : Nat
  va : Nat
  size : Nat
  memSize : Nat
deriving DecidableEq, Repr

def parseSeg (b : Bytes) : Seg :=
  { kind := u32At b 0, flags := u32At b 4, off := u64At b 8, va := u64At b 0x10, size := u64At b 0x20, memSize := u64At b 0x28 }

/-- The program headers of a file with the ELF header of R100. -/
def parseElf (f : Bytes) : Option (List Seg) :=
  let phoff := u64At f 0x20
  let n := u16At f 0x38
  if sliceB f 0 7 = [0x7F, 0x45, 0x4C, 0x46, 2, 1, 1] ∧ u16At f 0x10 = 2 ∧ u16At f 0x12 = 0x9C41 ∧ u32At f 0x14 = 1 ∧
      u32At f 0x30 = 1 ∧ u16At f 0x36 = 56 ∧ phoff + 56 * n ≤ f.length then
    some ((List.range n).map fun i => parseSeg (sliceB f (phoff + 56 * i) 56))
  else none

def Seg.load (s : Seg) : Bool := s.kind == 1
def Seg.code (s : Seg) : Bool := s.load && s.flags == 5
def Seg.readOnly (s : Seg) : Bool := s.load && s.flags == 4
def Seg.writable (s : Seg) : Bool := s.load && s.flags == 6
def Seg.note (s : Seg) : Bool := s.kind == 4
def Seg.routes (s : Seg) : Bool := s.kind == 0x70000001
def Seg.legend (s : Seg) : Bool := s.kind == 0x70000002
def Seg.graph (s : Seg) : Bool := s.kind == 0x70000003
def Seg.bytes (s : Seg) (f : Bytes) : Bytes := sliceB f s.off s.size

/-- The 64 KiB pages that a segment lies in. -/
def Seg.pages (s : Seg) : List Nat :=
  (List.range ((s.va + s.memSize - 1) / 65536 + 1 - s.va / 65536)).map fun i => (s.va / 65536 + i) * 65536

/-- A segment with both PF_W and PF_X. -/
def Seg.mixed (s : Seg) : Bool := s.flags % 2 == 1 && s.flags / 2 % 2 == 1

def Seg.ok (s : Seg) (f : Bytes) : Bool :=
  decide (s.off + s.size ≤ f.length) && !s.mixed &&
  if s.load then
    (s.code || s.readOnly || s.writable) && decide (s.size ≤ s.memSize) && decide (s.va + s.memSize ≤ vaWindow) &&
    (!s.code || (s.size == s.memSize && s.size % 8 == 0 && decide (64 ≤ s.size) && decide (s.size ≤ 16384)))
  else s.note || s.routes || s.legend || s.graph

/-- A file holds at most one of each table, and no page of it is both writable and executable. -/
def tablesOk (ss : List Seg) : Bool :=
  let once := fun (p : Seg → Bool) => decide ((ss.filter p).length ≤ 1)
  once Seg.note && once Seg.routes && once Seg.legend && once Seg.graph &&
  (ss.filter Seg.writable).all fun w => (ss.filter Seg.code).all fun c => !(c.pages.any fun p => w.pages.contains p)

/-! ## Measurement notes (R101) -/

structure Note where
  index : Nat
  measurement : Bytes
  signer : Bytes
  signature : Bytes
deriving DecidableEq, Repr

/-- A descriptor of 164 bytes. -/
def parseNote (b : Bytes) : Note :=
  { index := u32At b 0, measurement := sliceB b 4 64, signer := sliceB b 68 32, signature := sliceB b 100 64 }

def pad4 (n : Nat) : Nat := (n + 3) / 4 * 4

/-- The notes named "Plynevo" of type 1 in a note segment. -/
def parseNotes : Nat → Bytes → List Note
  | 0, _ => []
  | fuel + 1, b =>
    if b.length < 12 then [] else
    let nameLen := u32At b 0
    let descLen := u32At b 4
    let rest := parseNotes fuel (b.drop (12 + pad4 nameLen + pad4 descLen))
    if nameLen = 8 ∧ descLen = 164 ∧ u32At b 8 = 1 ∧ sliceB b 12 8 = [0x50, 0x6C, 0x79, 0x6E, 0x65, 0x76, 0x6F, 0] then
      parseNote (sliceB b 20 164) :: rest
    else rest

/-- A signer that a world admits (R306). -/
def World.admits (w : World) (key : Bytes) : Bool :=
  if w.signers.isEmpty then key == Config.vendorKey else w.signers.contains key

/-- The checks of R101 on a segment's bytes. -/
def World.noteOk (w : World) (n : Note) (bs : Bytes) : Bool :=
  n.measurement == sha512 bs && ed25519Verify n.signer (n.measurement ++ bytesOfNat 4 n.index) n.signature &&
  w.admits n.signer

/-! ## Kernel headers (R35, R98, R99) -/

/-- The header fields of an image that the loader checks. The ranges of param_count, placements and contexts are those of
Table 5.12, whose breach R99 does not list (log 9). -/
def headerOk (b : Bytes) (width height : Nat) : Bool :=
  let contexts := u8At b 0x0E
  let code := u16At b 0x1C
  let defined := fun (n : Nat) => decide (n < 4) && contexts / 2 ^ n % 2 == 1
  let phase := fun (n : Nat) => u16At b 0x0C / 16 ^ n % 16
  let word := fun (i : Nat) => decide (8 ≤ i) && decide (i < code)
  let handler := u16At b 0x18
  u32At b 0 == 0x4B484E47 && u16At b 4 == 1 && crc32c (sliceB b 0 0x3C) == u32At b 0x3C &&
  decide (u32At b 8 < 2) && decide (contexts < 16) && contexts % 2 == 1 && u8At b 0x0F == 0 && u16At b 0x1E == 0 &&
  decide (u8At b 0x26 < 16) && u8At b 0x27 == 0 && zeroB (sliceB b 0x2D 15) && decide (u8At b 0x2C ≤ 64) &&
  phase 2 == 0 && [0, 1, 3].all (fun n => phase n == 15 || defined (phase n)) &&
  (List.range 4).all (fun n => !defined n || word (u16At b (0x10 + 2 * n))) &&
  (handler == 0xFFFF || word handler) && decide (9 ≤ code) && decide (code ≤ 2048) && decide (u16At b 0x1A ≤ 62) &&
  u8At b 0x28 == width && u8At b 0x29 == height && decide (1 ≤ u16At b 0x2A)

/-! ## Kernels and routes (R102, R103) -/

structure KernelEntry where
  first : Nat
  roles : Nat
  width : Nat
  height : Nat
deriving DecidableEq, Repr

def parseKernels (b : Bytes) : List KernelEntry :=
  (List.range (u32At b 0)).map fun i =>
    let e := sliceB b (8 + 16 * i) 16
    { first := u16At e 0, roles := u16At e 2, width := u8At e 4, height := u8At e 5 }

/-- The table's reserved bytes and bounds, and that each kernel's images are code segments. -/
def kernelsOk (b : Bytes) (ss : List Seg) : Bool :=
  zeroB (sliceB b 4 4) && decide (8 + 16 * u32At b 0 ≤ b.length) &&
  (List.range (u32At b 0)).all (fun i => zeroB (sliceB b (8 + 16 * i + 6) 10)) &&
  (parseKernels b).all fun k => decide (1 ≤ k.roles) && decide (1 ≤ k.width) && decide (k.width ≤ 32) &&
    decide (1 ≤ k.height) && decide (k.height ≤ 32) &&
    (List.range k.roles).all fun i => match ss[k.first + i]? with | some s => s.code | none => false

/-- The places of `n` more cores of a region: each takes the first core not taken, from the one asked for. -/
def placeRun (file : Bytes) (image cells n : Nat) (taken : List Nat) : List Nat :=
  (List.range n).foldl (fun taken i =>
    let want := Config.placement file image i
    match (List.range cells).find? fun j => !taken.contains ((want + j) % cells) with
    | some j => taken ++ [(want + j) % cells]
    | none => taken) taken

/-- The role images of a kernel, with their places. -/
def rolesOf (f : Bytes) (ss : List Seg) (k : KernelEntry) : List RoleImage :=
  let cells := 4 * k.width * k.height
  let step := fun (acc : List Nat × List RoleImage) (i : Nat) =>
    match ss[k.first + i]? with
    | none => acc
    | some s =>
      let b := s.bytes f
      let taken := placeRun f (k.first + i) cells (u16At b 0x2A) acc.1
      let places := (taken.drop acc.1.length).map fun c => (c / 4 % k.width, c / 4 / k.width, c % 4)
      let r : RoleImage := { words := SMap.ofList ((List.range (s.size / 8)).map fun j => wordOf (sliceB b (8 * j) 8)),
                             count := s.size / 8, pages := s.pages.map (BitVec.ofNat 64), places := places }
      (taken, acc.2 ++ [r])
  ((List.range k.roles).foldl step ([], [])).2

def parseRoute (e : Bytes) : Route :=
  { kind := u8At e 0, src := u16At e 2, dst := u16At e 4, endSrc := u8At e 6, endDst := u8At e 7,
    path := (List.range (u8At e 1)).map fun i => u64At e 8 / 4 ^ i % 4, tid := u16At e 0x10, slots := u16At e 0x12,
    slotBytes := u16At e 0x14, initial := u16At e 0x16 }

/-- The field ranges of Table 5.13; a bead's initial is 0, as its other channel fields are (log 9). -/
def routeEntryOk (e : Bytes) : Bool :=
  let r := parseRoute e
  let hops := u8At e 1
  decide (hops ≤ 24) && decide (u64At e 8 < 4 ^ hops) && zeroB (sliceB e 0x18 8) && decide (r.endSrc < 16) &&
  match r.kind with
  | 0 => decide (r.endDst < 16) && decide (r.tid < 2048) && decide (1 ≤ r.slots) && decide (r.slots ≤ 4096) &&
         [4, 8, 16, 128].contains r.slotBytes && decide (r.initial ≤ r.slots)
  | 1 => decide (r.endDst < 4) && r.tid == 0 && r.slots == 0 && r.slotBytes == 0 && r.initial == 0
  | _ => false

/-- Where a path leads from a place of the package grid. -/
def walk : List Nat → Int → Int → Int × Int
  | [], x, y => (x, y)
  | h :: hs, x, y => walk hs (if h = 1 then x + 1 else if h = 3 then x - 1 else x) (if h = 0 then y - 1 else if h = 2 then y + 1 else y)

/-- A route joins places of one kernel, and its hops lead from the one to the other; a bead's ends are two cores (R192). -/
def Program.routeOk (p : Program) (r : Route) : Bool :=
  !(r.kind == 1 && r.src == r.dst) &&
  match p.places[r.src]?, p.places[r.dst]? with
  | some a, some b => walk r.path (Int.ofNat a.1) (Int.ofNat a.2.1) == (Int.ofNat b.1, Int.ofNat b.2.1)
  | _, _ => false

/-- Placement indices reachable from `from_` over channels without initial tokens. -/
def reach (rs : List Route) : Nat → List Nat → List Nat
  | 0, seen => seen
  | n + 1, seen =>
    reach rs n (rs.foldl (fun seen (r : Route) =>
      if r.kind = 0 ∧ r.initial = 0 ∧ seen.contains r.src ∧ !seen.contains r.dst then r.dst :: seen else seen) seen)

/-- A channel on a cycle of channels that holds no initial token (R37). -/
def Program.deadCycle (p : Program) : Option Route :=
  p.routes.find? fun (r : Route) => r.kind == 0 && r.initial == 0 && (reach p.routes p.places.length [r.dst]).contains r.src

/-- The kernels of a file. The placement indices of its one route table run through its kernels in order (log 9). -/
def programsOf (f : Bytes) (ss : List Seg) (ks : List KernelEntry) (rs : List Route) : List Program :=
  (ks.foldl (fun (acc : Nat × List Program) k =>
    let p : Program := { width := k.width, height := k.height, roles := rolesOf f ss k, routes := [] }
    let n := p.places.length
    let mine := fun (i : Nat) => decide (acc.1 ≤ i) && decide (i < acc.1 + n)
    let inside := fun (r : Route) => mine r.src && mine r.dst
    let own := (rs.filter inside).map fun (r : Route) => { r with src := r.src - acc.1, dst := r.dst - acc.1 }
    (acc.1 + n, acc.2 ++ [{ p with routes := own }])) (0, [])).2

/-! ## Legend entries and rings (R100, R97, R204) -/

/-- The records of a legend table: TID and record, with world and key slot filled in and the check computed again. -/
def legendEntries (b : Bytes) (world slot : Nat) : List (Nat × Bytes) :=
  (List.range (b.length / 200)).map fun i =>
    let e := sliceB b (200 * i) 200
    let r := sliceB e 8 192
    let r := sliceB r 0 4 ++ bytesOfNat 2 world ++ bytesOfNat 2 slot ++ sliceB r 8 180
    (u16At e 0, r ++ bytesOfNat 4 (crc32c r))

def legendOk (b : Bytes) : Bool :=
  b.length % 200 == 0 && (List.range (b.length / 200)).all fun i =>
    decide (u16At b (200 * i) < 2048) && zeroB (sliceB b (200 * i + 2) 6)

/-- The record of a TID once the file is loaded. -/
def Dev.recordThen (d : Dev) (seq world : Nat) (es : List (Nat × Bytes)) (tid : Nat) : Option Rec :=
  match es.reverse.find? fun e => e.1 == tid with
  | some (_, b) => some (parseRec tid b)
  | none => (d.recordBytes seq (d.world world).walkerDie world tid).map (parseRec tid)

/-- Whether a ring's record agrees with its route entry (R204). -/
def ringAgrees (slots : List Nat) (world : Nat) (r : Route) (rc : Option Rec) : Bool :=
  match rc with
  | none => false
  | some rc =>
    rc.valid world slots && !rc.execImage && rc.kind == 1 && u16At rc.data 0 == r.slots && u16At rc.data 2 == r.slotBytes &&
    u16At rc.data 4 == r.initial && zeroB (sliceB rc.data 6 58) && decide (r.slots * r.slotBytes ≤ rc.span) &&
    ((decide (vaLocal ≤ rc.base) && decide (rc.base < vaLocal + 0x200000)) ||
      (decide (vaWindow ≤ rc.base) && decide (rc.base < vaWindow + 2 ^ 31)))

/-! ## Admission -/

/-- A file taken apart. -/
structure Parsed where
  segs : List Seg
  notes : List Note
  kernels : List KernelEntry
  programs : List Program
  legend : List (Nat × Bytes)
deriving DecidableEq, Repr

def tableBytes (f : Bytes) (ss : List Seg) (p : Seg → Bool) : Bytes := (ss.filter p).flatMap fun s => s.bytes f

/-- The file's tables, if their form is right; else the rule it breaks. -/
def parseFile (f : Bytes) (world slot : Nat) : Except (Nat × Nat) Parsed :=
  match parseElf f with
  | none => .error (100, 0)
  | some ss =>
    match findAt (fun (s : Seg) => !s.ok f) ss 0 with
    | some (i, _) => .error (100, i)
    | none =>
      let kb := tableBytes f ss Seg.graph
      let rb := tableBytes f ss Seg.routes
      let lb := tableBytes f ss Seg.legend
      let rows := (List.range (rb.length / 32)).map fun i => sliceB rb (32 * i) 32
      if !tablesOk ss ∨ !legendOk lb then .error (100, 0)
      else if !kernelsOk kb ss then .error (102, 0)
      else if rb.length % 32 ≠ 0 ∨ !rows.all routeEntryOk then .error (103, 0)
      else
        let rs := rows.map parseRoute
        let ks := parseKernels kb
        let ps := programsOf f ss ks rs
        let nb := tableBytes f ss Seg.note
        if (ps.map fun (p : Program) => p.routes.length).sum ≠ rs.length then .error (103, 0)
        else .ok { segs := ss, notes := parseNotes nb.length nb, kernels := ks, programs := ps,
                   legend := legendEntries lb world slot }

/-- The note of a segment, which has one and no other (R101). -/
def Parsed.noteOf (p : Parsed) (i : Nat) : Option Note :=
  match p.notes.filter fun n => n.index == i with
  | [n] => some n
  | _ => none

/-- A code segment whose note is missing, is not the only one, or fails. -/
def World.badNote (w : World) (f : Bytes) (p : Parsed) : Option Nat :=
  (findAt (fun (e : Nat × Seg) => e.2.code && !(match p.noteOf e.1 with | some n => w.noteOk n (e.2.bytes f) | none => false))
    (p.segs.zipIdx.map fun (s, i) => (i, s)) 0).map Prod.fst

/-- The region of the kernel that an image belongs to; an image that no kernel names speaks for itself. -/
def Parsed.regionOf (p : Parsed) (i : Nat) (b : Bytes) : Nat × Nat :=
  match p.kernels.find? fun k => decide (k.first ≤ i) && decide (i < k.first + k.roles) with
  | some k => (k.width, k.height)
  | none => (u8At b 0x28, u8At b 0x29)

/-- An image whose header fails, by its role. -/
def badHeader (f : Bytes) (p : Parsed) : Option Nat :=
  p.segs.zipIdx.findSome? fun (s, i) =>
    let b := s.bytes f
    let r := p.regionOf i b
    if s.code && !headerOk b r.1 r.2 then some (u16At b 6) else none

/-- The placements of a kernel's roles are more than its region has cores for: the first role that finds no room. -/
def crowded (f : Bytes) (p : Parsed) : Option Nat :=
  p.kernels.findSome? fun k =>
    let images := (List.range k.roles).filterMap fun i => p.segs[k.first + i]?.map fun s => s.bytes f
    (images.foldl (fun (acc : Nat × Option Nat) b =>
      let n := acc.1 + u16At b 0x2A
      (n, if acc.2.isNone && decide (4 * k.width * k.height < n) then some (u16At b 6) else acc.2)) (0, none)).2

/-- Whether a rectangle of the package lies in a world's partition. -/
def World.holdsRect (w : World) (i width height : Nat) : Bool :=
  decide (i % 32 + width ≤ 32) && decide (i / 32 + height ≤ 32) &&
  (rectIndices (i % 32) (i / 32) width height).all fun j => w.partition.contains j

/-- A route that leaves the partition other than by fence routers, wherever the kernel's region lies in it (R103, log 9). -/
def Dev.badExit (d : Dev) (world : Nat) (p : Program) : Option Nat :=
  let regions := (List.range 1024).filter fun i => (d.world world).holdsRect i p.width p.height
  if regions.isEmpty then none else
  p.routes.findSome? fun r =>
    if regions.any fun i => let (x, y) := p.routeFrom (i % 32) (i / 32) r; d.exitsOk world r.path x y then none else some r.tid

/-- The first check that a file fails: the rule, and what it names. -/
def Dev.refuses (d : Dev) (seq world : Nat) (f : Bytes) (p : Parsed) : Option (Nat × Nat) :=
  let w := d.world world
  let bad := fun (rule : Nat) (o : Option Nat) => o.map fun x => (rule, x)
  let routes := p.programs.flatMap fun (g : Program) => g.routes.map fun r => (g, r)
  let checks := [
    bad 101 (w.badNote f p), bad 99 (badHeader f p), bad 99 (crowded f p),
    if 1024 < w.programs.length + p.programs.length then some (102, p.programs.length) else none,
    bad 163 ((p.legend.find? fun e => decide (vaWindow < w.legendBase.toNat + 192 * (e.1 + 1))).map Prod.fst),
    bad 103 (routes.findSome? fun (g, r) => if g.routeOk r then none else some r.tid),
    bad 103 (p.programs.findSome? fun g => d.badExit world g),
    bad 37 (p.programs.findSome? fun g => g.deadCycle.map fun (r : Route) => r.endSrc),
    bad 204 (routes.findSome? fun (_, r) =>
      if r.kind ≠ 0 ∨ ringAgrees w.keySlots world r (d.recordThen seq world p.legend r.tid) then none else some r.tid)]
  checks.findSome? id

/-- The `i`th frame that the loader takes is any CLEAN one of a stack that is present. -/
def Dev.freeFrame (d : Dev) (seq i : Nat) : Option Nat :=
  let start := Config.choice seq (400 + i)
  ((List.range (8 * (d.frames.length + 1))).map fun j => (start + j % 8 * 2 ^ 20 + j / 8) % 2 ^ 23).find? fun f =>
    (d.frame f).state == .clean && !d.absentStacks.contains (f / 2 ^ 20)

/-- The page at an address is mapped: it keeps its mapping, or takes a CLEAN frame. -/
def Dev.ensurePage (d : Dev) (seq world slot va i : Nat) (write : Bool) : Option Dev :=
  let w := d.world world
  match w.leafOf va with
  | some _ => some d
  | none => (d.freeFrame seq i).map fun f =>
    (d.setFrame f ((d.frame f).mapped world slot)).setWorld world
      (w.setLeaves (Tab.put w.leaves (leafKeyAt 4 va) (makeLeaf (d.pkgId * 2 ^ 44 + f * 65536) slot write false true false)))

def Dev.ensurePages (d : Dev) (seq world slot : Nat) : List (Nat × Bool) → Nat → Option Dev
  | [], _ => some d
  | (va, write) :: rest, i =>
    match d.ensurePage seq world slot va i write with
    | some d => Dev.ensurePages d seq world slot rest (i + 1)
    | none => none

/-- The loader writes bytes of a world's memory by its mappings, whatever they permit. -/
def Dev.loaderStore (d : Dev) (world va : Nat) (bs : Bytes) : Dev :=
  (chunksOf va bs.length).foldl (fun (d : Dev) (a, n) =>
    match (d.world world).leafOf a with
    | some (level, e) => (d.storePa d.hostTime (leafBase e + a % 2 ^ pageBits level) (sliceB bs (a - va) n)).1
    | none => d) d

/-- A page becomes executable, and is then never writable (R307). -/
def World.markExec (w : World) (va : Nat) : World :=
  match w.leafOf va with
  | none => w
  | some (level, e) => w.setLeaves (Tab.put w.leaves (leafKeyAt level va) ((e ||| 8) &&& ~~~4))

/-- The code pages of an admitted file: one for each page of each kernel's role. -/
def codePages (p : Parsed) (first : Nat) : List CodePage :=
  p.kernels.zipIdx.flatMap fun (k, i) => (List.range k.roles).flatMap fun r =>
    match p.segs[k.first + r]?, p.noteOf (k.first + r) with
    | some s, some n => s.pages.map fun va =>
        ({ va := BitVec.ofNat 64 va, state := .exec, segVa := BitVec.ofNat 64 s.va, segLen := s.size, segIndex := k.first + r,
           measurement := n.measurement, signer := n.signer, signature := n.signature, program := first + i, role := r } : CodePage)
    | _, _ => []

/-- `base` is added to the program fields of the team bodies of a graph image, and its check is computed again (R102). -/
def Dev.rebase (d : Dev) (seq world base va : Nat) : Dev :=
  match d.image seq world none va 64 with
  | none => d
  | some h =>
    let d := (List.range (u16At h 6)).foldl (fun (d : Dev) i =>
      let at_ := va + u32At h 0xC + 64 * i
      match d.image seq world none at_ 8 with
      | some e => if u8At e 1 = 0 then d.loaderStore world (at_ + 6) (bytesOfNat 2 (u16At e 6 + base)) else d
      | none => d) d
    d.loaderStore world (va + 0x3C) (bytesOfNat 4 (crc32c (sliceB h 0 0x3C)))

/-- The pages a file needs: those of its segments and of its legend records. -/
def World.filePages (w : World) (p : Parsed) : List (Nat × Bool) :=
  (p.segs.filter Seg.load).flatMap (fun s => s.pages.map fun va => (va, s.writable)) ++
  p.legend.flatMap fun (tid, _) =>
    let at_ := w.legendBase.toNat + 192 * tid
    [(at_ / 65536 * 65536, true), ((at_ + 191) / 65536 * 65536, true)]

/-- An accepted file: its segments and records are written, its measurements extend the world's record, its code pages
become executable and its kernels enter the program table. -/
def Dev.admitFile (d : Dev) (x : Ctx) (world : Nat) (f : Bytes) (p : Parsed) : Dev :=
  let d := (p.segs.filter Seg.load).foldl (fun (d : Dev) s => d.loaderStore world s.va (s.bytes f)) d
  let base := d.world world |>.legendBase.toNat
  let d := p.legend.foldl (fun (d : Dev) (tid, b) => d.loaderStore world (base + 192 * tid) b) d
  let w := d.world world
  let first := w.programs.length
  let code := p.segs.filter Seg.code
  let w := code.foldl (fun (w : World) s => w.extend x.now.ns (sha512 (s.bytes f))) w
  let w := (code.flatMap Seg.pages).foldl World.markExec w
  let d := d.setWorld world { w with programs := w.programs ++ p.programs, code := w.code ++ codePages p first }
  let graphs := p.legend.filterMap fun (tid, b) =>
    let r := parseRec tid b
    if r.kind = 6 ∧ (p.segs.any fun s => s.readOnly && decide (s.va ≤ r.base) && decide (r.base < s.va + s.memSize)) then some r.base
    else none
  graphs.eraseDups.foldl (fun d va => d.rebase x.seq world first va) d

/-- LOADER_ADMIT. -/
def execLoaderAdmit (world : Nat) (file : Bytes) : State → Host.Outcome State Fault Refusal :=
  run fun x d =>
    let w := d.world world
    let refuse := fun (e : Nat × Nat) => d.refusalEvent x.now world e.1 e.2
    if !w.live then d else
    let slot := pick x.seq 301 0 w.keySlots
    match parseFile file world slot with
    | .error e => refuse e
    | .ok p =>
      match d.refuses x.seq world file p with
      | some e => refuse e
      | none =>
        match d.ensurePages x.seq world slot (w.filePages p) 0 with
        | none => refuse (302, 0)
        | some d => d.admitFile x world file p

/-! ## Re-admission (Table 21.5) -/

/-- Pages of one segment. -/
def CodePage.sameSeg (a b : CodePage) : Bool := a.program == b.program && a.role == b.role

/-- Write permission is withdrawn from a page, or given back. -/
def World.setWrite (w : World) (va : Nat) (write : Bool) : World :=
  match w.leafOf va with
  | none => w
  | some (level, e) => w.setLeaves (Tab.put w.leaves (leafKeyAt level va) (if write then e ||| 4 else e &&& ~~~4))

def World.setCode (w : World) (c : CodePage) (f : CodePage → CodePage) : World :=
  { w with code := w.code.map fun o => if o.sameSeg c then f o else o }

/-- The world asks: the WRITABLE pages of the segment become MEASURING, read only, with the note it presents. -/
def World.measure (w : World) (c : CodePage) (n : Note) : World :=
  let mine := w.code.filter fun o => o.sameSeg c && o.state == .writable
  let w := mine.foldl (fun (w : World) o => w.setWrite o.va.toNat false) w
  w.setCode c fun o =>
    let o' : CodePage := { o with measurement := n.measurement, signer := n.signer, signature := n.signature }
    if o.state = .writable then { o' with state := .measuring } else o'

/-- The role's image takes the segment's new bytes. -/
def World.setRole (w : World) (c : CodePage) (bs : Bytes) : World :=
  let words := SMap.ofList ((List.range (bs.length / 8)).map fun j => wordOf (sliceB bs (8 * j) 8))
  { w with programs := w.programs.zipIdx.map fun ((p : Program), i) =>
      if i ≠ c.program then p
      else { p with roles := p.roles.zipIdx.map fun ((r : RoleImage), j) => if j = c.role then { r with words := words } else r } }

/-- The measurement ends: the pages return to EXEC with the record extended, or to WRITABLE. -/
def Dev.measured (d : Dev) (x : Ctx) (world : Nat) (c : CodePage) : Dev :=
  let w := d.world world
  let mine := w.code.filter fun o => o.sameSeg c && o.state == .measuring
  let note : Note := { index := c.segIndex, measurement := c.measurement, signer := c.signer, signature := c.signature }
  let back := fun (st : CodeState) (w : World) => w.setCode c fun o => if o.state = .measuring then { o with state := st } else o
  match d.image x.seq world none c.segVa.toNat c.segLen with
  | some bs =>
    if w.noteOk note bs then
      let w := (w.extend x.now.ns (sha512 bs)).setRole c bs
      let w := mine.foldl (fun (w : World) o => w.markExec o.va.toNat) w
      d.setWorld world (back .exec w)
    else d.setWorld world (back .writable (mine.foldl (fun (w : World) o => w.setWrite o.va.toNat true) w))
  | none => d.setWorld world (back .writable (mine.foldl (fun (w : World) o => w.setWrite o.va.toNat true) w))

/-- CODE_READMIT of entry `page` of the world's code pages: the request takes a WRITABLE page to MEASURING, and the event
after it ends the measurement. -/
def execCodeReadmit (world page : Nat) (note : Bytes) : State → Host.Outcome State Fault Refusal :=
  run fun x d =>
    match (d.world world).code[page]? with
    | none => d
    | some c =>
      match c.state with
      | .exec => d
      | .writable => d.setWorld world ((d.world world).measure c (parseNote note))
      | .measuring => d.measured x world c

end Sys2Proof.Machine
end

