-- ==== Sys2Proof/Machine/Boot.lean ====
section
/-! DEFINITION. Start-up (R325, R326), firmware and uncontainable errors (R314, R327), the fabric clock (R328), PTM (R322)
and the pod links (R324). -/

namespace Sys2Proof.Machine

/-! ## Start-up steps (Table 23.6) -/

def optionalStep (n : Nat) : Bool := decide (14 ≤ n) && decide (n ≤ 26)
def hasAlternate (n : Nat) : Bool := (decide (4 ≤ n) && decide (n ≤ 11)) || n == 13

/-- What a step that failed in the previous start's log does now, and what one that fails now does at once (R326): the
attempts (method, forced outcome) that follow. -/
def attemptsFrom (failedBefore : Bool) (n : Nat) : List (Nat × Option Nat) :=
  if optionalStep n then (if failedBefore then [(0, some 2)] else [(0, none), (0, some 2)])
  else if hasAlternate n then (if failedBefore then [(1, none)] else [(0, none), (1, none)])
  else [(0, none), (0, none)]

/-- The entries that a step logs: it stops at the first attempt that does not fail. -/
def stepEntries (start : Nat) (fails : Failures) (n : Nat) : List (Nat × Option Nat) → Nat → List StepLog
  | [], _ => []
  | (method, forced) :: rest, attempt =>
    let outcome := match forced with | some o => o | none => if fails.contains (n, attempt) then 1 else 0
    let e : StepLog := { start := start, step := n, attempt := attempt, method := method, outcome := outcome,
                         time := Config.stepTime start n attempt }
    if outcome = 1 then e :: stepEntries start fails n rest (attempt + 1) else [e]

/-- Whether a step ended passed. -/
def passed (log : List StepLog) (n : Nat) : Bool := log.any fun e => e.step == n && e.outcome == 0

/-- A required step without an alternate that failed twice stops the device. -/
def fatalStep (log : List StepLog) (n : Nat) : Bool := !optionalStep n && !hasAlternate n && !passed log n

/-- The steps of a start, in order, up to one that stops the device. -/
def runSteps (start : Nat) (previous : List StepLog) (fails : Failures) : List Nat → List StepLog → List StepLog
  | [], log => log
  | n :: rest, log =>
    let before := previous.any fun e => e.step == n && e.outcome == 1
    let log' := log ++ stepEntries start fails n (attemptsFrom before n) 1
    if fatalStep log' n then log' else runSteps start previous fails rest log'

/-- A function's event registers outlive a start (log 5). -/
def World.keepEvents (w : World) : World :=
  { World.fresh with evBase := w.evBase, evSize := w.evSize, evHead := w.evHead, evTail := w.evTail, evLost := w.evLost, evSeq := w.evSeq }

/-- The fabric is in reset: no core, engine, stream, channel or team of it is left. -/
def Dev.resetFabric (d : Dev) : Dev :=
  { d with cores := [], quads := [], dies := [], streams := [], windows := [], pqueues := [], triggers := [], chans := [], beads := [], barriers := [], tokens := [], teams := [], launches := [], pool := [], ended := [], faults := [], stale := [], l2 := [], lines := [], leases := [], tunnels := [], scrubQueue := [] }

/-- An error that Lenivar cannot contain (R327): event 10, every function in ERROR, the fabric in reset. -/
def Dev.fatal (d : Dev) (now : Now) (code : Nat) : Dev :=
  let d := d.event now 10 0 0 (items [code])
  let d := (List.range 256).foldl (fun (d : Dev) w => d.setWorld w { d.world w with tdisp := .error }) d
  { d.resetFabric with stopped := true, up := false }

/-- What the package holds after the steps of a start: memory of its own HBM is CLEAN, the features of failed steps are
absent, and world 0 is live (R331). -/
def Dev.started (d : Dev) (log : List StepLog) : Dev :=
  let start := d.starts + 1
  let recent := d.stepLog.filter fun e => decide (start < e.start + 16)
  let ports : List (Nat × PodPort) := (List.range 12).map fun i => (i, { up := passed log (14 + i), peer := Config.podPeer i, retries := 0 })
  let worlds : Tab World := Tab.map (fun _ (w : World) => w.keepEvents) d.worlds
  let root := { (Tab.getD worlds 0 World.fresh) with live := true }
  let pkg := Config.packageId % 16
  let lo := pkg * 2 ^ 44
  { Dev.reset with
    pkgId := pkg, up := true, starts := start, stepLog := recent ++ log, firmware := d.staged, staged := d.staged,
    absentStacks := (List.range 8).filter (fun i => !passed log (4 + i)), ptm := passed log 26, ports := ports,
    worlds := Tab.put worlds 0 root, hostMem := d.hostMem,
    mem := d.mem.filter fun c => !(decide (lo ≤ c.1) && decide (c.1 < lo + 2 ^ 39)) }

/-- The payload of event 9: the start number, then a byte for each failed or skipped step, of which there are 28 at most. -/
def logPayload (start : Nat) (steps : List Nat) : Bytes := bytesOfNat 8 start ++ steps.map (BitVec.ofNat 8)

/-- The device after START_UP: event 9 names the failed and skipped steps, and a required step that failed twice stops it. -/
def Dev.startUp (d : Dev) (fails : Failures) : Dev :=
  let start := d.starts + 1
  let previous := d.stepLog.filter fun e => e.start == d.starts
  let steps := (List.range 28).map fun i => i + 1
  let log := runSteps start previous fails steps []
  let d := d.started log
  let bad := (log.filter fun e => e.outcome != 0).map StepLog.step
  let d := if bad.isEmpty then d else d.event Now.reset 9 0 0 (logPayload start bad.eraseDups)
  match steps.find? fun n => log.any (fun e => e.step == n) && fatalStep log n with
  | some n => d.fatal Now.reset n
  | none => d

/-- START_UP: device time counts from 0 (R274) and the fabric clock is at 1.1 GHz (step 3). -/
def execStartUp (failures : Failures) (s : State) : Host.Outcome State Fault Refusal :=
  .next { s with dev := s.dev.startUp failures, now := Now.reset }

/-! ## Firmware, errors, the clock -/

/-- FIRMWARE_STAGE: the staged image replaces the old one only when its verification passes, for the next start. -/
def execFirmwareStage (image sig : Bytes) : State → Host.Outcome State Fault Refusal :=
  run fun _ d => if ed25519Verify Config.vendorKey (sha512 image) sig then { d with staged := image } else d

def execUncontainableError (code : Nat) : State → Host.Outcome State Fault Refusal := run fun x d => d.fatal x.now code

/-- CLOCK_THROTTLE: one step of 100 MHz, between 600 MHz and 1.1 GHz. -/
def Now.throttle (n : Now) (lower : Bool) : Now :=
  { n with mhz := if lower then Nat.max 600 (n.mhz - 100) else Nat.min 1100 (n.mhz + 100) }

def execClockThrottle (lower : Bool) (s : State) : Host.Outcome State Fault Refusal :=
  .next { s with now := s.now.throttle lower }

/-! ## PTM (R322) -/

/-- The offset to the host's time is corrected under R275, in the place of one still being absorbed. -/
def Now.refresh (n : Now) (offset : Int) : Now := { n with slew := 0, refreshed := n.time }.correct offset

/-- PTM_REFRESH: the host's time arrives. -/
def execPtmRefresh (hostTime : Nat) (s : State) : Host.Outcome State Fault Refusal :=
  .next (if s.dev.ptm then { s with now := s.now.refresh (Int.ofNat hostTime - Int.ofNat s.now.ns) } else s)

/-- Ten milliseconds, in the units of device time. -/
def refreshPeriod : Nat := 10000000 * 2 ^ 32

/-- The refresh that is due after 10 ms takes place; the host's time is then within 40 ns of the device's (R274, log 6). -/
def Now.forceRefresh (n : Now) (seq : Nat) (ptm : Bool) : Now :=
  if ptm && decide (n.refreshed + refreshPeriod ≤ n.time) then n.refresh (Int.ofNat (Config.choice seq 500 % 81) - 40) else n

/-! ## Pod links (R324) -/

/-- A port takes a flit: 16 failed retries of one flit take it down. -/
def PodPort.receive (p : PodPort) (crcOk : Bool) : PodPort :=
  if crcOk then { p with retries := 0 }
  else if 16 ≤ p.retries then { p with up := false, retries := 0 }
  else { p with retries := p.retries + 1 }

def execPodFlitReceive (port : Nat) (crcOk : Bool) : State → Host.Outcome State Fault Refusal :=
  run fun _ d =>
    match Tab.get? d.ports port with
    | none => d
    | some p => if p.up then { d with ports := Tab.put d.ports port (p.receive crcOk) } else d

end Sys2Proof.Machine
end

