-- ==== Sys2Proof/Machine/Matrix.lean ====
section
/-! DEFINITION. The matrix array, major 0x39 (R60, R61, R229, R230), and the end of its commands. -/

namespace Sys2Proof.Machine

/-! ## Accumulation (R60) -/

/-- The exact sum of two values. -/
def addV (a b : Val) : Val :=
  match a, b with
  | .nan, _ => .nan
  | _, .nan => .nan
  | .inf x, .inf y => if x = y then .inf x else .nan
  | .inf x, _ => .inf x
  | _, .inf y => .inf y
  | .fin an am ae, .fin bn bm be =>
    let s := sumExact 0 an am ae bn bm be
    .fin s.neg s.m s.e

/-- K element `k` of a row or column of element bytes (R51). -/
def elemVal (fmt : Nat) (bs : Bytes) (k : Nat) : Val :=
  match fmt with
  | 5 => unpack e2m1 (u8At bs (k / 2) / (if k % 2 = 0 then 1 else 16) % 16)
  | 3 => unpack e4m3 (u8At bs k)
  | 4 => unpack e5m2 (u8At bs k)
  | _ => unpack bf16 (u16At bs (2 * k))

/-- A row of A or a column of B: its element values by block, each with its scale; BF16 carries no block scales (R52). -/
def vectorBlocks (fmt kt : Nat) (elems scales : Bytes) : List (List Val × Val) :=
  let bk := blockK fmt
  (List.range (kt / bk)).map fun q =>
    ((List.range bk).map fun k => elemVal fmt elems (q * bk + k),
     if fmt = 1 then .fin false 1 0 else e3m5 (u8At scales q))

/-- One block: the exact sum of products, scaled, added with one rounding; an exact zero leaves the bits unchanged. -/
def addBlock (acc : Nat) (a b : List Val × Val) : Nat :=
  let s := (a.1.zip b.1).foldl (fun s (x, y) => addV s (mulV x y)) (.fin false 0 0)
  let p := mulV (mulV s a.2) b.2
  match p with
  | .fin _ 0 _ => acc
  | _ => (addF f32 0 (unpack f32 acc) p).bits

def dotBlocks (acc : Nat) (as bs : List (List Val × Val)) : Nat :=
  (as.zip bs).foldl (fun acc (a, b) => addBlock acc a b) acc

/-- The rows of an A-form tile, and the columns of a B-form tile (Table 15.3). -/
def aRows (fmt kt : Nat) (bs : Bytes) : List (List (List Val × Val)) :=
  (List.range 128).map fun i => vectorBlocks fmt kt (sliceB bs (64 * i) 64) (sliceB bs (0x2000 + 16 * i) 16)
def bCols (fmt kt : Nat) (bs : Bytes) : List (List (List Val × Val)) :=
  (List.range 64).map fun j => vectorBlocks fmt kt (sliceB bs (256 * j) 64) (sliceB bs (256 * j + 64) 16)

/-- IBF4 pairs with IBF4, FP8 with FP8 and BF16 with BF16; E4M3 and E5M2 may be mixed (R60). -/
def pairing (fmt : Nat) : Option Nat :=
  match fmt with | 5 => some 5 | 3 => some 3 | 4 => some 3 | 1 => some 1 | _ => none

def paired (fa fb : Nat) : Bool := (pairing fa).isSome && pairing fa == pairing fb

/-- The FP32 encoding of the BF16 value at a byte offset. -/
def bandAt (bs : Bytes) (o : Nat) : Lane := BitVec.ofNat 32 (u16At bs o * 2 ^ 16)

/-- MMA and MMAZ on an accumulator. -/
def Acc.mma (c : Acc) (zero : Bool) (fa kt : Nat) (abytes : Bytes) (b : Stationary) : Acc :=
  let bbytes := SMap.getRun b.bytes 0 16384
  let rows := aRows fa kt abytes
  let cols := bCols b.format kt bbytes
  let out := rows.zipIdx.flatMap fun (r, i) => cols.zipIdx.map fun (col, j) =>
    BitVec.ofNat 32 (dotBlocks (if zero then 0 else (SMap.get c.elems (64 * i + j)).toNat) r col)
  { elems := SMap.ofList out, bandA0 := bandAt abytes 0x3FF8, bandA1 := bandAt abytes 0x3FFA, bandB := bandAt bbytes 0x3FF8 }

/-! ## Drain (R61, R230) -/

/-- x / s for a scale s that is a finite nonzero number, rounded to E2M1. -/
def fp4Quotient (xn : Bool) (xm : Nat) (xe : Int) (sn : Bool) (sm : Nat) (se : Int) : CvtRes :=
  let num := xm * 2 ^ (64 + bitLen sm)
  let e : Exact := { neg := xn != sn, m := num / sm, e := xe - se - Int.ofNat (64 + bitLen sm), sticky := num % sm != 0 }
  let r := roundTo e2m1 0 true e
  { bits := r.bits, flags := 0,
    cls := if r.overflow then .overflow else if xm ≠ 0 ∧ r.bits % 8 = 0 then .underflow else if r.inexact then .inexact else .none }

/-- round_fp4 (x / (block scale * band scale)); a zero scale product gives 0x0 and counts as overflow. The source of the
conversion is the quotient (log 11). -/
def drainFp4 (x : Val) (block band : Nat) : CvtRes :=
  match x, mulV (e3m5 block) (unpack bf16 band) with
  | .nan, _ => { bits := 0, flags := 0, cls := .nanIn }
  | _, .nan => { bits := 0, flags := 0, cls := .nanIn }
  | .inf _, .inf _ => { bits := 0, flags := 0, cls := .nanIn }
  | .inf n, .fin sn sm _ => if sm = 0 then { bits := 0, flags := 0, cls := .overflow } else cvtFloat e2m1 0 true (.inf (n != sn))
  | .fin _ m _, .inf _ => { bits := 0, flags := 0, cls := if m = 0 then .none else .underflow }
  | .fin xn xm xe, .fin sn sm se =>
    if sm = 0 then { bits := 0, flags := 0, cls := .overflow } else fp4Quotient xn xm xe sn sm se

/-- The drained element (i, j) in a target format other than IBF4. -/
def Acc.drain (a : Acc) (dst : NumFmt) (md : BitVec 4) (n : Nat) : CvtRes := convert (.float f32) dst md (a.logit n)

/-- Rows that a drain writes, each with the bytes of its 64 elements, and the counts. -/
def drainRows (a : Acc) (dst : NumFmt) (md : BitVec 4) (rows : List Nat) : List (Nat × Bytes) × Counts :=
  rows.foldl (fun (out, n) i =>
    let rs := (List.range 64).map fun j => a.drain dst md (64 * i + j)
    (out ++ [(i, rs.flatMap fun r => bytesOfNat (dst.width / 8) r.bits)], rs.foldl (fun n r => n.add r.cls) n)) ([], Counts.zero)

def packNibbles : List Nat → Bytes
  | lo :: hi :: rest => BitVec.ofNat 8 (lo + 16 * hi) :: packNibbles rest
  | _ => []

/-- One row of an IBF4 target, by the scales already in the record's scale arrays. -/
def drainRow4 (a : Acc) (i : Nat) (scales : Bytes) (band : Nat) (n : Counts) : Bytes × Counts :=
  let rs := (List.range 64).map fun j => drainFp4 (unpack f32 (a.logit (64 * i + j))) (u8At scales (j / 8)) band
  (packNibbles (rs.map CvtRes.bits), rs.foldl (fun n r => n.add r.cls) n)

/-- A matrix command ends, with its statistics landed first, or waits for a page. -/
def Dev.endMatrix (_ : Dev) (x : Ctx) (q : Nat) (cmd : Cmd) (r : Run) (counts : Option Counts) : Dev :=
  if r.waits then r.d.waitOp x.now q 1 { cmd with counts := counts.getD Counts.zero } r
  else (match counts with | some n => r.d.landCounts x cmd.issuer.world n | none => r.d).endOp x.now.clock q 1 cmd r.t
    r.wrote r.lines r.err

/-- Row `i` of a drain to memory: its bytes are written line by line, and its elements count once (R66). -/
def Run.drainRow (r : Run) (x : Ctx) (q : Nat) (cmd : Cmd) (rc : Rec) (i : Nat) (n : Counts) (row : Bytes × Counts) : Run × Counts :=
  let at_ := (cmd.b.toNat + i * rc.stride 1) % 2 ^ 64
  let r := r.writePieces x (rc.req cmd.issuer q true) rc.pinned cmd.landed (8 * i) at_ row.1
  if cmd.landed.contains (1024 + i) then (r, n) else ({ r with landed := (1024 + i) :: r.landed }, n.plus row.2)

/-- MDRAIN to memory. A row of an IBF4 target waits with the scales it is divided by; nothing is converted after a fault. -/
def Run.drainMemory (r : Run) (x : Ctx) (q : Nat) (cmd : Cmd) (rc : Rec) (a : Acc) (dst : NumFmt) (md : BitVec 4) : Run × Counts :=
  (List.range 128).foldl (fun (r, n) i =>
    if r.err.isSome then (r, n)
    else if rc.format = 5 then
      let req := rc.req cmd.issuer q false
      let (r', scales) := Run.read r x req rc.pinned (rc.blockBase + i * rc.scaleStride) 8
      let (r', band) := Run.read r' x req rc.pinned (rc.bandBase + 2 * (i / 64)) 2
      if r.went r' then r'.drainRow x q cmd rc i n (drainRow4 a i scales (natOfBytes band) Counts.zero) else (r', n)
    else
      let row := drainRows a dst md [i]
      r.drainRow x q cmd rc i n (row.1.flatMap Prod.snd, row.2)) (r, cmd.counts)

/-- MDRAIN to a slot: a drain of more than 16 KiB drains rows 64 h to 64 h + 63. -/
def Run.drainSlot (r : Run) (world q slot h : Nat) (a : Acc) (dst : NumFmt) (md : BitVec 4) : Run × Counts :=
  let w := dst.width / 8
  let rows := if 2 < w then (List.range 64).map fun i => 64 * h + i else List.range 128
  let (out, n) := drainRows a dst md rows
  (r.writeSlot world q slot 0 (out.flatMap Prod.snd), n)

def Dev.matrixDrain (d : Dev) (x : Ctx) (q acc slot : Nat) (fl : BitVec 3) (cmd : Cmd) (rc : Rec) : Dev :=
  let run := Run.start d cmd
  let md : BitVec 4 := if bit fl 2 then 0 else 8
  match (if rc.format = 0xC then none else numFmt rc.format) with
  | none => d.endMatrix x q cmd (run.fail 0x01) none
  | some dst =>
    let a := (d.quad q).acc acc
    if bit fl 1 then
      if rc.readOnly then d.endMatrix x q cmd (run.fail 0x0C) none
      else
        let (run, n) := run.drainMemory x q cmd rc a dst md
        d.endMatrix x q cmd run (some n)
    else if rc.format = 5 ∨ dst.width = 64 ∨ (dst.width ≤ 16 ∧ bit fl 0) then d.endMatrix x q cmd (run.fail 0x01) none
    else
      let (run, n) := run.drainSlot cmd.issuer.world q slot (b2n (bit fl 0)) a dst md
      d.endMatrix x q cmd run (some n)

/-! ## MATRIX_COMMAND_COMPLETE -/

/-- Index of the MAC counter of a format (Table 23.7). -/
def macCounter (fmt : Nat) : Nat := if fmt = 5 then 2 else if fmt = 1 then 4 else 3

def Dev.matrixMma (d : Dev) (x : Ctx) (q acc slot : Nat) (zero : Bool) (cmd : Cmd) (rc : Rec) : Dev :=
  let run := Run.start d cmd
  match (d.quad q).statB, tileK rc.format with
  | some b, some kt =>
    if !paired rc.format b.format then d.endMatrix x q cmd (run.fail 0x01) none
    else
      let (run, abytes) := run.readSlot q slot 0 16384
      let qd := run.d.quad q
      let d' := (run.d.setQuad q (qd.setAcc acc ((qd.acc acc).mma zero rc.format kt abytes b))).count cmd.issuer.world
        (macCounter rc.format) (128 * 64 * kt)
      d.endMatrix x q cmd { run with d := d' } none
  | _, _ => d.endMatrix x q cmd (run.fail 0x01) none

def Dev.matrixRun (d : Dev) (x : Ctx) (q : Nat) (cmd : Cmd) : Dev :=
  match cmd.fault with
  | some code => d.endMatrix x q cmd ((Run.start d cmd).fail code) (if code = 0x0C then cmd.converted else none)
  | none =>
    let withRec := fun (tid : BitVec 11) (f : Dev → Cmd → Rec → Dev) =>
      match d.cmdRecord x q cmd tid.toNat with
      | (d, none) => d.endMatrix x q cmd ((Run.start d cmd).fail 0x0A) none
      | (d, some rc) => f d { cmd with record := some rc } rc
    match cmd.instr with
    | .mma acc bs tid => withRec tid fun d cmd rc => d.matrixMma x q acc.toNat bs.toNat false cmd rc
    | .mmaz acc bs tid => withRec tid fun d cmd rc => d.matrixMma x q acc.toNat bs.toNat true cmd rc
    | .mdrain acc _ bs tid fl => withRec tid fun d cmd rc => d.matrixDrain x q acc.toNat bs.toNat fl cmd rc
    | .mldb bs tid => withRec tid fun d cmd rc =>
      if (pairing rc.format).isNone then d.endMatrix x q cmd ((Run.start d cmd).fail 0x01) none
      else
        let (run, bytes) := (Run.start d cmd).readSlot q bs.toNat 0 16384
        let d' := run.d.setQuad q { run.d.quad q with statB := some { format := rc.format, bytes := SMap.ofList bytes } }
        d.endMatrix x q cmd { run with d := d' } none
    | .mzero acc => d.endMatrix x q cmd (Run.start (d.setQuad q ((d.quad q).setAcc acc.toNat Acc.zero)) cmd) none
    | _ => d

def execMatrixCommandComplete (q : Nat) : State → Host.Outcome State Fault Refusal :=
  run fun x d =>
    match (d.engine q 1).running with
    | cmd :: _ => if cmd.waiting then d else d.matrixRun x q cmd
    | [] => d

/-! ## Issue -/

/-- A matrix command that names a record. -/
def issueMatrix (reads : List Reg) (i : Instr) (tid : BitVec 11) (f : Dev → Who → Cmd → Cmd) (ops : Cmd → Rec → List Operand) :
    State → Host.Outcome State Fault Refusal :=
  onX 1 reads [] fun x w d =>
    let cmd := f d w (d.newCmd w i 0 0 0)
    match d.useRecord x.seq (dieOfQuad (quadOfCore w.core)) cmd.issuer.world tid.toNat with
    | (d, none) => d.badRecord w 1 tid.toNat cmd
    | (d, some r) => d.issueCmd w 1 { cmd with record := some r } (ops cmd r)

def execMma (acc bs : Reg) (tid : BitVec 11) : State → Host.Outcome State Fault Refusal :=
  issueMatrix [] (.mma acc bs tid) tid (fun _ _ c => c) fun _ _ => []

def execMmaz (acc bs : Reg) (tid : BitVec 11) : State → Host.Outcome State Fault Refusal :=
  issueMatrix [] (.mmaz acc bs tid) tid (fun _ _ c => c) fun _ _ => []

def execMldb (bs : Reg) (tid : BitVec 11) : State → Host.Outcome State Fault Refusal :=
  issueMatrix [] (.mldb bs tid) tid (fun _ _ c => c) fun _ _ => []

/-- Bytes that a memory drain writes. -/
def drainBytes (fmt : Nat) : Nat := if fmt = 5 then 4096 else 8192 * formatBytes fmt

/-- MDRAIN: a memory drain's destination takes a counter by its record (R184). -/
def execMdrain (acc b bs : Reg) (tid : BitVec 11) (flags : BitVec 3) : State → Host.Outcome State Fault Refusal :=
  issueMatrix [b] (.mdrain acc b bs tid flags) tid (fun d w c => { c with b := d.xread w b }) fun _ r =>
    if bit flags 1 then [spanOf true r (drainBytes r.format)] else []

def execMzero (acc : Reg) : State → Host.Outcome State Fault Refusal :=
  onX 1 [] [] fun _ w d => d.issueCmd w 1 (d.newCmd w (.mzero acc) 0 0 0) []

/-- MSTAT (R217): done joins, and the reading of an own fault observes it; it raises no trap. -/
def execMstat (a : Reg) : State → Host.Outcome State Fault Refusal :=
  onX 1 [] [a] fun _ w d =>
    let g := d.engine (quadOfCore w.core) 1
    let d := if g.stateCode = 2 then d.joinEngine w.core 1 else if g.faultedBy w.core then d.observeFault w.core 1 else d
    .done (d.xwrite w a g.status)

end Sys2Proof.Machine
end

