-- ==== Sys2Proof/Machine/Auto.lean ====
section
/-! DEFINITION. The events that the device brings about by itself: their meanings, in the order in which the model looks
for one that is due (log 1). An event that is not due leaves the device as it is. What the host, a requester or another package
does is no candidate: it enters through the schedule. -/

namespace Sys2Proof.Machine

/-- The meaning of an event. -/
abbrev Event := State → Host.Outcome State Fault Refusal

def upTo (n : Nat) (f : Nat → Event) : List Event := (List.range n).map f

def autoCore (k : Nat) (c : Core) : List Event :=
  (if c.async.isEmpty then [] else [execAsyncTrapTaken k]) ++ upTo c.pend.length (execResultLands k) ++
    [execWfeTimeout k, execPlaneSwap k]

def autoTeam (n : Nat) : List Event := [execTeamStart n, execPhaseSelect n, execTeamCompletion n, execDeadlockSurvey n]

def autoPool (d : Dev) : List Event :=
  (if d.pool.isEmpty then [] else [execPoolDispatch]) ++ upTo d.pool.length execPoolPromote ++ upTo d.pool.length execPoolHold ++
    d.ended.map (fun e => execNodeFinish e.1 e.2.1) ++
    d.launches.flatMap fun (l, g) => if g.ended then [] else [execNodeFinish l 0]

def autoQuad (q : Nat) (x : Quad) : List Event :=
  x.slots.flatMap (fun (s, _) => [execSlotDrained q s, execArmedTileStart q s]) ++
  [execFollowOnStart q, execEngineCommandStart q 0, execEngineCommandStart q 1, execEngineCommandStart q 2] ++
  (x.engine 0).running.map (fun o => execCopyComplete q o.seq) ++
  [execMatrixCommandComplete q, execPushdownStep q, execPushdownMarker q, execPushdownCommandDone q]

def autoStream (n : Nat) (s : Stream) : List Event :=
  s.inFlight.flatMap (fun e => [execStreamElementReturn n e.1, execStreamElementFault n e.1]) ++ [execStreamFaultTimeout n]

def autoSync (d : Dev) : List Event :=
  d.chans.flatMap (fun (i, _) => [execChannelFillArrival i, execChannelCreditArrival i]) ++ List.map (fun (e : Nat × BeadRoute) => execBeadArrival e.1) d.beads ++
  List.map (fun (e : Nat × Barrier) => execBarrierComplete e.1) d.barriers ++ upTo d.tokens.length execStatsTokensLand

/-- The next entry of a queue, and the fence that is done. -/
def autoQueue (n : Nat) : List Event :=
  [execQueueFence n, execLaunch n, execReplay n, execWorldCreate n, execWorldDestroy n, execWorldSet n, execMap n, execFree n, execResolve n,
   execBarrierReset n, execScrubFirst n, execTimeAdj n, execKill n, execDieSet n, execQueueSet n, execPqSet n, execIngestMap n, execPower n]

def autoFrames (d : Dev) : List Event :=
  (Tab.keys (fun _ (f : Frame) => f.state == .freeing) d.frames).map execFrameScrubPending ++
  upTo 4 execScrubFrameClean ++ (Tab.keys (fun _ (k : KeySlot) => k.state == .retiring) d.keySlots).map execKeySlotFreed

def autoWorld (n : Nat) (w : World) : List Event :=
  execPowerGateComplete n :: (w.code.zipIdx.filter fun e => e.1.state == .measuring).map fun e => execCodeReadmit n e.2 []

/-- Every candidate. A package that is not up starts. -/
def autoEvents (d : Dev) : List Event :=
  if !d.up then [execStartUp []] else
  d.cores.flatMap (fun (k, c) => autoCore k c) ++ d.teams.flatMap (fun (n, _) => autoTeam n) ++ autoPool d ++
  d.quads.flatMap (fun (q, x) => autoQuad q x) ++ d.streams.flatMap (fun (n, s) => autoStream n s) ++ autoSync d ++
  d.windows.flatMap (fun (n, _) => [execSlotClose n, execIngestRecord n]) ++ d.queues.flatMap (fun (n, _) => autoQueue n) ++
  autoFrames d ++ d.worlds.flatMap (fun (n, w) => autoWorld n w) ++ d.leases.map (fun l => execLeaseExpiry l.quad l.line)

end Sys2Proof.Machine
end

