-- ==== Sys2Proof/Machine/Branch.lean ====
section
/-! DEFINITION. Branches, major 0x10 (R117 to R122), and calls with their register windows, major 0x11 (R123 to R126). -/

namespace Sys2Proof.Machine

/-- Target of a relative branch (R117). -/
def target (pc : Word) (off : BitVec 32) : Word := pc + 8 * sext64 off

/-- A branch taken when `take` holds. -/
def branchIf (c : Core) (off : BitVec 32) (take : Bool) : CRes :=
  if take then .jump c (target c.pc off) else .done c

/-- A branch on an engine sequencer: a target outside the plane's code ends the program (R143). -/
def progBranch (pl : Plane) (g : Prog) (off : BitVec 32) (take : Bool) : Option Prog :=
  if take then if pl.inCode (target g.pc off) then some { g with pc := target g.pc off } else none else some g.next

def execBr (off : BitVec 32) : State → Host.Outcome State Fault Refusal :=
  onBoth [] Pred.all (fun c => branchIf c off true) fun pl g => progBranch pl g off true

def execBz (ra : Reg) (off : BitVec 32) : State → Host.Outcome State Fault Refusal :=
  onRegs (plain [ra] fun c => branchIf c off (c.readG ra == 0))

def execBnz (ra : Reg) (off : BitVec 32) : State → Host.Outcome State Fault Refusal :=
  onRegs (plain [ra] fun c => branchIf c off (c.readG ra != 0))

def execBcmp (cc : BitVec 4) (ra rb : Reg) (off : BitVec 32) : State → Host.Outcome State Fault Refusal :=
  onRegs (plain [ra, rb] fun c => branchIf c off (cond cc (c.readG ra) (c.readG rb)))

/-- A bead leaves its port, which stays empty for this clock (R214). The receipt orders the core's later accesses, but for
loads, and its later bead sends after what the bead carries (R191, row KR; note 8). -/
def Core.receive (c : Core) (clock port : Nat) : Core :=
  let t := Tab.getD c.portTimes port 0
  { c with ports := Tab.del c.ports port, portTimes := Tab.del c.portTimes port, portAt := Tab.put c.portAt port clock,
           stime := Nat.max c.stime t, kept := Tab.put c.kept 6 (Nat.max (Tab.getD c.kept 6 0) t) }

/-- BBEAD (R119): it waits until the port holds a bead, consumes it, and branches if its bit is 1. -/
def execBbead (port : BitVec 4) (off : BitVec 32) : State → Host.Outcome State Fault Refusal :=
  onCore fun x k d =>
    let c := d.core k
    match Tab.get? c.ports port.toNat with
    | none => .stall (waitFor 3 port.toNat 1 0)
    | some b => (branchIf (c.receive x.now.clock port.toNat) off b).lift d k

/-- BSTAT (R120): the status word is read whole and written to g_a; done is a join; a fault of this core's operation
traps unless cc asks for it. -/
def execBstat (st : BitVec 4) (ra : Reg) (eng : BitVec 4) (off : BitVec 32) : State → Host.Outcome State Fault Refusal :=
  onCore fun _ k d =>
    let q := quadOfCore k
    let g := d.engine q eng.toNat
    let d' := d.setCore k ((d.core k).writeG ra g.status)
    let mine := g.faultedBy k
    let d' := if g.stateCode = 2 then d'.joinEngine k eng.toNat else if mine then d'.observeFault k eng.toNat else d'
    if mine && st != 3 then .trapNext d' Cause.engineFault g.status
    else if g.stateCode = st.toNat then .jump d' (target (d.core k).pc off) else .done d'

/-- LOOP (R121). -/
def execLoop (ra : Reg) (off : BitVec 32) : State → Host.Outcome State Fault Refusal :=
  onBoth [ra] Pred.all
    (fun c =>
      if ra = 0 then .trap Cause.illegal (wordOfInstr (.loop ra off))
      else plain [ra] (fun c => branchIf (c.writeG ra (c.readG ra - 1)) off (c.readG ra - 1 != 0)) c)
    fun pl g => if ra = 0 then none else progBranch pl (g.writeG ra (g.readG ra - 1)) off (g.readG ra - 1 != 0)

/-- Target of JMPR and CALLR (R122). -/
def Core.absTarget (c : Core) (ra : Reg) (off : BitVec 32) : Word := c.readG ra + 8 * sext64 off

def execJmpr (ra : Reg) (off : BitVec 32) : State → Host.Outcome State Fault Refusal :=
  onRegs (plain [ra] fun c =>
    let t := c.absTarget ra off
    if field t 0 3 = 0 then .jump c t else .trap Cause.align t)

/-! ## Calls (R124 to R126) -/

/-- Offset of a core's spill record in its quad's vault. -/
def spillOffset (k n : Nat) : Nat := 0x8000 * (63 - k % 4) + 264 * n

def Dev.spillPa (d : Dev) (k n : Nat) : Nat := vaultPa d.pkgId (quadOfCore k) (spillOffset k n)

/-- The ins and locals of the window at a depth. -/
def Core.windowWords (c : Core) (depth : Nat) : List Word :=
  SMap.getRun c.g (gPlace depth 16) 16 ++ SMap.getRun c.g (gPlace depth 32) 16

/-- The words of the oldest resident window's spill record: its return address is all ones at depth 0. -/
def Core.spillRecord (c : Core) : List Word :=
  c.windowWords c.spilled ++ [if c.spilled = 0 then BitVec.allOnes 64 else c.rets.getLastD 0]

/-- Results in flight for 16 physical places that a call, a spill or a fill writes are discarded (R33). -/
def Core.dropPend (c : Core) (place : Nat) : Core :=
  { c with pend := (List.range 16).foldl (fun ps i => killDst (.g (place + i)) ps) c.pend }

/-- The window advances: the callee's locals and outs are 0. -/
def Core.enter (c : Core) (ret : Word) : Core :=
  let depth := c.depth + 1
  let zeros := List.replicate 16 0
  let c := (c.dropPend (gPlace depth 32)).dropPend (gPlace depth 48)
  { c with g := SMap.setRun (SMap.setRun c.g (gPlace depth 32) zeros) (gPlace depth 48) zeros,
           resident := c.resident + 1, rets := ret :: c.rets }

/-- A CALL, as one instruction (R124): it traps with no change, or spills if the store is full, and enters. The words of a
spill are written after the core's earlier accesses (log 13). -/
def Dev.call (d : Dev) (k : Nat) (t : Word) : Res :=
  let c := d.core k
  if c.resident < 8 then .jump (d.setCore k (c.enter (c.pc + 8))) t
  else if c.spilled = c.cur.spillWindows then .trap Cause.callDepth c.winDepth
  else if c.blocked || c.pend.any (fun p => p.live && (List.range 16).any fun i =>
      p.dst == .g (gPlace c.spilled 16 + i) || p.dst == .g (gPlace c.spilled 32 + i)) then .stall none
  else
    let d := d.storeWords k (d.spillPa k c.spilled) c.spillRecord
    let c' := d.core k
    let rets := if c.spilled = 0 then c'.rets else c'.rets.dropLast
    .jump (d.setCore k ({ c' with spilled := c.spilled + 1, resident := 7, rets := rets }.enter (c.pc + 8))) t

def execCall (off : BitVec 32) : State → Host.Outcome State Fault Refusal :=
  onCore fun _ k d => d.call k (target (d.core k).pc off)

def execCallr (ra : Reg) (off : BitVec 32) : State → Host.Outcome State Fault Refusal :=
  onCore fun _ k d =>
    let c := d.core k
    if c.pendingG ra then .stall none else
    let t := c.absTarget ra off
    if field t 0 3 = 0 then d.call k t else .trap Cause.align t

/-- RET (R125): it pops the return address, and fills the caller's window if it had been spilled. -/
def execRet : State → Host.Outcome State Fault Refusal :=
  onCore fun x k d =>
    let c := d.core k
    if c.resident ≤ 1 ∧ c.spilled = 0 then .trap Cause.retEmpty 0
    else if 1 < c.resident then .jump (d.setCore k { c with resident := c.resident - 1, rets := c.rets.drop 1 }) (c.rets.headD 0)
    else if c.blocked then .stall none
    else
      let n := c.spilled - 1
      let (d, ws) := d.loadWords x.seq k (d.spillPa k n) 33
      let c' := ((d.core k).dropPend (gPlace n 16)).dropPend (gPlace n 32)
      let g := SMap.setRun (SMap.setRun c'.g (gPlace n 16) (ws.take 16)) (gPlace n 32) ((ws.drop 16).take 16)
      .jump (d.setCore k { c' with g := g, spilled := n, rets := if n = 0 then [] else [ws.getD 32 0] }) (c.rets.headD 0)

end Sys2Proof.Machine
end

