-- ==== Sys2Proof/Machine/Lanes.lean ====
section
/-! DEFINITION. Lane instructions, majors 0x18 to 0x1B (R144 to R161, R62 to R65). -/

namespace Sys2Proof.Machine

/-! ## Elements of a lane (R144) -/

def elemOf (w e : Nat) (x : Lane) : Nat := x.toNat / 2 ^ (w * e) % 2 ^ w

/-- A lane from its elements, element 0 at the low end. -/
def packElems (w : Nat) : List Nat → Nat
  | [] => 0
  | x :: xs => x % 2 ^ w + 2 ^ w * packElems w xs

def laneOfElems (w : Nat) (xs : List Nat) : Lane := BitVec.ofNat 32 (packElems w xs)

def perElem1 (w : Nat) (f : Nat → Nat) (a : Lane) : Lane := laneOfElems w ((List.range (32 / w)).map fun e => f (elemOf w e a))
def perElem2 (w : Nat) (f : Nat → Nat → Nat) (a b : Lane) : Lane :=
  laneOfElems w ((List.range (32 / w)).map fun e => f (elemOf w e a) (elemOf w e b))

/-- Element width of an integer type code: i32, u32, i16 pairs, i8 quads (Table 5.6). -/
def tyWidth (ty : BitVec 4) : Nat := if ty.toNat ≤ 1 then 32 else if ty.toNat = 2 then 16 else 8
/-- u32 alone is unsigned (R149). -/
def tySigned (ty : BitVec 4) : Bool := ty != 1

def tyFmt (ty : BitVec 4) : Fmt := match ty.toNat with | 0 => f32 | 1 => bf16 | _ => f16

/-! ## Shapes -/

/-- A lane instruction: it does nothing where no lane is selected, and stalls on sources in flight (R87, R33). -/
def lanes (p : Pred) (gs vs : List Reg) (f : Core → Lane → CRes) (c : Core) : CRes :=
  if c.mask p = 0 then .done c else if gs.any c.pendingG || vs.any c.pendingV then .stall none else f c (c.mask p)

/-- A reducing instruction: it acts even where no lane is selected, except under m 0 with pn 1 (R146). -/
def reducing (p : Pred) (vs : List Reg) (f : Core → Lane → CRes) (c : Core) : CRes :=
  if p.never then .done c else if vs.any c.pendingV then .stall none else f c (c.mask p)

/-- v_d[i] := f v_a[i] v_b[i] per element. -/
def laneInt2 (p : Pred) (rd ra rb : Reg) (w : Nat) (f : Nat → Nat → Nat) : Core → CRes :=
  lanes p [] [ra, rb] fun c m => .done (c.writeV rd m fun i => perElem2 w f (c.lane ra i) (c.lane rb i))

def laneInt1 (p : Pred) (rd ra : Reg) (w : Nat) (f : Nat → Nat) : Core → CRes :=
  lanes p [] [ra] fun c m => .done (c.writeV rd m fun i => perElem1 w f (c.lane ra i))

def laneBits2 (p : Pred) (rd ra rb : Reg) (f : Lane → Lane → Lane) : Core → CRes :=
  lanes p [] [ra, rb] fun c m => .done (c.writeV rd m fun i => f (c.lane ra i) (c.lane rb i))

/-! ## Element operations (Table 9.2) -/

def eAdd (w a b : Nat) : Nat := (a + b) % 2 ^ w
def eSub (w a b : Nat) : Nat := (a + 2 ^ w - b) % 2 ^ w
def eMul (w a b : Nat) : Nat := a * b % 2 ^ w
/-- The integer an element stands for. -/
def eInt (w : Nat) (signed : Bool) (a : Nat) : Int := if signed then toSigned w a else Int.ofNat a
def eMulh (w : Nat) (signed : Bool) (a b : Nat) : Nat := wrapInt w (eInt w signed a * eInt w signed b / Int.ofNat (2 ^ w))
def eShl (w a b : Nat) : Nat := a * 2 ^ (b % w) % 2 ^ w
def eShr (w a b : Nat) : Nat := a / 2 ^ (b % w)
def eSar (w a b : Nat) : Nat := wrapInt w (toSigned w a / Int.ofNat (2 ^ (b % w)))
def eMin (w : Nat) (signed : Bool) (a b : Nat) : Nat := if eInt w signed b < eInt w signed a then b else a
def eMax (w : Nat) (signed : Bool) (a b : Nat) : Nat := if eInt w signed a < eInt w signed b then b else a
def eAbs (w a : Nat) : Nat := wrapInt w (Int.ofNat (toSigned w a).natAbs)

/-! ## Major 0x18 -/

def execVadd (p : Pred) (ty : BitVec 4) (rd ra rb : Reg) : State → Host.Outcome State Fault Refusal :=
  onRegs (laneInt2 p rd ra rb (tyWidth ty) (eAdd (tyWidth ty)))

def execVsub (p : Pred) (ty : BitVec 4) (rd ra rb : Reg) : State → Host.Outcome State Fault Refusal :=
  onRegs (laneInt2 p rd ra rb (tyWidth ty) (eSub (tyWidth ty)))

def execVmul (p : Pred) (ty : BitVec 4) (rd ra rb : Reg) : State → Host.Outcome State Fault Refusal :=
  onRegs (laneInt2 p rd ra rb (tyWidth ty) (eMul (tyWidth ty)))

def execVmulh (p : Pred) (ty : BitVec 4) (rd ra rb : Reg) : State → Host.Outcome State Fault Refusal :=
  onRegs (laneInt2 p rd ra rb (tyWidth ty) (eMulh (tyWidth ty) (tySigned ty)))

def execVand (p : Pred) (rd ra rb : Reg) : State → Host.Outcome State Fault Refusal := onRegs (laneBits2 p rd ra rb (· &&& ·))

def execVor (p : Pred) (rd ra rb : Reg) : State → Host.Outcome State Fault Refusal := onRegs (laneBits2 p rd ra rb (· ||| ·))

def execVxor (p : Pred) (rd ra rb : Reg) : State → Host.Outcome State Fault Refusal := onRegs (laneBits2 p rd ra rb (· ^^^ ·))

def execVshl (p : Pred) (ty : BitVec 4) (rd ra rb : Reg) : State → Host.Outcome State Fault Refusal :=
  onRegs (laneInt2 p rd ra rb (tyWidth ty) (eShl (tyWidth ty)))

def execVshr (p : Pred) (ty : BitVec 4) (rd ra rb : Reg) : State → Host.Outcome State Fault Refusal :=
  onRegs (laneInt2 p rd ra rb (tyWidth ty) (eShr (tyWidth ty)))

def execVsar (p : Pred) (ty : BitVec 4) (rd ra rb : Reg) : State → Host.Outcome State Fault Refusal :=
  onRegs (laneInt2 p rd ra rb (tyWidth ty) (eSar (tyWidth ty)))

def execVmin (p : Pred) (ty : BitVec 4) (rd ra rb : Reg) : State → Host.Outcome State Fault Refusal :=
  onRegs (laneInt2 p rd ra rb (tyWidth ty) (eMin (tyWidth ty) (tySigned ty)))

def execVmax (p : Pred) (ty : BitVec 4) (rd ra rb : Reg) : State → Host.Outcome State Fault Refusal :=
  onRegs (laneInt2 p rd ra rb (tyWidth ty) (eMax (tyWidth ty) (tySigned ty)))

def execVabs (p : Pred) (ty : BitVec 4) (rd ra : Reg) : State → Host.Outcome State Fault Refusal :=
  onRegs (laneInt1 p rd ra (tyWidth ty) (eAbs (tyWidth ty)))

def execVsel (p : Pred) (rd ra rb rc : Reg) : State → Host.Outcome State Fault Refusal :=
  onRegs (lanes p [] [ra, rb] fun c m =>
    .done (c.writeV rd m fun i => if (c.readM rc.toNat).getLsbD i then c.lane ra i else c.lane rb i))

def execVsplat (p : Pred) (rd ra : Reg) : State → Host.Outcome State Fault Refusal :=
  onRegs (lanes p [ra] [] fun c m => .done (c.writeV rd m fun _ => (c.readG ra).truncate 32))

def execViota (p : Pred) (rd ra : Reg) : State → Host.Outcome State Fault Refusal :=
  onRegs (lanes p [ra] [] fun c m => .done (c.writeV rd m fun i => (c.readG ra).truncate 32 + BitVec.ofNat 32 i))

def execVmov (p : Pred) (rd ra : Reg) : State → Host.Outcome State Fault Refusal :=
  onRegs (lanes p [] [ra] fun c m => .done (c.writeV rd m (c.lane ra)))

def execVclz (p : Pred) (ty : BitVec 4) (rd ra : Reg) : State → Host.Outcome State Fault Refusal :=
  onRegs (laneInt1 p rd ra (tyWidth ty) (clz (tyWidth ty)))

/-! ## Major 0x19: float (R150 to R152) -/

/-- Element results of a lane: its bits and the flags of its elements. -/
def packRes (w : Nat) (rs : List FRes) : Lane × BitVec 5 :=
  (laneOfElems w (rs.map FRes.bits), rs.foldl (fun fl r => fl ||| r.flags) 0)

def orFlags (xs : List (Nat × Lane × BitVec 5)) : BitVec 5 := xs.foldl (fun fl x => fl ||| x.2.2) 0

/-- A lane float instruction: `f` gives each active lane's bits and flags; FPSTAT takes the flags of the active lanes
(R151), and the world counts `n` operations a lane (R329). -/
def laneFloat (p : Pred) (vs : List Reg) (rd : Reg) (n : Nat) (f : Core → Nat → Lane × BitVec 5) : State → Host.Outcome State Fault Refusal :=
  onCore fun _ k d =>
    let c := d.core k
    let m := c.mask p
    let res := lanes p [] vs (fun c m =>
      let xs := (activeLanes m).map fun i => (i, f c i)
      let c := c.writeLanes rd (xs.map fun x => (x.1, x.2.1))
      .done { c with fpstat := c.fpstat ||| orFlags xs }) c
    match res with
    | .done _ => res.lift (d.count c.world 5 (n * (activeLanes m).length)) k
    | _ => res.lift d k

/-- A function unit of FP32 (R152): the result and its flags land 14 clocks later (R147). -/
def laneUnit (p : Pred) (md : BitVec 4) (rd ra : Reg) (f : FOp1) : State → Host.Outcome State Fault Refusal :=
  onCore fun _ k d =>
    let c := d.core k
    let m := c.mask p
    let res := lanes p [] [ra] (fun c m =>
      let xs := (activeLanes m).map fun i => (i, f f32 md (c.lane ra i).toNat)
      .done (c.launch (.v rd.toNat) (xs.map fun x => (x.1, BitVec.ofNat 64 x.2.bits))
        (xs.foldl (fun fl x => fl ||| x.2.flags) 0) (some 14))) c
    match res with
    | .done _ => res.lift (d.count c.world 5 (activeLanes m).length) k
    | _ => res.lift d k

def laneF2 (p : Pred) (ty md : BitVec 4) (rd ra rb : Reg) (op : FOp2) : State → Host.Outcome State Fault Refusal :=
  let f := tyFmt ty
  laneFloat p [ra, rb] rd (32 / f.w) fun c i => packRes f.w ((List.range (32 / f.w)).map fun e =>
    op f md (elemOf f.w e (c.lane ra i)) (elemOf f.w e (c.lane rb i)))

def laneF1 (p : Pred) (ty md : BitVec 4) (rd ra : Reg) (op : FOp1) : State → Host.Outcome State Fault Refusal :=
  let f := tyFmt ty
  laneFloat p [ra] rd (32 / f.w) fun c i => packRes f.w ((List.range (32 / f.w)).map fun e =>
    op f md (elemOf f.w e (c.lane ra i)))

def execVfadd (p : Pred) (ty md : BitVec 4) (rd ra rb : Reg) : State → Host.Outcome State Fault Refusal :=
  laneF2 p ty md rd ra rb fadd

def execVfsub (p : Pred) (ty md : BitVec 4) (rd ra rb : Reg) : State → Host.Outcome State Fault Refusal :=
  laneF2 p ty md rd ra rb fsub

def execVfmul (p : Pred) (ty md : BitVec 4) (rd ra rb : Reg) : State → Host.Outcome State Fault Refusal :=
  laneF2 p ty md rd ra rb fmul

def execVfma (p : Pred) (ty md : BitVec 4) (rd ra rb rc : Reg) : State → Host.Outcome State Fault Refusal :=
  let f := tyFmt ty
  laneFloat p [ra, rb, rc] rd (32 / f.w) fun c i => packRes f.w ((List.range (32 / f.w)).map fun e =>
    ffma f md (elemOf f.w e (c.lane ra i)) (elemOf f.w e (c.lane rb i)) (elemOf f.w e (c.lane rc i)))

def execVfmin (p : Pred) (ty md : BitVec 4) (rd ra rb : Reg) : State → Host.Outcome State Fault Refusal :=
  laneF2 p ty md rd ra rb (fminmax true)

def execVfmax (p : Pred) (ty md : BitVec 4) (rd ra rb : Reg) : State → Host.Outcome State Fault Refusal :=
  laneF2 p ty md rd ra rb (fminmax false)

def execVfabs (p : Pred) (ty md : BitVec 4) (rd ra : Reg) : State → Host.Outcome State Fault Refusal :=
  laneF1 p ty md rd ra fabs

def execVfneg (p : Pred) (ty md : BitVec 4) (rd ra : Reg) : State → Host.Outcome State Fault Refusal :=
  laneF1 p ty md rd ra fneg

/-- VFCVT of one lane (R154): the new lane, the flags and the classes of its elements. -/
def cvtLane (src dst : NumFmt) (md : BitVec 4) (part : Nat) (a old : Lane) : Lane × List CvtRes :=
  let ws := src.width
  let wd := dst.width
  let n := 32 / Nat.max ws wd
  if wd ≤ ws then
    let rs := (List.range n).map fun e => convert src dst md (elemOf ws e a)
    let at_ := fun e => if part * n ≤ e ∧ e < part * n + n then (rs.map CvtRes.bits).getD (e - part * n) 0 else elemOf wd e old
    (laneOfElems wd ((List.range (32 / wd)).map at_), rs)
  else
    let rs := (List.range n).map fun e => convert src dst md (elemOf ws (part * n + e) a)
    (laneOfElems wd (rs.map CvtRes.bits), rs)

def Counts.record (n : Counts) (r : CountClass) : Counts :=
  match r with
  | .nanIn => { n with nanIn := n.nanIn + 1, used := true }
  | .overflow => { n with overflow := n.overflow + 1, used := true }
  | .underflow => { n with underflow := n.underflow + 1, used := true }
  | .inexact => { n with inexact := n.inexact + 1, used := true }
  | .none => { n with used := true }

/-- VFCVT (R153 to R155): flags at issue, and every active element counted. -/
def execVfcvt (p : Pred) (dst md : BitVec 4) (rd ra src part : Reg) : State → Host.Outcome State Fault Refusal :=
  onCore fun _ k d =>
    let c := d.core k
    let m := c.mask p
    match numFmt src.toNat, numFmt dst.toNat with
    | some s, some t =>
      let res := lanes p [] [ra] (fun c m =>
        let xs := (activeLanes m).map fun i => (i, cvtLane s t md part.toNat (c.lane ra i) (c.lane rd i))
        let rs := xs.flatMap fun x => x.2.2
        let c := c.writeLanes rd (xs.map fun x => (x.1, x.2.1))
        .done { c with fpstat := c.fpstat ||| rs.foldl (fun fl r => fl ||| r.flags) 0,
                       counts := rs.foldl (fun n r => n.record r.cls) c.counts }) c
      match res with
      | .done _ => res.lift (d.count c.world 5 (32 / Nat.max s.width t.width * (activeLanes m).length)) k
      | _ => res.lift d k
    | _, _ => .trap Cause.illegal (wordOfInstr (.vfcvt p dst md rd ra src part))

def execVexp2 (p : Pred) (md : BitVec 4) (rd ra : Reg) : State → Host.Outcome State Fault Refusal := laneUnit p md rd ra fexp2

def execVlog2 (p : Pred) (md : BitVec 4) (rd ra : Reg) : State → Host.Outcome State Fault Refusal := laneUnit p md rd ra flog2

def execVrcp (p : Pred) (md : BitVec 4) (rd ra : Reg) : State → Host.Outcome State Fault Refusal := laneUnit p md rd ra frcp

def execVrsq (p : Pred) (md : BitVec 4) (rd ra : Reg) : State → Host.Outcome State Fault Refusal := laneUnit p md rd ra frsq

/-- VFSCL: n is a signed element of v_b. -/
def execVfscl (p : Pred) (ty md : BitVec 4) (rd ra rb : Reg) : State → Host.Outcome State Fault Refusal :=
  laneF2 p ty md rd ra rb fun f md a b => fscl f md a (toSigned f.w b)

/-! ## Major 0x1A: masks (R156, R157) -/

/-- A mask of the lanes for which a test holds. -/
def maskOf (f : Nat → Bool) : Lane := BitVec.ofNat 32 ((List.range 32).foldl (fun x i => x + b2n (f i) * 2 ^ i) 0)

def allElems (w : Nat) (f : Nat → Nat → Bool) (a b : Lane) : Bool :=
  (List.range (32 / w)).all fun e => f (elemOf w e a) (elemOf w e b)

def laneCmp (p : Pred) (rd ra rb : Reg) (w : Nat) (f : Nat → Nat → Bool) : Core → CRes :=
  lanes p [] [ra, rb] fun c m => .done (c.writeM rd.toNat m (maskOf fun i => allElems w f (c.lane ra i) (c.lane rb i)))

def execVcmp (p : Pred) (ty cc : BitVec 4) (rd ra rb : Reg) : State → Host.Outcome State Fault Refusal :=
  let w := tyWidth ty
  onRegs (laneCmp p rd ra rb w fun a b => condW cc.toNat (BitVec.ofNat w a) (BitVec.ofNat w b))

def execVfcmp (p : Pred) (ty cc : BitVec 4) (rd ra rb : Reg) : State → Host.Outcome State Fault Refusal :=
  onRegs (laneCmp p rd ra rb (tyFmt ty).w (fcond cc.toNat (tyFmt ty)))

def maskOp2 (p : Pred) (rd ra rb : Reg) (f : Lane → Lane → Lane) : Core → CRes :=
  lanes p [] [] fun c m => .done (c.writeM rd.toNat m (f (c.readM ra.toNat) (c.readM rb.toNat)))

def execMand (p : Pred) (rd ra rb : Reg) : State → Host.Outcome State Fault Refusal := onRegs (maskOp2 p rd ra rb (· &&& ·))
def execMor (p : Pred) (rd ra rb : Reg) : State → Host.Outcome State Fault Refusal := onRegs (maskOp2 p rd ra rb (· ||| ·))
def execMxor (p : Pred) (rd ra rb : Reg) : State → Host.Outcome State Fault Refusal := onRegs (maskOp2 p rd ra rb (· ^^^ ·))
def execMnot (p : Pred) (rd ra : Reg) : State → Host.Outcome State Fault Refusal := onRegs (maskOp2 p rd ra ra fun a _ => ~~~a)

def execMpopc (p : Pred) (rd ra : Reg) : State → Host.Outcome State Fault Refusal :=
  onRegs (reducing p [] fun c m => .done (c.writeG rd (BitVec.ofNat 64 (activeLanes (c.readM ra.toNat &&& m)).length)))

def execMfirst (p : Pred) (rd ra : Reg) : State → Host.Outcome State Fault Refusal :=
  onRegs (reducing p [] fun c m => .done (c.writeG rd (BitVec.ofNat 64 ((activeLanes (c.readM ra.toNat &&& m)).headD 32))))

def execMfromg (p : Pred) (rd ra : Reg) : State → Host.Outcome State Fault Refusal :=
  onRegs (lanes p [ra] [] fun c m => .done (c.writeM rd.toNat m ((c.readG ra).truncate 32)))

def execMtog (p : Pred) (rd ra : Reg) : State → Host.Outcome State Fault Refusal :=
  onRegs (scalar p [] fun c => .done (c.writeG rd (zext64 (c.readM ra.toNat))))

/-! ## Major 0x1B: permute, reduce, generate (R158 to R161) -/

/-- Lane selectors use bits 4:0. -/
def sel5 {w : Nat} (x : BitVec w) : Nat := field x 0 5

def execVshuf (p : Pred) (rd ra rb : Reg) : State → Host.Outcome State Fault Refusal :=
  onRegs (lanes p [] [ra, rb] fun c m => .done (c.writeV rd m fun i => c.lane ra (sel5 (c.lane rb i))))

def execVrot (p : Pred) (rd ra rb : Reg) : State → Host.Outcome State Fault Refusal :=
  onRegs (lanes p [rb] [ra] fun c m => .done (c.writeV rd m fun i => c.lane ra ((i + 32 - sel5 (c.readG rb)) % 32)))

def execVbcast (p : Pred) (rd ra rb : Reg) : State → Host.Outcome State Fault Refusal :=
  onRegs (lanes p [rb] [ra] fun c m => .done (c.writeV rd m fun _ => c.lane ra (sel5 (c.readG rb))))

def execVext (p : Pred) (rd ra rb : Reg) : State → Host.Outcome State Fault Refusal :=
  onRegs (lanes p [rb] [ra] fun c _ => .done (c.writeG rd (zext64 (c.lane ra (sel5 (c.readG rb))))))

def execVins (p : Pred) (rd ra rb : Reg) : State → Host.Outcome State Fault Refusal :=
  onRegs (lanes p [ra, rb] [] fun c m =>
    let j := sel5 (c.readG rb)
    .done (c.writeLanes rd (if m.getLsbD j then [(j, (c.readG ra).truncate 32)] else [])))

/-- Type codes of major 0x1B: f32 0, i32 8, u32 9. -/
def redSigned (ty : BitVec 4) : Bool := ty == 8

/-- A 32-bit reduction result as g_d receives it (R159). -/
def redResult (ty : BitVec 4) (x : Nat) : Word := if redSigned ty then sext64 (BitVec.ofNat 32 x) else BitVec.ofNat 64 (x % 2 ^ 32)

/-- One combining step (R62). -/
def redStep (ty md : BitVec 4) (a b : Nat) : FRes :=
  if ty = 0 then addF f32 md (unpack f32 a) (unpack f32 b) else exactRes ((a + b) % 2 ^ 32)

/-- One depth of the tree: the places that `at_` names take op(x[k - 2^d], x[k]), all at once. -/
def treeLevel (ty md : BitVec 4) (d : Nat) (at_ : Nat → Bool) (x : List Nat × BitVec 5) : List Nat × BitVec 5 :=
  let rs := (List.range 32).map fun k =>
    if at_ k then redStep ty md (x.1.getD (k - 2 ^ d) 0) (x.1.getD k 0) else exactRes (x.1.getD k 0)
  (rs.map FRes.bits, rs.foldl (fun fl r => fl ||| r.flags) x.2)

def upSweep (ty md : BitVec 4) (x : List Nat × BitVec 5) : List Nat × BitVec 5 :=
  [0, 1, 2, 3, 4].foldl (fun x d => treeLevel ty md d (fun k => (k + 1) % 2 ^ (d + 1) == 0) x) x

def downSweep (ty md : BitVec 4) (x : List Nat × BitVec 5) : List Nat × BitVec 5 :=
  [3, 2, 1, 0].foldl (fun x d => treeLevel ty md d
    (fun k => (k + 1) % 2 ^ (d + 1) == 2 ^ d && decide (2 ^ (d + 1) ≤ k)) x) x

/-- Operand lanes with the identity where not selected: -0.0 or 0. -/
def redInput (ty : BitVec 4) (c : Core) (ra : Reg) (m : Lane) : List Nat :=
  (List.range 32).map fun i => if m.getLsbD i then (c.lane ra i).toNat else if ty = 0 then 0x80000000 else 0

def execVredadd (p : Pred) (ty md : BitVec 4) (rd ra : Reg) : State → Host.Outcome State Fault Refusal :=
  onRegs (reducing p [ra] fun c m =>
    let x := upSweep ty md (redInput ty c ra m, 0)
    .done { c.writeG rd (redResult ty (x.1.getD 31 0)) with fpstat := c.fpstat ||| x.2 })

/-- The first value that no other exceeds in an order. -/
def bestBy (better : Nat → Nat → Bool) : List Nat → Option Nat
  | [] => none
  | x :: xs => match bestBy better xs with
    | none => some x
    | some y => if better y x then some y else some x

/-- VREDMAX and VREDMIN (R63, R159): value and flags over the active lanes. -/
def redMinMax (ty : BitVec 4) (max : Bool) (xs : List Nat) : FRes :=
  if ty = 0 then
    if xs.any (isNan f32) then nanRes f32
    else exactRes ((bestBy (fun a b => if max then decide (orderKey f32 b < orderKey f32 a) else decide (orderKey f32 a < orderKey f32 b)) xs).getD
      (if max then 0xFF800000 else 0x7F800000))
  else
    let v := eInt 32 (redSigned ty)
    exactRes ((bestBy (fun a b => if max then decide (v b < v a) else decide (v a < v b)) xs).getD
      (if redSigned ty then (if max then 0x80000000 else 0x7FFFFFFF) else (if max then 0 else 0xFFFFFFFF)))

def redOp (p : Pred) (ty : BitVec 4) (rd ra : Reg) (max : Bool) : Core → CRes :=
  reducing p [ra] fun c m =>
    let r := redMinMax ty max ((activeLanes m).map fun i => (c.lane ra i).toNat)
    .done { c.writeG rd (redResult ty r.bits) with fpstat := c.fpstat ||| r.flags }

def execVredmax (p : Pred) (ty : BitVec 4) (rd ra : Reg) : State → Host.Outcome State Fault Refusal := onRegs (redOp p ty rd ra true)
def execVredmin (p : Pred) (ty : BitVec 4) (rd ra : Reg) : State → Host.Outcome State Fault Refusal := onRegs (redOp p ty rd ra false)

/-- The active, non-NaN lane of greatest value, lowest index on a tie (R64). -/
def argmax (c : Core) (ra : Reg) (m : Lane) : Option Nat :=
  bestBy (fun j i => decide (orderKey f32 (c.lane ra i).toNat < orderKey f32 (c.lane ra j).toNat))
    ((activeLanes m).filter fun i => !isNan f32 (c.lane ra i).toNat)

def execVargmax (p : Pred) (rd ra : Reg) : State → Host.Outcome State Fault Refusal :=
  onRegs (reducing p [ra] fun c m =>
    let (idx, bits) := match argmax c ra m with
      | some i => (BitVec.ofNat 64 i, zext64 (c.lane ra i))
      | none => (0xFFFFFFFF, 0x7FC00000)
    .done ((c.writeG rd idx).writeG (rd + 1) bits))

def execVscan (p : Pred) (ty md : BitVec 4) (rd ra : Reg) : State → Host.Outcome State Fault Refusal :=
  onRegs (lanes p [] [ra] fun c m =>
    let x := downSweep ty md (upSweep ty md (redInput ty c ra m, 0))
    let c' := c.writeV rd m fun i => BitVec.ofNat 32 (x.1.getD i 0)
    .done { c' with fpstat := c'.fpstat ||| x.2 })

/-- VCOMPACT (R160): lanes 0 to n - 1 are written whatever the predicate holds there, and g_b receives n. -/
def execVcompact (p : Pred) (rd ra rb : Reg) : State → Host.Outcome State Fault Refusal :=
  onRegs (reducing p [ra] fun c m =>
    let xs := (activeLanes m).map (c.lane ra)
    .done ((c.writeLanes rd ((List.range xs.length).zip xs)).writeG rb (BitVec.ofNat 64 xs.length)))

/-- The function of R65 in one lane. -/
def rngLane (key pos draw : Word) (lane : Nat) : Lane :=
  let n := (BitVec.ofNat 64 (field pos 0 48) * 0x10000 + BitVec.ofNat 64 (field draw 0 16)) * 32 + BitVec.ofNat 64 lane
  let z := key + n * 0x9E3779B97F4A7C15
  let z := (z ^^^ (z >>> 30)) * 0xBF58476D1CE4E5B9
  let z := (z ^^^ (z >>> 27)) * 0x94D049BB133111EB
  let z := z ^^^ (z >>> 31)
  BitVec.ofNat 32 (finishF f32 1 false { neg := false, m := 2 * field z 40 24 + 1, e := -25, sticky := false }).bits

def execVrng (p : Pred) (rd ra rb rc : Reg) : State → Host.Outcome State Fault Refusal :=
  onRegs (lanes p [ra, rb, rc] [] fun c m =>
    let wrap := decide (0xFFFF < (c.readG rc).toNat) || decide (2 ^ 48 ≤ (c.readG rb).toNat)
    .done { c.writeV rd m (rngLane (c.readG ra) (c.readG rb) (c.readG rc)) with rngWrap := c.rngWrap || wrap })

end Sys2Proof.Machine
end

