-- ==== Sys2Proof/Machine/Dispatch.lean ====
section
/-! DEFINITION. One arm for each constructor of Instr: a direct call of its meaning. -/

namespace Sys2Proof.Machine

def exec (i : Instr) (s : State) : Host.Outcome State Fault Refusal :=
  match i with
  | .nop => Sys2Proof.Machine.execNop s
  | .halt => Sys2Proof.Machine.execHalt s
  | .brk code => Sys2Proof.Machine.execBrk code s
  | .trap code => Sys2Proof.Machine.execTrap code s
  | .eret => Sys2Proof.Machine.execEret s
  | .wfe clocks => Sys2Proof.Machine.execWfe clocks s
  | .phase vote => Sys2Proof.Machine.execPhase vote s
  | .ncnt => Sys2Proof.Machine.execNcnt s
  | .srd p d sreg => Sys2Proof.Machine.execSrd p d sreg s
  | .swr p a sreg => Sys2Proof.Machine.execSwr p a sreg s
  | .tlbi p d a kind => Sys2Proof.Machine.execTlbi p d a kind s
  | .add p d a b => Sys2Proof.Machine.execAdd p d a b s
  | .sub p d a b => Sys2Proof.Machine.execSub p d a b s
  | .mul p d a b => Sys2Proof.Machine.execMul p d a b s
  | .mulh p d a b => Sys2Proof.Machine.execMulh p d a b s
  | .mulhu p d a b => Sys2Proof.Machine.execMulhu p d a b s
  | .div p d a b => Sys2Proof.Machine.execDiv p d a b s
  | .divu p d a b => Sys2Proof.Machine.execDivu p d a b s
  | .rem p d a b => Sys2Proof.Machine.execRem p d a b s
  | .remu p d a b => Sys2Proof.Machine.execRemu p d a b s
  | .and p d a b => Sys2Proof.Machine.execAnd p d a b s
  | .or p d a b => Sys2Proof.Machine.execOr p d a b s
  | .xor p d a b => Sys2Proof.Machine.execXor p d a b s
  | .andn p d a b => Sys2Proof.Machine.execAndn p d a b s
  | .shl p d a b => Sys2Proof.Machine.execShl p d a b s
  | .shr p d a b => Sys2Proof.Machine.execShr p d a b s
  | .sar p d a b => Sys2Proof.Machine.execSar p d a b s
  | .rol p d a b => Sys2Proof.Machine.execRol p d a b s
  | .min p d a b => Sys2Proof.Machine.execMin p d a b s
  | .max p d a b => Sys2Proof.Machine.execMax p d a b s
  | .minu p d a b => Sys2Proof.Machine.execMinu p d a b s
  | .maxu p d a b => Sys2Proof.Machine.execMaxu p d a b s
  | .clz p d a => Sys2Proof.Machine.execClz p d a s
  | .popc p d a => Sys2Proof.Machine.execPopc p d a s
  | .sext p d a n => Sys2Proof.Machine.execSext p d a n s
  | .zext p d a n => Sys2Proof.Machine.execZext p d a n s
  | .sel p d a b c => Sys2Proof.Machine.execSel p d a b c s
  | .cmp p cond d a b => Sys2Proof.Machine.execCmp p cond d a b s
  | .addi p d a imm => Sys2Proof.Machine.execAddi p d a imm s
  | .andi p d a imm => Sys2Proof.Machine.execAndi p d a imm s
  | .ori p d a imm => Sys2Proof.Machine.execOri p d a imm s
  | .xori p d a imm => Sys2Proof.Machine.execXori p d a imm s
  | .shli p d a imm => Sys2Proof.Machine.execShli p d a imm s
  | .shri p d a imm => Sys2Proof.Machine.execShri p d a imm s
  | .sari p d a imm => Sys2Proof.Machine.execSari p d a imm s
  | .cmpi p cond d a imm => Sys2Proof.Machine.execCmpi p cond d a imm s
  | .movi p d imm => Sys2Proof.Machine.execMovi p d imm s
  | .movhi p d a imm => Sys2Proof.Machine.execMovhi p d a imm s
  | .br off => Sys2Proof.Machine.execBr off s
  | .bz a off => Sys2Proof.Machine.execBz a off s
  | .bnz a off => Sys2Proof.Machine.execBnz a off s
  | .bcmp cond a b off => Sys2Proof.Machine.execBcmp cond a b off s
  | .bbead port off => Sys2Proof.Machine.execBbead port off s
  | .bstat state a eng off => Sys2Proof.Machine.execBstat state a eng off s
  | .loop a off => Sys2Proof.Machine.execLoop a off s
  | .jmpr a off => Sys2Proof.Machine.execJmpr a off s
  | .call off => Sys2Proof.Machine.execCall off s
  | .callr a off => Sys2Proof.Machine.execCallr a off s
  | .ret => Sys2Proof.Machine.execRet s
  | .vadd p ty d a b => Sys2Proof.Machine.execVadd p ty d a b s
  | .vsub p ty d a b => Sys2Proof.Machine.execVsub p ty d a b s
  | .vmul p ty d a b => Sys2Proof.Machine.execVmul p ty d a b s
  | .vmulh p ty d a b => Sys2Proof.Machine.execVmulh p ty d a b s
  | .vand p d a b => Sys2Proof.Machine.execVand p d a b s
  | .vor p d a b => Sys2Proof.Machine.execVor p d a b s
  | .vxor p d a b => Sys2Proof.Machine.execVxor p d a b s
  | .vshl p ty d a b => Sys2Proof.Machine.execVshl p ty d a b s
  | .vshr p ty d a b => Sys2Proof.Machine.execVshr p ty d a b s
  | .vsar p ty d a b => Sys2Proof.Machine.execVsar p ty d a b s
  | .vmin p ty d a b => Sys2Proof.Machine.execVmin p ty d a b s
  | .vmax p ty d a b => Sys2Proof.Machine.execVmax p ty d a b s
  | .vabs p ty d a => Sys2Proof.Machine.execVabs p ty d a s
  | .vsel p d a b c => Sys2Proof.Machine.execVsel p d a b c s
  | .vsplat p d a => Sys2Proof.Machine.execVsplat p d a s
  | .viota p d a => Sys2Proof.Machine.execViota p d a s
  | .vmov p d a => Sys2Proof.Machine.execVmov p d a s
  | .vclz p ty d a => Sys2Proof.Machine.execVclz p ty d a s
  | .vfadd p ty md d a b => Sys2Proof.Machine.execVfadd p ty md d a b s
  | .vfsub p ty md d a b => Sys2Proof.Machine.execVfsub p ty md d a b s
  | .vfmul p ty md d a b => Sys2Proof.Machine.execVfmul p ty md d a b s
  | .vfma p ty md d a b c => Sys2Proof.Machine.execVfma p ty md d a b c s
  | .vfmin p ty md d a b => Sys2Proof.Machine.execVfmin p ty md d a b s
  | .vfmax p ty md d a b => Sys2Proof.Machine.execVfmax p ty md d a b s
  | .vfabs p ty md d a => Sys2Proof.Machine.execVfabs p ty md d a s
  | .vfneg p ty md d a => Sys2Proof.Machine.execVfneg p ty md d a s
  | .vfcvt p dst md d a src part => Sys2Proof.Machine.execVfcvt p dst md d a src part s
  | .vexp2 p md d a => Sys2Proof.Machine.execVexp2 p md d a s
  | .vlog2 p md d a => Sys2Proof.Machine.execVlog2 p md d a s
  | .vrcp p md d a => Sys2Proof.Machine.execVrcp p md d a s
  | .vrsq p md d a => Sys2Proof.Machine.execVrsq p md d a s
  | .vfscl p ty md d a b => Sys2Proof.Machine.execVfscl p ty md d a b s
  | .vcmp p ty cond d a b => Sys2Proof.Machine.execVcmp p ty cond d a b s
  | .vfcmp p ty cond d a b => Sys2Proof.Machine.execVfcmp p ty cond d a b s
  | .mand p d a b => Sys2Proof.Machine.execMand p d a b s
  | .mor p d a b => Sys2Proof.Machine.execMor p d a b s
  | .mxor p d a b => Sys2Proof.Machine.execMxor p d a b s
  | .mnot p d a => Sys2Proof.Machine.execMnot p d a s
  | .mpopc p d a => Sys2Proof.Machine.execMpopc p d a s
  | .mfirst p d a => Sys2Proof.Machine.execMfirst p d a s
  | .mfromg p d a => Sys2Proof.Machine.execMfromg p d a s
  | .mtog p d a => Sys2Proof.Machine.execMtog p d a s
  | .vshuf p d a b => Sys2Proof.Machine.execVshuf p d a b s
  | .vrot p d a b => Sys2Proof.Machine.execVrot p d a b s
  | .vbcast p d a b => Sys2Proof.Machine.execVbcast p d a b s
  | .vext p d a b => Sys2Proof.Machine.execVext p d a b s
  | .vins p d a b => Sys2Proof.Machine.execVins p d a b s
  | .vredadd p ty md d a => Sys2Proof.Machine.execVredadd p ty md d a s
  | .vredmax p ty d a => Sys2Proof.Machine.execVredmax p ty d a s
  | .vredmin p ty d a => Sys2Proof.Machine.execVredmin p ty d a s
  | .vargmax p d a => Sys2Proof.Machine.execVargmax p d a s
  | .vscan p ty md d a => Sys2Proof.Machine.execVscan p ty md d a s
  | .vcompact p d a b => Sys2Proof.Machine.execVcompact p d a b s
  | .vrng p d a b c => Sys2Proof.Machine.execVrng p d a b c s
  | .ld p sz d base idx disp => Sys2Proof.Machine.execLd p sz d base idx disp s
  | .vld p d base idx disp => Sys2Proof.Machine.execVld p d base idx disp s
  | .vldg p d base idx disp => Sys2Proof.Machine.execVldg p d base idx disp s
  | .vldb p d base idx disp => Sys2Proof.Machine.execVldb p d base idx disp s
  | .pref p base idx disp => Sys2Proof.Machine.execPref p base idx disp s
  | .st p sz s_ base idx disp => Sys2Proof.Machine.execSt p sz s_ base idx disp s
  | .vst p s_ base idx disp => Sys2Proof.Machine.execVst p s_ base idx disp s
  | .vsts p s_ base idx disp => Sys2Proof.Machine.execVsts p s_ base idx disp s
  | .aadd p sz d base idx disp => Sys2Proof.Machine.execAadd p sz d base idx disp s
  | .amin p sz md d base idx disp => Sys2Proof.Machine.execAmin p sz md d base idx disp s
  | .amax p sz md d base idx disp => Sys2Proof.Machine.execAmax p sz md d base idx disp s
  | .aand p sz d base idx disp => Sys2Proof.Machine.execAand p sz d base idx disp s
  | .aor p sz d base idx disp => Sys2Proof.Machine.execAor p sz d base idx disp s
  | .axor p sz d base idx disp => Sys2Proof.Machine.execAxor p sz d base idx disp s
  | .axchg p sz d base idx disp => Sys2Proof.Machine.execAxchg p sz d base idx disp s
  | .acas p sz d base idx disp => Sys2Proof.Machine.execAcas p sz d base idx disp s
  | .vaadd p d base idx disp => Sys2Proof.Machine.execVaadd p d base idx disp s
  | .vamax p d base idx disp => Sys2Proof.Machine.execVamax p d base idx disp s
  | .fence scope cnt kind form e0 e1 e2 e3 => Sys2Proof.Machine.execFence scope cnt kind form e0 e1 e2 e3 s
  | .bar p scope id => Sys2Proof.Machine.execBar p scope id s
  | .bara p scope d id => Sys2Proof.Machine.execBara p scope d id s
  | .barw p scope id => Sys2Proof.Machine.execBarw p scope id s
  | .barx p scope a id => Sys2Proof.Machine.execBarx p scope a id s
  | .barset p scope a id => Sys2Proof.Machine.execBarset p scope a id s
  | .lgfence scope cnt e0 e1 e2 e3 => Sys2Proof.Machine.execLgfence scope cnt e0 e1 e2 e3 s
  | .cbind p h gx ce => Sys2Proof.Machine.execCbind p h gx ce s
  | .cwait p h gx n => Sys2Proof.Machine.execCwait p h gx n s
  | .cresv p h gx n => Sys2Proof.Machine.execCresv p h gx n s
  | .cpush p h gx off => Sys2Proof.Machine.execCpush p h gx off s
  | .cpeek p h gx gy off => Sys2Proof.Machine.execCpeek p h gx gy off s
  | .cpadv p h gx n => Sys2Proof.Machine.execCpadv p h gx n s
  | .ccadv p h gx n => Sys2Proof.Machine.execCcadv p h gx n s
  | .cmark p h gx rank off => Sys2Proof.Machine.execCmark p h gx rank off s
  | .cstat p h gx => Sys2Proof.Machine.execCstat p h gx s
  | .ksend p gx route => Sys2Proof.Machine.execKsend p gx route s
  | .kpoll p port gx => Sys2Proof.Machine.execKpoll p port gx s
  | .cpy a b c bs tid flags => Sys2Proof.Machine.execCpy a b c bs tid flags s
  | .cpym a b c bs tid form => Sys2Proof.Machine.execCpym a b c bs tid form s
  | .cpys a b c tid acc => Sys2Proof.Machine.execCpys a b c tid acc s
  | .bfwait bs => Sys2Proof.Machine.execBfwait bs s
  | .bfrel bs => Sys2Proof.Machine.execBfrel bs s
  | .bfstat a bs => Sys2Proof.Machine.execBfstat a bs s
  | .bfarm a b c bs tid form => Sys2Proof.Machine.execBfarm a b c bs tid form s
  | .bfarmDisarm bs => Sys2Proof.Machine.execBfarmDisarm bs s
  | .mma acc bs tid => Sys2Proof.Machine.execMma acc bs tid s
  | .mmaz acc bs tid => Sys2Proof.Machine.execMmaz acc bs tid s
  | .mdrain acc b bs tid flags => Sys2Proof.Machine.execMdrain acc b bs tid flags s
  | .mldb bs tid => Sys2Proof.Machine.execMldb bs tid s
  | .mzero acc => Sys2Proof.Machine.execMzero acc s
  | .mstat a => Sys2Proof.Machine.execMstat a s
  | .sopen a b tid dir => Sys2Proof.Machine.execSopen a b tid dir s
  | .sclose a => Sys2Proof.Machine.execSclose a s
  | .sstat a b => Sys2Proof.Machine.execSstat a b s
  | .sdrain a b => Sys2Proof.Machine.execSdrain a b s
  | .aload a tid => Sys2Proof.Machine.execAload a tid s
  | .abindMaskSink a tid hi => Sys2Proof.Machine.execAbindMaskSink a tid hi s
  | .abindEventSink a tid hi => Sys2Proof.Machine.execAbindEventSink a tid hi s
  | .abindTreeSink a tid hi => Sys2Proof.Machine.execAbindTreeSink a tid hi s
  | .abindSpillArea a tid hi => Sys2Proof.Machine.execAbindSpillArea a tid hi s
  | .abindLimits a tid hi => Sys2Proof.Machine.execAbindLimits a tid hi s
  | .abindUnbind a tid hi => Sys2Proof.Machine.execAbindUnbind a tid hi s
  | .arun a b => Sys2Proof.Machine.execArun a b s
  | .astep a mark => Sys2Proof.Machine.execAstep a mark s
  | .away tid => Sys2Proof.Machine.execAway tid s
  | .aresume tid => Sys2Proof.Machine.execAresume tid s
  | .astat a => Sys2Proof.Machine.execAstat a s
  | .aclear unload => Sys2Proof.Machine.execAclear unload s
  | .glaunch a b tid flags => Sys2Proof.Machine.execGlaunch a b tid flags s
  | .gdone => Sys2Proof.Machine.execGdone s
  | .gparam a b tid => Sys2Proof.Machine.execGparam a b tid s
  | .fork a b c mask => Sys2Proof.Machine.execFork a b c mask s
  | .join => Sys2Proof.Machine.execJoin s
  | .pqpush a b c => Sys2Proof.Machine.execPqpush a b c s
  | .pqpop a b c => Sys2Proof.Machine.execPqpop a b c s
  | .trigbindStoreWatch a b c tid => Sys2Proof.Machine.execTrigbindStoreWatch a b c tid s
  | .trigbindRingWatch a b c tid => Sys2Proof.Machine.execTrigbindRingWatch a b c tid s
  | .trigbindUnbind a => Sys2Proof.Machine.execTrigbindUnbind a s
  | .trigfire a => Sys2Proof.Machine.execTrigfire a s
  | .twbind a tid => Sys2Proof.Machine.execTwbind a tid s
  | .twbindUnbind a => Sys2Proof.Machine.execTwbindUnbind a s
  | .twget a b c nowait => Sys2Proof.Machine.execTwget a b c nowait s
  | .twrel a => Sys2Proof.Machine.execTwrel a s
  | .twstat a b sel => Sys2Proof.Machine.execTwstat a b sel s
  | .tickarm a b tid => Sys2Proof.Machine.execTickarm a b tid s
  | .tickarmDisarm a => Sys2Proof.Machine.execTickarmDisarm a s
  | .tnow a => Sys2Proof.Machine.execTnow a s
  | .asyncTrapTaken k => Sys2Proof.Machine.execAsyncTrapTaken k s
  | .resultLands k j => Sys2Proof.Machine.execResultLands k j s
  | .wfeTimeout k => Sys2Proof.Machine.execWfeTimeout k s
  | .phaseSelect team => Sys2Proof.Machine.execPhaseSelect team s
  | .teamStart team => Sys2Proof.Machine.execTeamStart team s
  | .planeSwap k => Sys2Proof.Machine.execPlaneSwap k s
  | .poolDispatch => Sys2Proof.Machine.execPoolDispatch s
  | .poolPromote j => Sys2Proof.Machine.execPoolPromote j s
  | .poolHold j => Sys2Proof.Machine.execPoolHold j s
  | .teamCompletion team => Sys2Proof.Machine.execTeamCompletion team s
  | .deadlockSurvey team => Sys2Proof.Machine.execDeadlockSurvey team s
  | .nodeFinish launch node => Sys2Proof.Machine.execNodeFinish launch node s
  | .engineCommandStart q e => Sys2Proof.Machine.execEngineCommandStart q e s
  | .copyComplete q seq => Sys2Proof.Machine.execCopyComplete q seq s
  | .followOnStart q => Sys2Proof.Machine.execFollowOnStart q s
  | .matrixCommandComplete q => Sys2Proof.Machine.execMatrixCommandComplete q s
  | .slotDrained q slot => Sys2Proof.Machine.execSlotDrained q slot s
  | .armedTileStart q slot => Sys2Proof.Machine.execArmedTileStart q slot s
  | .pushdownStep q => Sys2Proof.Machine.execPushdownStep q s
  | .pushdownMarker q => Sys2Proof.Machine.execPushdownMarker q s
  | .streamElementReturn port elem => Sys2Proof.Machine.execStreamElementReturn port elem s
  | .streamElementFault port elem => Sys2Proof.Machine.execStreamElementFault port elem s
  | .streamFaultTimeout port => Sys2Proof.Machine.execStreamFaultTimeout port s
  | .channelFillArrival ch => Sys2Proof.Machine.execChannelFillArrival ch s
  | .channelCreditArrival ch => Sys2Proof.Machine.execChannelCreditArrival ch s
  | .beadArrival route => Sys2Proof.Machine.execBeadArrival route s
  | .barrierComplete bar => Sys2Proof.Machine.execBarrierComplete bar s
  | .statsTokensLand j => Sys2Proof.Machine.execStatsTokensLand j s
  | .ingestRecord win => Sys2Proof.Machine.execIngestRecord win s
  | .slotClose win => Sys2Proof.Machine.execSlotClose win s
  | .hostRead world va size => Sys2Proof.Machine.execHostRead world va size s
  | .hostWrite world va bytes => Sys2Proof.Machine.execHostWrite world va bytes s
  | .doorbell world off value => Sys2Proof.Machine.execDoorbell world off value s
  | .registerWrite world off value => Sys2Proof.Machine.execRegisterWrite world off value s
  | .launch queue => Sys2Proof.Machine.execLaunch queue s
  | .replay queue => Sys2Proof.Machine.execReplay queue s
  | .queueFence queue => Sys2Proof.Machine.execQueueFence queue s
  | .worldCreate queue => Sys2Proof.Machine.execWorldCreate queue s
  | .worldDestroy queue => Sys2Proof.Machine.execWorldDestroy queue s
  | .worldSet queue => Sys2Proof.Machine.execWorldSet queue s
  | .map queue => Sys2Proof.Machine.execMap queue s
  | .free queue => Sys2Proof.Machine.execFree queue s
  | .frameScrubPending frame => Sys2Proof.Machine.execFrameScrubPending frame s
  | .resolve queue => Sys2Proof.Machine.execResolve queue s
  | .barrierReset queue => Sys2Proof.Machine.execBarrierReset queue s
  | .scrubFirst queue => Sys2Proof.Machine.execScrubFirst queue s
  | .timeAdj queue => Sys2Proof.Machine.execTimeAdj queue s
  | .kill queue => Sys2Proof.Machine.execKill queue s
  | .dieSet queue => Sys2Proof.Machine.execDieSet queue s
  | .queueSet queue => Sys2Proof.Machine.execQueueSet queue s
  | .pqSet queue => Sys2Proof.Machine.execPqSet queue s
  | .ingestMap queue => Sys2Proof.Machine.execIngestMap queue s
  | .power queue => Sys2Proof.Machine.execPower queue s
  | .powerGateComplete world => Sys2Proof.Machine.execPowerGateComplete world s
  | .scrubFrameClean die => Sys2Proof.Machine.execScrubFrameClean die s
  | .keySlotFreed slot => Sys2Proof.Machine.execKeySlotFreed slot s
  | .loaderAdmit world file => Sys2Proof.Machine.execLoaderAdmit world file s
  | .codeReadmit world page note => Sys2Proof.Machine.execCodeReadmit world page note s
  | .meshPacketEnters row place world gen => Sys2Proof.Machine.execMeshPacketEnters row place world gen s
  | .tunnelPacketExit tunnel counter tagOk => Sys2Proof.Machine.execTunnelPacketExit tunnel counter tagOk s
  | .ideIntegrityFailure world => Sys2Proof.Machine.execIdeIntegrityFailure world s
  | .getVersion fn => Sys2Proof.Machine.execGetVersion fn s
  | .getCapabilities fn => Sys2Proof.Machine.execGetCapabilities fn s
  | .negotiateAlgorithms fn => Sys2Proof.Machine.execNegotiateAlgorithms fn s
  | .getDigests fn => Sys2Proof.Machine.execGetDigests fn s
  | .getCertificate fn slot => Sys2Proof.Machine.execGetCertificate fn slot s
  | .challenge fn slot nonce => Sys2Proof.Machine.execChallenge fn slot nonce s
  | .getMeasurements fn index nonce => Sys2Proof.Machine.execGetMeasurements fn index nonce s
  | .keyExchange fn pub => Sys2Proof.Machine.execKeyExchange fn pub s
  | .finish fn verify => Sys2Proof.Machine.execFinish fn verify s
  | .endSession fn => Sys2Proof.Machine.execEndSession fn s
  | .lockInterfaceRequest fn => Sys2Proof.Machine.execLockInterfaceRequest fn s
  | .startInterfaceRequest fn => Sys2Proof.Machine.execStartInterfaceRequest fn s
  | .stopInterfaceRequest fn => Sys2Proof.Machine.execStopInterfaceRequest fn s
  | .ptmRefresh hostTime => Sys2Proof.Machine.execPtmRefresh hostTime s
  | .podFlitReceive port crcOk => Sys2Proof.Machine.execPodFlitReceive port crcOk s
  | .startUp failures => Sys2Proof.Machine.execStartUp failures s
  | .firmwareStage image sig => Sys2Proof.Machine.execFirmwareStage image sig s
  | .uncontainableError code => Sys2Proof.Machine.execUncontainableError code s
  | .clockThrottle lower => Sys2Proof.Machine.execClockThrottle lower s
  | .leaseExpiry q line => Sys2Proof.Machine.execLeaseExpiry q line s
  | .pushdownCommandDone q => Sys2Proof.Machine.execPushdownCommandDone q s

end Sys2Proof.Machine
end

