-- ==== Sys2Proof/Machine/Drive.lean ====
section
/-! DEFINITION. What the step is made of: fetching and decoding at an agent (R84, R89, R90), the events that are due, whose
turn it is (log 1), and the passing of time (R274, R275, R328). -/

namespace Sys2Proof.Machine

/-! ## Fetch and issue -/

/-- Whether a core issues: its plane is ACTIVE, its start or restart has come and it has not halted (R18, R19, R36, R107). -/
def Dev.coreIssues (d : Dev) (now : Now) (k : Nat) : Bool :=
  let c := d.core k
  c.active.isSome && c.cur.state == .active && c.started && decide (c.startAt ≤ now.clock) && !c.halted

/-- The program of an engine that issues: it has neither reached its JOIN nor ended. -/
def Dev.progIssues (d : Dev) (q e : Nat) : Option Prog :=
  (d.engine q e).prog.filter fun p => !p.joined && p.ended.isNone

/-- The word at a byte offset of a plane's code; none where the fetch is outside it (R84). -/
def Plane.fetch (p : Plane) (pc : Word) : Option Word := if p.inCode pc then some (p.word (pc.toNat / 8)) else none

/-- The word that an agent fetches, if it issues and its fetch is inside the code. -/
def Dev.fetch (d : Dev) (now : Now) : Actor → Option Word
  | .core k => if d.coreIssues now k then (d.core k).cur.fetch (d.core k).pc else none
  | .engine q e => match d.progIssues q e with
    | some p => (d.core p.core).cur.fetch p.pc
    | none => none

/-- An agent that issues, and whose fetch or decoding fails with the word `info`: a core traps ILLEGAL, an engine's program
ends in fault 0x01. The instruction counts as issued (R329). -/
def Dev.badFetch (d : Dev) (now : Now) (a : Actor) (info : Word) : Dev :=
  match a with
  | .core k => if d.coreIssues now k then (d.issued k).takeTrap now k Cause.illegal info (d.core k).pc else d
  | .engine q e => if (d.progIssues q e).isSome then (d.issuedBy q e).progFault q e 0x01 else d

/-- The core that takes a pending asynchronous cause where it would issue (R130). -/
def Dev.takesAsync (d : Dev) (now : Now) : Actor → Option Nat
  | .core k => if d.coreIssues now k && !(d.core k).inHandler && !(d.core k).async.isEmpty then some k else none
  | .engine _ _ => none

/-- The agent whose turn it is fetches, decodes and runs one instruction, or takes a pending asynchronous cause first. -/
def issueTurn (s : State) : Host.Outcome State Fault Refusal :=
  match s.dev.takesAsync s.now s.actor with
  | some k => execAsyncTrapTaken k s
  | none =>
  match s.dev.fetch s.now s.actor with
  | none => .next { s with dev := s.dev.badFetch s.now s.actor 0 }
  | some w =>
    match decode w with
    | .ok i => exec i s
    | .error _ => .next { s with dev := s.dev.badFetch s.now s.actor w }

/-! ## Events -/

/-- An event that changes the device or time is due. -/
def Event.due (f : Event) (s : State) : Option State :=
  match f s with
  | .next t => if t.dev = s.dev ∧ t.now = s.now then none else some t
  | _ => none

/-- The first event that is due, if any, happens. -/
def eventTurn (s : State) : State := ((autoEvents s.dev).findSome? fun f => f.due s).getD s

/-! ## Turns -/

/-- Agents in the order of the round: the cores of a quad, then its engines. -/
def Actor.place : Actor → Nat
  | .core k => 7 * (k / 4) + k % 4
  | .engine q e => 7 * q + 4 + e

/-- The agents that issue, in the order of the round. -/
def Dev.agents (d : Dev) (now : Now) : List Actor :=
  sortBy (fun x y => decide (Actor.place x < Actor.place y))
    ((Tab.keys (fun k _ => d.coreIssues now k) d.cores).map .core ++
     d.quads.flatMap fun (q, _) => ([0, 1, 2].filter fun e => (d.progIssues q e).isSome).map fun e => .engine q e)

/-- The next agent of this clock's round after `a`, if any. -/
def Dev.laterAgent (d : Dev) (now : Now) (a : Actor) : Option Actor := (d.agents now).find? fun x => decide (a.place < x.place)

/-! ## Time -/

/-- Device time in a fabric clock, in units of 2^-32 ns. -/
def Now.perClock (n : Now) : Nat := (2 ^ 32 + n.rate).toNat * 1000 / n.mhz

/-- One clock. A correction still to absorb slows or speeds time by 1/1,000 (R275). -/
def Now.tick (n : Now) : Now :=
  let full := n.perClock
  let part := full / 1000
  if 0 < n.slew then
    let more := Nat.min part n.slew.toNat
    { n with clock := n.clock + 1, time := n.time + full + more, slew := n.slew - Int.ofNat more }
  else
    let less := Nat.min part (-n.slew).toNat
    { n with clock := n.clock + 1, time := n.time + (full - less), slew := n.slew + Int.ofNat less }

/-- Results of fixed latency come nearer, or land (R115, R147). -/
def Dev.clock (d : Dev) : Dev := { d with cores := Tab.map (fun _ (c : Core) => c.clock) d.cores }

/-- What must have happened when a clock ends: due slots have closed and records are placed (R281, R282), firings have
acted (R240), failures are those of an earlier clock (R25), and streams that were opened begin (R171). -/
def Dev.endClock (d : Dev) (x : Ctx) : Dev := (((d.settleWindows x).settleFirings x.now).settleFailures).beginStreams

/-- A clock passes: what it brings has happened, time moves on, a due refresh takes place (R322), results of fixed latency
land, and the deadlock detectors watch (R38). -/
def State.tick (s : State) : State :=
  let now := s.now.tick.forceRefresh s.seq s.dev.ptm
  { s with now := now, dev := ((s.dev.endClock s.ctx).clock).watch now.clock }

/-- A clock of a scheduled pass; it makes free choices of its own. -/
def State.pass (s : State) : State := { s.tick with seq := s.seq + 1 }

/-- After an issue comes an event, and after an event the next agent of the round; a round of all agents is one clock, in
which each issues once at most (R14). -/
def State.handOver (s : State) : State :=
  match s.phase with
  | .issue => { s with phase := .events }
  | .events =>
    match s.dev.laterAgent s.now s.actor with
    | some a => { s with phase := .issue, actor := a }
    | none =>
      let s := s.tick
      match (s.dev.agents s.now).head? with
      | some a => { s with phase := .issue, actor := a }
      | none => s

/-! ## One turn -/

/-- What may happen while the fabric is held in reset: a start, and a new image through the recovery mailbox (R325). -/
def actsInReset : Instr → Bool
  | .startUp _ => true
  | .firmwareStage _ _ => true
  | _ => false

/-- The head of the schedule is such an event. -/
def State.restarts (s : State) : Bool :=
  match s.schedule with
  | .event i :: _ => actsInReset i
  | _ => false

/-- What happens in one step. A scheduled agent that does not come after the last one in the round issues in the next clock. -/
def turn (s : State) : Host.Outcome State Fault Refusal :=
  match s.schedule with
  | .issue a :: rest =>
    let s' := if s.actor.place < a.place then s else s.tick
    issueTurn { s' with schedule := rest, actor := a }
  | .event i :: rest => exec i { s with schedule := rest }
  | .pass n :: rest => .next (n.repeat State.pass { s with schedule := rest })
  | [] => match s.phase with
    | .issue => issueTurn s
    | .events => .next (eventTurn s)

/-- The turn is handed over, and the model's step counter rises. -/
def State.settle (scheduled : Bool) (s : State) : State :=
  let s' := if scheduled then s else s.handOver
  { s' with seq := s'.seq + 1 }

/-- While the fabric is held in reset, only a start or the staging of an image may happen (R325, R327). -/
def oneStep (s : State) : Host.Outcome State Fault Refusal :=
  if s.dev.stopped && !s.restarts then .fault .heldInReset
  else match turn s with
    | .next t => .next (t.settle (!s.schedule.isEmpty))
    | .fault f => .fault f
    | .refused r => .refused r

/-! ## Placing a word where the next step fetches -/

def Plane.withWord (p : Plane) (n : Nat) (w : Word) : Plane :=
  let count := Nat.max p.codeWords 9
  { p with state := .active, store := SMap.set (SMap.set p.store 3 (BitVec.ofNat 64
      (field (p.word 3) 0 32 + count % 65536 * 2 ^ 32 + field (p.word 3) 48 16 * 2 ^ 48))) n w }

/-- The core whose turn it is runs an ACTIVE plane whose first code word is `w`, and its turn is next. -/
def State.placeWord (s : State) (w : Word) : State :=
  let k := match s.actor with | .core k => k | .engine q _ => 4 * q
  let c := s.dev.core k
  let n := c.active.getD 0
  let c : Core := { c.setPlane n ((c.plane n).withWord 8 w) with active := some n, started := true, startAt := 0, halted := false,
                                                                 pc := 64, wait := none, stage := .none, async := [] }
  { s with dev := { s.dev.setCore k c with stopped := false }, schedule := [], phase := .issue, actor := .core k }

end Sys2Proof.Machine
end

