-- ==== Sys2Proof/Machine/Step.lean ====
section
/-! DEFINITION. The step: one turn of an agent, or one event. -/

namespace Sys2Proof.Machine

def step : State → Host.Outcome State Fault Refusal := oneStep

def State.withFetchWord (s : State) (nbits w : Nat) : State := s.placeWord (BitVec.ofNat 64 (w % 2 ^ nbits))

end Sys2Proof.Machine
end

