-- ==== Sys2Proof/Safety.lean ====
section
/-! DEFINITION. The terms in which claims are stated: legal clocks (R328), the invariant of every step, what completing an
instruction leaves, and what the tables of the spec say that groups of instructions write. -/

namespace Sys2Proof.Machine

/-- The fabric clock is one that Lenivar sets: 600 to 1,100 MHz in steps of 100 (R328). -/
def Now.legal (n : Now) : Prop := 600 ≤ n.mhz ∧ n.mhz ≤ 1100 ∧ n.mhz % 100 = 0

/-- The machine goes on: its step is neither a fault nor a refusal. -/
def State.runs (s : State) : Prop := ∃ t, step s = .next t

/-- The invariant of every step: the fabric clock is legal. -/
def State.Inv (s : State) : Prop := s.now.legal

/-! ## Instructions and events -/

/-- An event of the device, its host or its management controller, which has no encoding. -/
def isEvent : Instr → Bool
  | .asyncTrapTaken _ | .resultLands _ _ | .wfeTimeout _ | .phaseSelect _ | .teamStart _ | .planeSwap _ | .poolDispatch
  | .poolPromote _ | .poolHold _ | .teamCompletion _ | .deadlockSurvey _ | .nodeFinish _ _ | .engineCommandStart _ _
  | .copyComplete _ _ | .followOnStart _ | .matrixCommandComplete _ | .slotDrained _ _ | .armedTileStart _ _
  | .pushdownStep _ | .pushdownMarker _ | .streamElementReturn _ _ | .streamElementFault _ _ | .streamFaultTimeout _
  | .channelFillArrival _ | .channelCreditArrival _ | .beadArrival _ | .barrierComplete _ | .statsTokensLand _
  | .ingestRecord _ | .slotClose _ | .hostRead _ _ _ | .hostWrite _ _ _ | .doorbell _ _ _ | .registerWrite _ _ _
  | .launch _ | .replay _ | .queueFence _ | .worldCreate _ | .worldDestroy _ | .worldSet _ | .map _ | .free _
  | .frameScrubPending _ | .resolve _ | .barrierReset _ | .scrubFirst _ | .timeAdj _ | .kill _ | .dieSet _ | .queueSet _
  | .pqSet _ | .ingestMap _ | .power _ | .powerGateComplete _ | .scrubFrameClean _ | .keySlotFreed _ | .loaderAdmit _ _
  | .codeReadmit _ _ _ | .meshPacketEnters _ _ _ _ | .tunnelPacketExit _ _ _ | .ideIntegrityFailure _ | .getVersion _
  | .getCapabilities _ | .negotiateAlgorithms _ | .getDigests _ | .getCertificate _ _ | .challenge _ _ _
  | .getMeasurements _ _ _ | .keyExchange _ _ | .finish _ _ | .endSession _ | .lockInterfaceRequest _
  | .startInterfaceRequest _ | .stopInterfaceRequest _ | .ptmRefresh _ | .podFlitReceive _ _ | .startUp _
  | .firmwareStage _ _ | .uncontainableError _ | .clockThrottle _ | .leaseExpiry _ _ | .pushdownCommandDone _ => true
  | _ => false

/-! ## Predicates and destinations -/

/-- The predicate of a predicated instruction; TLBI has its privilege check first (R87, R89). -/
def predOf : Instr → Option Pred
  | .srd p _ _ | .swr p _ _ | .add p _ _ _ | .sub p _ _ _ | .mul p _ _ _ | .mulh p _ _ _ | .mulhu p _ _ _
  | .div p _ _ _ | .divu p _ _ _ | .rem p _ _ _ | .remu p _ _ _ | .and p _ _ _ | .or p _ _ _ | .xor p _ _ _
  | .andn p _ _ _ | .shl p _ _ _ | .shr p _ _ _ | .sar p _ _ _ | .rol p _ _ _ | .min p _ _ _ | .max p _ _ _
  | .minu p _ _ _ | .maxu p _ _ _ | .clz p _ _ | .popc p _ _ | .sext p _ _ _ | .zext p _ _ _ | .sel p _ _ _ _
  | .cmp p _ _ _ _ | .addi p _ _ _ | .andi p _ _ _ | .ori p _ _ _ | .xori p _ _ _ | .shli p _ _ _ | .shri p _ _ _
  | .sari p _ _ _ | .cmpi p _ _ _ _ | .movi p _ _ | .movhi p _ _ _ | .vadd p _ _ _ _ | .vsub p _ _ _ _
  | .vmul p _ _ _ _ | .vmulh p _ _ _ _ | .vand p _ _ _ | .vor p _ _ _ | .vxor p _ _ _ | .vshl p _ _ _ _
  | .vshr p _ _ _ _ | .vsar p _ _ _ _ | .vmin p _ _ _ _ | .vmax p _ _ _ _ | .vabs p _ _ _ | .vsel p _ _ _ _
  | .vsplat p _ _ | .viota p _ _ | .vmov p _ _ | .vclz p _ _ _ | .vfadd p _ _ _ _ _ | .vfsub p _ _ _ _ _
  | .vfmul p _ _ _ _ _ | .vfma p _ _ _ _ _ _ | .vfmin p _ _ _ _ _ | .vfmax p _ _ _ _ _ | .vfabs p _ _ _ _
  | .vfneg p _ _ _ _ | .vfcvt p _ _ _ _ _ _ | .vexp2 p _ _ _ | .vlog2 p _ _ _ | .vrcp p _ _ _ | .vrsq p _ _ _
  | .vfscl p _ _ _ _ _ | .vcmp p _ _ _ _ _ | .vfcmp p _ _ _ _ _ | .mand p _ _ _ | .mor p _ _ _ | .mxor p _ _ _
  | .mnot p _ _ | .mpopc p _ _ | .mfirst p _ _ | .mfromg p _ _ | .mtog p _ _ | .vshuf p _ _ _ | .vrot p _ _ _
  | .vbcast p _ _ _ | .vext p _ _ _ | .vins p _ _ _ | .vredadd p _ _ _ _ | .vredmax p _ _ _ | .vredmin p _ _ _
  | .vargmax p _ _ | .vscan p _ _ _ _ | .vcompact p _ _ _ | .vrng p _ _ _ _ | .ld p _ _ _ _ _ | .vld p _ _ _ _
  | .vldg p _ _ _ _ | .vldb p _ _ _ _ | .pref p _ _ _ | .st p _ _ _ _ _ | .vst p _ _ _ _ | .vsts p _ _ _ _
  | .aadd p _ _ _ _ _ | .amin p _ _ _ _ _ _ | .amax p _ _ _ _ _ _ | .aand p _ _ _ _ _ | .aor p _ _ _ _ _
  | .axor p _ _ _ _ _ | .axchg p _ _ _ _ _ | .acas p _ _ _ _ _ | .vaadd p _ _ _ _ | .vamax p _ _ _ _ | .bar p _ _
  | .bara p _ _ _ | .barw p _ _ | .barx p _ _ _ | .barset p _ _ _ | .cbind p _ _ _ | .cwait p _ _ _
  | .cresv p _ _ _ | .cpush p _ _ _ | .cpeek p _ _ _ _ | .cpadv p _ _ _ | .ccadv p _ _ _ | .cmark p _ _ _ _
  | .cstat p _ _ | .ksend p _ _ | .kpoll p _ _ => some p
  | _ => none

/-- The reducing instructions of R146. -/
def reduces : Instr → Bool
  | .vredadd _ _ _ _ _ | .vredmax _ _ _ _ | .vredmin _ _ _ _ | .vargmax _ _ _ | .mpopc _ _ _ | .mfirst _ _ _
  | .vcompact _ _ _ _ => true
  | _ => false

/-- The scalar registers that an instruction of majors 0x08, 0x09 and 0x18 to 0x1B writes; none for other instructions. -/
def regWrites : Instr → Option (List Reg)
  | .add _ d _ _ | .sub _ d _ _ | .mul _ d _ _ | .mulh _ d _ _ | .mulhu _ d _ _ | .div _ d _ _ | .divu _ d _ _
  | .rem _ d _ _ | .remu _ d _ _ | .and _ d _ _ | .or _ d _ _ | .xor _ d _ _ | .andn _ d _ _ | .shl _ d _ _
  | .shr _ d _ _ | .sar _ d _ _ | .rol _ d _ _ | .min _ d _ _ | .max _ d _ _ | .minu _ d _ _ | .maxu _ d _ _
  | .clz _ d _ | .popc _ d _ | .sext _ d _ _ | .zext _ d _ _ | .sel _ d _ _ _ | .cmp _ _ d _ _ | .addi _ d _ _
  | .andi _ d _ _ | .ori _ d _ _ | .xori _ d _ _ | .shli _ d _ _ | .shri _ d _ _ | .sari _ d _ _ | .cmpi _ _ d _ _
  | .movi _ d _ | .movhi _ d _ _ | .mpopc _ d _ | .mfirst _ d _ | .mtog _ d _ | .vext _ d _ _ | .vredadd _ _ _ d _
  | .vredmax _ _ d _ | .vredmin _ _ d _ => some [d]
  | .vargmax _ d _ => some [d, d + 1]
  | .vcompact _ _ _ b => some [b]
  | .vadd _ _ _ _ _ | .vsub _ _ _ _ _ | .vmul _ _ _ _ _ | .vmulh _ _ _ _ _ | .vand _ _ _ _ | .vor _ _ _ _
  | .vxor _ _ _ _ | .vshl _ _ _ _ _ | .vshr _ _ _ _ _ | .vsar _ _ _ _ _ | .vmin _ _ _ _ _ | .vmax _ _ _ _ _
  | .vabs _ _ _ _ | .vsel _ _ _ _ _ | .vsplat _ _ _ | .viota _ _ _ | .vmov _ _ _ | .vclz _ _ _ _
  | .vfadd _ _ _ _ _ _ | .vfsub _ _ _ _ _ _ | .vfmul _ _ _ _ _ _ | .vfma _ _ _ _ _ _ _ | .vfmin _ _ _ _ _ _
  | .vfmax _ _ _ _ _ _ | .vfabs _ _ _ _ _ | .vfneg _ _ _ _ _ | .vfcvt _ _ _ _ _ _ _ | .vexp2 _ _ _ _
  | .vlog2 _ _ _ _ | .vrcp _ _ _ _ | .vrsq _ _ _ _ | .vfscl _ _ _ _ _ _ | .vcmp _ _ _ _ _ _ | .vfcmp _ _ _ _ _ _
  | .mand _ _ _ _ | .mor _ _ _ _ | .mxor _ _ _ _ | .mnot _ _ _ | .mfromg _ _ _ | .vshuf _ _ _ _ | .vrot _ _ _ _
  | .vbcast _ _ _ _ | .vins _ _ _ _ | .vscan _ _ _ _ _ | .vrng _ _ _ _ _ => some []
  | _ => none

/-- The vector registers that such an instruction writes. -/
def lanesWritten : Instr → List Reg
  | .vadd _ _ d _ _ | .vsub _ _ d _ _ | .vmul _ _ d _ _ | .vmulh _ _ d _ _ | .vand _ d _ _ | .vor _ d _ _
  | .vxor _ d _ _ | .vshl _ _ d _ _ | .vshr _ _ d _ _ | .vsar _ _ d _ _ | .vmin _ _ d _ _ | .vmax _ _ d _ _
  | .vabs _ _ d _ | .vsel _ d _ _ _ | .vsplat _ d _ | .viota _ d _ | .vmov _ d _ | .vclz _ _ d _
  | .vfadd _ _ _ d _ _ | .vfsub _ _ _ d _ _ | .vfmul _ _ _ d _ _ | .vfma _ _ _ d _ _ _ | .vfmin _ _ _ d _ _
  | .vfmax _ _ _ d _ _ | .vfabs _ _ _ d _ | .vfneg _ _ _ d _ | .vfcvt _ _ _ d _ _ _ | .vfscl _ _ _ d _ _
  | .vshuf _ d _ _ | .vrot _ d _ _ | .vbcast _ d _ _ | .vins _ d _ _ | .vscan _ _ _ d _ | .vcompact _ d _ _
  | .vrng _ d _ _ _ => [d]
  | _ => []

/-- The mask registers that such an instruction writes. -/
def masksWritten : Instr → List Reg
  | .mand _ d _ _ | .mor _ d _ _ | .mxor _ d _ _ | .mnot _ d _ | .mfromg _ d _ | .vcmp _ _ _ d _ _
  | .vfcmp _ _ _ d _ _ => [d]
  | _ => []

/-- Whether such an instruction may set FPSTAT at issue; a function unit sets it when its result lands (R147). -/
def setsFpstat : Instr → Bool
  | .vfadd _ _ _ _ _ _ | .vfsub _ _ _ _ _ _ | .vfmul _ _ _ _ _ _ | .vfma _ _ _ _ _ _ _ | .vfmin _ _ _ _ _ _
  | .vfmax _ _ _ _ _ _ | .vfabs _ _ _ _ _ | .vfneg _ _ _ _ _ | .vfcvt _ _ _ _ _ _ _ | .vfscl _ _ _ _ _ _
  | .vredadd _ _ _ _ _ | .vredmax _ _ _ _ | .vredmin _ _ _ _ | .vscan _ _ _ _ _ => true
  | _ => false

/-- Whether such an instruction may trap: a shift immediate above 63 (R116), or a conversion with an unlisted format. -/
def mayTrap : Instr → Bool
  | .shli _ _ _ imm | .shri _ _ _ imm | .sari _ _ _ imm => decide (63 < imm.toNat)
  | .vfcvt _ dst _ _ _ src _ => (numFmt src.toNat).isNone || (numFmt dst.toNat).isNone
  | _ => false

/-! ## Completing an instruction -/

/-- Core `k` has completed an instruction that leaves the device `d`, and goes on at `pc`. -/
def State.completed (s : State) (k : Nat) (d : Dev) (pc : Word) : State := { s with dev := d.retire k pc }

/-- Core `k` has completed an instruction that leaves it as `c`, and goes on at the next one. -/
def State.completedCore (s : State) (k : Nat) (c : Core) : State := s.completed k (s.dev.setCore k c) ((s.dev.core k).pc + 8)

/-- Some predicate bit is set, and no source is in flight: a scalar instruction issues (R33, R87). -/
def Core.issues (c : Core) (p : Pred) (gs : List Reg) : Prop := c.mask p ≠ 0 ∧ ∀ r ∈ gs, c.pendingG r = false

/-- The same for an instruction with vector sources. -/
def Core.issuesV (c : Core) (p : Pred) (gs vs : List Reg) : Prop := c.issues p gs ∧ ∀ r ∈ vs, c.pendingV r = false

/-! ## Tables 7.3 and 7.4 -/

/-- The predicate, destination, sources and result of a scalar instruction, divisions apart (R105, R114, R116). -/
def scalarSpec (c : Core) : Instr → Option (Pred × Reg × List Reg × Word)
  | .add p d a b => some (p, d, [a, b], c.readG a + c.readG b)
  | .sub p d a b => some (p, d, [a, b], c.readG a - c.readG b)
  | .mul p d a b => some (p, d, [a, b], c.readG a * c.readG b)
  | .mulh p d a b => some (p, d, [a, b], BitVec.ofInt 64 ((c.readG a).toInt * (c.readG b).toInt / 2 ^ 64))
  | .mulhu p d a b => some (p, d, [a, b], BitVec.ofNat 64 ((c.readG a).toNat * (c.readG b).toNat / 2 ^ 64))
  | .and p d a b => some (p, d, [a, b], c.readG a &&& c.readG b)
  | .or p d a b => some (p, d, [a, b], c.readG a ||| c.readG b)
  | .xor p d a b => some (p, d, [a, b], c.readG a ^^^ c.readG b)
  | .andn p d a b => some (p, d, [a, b], c.readG a &&& ~~~c.readG b)
  | .shl p d a b => some (p, d, [a, b], c.readG a <<< ((c.readG b).toNat % 64))
  | .shr p d a b => some (p, d, [a, b], c.readG a >>> ((c.readG b).toNat % 64))
  | .sar p d a b => some (p, d, [a, b], (c.readG a).sshiftRight ((c.readG b).toNat % 64))
  | .rol p d a b => some (p, d, [a, b], (c.readG a).rotateLeft ((c.readG b).toNat % 64))
  | .min p d a b => some (p, d, [a, b], if (c.readG a).toInt < (c.readG b).toInt then c.readG a else c.readG b)
  | .max p d a b => some (p, d, [a, b], if (c.readG a).toInt < (c.readG b).toInt then c.readG b else c.readG a)
  | .minu p d a b => some (p, d, [a, b], if (c.readG a).toNat < (c.readG b).toNat then c.readG a else c.readG b)
  | .maxu p d a b => some (p, d, [a, b], if (c.readG a).toNat < (c.readG b).toNat then c.readG b else c.readG a)
  | .clz p d a => some (p, d, [a], BitVec.ofNat 64 (clz 64 (c.readG a).toNat))
  | .popc p d a => some (p, d, [a], BitVec.ofNat 64 (popNat 64 (c.readG a).toNat))
  | .sext p d a n => some (p, d, [a], BitVec.ofInt 64 (toSigned (n.toNat + 1) (c.readG a).toNat))
  | .zext p d a n => some (p, d, [a], BitVec.ofNat 64 ((c.readG a).toNat % 2 ^ (n.toNat + 1)))
  | .sel p d a b e => some (p, d, [a, b, e], if c.readG e ≠ 0 then c.readG a else c.readG b)
  | .cmp p cc d a b => some (p, d, [a, b], if cond cc (c.readG a) (c.readG b) then 1 else 0)
  | .addi p d a imm => some (p, d, [a], c.readG a + imm.signExtend 64)
  | .andi p d a imm => some (p, d, [a], c.readG a &&& imm.signExtend 64)
  | .ori p d a imm => some (p, d, [a], c.readG a ||| imm.zeroExtend 64)
  | .xori p d a imm => some (p, d, [a], c.readG a ^^^ imm.zeroExtend 64)
  | .shli p d a imm => if imm.toNat ≤ 63 then some (p, d, [a], c.readG a <<< imm.toNat) else none
  | .shri p d a imm => if imm.toNat ≤ 63 then some (p, d, [a], c.readG a >>> imm.toNat) else none
  | .sari p d a imm => if imm.toNat ≤ 63 then some (p, d, [a], (c.readG a).sshiftRight imm.toNat) else none
  | .cmpi p cc d a imm => some (p, d, [a], if cond cc (c.readG a) (imm.signExtend 64) then 1 else 0)
  | .movi p d imm => some (p, d, [], imm.signExtend 64)
  | .movhi p d a imm => some (p, d, [a], BitVec.ofNat 64 (imm.toNat * 2 ^ 32 + (c.readG a).toNat % 2 ^ 32))
  | .mtog p d a => some (p, d, [], (c.readM a.toNat).zeroExtend 64)
  | .kpoll p port gx => some (p, gx, [], match Tab.get? c.ports port.toNat with
      | none => 0
      | some b => if b then 3 else 2)
  | _ => none

/-- The predicate, destination, sources and result of a division (R115). -/
def divisionSpec (c : Core) : Instr → Option (Pred × Reg × List Reg × Word)
  | .div p d a b => some (p, d, [a, b], if c.readG b = 0 then BitVec.allOnes 64 else (c.readG a).sdiv (c.readG b))
  | .divu p d a b => some (p, d, [a, b], if c.readG b = 0 then BitVec.allOnes 64 else (c.readG a).udiv (c.readG b))
  | .rem p d a b => some (p, d, [a, b], if c.readG b = 0 then c.readG a else (c.readG a).srem (c.readG b))
  | .remu p d a b => some (p, d, [a, b], if c.readG b = 0 then c.readG a else (c.readG a).umod (c.readG b))
  | _ => none

/-! ## Table 7.5 -/

/-- The sources of a branch, and what it does to its core: the core it leaves, and whether it is taken (R117 to R121). A
BBEAD empties its port, in the given clock, and orders the core's later accesses after what the bead carries (R191, R214). -/
def branchSpec (clock : Nat) (c : Core) : Instr → Option (List Reg × Core × Bool × BitVec 32)
  | .br off => some ([], c, true, off)
  | .bz a off => some ([a], c, decide (c.readG a = 0), off)
  | .bnz a off => some ([a], c, decide (c.readG a ≠ 0), off)
  | .bcmp cc a b off => some ([a, b], c, cond cc (c.readG a) (c.readG b), off)
  | .loop a off => if a = 0 then none else some ([a], c.writeG a (c.readG a - 1), decide (c.readG a - 1 ≠ 0), off)
  | .bbead port off => match Tab.get? c.ports port.toNat with
      | some b =>
        let t := Tab.getD c.portTimes port.toNat 0
        some ([], { c with ports := Tab.del c.ports port.toNat, portTimes := Tab.del c.portTimes port.toNat,
                           portAt := Tab.put c.portAt port.toNat clock, stime := Nat.max c.stime t,
                           kept := Tab.put c.kept 6 (Nat.max (Tab.getD c.kept 6 0) t) }, b, off)
      | none => none
  | _ => none

/-! ## Engine sequencers (R90, R143) -/

/-- The engine of an X-format instruction that an engine's own sequencer may issue. -/
def engineOf : Instr → Option Nat
  | .cpy _ _ _ _ _ _ | .cpym _ _ _ _ _ _ | .cpys _ _ _ _ _ | .bfwait _ | .bfrel _ | .bfstat _ _
  | .bfarm _ _ _ _ _ _ | .bfarmDisarm _ => some 0
  | .mma _ _ _ | .mmaz _ _ _ | .mldb _ _ | .mdrain _ _ _ _ _ | .mzero _ | .mstat _ => some 1
  | .aload _ _ | .abindMaskSink _ _ _ | .abindEventSink _ _ _ | .abindTreeSink _ _ _ | .abindSpillArea _ _ _
  | .abindLimits _ _ _ | .abindUnbind _ _ _ | .arun _ _ | .astep _ _ | .away _ | .aresume _ | .aclear _ | .astat _ => some 2
  | _ => none

/-- An instruction that only a core issues: on an engine's sequencer it is foreign. ADD, ADDI, BR and LOOP run on both. -/
def coreAlone : Instr → Bool
  | .add _ _ _ _ | .addi _ _ _ _ => false
  | .nop | .halt | .brk _ | .trap _ | .eret | .wfe _ | .phase _ | .ncnt | .tlbi _ _ _ _ | .bz _ _ | .bnz _ _ | .bcmp _ _ _ _
  | .bbead _ _ | .bstat _ _ _ _ | .jmpr _ _ | .call _ | .callr _ _ | .ret | .fence _ _ _ _ _ _ _ _ | .lgfence _ _ _ _ _ _ => true
  | i => (predOf i).isSome

/-- The state after the program of an engine has run one instruction that leaves it as `p`. -/
def State.ranOn (s : State) (q e : Nat) (p : Prog) : State :=
  { s with dev := (s.dev.issuedBy q e).setEngine q e { s.dev.engine q e with prog := some p } }

/-- The state after the program of an engine has ended in fault at an instruction. -/
def State.endedOn (s : State) (q e : Nat) : State := { s with dev := (s.dev.issuedBy q e).progFault q e 0x01 }

/-! ## Chapter 9 -/

/-- The elements of width `w` of a lane, element 0 first (R144). -/
def elems (w : Nat) (x : Lane) : List Nat := (List.range (32 / w)).map fun e => x.toNat / 2 ^ (w * e) % 2 ^ w

/-- A lane whose elements of width `w` are those of a list. -/
def ofElems (w : Nat) (xs : List Nat) : Lane := laneOfElems w xs

/-- The predicate, destination, scalar and vector sources, and the value of each active lane of a lane integer instruction,
a move or a permutation (R149, R158, R161). -/
def laneSpec (c : Core) : Instr → Option (Pred × Reg × List Reg × List Reg × (Nat → Lane))
  | .vadd p ty d a b => some (p, d, [], [a, b], fun i =>
      ofElems (tyWidth ty) (List.zipWith (fun x y => (x + y) % 2 ^ tyWidth ty) (elems (tyWidth ty) (c.lane a i)) (elems (tyWidth ty) (c.lane b i))))
  | .vsub p ty d a b => some (p, d, [], [a, b], fun i =>
      ofElems (tyWidth ty) (List.zipWith (fun x y => (x + 2 ^ tyWidth ty - y) % 2 ^ tyWidth ty) (elems (tyWidth ty) (c.lane a i)) (elems (tyWidth ty) (c.lane b i))))
  | .vmul p ty d a b => some (p, d, [], [a, b], fun i =>
      ofElems (tyWidth ty) (List.zipWith (fun x y => x * y % 2 ^ tyWidth ty) (elems (tyWidth ty) (c.lane a i)) (elems (tyWidth ty) (c.lane b i))))
  | .vmulh p ty d a b => some (p, d, [], [a, b], fun i =>
      ofElems (tyWidth ty) (List.zipWith (eMulh (tyWidth ty) (tySigned ty)) (elems (tyWidth ty) (c.lane a i)) (elems (tyWidth ty) (c.lane b i))))
  | .vand p d a b => some (p, d, [], [a, b], fun i => c.lane a i &&& c.lane b i)
  | .vor p d a b => some (p, d, [], [a, b], fun i => c.lane a i ||| c.lane b i)
  | .vxor p d a b => some (p, d, [], [a, b], fun i => c.lane a i ^^^ c.lane b i)
  | .vshl p ty d a b => some (p, d, [], [a, b], fun i =>
      ofElems (tyWidth ty) (List.zipWith (fun x y => x * 2 ^ (y % tyWidth ty) % 2 ^ tyWidth ty) (elems (tyWidth ty) (c.lane a i)) (elems (tyWidth ty) (c.lane b i))))
  | .vshr p ty d a b => some (p, d, [], [a, b], fun i =>
      ofElems (tyWidth ty) (List.zipWith (fun x y => x / 2 ^ (y % tyWidth ty)) (elems (tyWidth ty) (c.lane a i)) (elems (tyWidth ty) (c.lane b i))))
  | .vsar p ty d a b => some (p, d, [], [a, b], fun i =>
      ofElems (tyWidth ty) (List.zipWith (eSar (tyWidth ty)) (elems (tyWidth ty) (c.lane a i)) (elems (tyWidth ty) (c.lane b i))))
  | .vmin p ty d a b => some (p, d, [], [a, b], fun i =>
      ofElems (tyWidth ty) (List.zipWith (eMin (tyWidth ty) (tySigned ty)) (elems (tyWidth ty) (c.lane a i)) (elems (tyWidth ty) (c.lane b i))))
  | .vmax p ty d a b => some (p, d, [], [a, b], fun i =>
      ofElems (tyWidth ty) (List.zipWith (eMax (tyWidth ty) (tySigned ty)) (elems (tyWidth ty) (c.lane a i)) (elems (tyWidth ty) (c.lane b i))))
  | .vabs p ty d a => some (p, d, [], [a], fun i => ofElems (tyWidth ty) ((elems (tyWidth ty) (c.lane a i)).map (eAbs (tyWidth ty))))
  | .vclz p ty d a => some (p, d, [], [a], fun i => ofElems (tyWidth ty) ((elems (tyWidth ty) (c.lane a i)).map (clz (tyWidth ty))))
  | .vsel p d a b m => some (p, d, [], [a, b], fun i => if (c.readM m.toNat).getLsbD i then c.lane a i else c.lane b i)
  | .vsplat p d a => some (p, d, [a], [], fun _ => (c.readG a).truncate 32)
  | .viota p d a => some (p, d, [a], [], fun i => (c.readG a).truncate 32 + BitVec.ofNat 32 i)
  | .vmov p d a => some (p, d, [], [a], fun i => c.lane a i)
  | .vshuf p d a b => some (p, d, [], [a, b], fun i => c.lane a ((c.lane b i).toNat % 32))
  | .vrot p d a b => some (p, d, [b], [a], fun i => c.lane a ((i + 32 - (c.readG b).toNat % 32) % 32))
  | .vbcast p d a b => some (p, d, [b], [a], fun _ => c.lane a ((c.readG b).toNat % 32))
  | _ => none

/-- The predicate, destination mask, scalar and vector sources, and result of a mask instruction (R156, R157). -/
def maskSpec (c : Core) : Instr → Option (Pred × Reg × List Reg × List Reg × Lane)
  | .mand p d a b => some (p, d, [], [], c.readM a.toNat &&& c.readM b.toNat)
  | .mor p d a b => some (p, d, [], [], c.readM a.toNat ||| c.readM b.toNat)
  | .mxor p d a b => some (p, d, [], [], c.readM a.toNat ^^^ c.readM b.toNat)
  | .mnot p d a => some (p, d, [], [], ~~~c.readM a.toNat)
  | .mfromg p d a => some (p, d, [a], [], (c.readG a).truncate 32)
  | .vcmp p ty cc d a b => some (p, d, [], [a, b], maskOf fun i =>
      (List.range (32 / tyWidth ty)).all fun e => condW cc.toNat (BitVec.ofNat (tyWidth ty) (elemOf (tyWidth ty) e (c.lane a i)))
        (BitVec.ofNat (tyWidth ty) (elemOf (tyWidth ty) e (c.lane b i))))
  | .vfcmp p ty cc d a b => some (p, d, [], [a, b], maskOf fun i =>
      (List.range (32 / (tyFmt ty).w)).all fun e => fcond cc.toNat (tyFmt ty) (elemOf (tyFmt ty).w e (c.lane a i))
        (elemOf (tyFmt ty).w e (c.lane b i)))
  | _ => none

/-! ## Table 5.2 -/

/-- The special registers of core `k` with a number of their own, and what SRD reads of each (Table 5.2); PARAM0 to PARAM63
are at 0x050 to 0x08F beside them. -/
def specialSpec (s : State) (k : Nat) : List (Nat × Word) :=
  let c := s.dev.core k
  [ (0x000, BitVec.ofNat 64 (k % 4)), (0x001, BitVec.ofNat 64 (k / 4 % 256)), (0x002, BitVec.ofNat 64 (k / 1024)),
    (0x003, BitVec.ofNat 64 s.dev.pkgId), (0x004, BitVec.ofNat 64 c.cur.role), (0x005, BitVec.ofNat 64 c.cur.team),
    (0x006, BitVec.ofNat 64 c.world), (0x007, BitVec.ofNat 64 (c.active.getD 0)), (0x010, c.trapPc),
    (0x011, c.trapCause.zeroExtend 64), (0x012, c.trapInfo),
    (0x020, BitVec.ofNat 64 ((if c.inHandler then 4 else 0) + (if c.rngWrap then 2 else 0) + (if c.scopeClamped then 1 else 0))),
    (0x021, c.fpstat.zeroExtend 64), (0x030, BitVec.ofNat 64 (s.now.time / 2 ^ 32)),
    (0x040, BitVec.ofNat 64 (c.spilled * 2 ^ 16 + c.resident)),
    (0x041, BitVec.ofNat 64 (vaLocal + 0x8000 * (63 - k % 4))),
    (0x042, BitVec.ofNat 64 (vaLocal + 0x8000 * (63 - k % 4) + 264 * c.cur.spillWindows)),
    (0x100, BitVec.ofNat 64 s.now.clock) ]

/-- The state after core `k` takes a synchronous trap that has made no change: TRAP_PC is the instruction's own offset, and
the instruction counts as issued (R329). -/
def State.trapped (s : State) (k cause : Nat) (info : Word) : State :=
  { s with dev := (s.dev.issued k).takeTrap s.now k cause info (s.dev.core k).pc }

/-! ## Table 9.3 -/

/-- The predicate, destination, vector sources, element width and element results of a lane float instruction; the function
units and VFCVT apart (R150, R151). -/
def floatSpec (c : Core) : Instr → Option (Pred × Reg × List Reg × Nat × (Nat → List FRes))
  | .vfadd p ty md d a b => some (p, d, [a, b], (tyFmt ty).w, fun i =>
      List.zipWith (fadd (tyFmt ty) md) (elems (tyFmt ty).w (c.lane a i)) (elems (tyFmt ty).w (c.lane b i)))
  | .vfsub p ty md d a b => some (p, d, [a, b], (tyFmt ty).w, fun i =>
      List.zipWith (fsub (tyFmt ty) md) (elems (tyFmt ty).w (c.lane a i)) (elems (tyFmt ty).w (c.lane b i)))
  | .vfmul p ty md d a b => some (p, d, [a, b], (tyFmt ty).w, fun i =>
      List.zipWith (fmul (tyFmt ty) md) (elems (tyFmt ty).w (c.lane a i)) (elems (tyFmt ty).w (c.lane b i)))
  | .vfma p ty md d a b e => some (p, d, [a, b, e], (tyFmt ty).w, fun i =>
      List.zipWith (fun x yz => ffma (tyFmt ty) md x yz.1 yz.2) (elems (tyFmt ty).w (c.lane a i))
        ((elems (tyFmt ty).w (c.lane b i)).zip (elems (tyFmt ty).w (c.lane e i))))
  | .vfmin p ty md d a b => some (p, d, [a, b], (tyFmt ty).w, fun i =>
      List.zipWith (fminmax true (tyFmt ty) md) (elems (tyFmt ty).w (c.lane a i)) (elems (tyFmt ty).w (c.lane b i)))
  | .vfmax p ty md d a b => some (p, d, [a, b], (tyFmt ty).w, fun i =>
      List.zipWith (fminmax false (tyFmt ty) md) (elems (tyFmt ty).w (c.lane a i)) (elems (tyFmt ty).w (c.lane b i)))
  | .vfabs p ty md d a => some (p, d, [a], (tyFmt ty).w, fun i => (elems (tyFmt ty).w (c.lane a i)).map (fabs (tyFmt ty) md))
  | .vfneg p ty md d a => some (p, d, [a], (tyFmt ty).w, fun i => (elems (tyFmt ty).w (c.lane a i)).map (fneg (tyFmt ty) md))
  | .vfscl p ty md d a b => some (p, d, [a, b], (tyFmt ty).w, fun i =>
      List.zipWith (fun x y => fscl (tyFmt ty) md x (toSigned (tyFmt ty).w y)) (elems (tyFmt ty).w (c.lane a i))
        (elems (tyFmt ty).w (c.lane b i)))
  | _ => none

/-- The predicate, destination, source and result of a function unit of FP32 in a lane (R152). -/
def unitSpec (c : Core) : Instr → Option (Pred × Reg × Reg × (Nat → FRes))
  | .vexp2 p md d a => some (p, d, a, fun i => fexp2 f32 md (c.lane a i).toNat)
  | .vlog2 p md d a => some (p, d, a, fun i => flog2 f32 md (c.lane a i).toNat)
  | .vrcp p md d a => some (p, d, a, fun i => frcp f32 md (c.lane a i).toNat)
  | .vrsq p md d a => some (p, d, a, fun i => frsq f32 md (c.lane a i).toNat)
  | _ => none

/-- All the flags of a list of results. -/
def allFlags (rs : List FRes) : BitVec 5 := rs.foldl (fun fl r => fl ||| r.flags) 0

/-- The new lane of a conversion (R154): 32 / max(ws, wd) elements, which fill the part of a destination that is no wider, or
come from the part and fill a wider one. -/
def cvtElems (x y : NumFmt) (md : BitVec 4) (part : Nat) (a old : Lane) : List Nat :=
  let n := 32 / Nat.max x.width y.width
  (List.range (32 / y.width)).map fun e =>
    if y.width ≤ x.width then
      if part * n ≤ e ∧ e < part * n + n then (convert x y md (elemOf x.width (e - part * n) a)).bits
      else elemOf y.width e old
    else (convert x y md (elemOf x.width (part * n + e) a)).bits

/-- The results of the elements that a lane converts. -/
def cvtResults (x y : NumFmt) (md : BitVec 4) (part : Nat) (a : Lane) : List CvtRes :=
  let n := 32 / Nat.max x.width y.width
  (List.range n).map fun e => convert x y md (elemOf x.width (if y.width ≤ x.width then e else part * n + e) a)

/-- Counts after a list of conversions, each in one class (R66). -/
def Counts.tally (n : Counts) (rs : List CvtRes) : Counts :=
  let of := fun (k : CountClass) => (rs.filter fun r => decide (r.cls = k)).length
  { nanIn := n.nanIn + of .nanIn, overflow := n.overflow + of .overflow, underflow := n.underflow + of .underflow,
    inexact := n.inexact + of .inexact, used := n.used || !rs.isEmpty }

/-! ## Table 9.6 -/

/-- The predicate, scalar and vector sources, and the core that a reduction or one-lane move leaves (R158 to R161). -/
def reduceSpec (c : Core) : Instr → Option (Pred × List Reg × List Reg × Core)
  | .mpopc p d a => some (p, [], [], c.writeG d (BitVec.ofNat 64 (activeLanes (c.readM a.toNat &&& c.mask p)).length))
  | .mfirst p d a => some (p, [], [], c.writeG d (BitVec.ofNat 64 ((activeLanes (c.readM a.toNat &&& c.mask p)).headD 32)))
  | .vext p d a b => some (p, [b], [a], c.writeG d ((c.lane a ((c.readG b).toNat % 32)).zeroExtend 64))
  | .vins p d a b => some (p, [a, b], [], c.writeV d (c.mask p &&& ((1 : Lane) <<< ((c.readG b).toNat % 32))) fun _ => (c.readG a).truncate 32)
  | .vredadd p ty md d a =>
    let x := upSweep ty md (redInput ty c a (c.mask p), 0)
    some (p, [], [a], { c.writeG d (redResult ty (x.1.getD 31 0)) with fpstat := c.fpstat ||| x.2 })
  | .vredmax p ty d a =>
    let r := redMinMax ty true ((activeLanes (c.mask p)).map fun i => (c.lane a i).toNat)
    some (p, [], [a], { c.writeG d (redResult ty r.bits) with fpstat := c.fpstat ||| r.flags })
  | .vredmin p ty d a =>
    let r := redMinMax ty false ((activeLanes (c.mask p)).map fun i => (c.lane a i).toNat)
    some (p, [], [a], { c.writeG d (redResult ty r.bits) with fpstat := c.fpstat ||| r.flags })
  | .vargmax p d a => match argmax c a (c.mask p) with
      | some i => some (p, [], [a], (c.writeG d (BitVec.ofNat 64 i)).writeG (d + 1) ((c.lane a i).zeroExtend 64))
      | none => some (p, [], [a], (c.writeG d 0xFFFFFFFF).writeG (d + 1) 0x7FC00000)
  | .vscan p ty md d a =>
    let x := downSweep ty md (upSweep ty md (redInput ty c a (c.mask p), 0))
    some (p, [], [a], { c.writeV d (c.mask p) (fun i => BitVec.ofNat 32 (x.1.getD i 0)) with fpstat := c.fpstat ||| x.2 })
  | .vcompact p d a b =>
    let xs := (activeLanes (c.mask p)).map (c.lane a)
    some (p, [], [a], (c.writeLanes d ((List.range xs.length).zip xs)).writeG b (BitVec.ofNat 64 xs.length))
  | .vrng p d a b e => some (p, [a, b, e], [],
      { c.writeV d (c.mask p) (rngLane (c.readG a) (c.readG b) (c.readG e)) with
        rngWrap := c.rngWrap || decide (0xFFFF < (c.readG e).toNat) || decide (2 ^ 48 ≤ (c.readG b).toNat) })
  | _ => none

/-! ## Tables 7.9 and 7.10 -/

/-- What a memory instruction accesses (R139, R141, R142): its kind, the bytes of an element, and its elements in ascending order
of lanes; where the result lands, and the lanes that one loaded element is written to, if not its own. -/
structure Accesses where
  kind : MemKind
  bytes : Nat
  elems : List Elem
  dst : Dst
  spread : Lane

def one (kind : MemKind) (bytes : Nat) (va data cmp : Word) (dst : Dst) : Accesses :=
  { kind := kind, bytes := bytes, elems := [{ lane := 0, va := va, data := data, cmp := cmp }], dst := dst, spread := 0 }

def perLane (kind : MemKind) (mask : Lane) (va : Nat → Word) (data : Nat → Lane) (dst : Dst) : Accesses :=
  { kind := kind, bytes := 4, elems := (activeLanes mask).map fun i => { lane := i, va := va i, data := (data i).zeroExtend 64, cmp := 0 },
    dst := dst, spread := 0 }

/-- Where the result of a scalar load or atomic lands: the physical place of g_d, or nowhere for g0. -/
def gDst (c : Core) (d : Reg) : Dst := if d = 0 then .none else .g (c.gAt d)

/-- The predicate, the scalar and vector sources and the accesses of a memory instruction other than PREF. -/
def memSpec (c : Core) : Instr → Option (Pred × List Reg × List Reg × Accesses)
  | .ld p sz d b x disp => some (p, [b, x], [], one .load (2 ^ sz.toNat) (c.readG b + c.readG x + disp.signExtend 64) 0 0 (gDst c d))
  | .vld p d b x disp => some (p, [b, x], [], perLane .load (c.mask p)
      (fun i => c.readG b + c.readG x + disp.signExtend 64 + BitVec.ofNat 64 (4 * i)) (fun _ => 0) (.v d.toNat))
  | .vldg p d b x disp => some (p, [b], [x], perLane .load (c.mask p)
      (fun i => c.readG b + (c.lane x i).signExtend 64 + disp.signExtend 64) (fun _ => 0) (.v d.toNat))
  | .vldb p d b x disp => some (p, [b, x], [], { one .load 4 (c.readG b + c.readG x + disp.signExtend 64) 0 0 (.v d.toNat) with spread := c.mask p })
  | .st p sz r b x disp => some (p, [r, b, x], [], one .store (2 ^ sz.toNat) (c.readG b + c.readG x + disp.signExtend 64) (c.readG r) 0 .none)
  | .vst p r b x disp => some (p, [b, x], [r], perLane .store (c.mask p)
      (fun i => c.readG b + c.readG x + disp.signExtend 64 + BitVec.ofNat 64 (4 * i)) (c.lane r) .none)
  | .vsts p r b x disp => some (p, [b], [r, x], perLane .store (c.mask p)
      (fun i => c.readG b + (c.lane x i).signExtend 64 + disp.signExtend 64) (c.lane r) .none)
  | .aadd p sz d b x disp => some (p, [d, b, x], [], one (.atomic .add) (2 ^ sz.toNat) (c.readG b + c.readG x + disp.signExtend 64) (c.readG d) 0 (gDst c d))
  | .amin p sz md d b x disp => some (p, [d, b, x], [], one (.atomic (if md.getLsbD 0 then .minu else .min)) (2 ^ sz.toNat)
      (c.readG b + c.readG x + disp.signExtend 64) (c.readG d) 0 (gDst c d))
  | .amax p sz md d b x disp => some (p, [d, b, x], [], one (.atomic (if md.getLsbD 0 then .maxu else .max)) (2 ^ sz.toNat)
      (c.readG b + c.readG x + disp.signExtend 64) (c.readG d) 0 (gDst c d))
  | .aand p sz d b x disp => some (p, [d, b, x], [], one (.atomic .and) (2 ^ sz.toNat) (c.readG b + c.readG x + disp.signExtend 64) (c.readG d) 0 (gDst c d))
  | .aor p sz d b x disp => some (p, [d, b, x], [], one (.atomic .or) (2 ^ sz.toNat) (c.readG b + c.readG x + disp.signExtend 64) (c.readG d) 0 (gDst c d))
  | .axor p sz d b x disp => some (p, [d, b, x], [], one (.atomic .xor) (2 ^ sz.toNat) (c.readG b + c.readG x + disp.signExtend 64) (c.readG d) 0 (gDst c d))
  | .axchg p sz d b x disp => some (p, [d, b, x], [], one (.atomic .xchg) (2 ^ sz.toNat) (c.readG b + c.readG x + disp.signExtend 64) (c.readG d) 0 (gDst c d))
  | .acas p sz d b x disp => some (p, [d, b, x], [], one (.atomic .cas) (2 ^ sz.toNat) (c.readG b + disp.signExtend 64) (c.readG d) (c.readG x) (gDst c d))
  | .vaadd p d b x disp => some (p, [b], [d, x], perLane (.atomic .add) (c.mask p)
      (fun i => c.readG b + (c.lane x i).signExtend 64 + disp.signExtend 64) (c.lane d) (.v d.toNat))
  | .vamax p d b x disp => some (p, [b], [d, x], perLane (.atomic .max) (c.mask p)
      (fun i => c.readG b + (c.lane x i).signExtend 64 + disp.signExtend 64) (c.lane d) (.v d.toNat))
  | _ => none

/-- The addresses of the elements have clear bits 63:56, are aligned, and translate to the physical addresses `pa`. A walk of
the tables for one element may renew the stale translation of another, so an access of several elements is spoken of where
none is stale. -/
def State.reach (s : State) (k : Nat) (x : Accesses) (pa : Elem → Nat) : Prop :=
  (s.dev.stale = [] ∨ x.elems.length = 1) ∧
  ∀ e ∈ x.elems, e.va.toNat < 2 ^ 56 ∧ e.va.toNat % x.bytes = 0 ∧
    s.dev.translate s.seq (s.dev.reqOf k x.kind) e.va.toNat = .mem (pa e)

/-- What a load of `n` bytes at a physical address may return to a core of quad `q` (R177, R178): the bytes of memory, or
those of a lease copy of the line that the quad holds. -/
def Dev.mayRead (d : Dev) (q pa n : Nat) (x : Word) : Prop :=
  x = wordOf (d.bytesAt pa n) ∨
  (isHbm pa = true ∧ ∃ l ∈ d.leases, l.quad = q ∧ l.line = pa / 128 ∧ x = wordOf (sliceB l.bytes (pa % 128) n))

/-- Memory after a list of stores, each an address and its data, in order. -/
def storeAll (n : Nat) (mem : List Host.Cell) (xs : List (Nat × Word)) : List Host.Cell :=
  xs.foldl (fun mem x => SMap.setRun mem x.1 (bytesOf n x.2)) mem

/-- Memory after a list of read-modify-writes of one operation, in order, and the values that they read. -/
def atomicAll (op : AtomicOp) (n : Nat) (cmp : Word) : List Host.Cell → List (Nat × Word) → List Host.Cell × List Word
  | mem, [] => (mem, [])
  | mem, x :: xs =>
    let old := wordOf (SMap.getRun mem x.1 n)
    let r := atomicAll op n cmp (SMap.setRun mem x.1 (bytesOf n (atomicNew op n old x.2 cmp))) xs
    (r.1, old :: r.2)

/-- The result of a load or atomic in flight, ready to land. -/
def inFlight (c : Core) (dst : Dst) (vals : List (Nat × Word)) : Landing :=
  { tag := c.nextTag, dst := dst, vals := vals, flags := 0, live := true, ready := true, reply := true, timer := none }

/-! ## Engine commands -/

/-- A command for an engine (R184, R215, R216): the engine, its sources, the values of g_a, g_b and g_c that it carries, the
record that it names with the kinds that the record may have (none listed: any), and its address operands. -/
structure Order where
  engine : Nat
  reads : List Reg
  a : Word
  b : Word
  c : Word
  named : Option (Nat × List Nat)
  operands : Option Rec → List Operand

/-- The command that an X-format instruction of a core issues; CPYM apart, which issues two. -/
def orderSpec (s : State) (k : Nat) : Instr → Option Order
  | i@(.cpy a b c _ tid fl) =>
    let g := (s.dev.core k).readG
    some { engine := 0, reads := [a, b, c], a := g a, b := g b, c := g c, named := some (tid.toNat, []), operands := fun r => match r with
      | some r => s.dev.copyOperands (s.dev.newCmd { core := k, eng := none } i (g a) (g b) (g c)) fl r
      | none => [] }
  | .cpys a b c tid _ =>
    let g := (s.dev.core k).readG
    some { engine := 0, reads := [a, b, c], a := g a, b := g b, c := g c, named := some (tid.toNat, []), operands := fun r => match r with
      | some r => (if g a = 0 then [] else [spanOf true r 32768]) ++ [hull true (g c) 32] ++ (if g b = 0 then [] else [hull false (g b) 1024])
      | none => [] }
  | .mma _ _ tid | .mmaz _ _ tid | .mldb _ tid =>
    some { engine := 1, reads := [], a := 0, b := 0, c := 0, named := some (tid.toNat, []), operands := fun _ => [] }
  | .mdrain _ b _ tid fl =>
    some { engine := 1, reads := [b], a := 0, b := (s.dev.core k).readG b, c := 0, named := some (tid.toNat, []), operands := fun r => match r with
      | some r => if fl.getLsbD 1 then [spanOf true r (drainBytes r.format)] else []
      | none => [] }
  | .mzero _ => some { engine := 1, reads := [], a := 0, b := 0, c := 0, named := none, operands := fun _ => [] }
  | .aload a tid => some { engine := 2, reads := [a], a := (s.dev.core k).readG a, b := 0, c := 0, named := some (tid.toNat, [3]), operands := fun r =>
      match r with | some r => [spanOf false r r.span] | none => [] }
  | .abindMaskSink a tid _ | .abindTreeSink a tid _ | .abindSpillArea a tid _ =>
    some { engine := 2, reads := [a], a := (s.dev.core k).readG a, b := 0, c := 0, named := some (tid.toNat, [0]), operands := fun _ => [] }
  | .abindEventSink a _ _ | .abindLimits a _ _ | .abindUnbind a _ _ =>
    some { engine := 2, reads := [a], a := (s.dev.core k).readG a, b := 0, c := 0, named := none, operands := fun _ => [] }
  | i@(.arun a b) =>
    let g := (s.dev.core k).readG
    some { engine := 2, reads := [a, b], a := g a, b := g b, c := 0, named := none, operands :=
      stepOps s.dev (s.dev.newCmd { core := k, eng := none } i (g a) (g b) 0) }
  | i@(.astep a _) =>
    let g := (s.dev.core k).readG
    some { engine := 2, reads := [a], a := g a, b := 0, c := 0, named := none, operands :=
      stepOps s.dev (s.dev.newCmd { core := k, eng := none } i (g a) 0 0) }
  | .away tid => some { engine := 2, reads := [], a := 0, b := 0, c := 0, named := some (tid.toNat, [4]), operands := fun r =>
      match r with | some r => [spanOf true r r.span] | none => [] }
  | .aresume tid => some { engine := 2, reads := [], a := 0, b := 0, c := 0, named := some (tid.toNat, [4]), operands := fun r =>
      match r with | some r => [spanOf false r r.span] | none => [] }
  | .aclear _ => some { engine := 2, reads := [], a := 0, b := 0, c := 0, named := none, operands := fun _ => [] }
  | _ => none

/-- The record that a command names, where it is valid and of a listed kind. -/
def State.namedRecord (s : State) (k : Nat) (o : Order) : Option Rec :=
  match o.named with
  | none => none
  | some (tid, kinds) =>
    (s.dev.useRecord s.seq (dieOfQuad (quadOfCore k)) (s.dev.core k).world tid).2.filter fun r => kinds.isEmpty || kinds.contains r.kind

/-- The bytes that a command holds a range counter for. -/
def heldAt (charged : List Charge) (n : Nat) : Nat := ((charged.filter fun e => e.ctr == n).map Charge.n).sum

/-! ## Correct rounding (R53), in units of a format's smallest subnormal -/

/-- `n` is `x / k` rounded among the values `V` in mode `rnd`: the nearest, of two equally near the even one; the largest in magnitude
that does not pass `x / k`; the largest not above it; the smallest not below it. -/
def Nearest (rnd k : Nat) (x n : Int) (even : Prop) (V : Int → Prop) : Prop :=
  match rnd with
  | 0 => ∀ v, V v → (k * n - x).natAbs ≤ (k * v - x).natAbs ∧ (v ≠ n → (k * n - x).natAbs = (k * v - x).natAbs → even)
  | 1 => (k * n).natAbs ≤ x.natAbs ∧ 0 ≤ n * x ∧ ∀ v, V v → (k * v).natAbs ≤ x.natAbs → v.natAbs ≤ n.natAbs
  | 2 => k * n ≤ x ∧ ∀ v, V v → k * v ≤ x → v ≤ n
  | _ => x ≤ k * n ∧ ∀ v, V v → x ≤ k * v → n ≤ v

/-- The value of a finite encoding, as a multiple of the format's smallest subnormal. -/
def Fmt.units (f : Fmt) (b : Nat) : Int :=
  let ex := b / 2 ^ f.mb % 2 ^ f.eb
  let m := b % 2 ^ f.mb
  let v := if ex = 0 then m else (2 ^ f.mb + m) * 2 ^ (ex - 1)
  if b / 2 ^ (f.w - 1) % 2 = 1 then -Int.ofNat v else Int.ofNat v

def Fmt.finite (f : Fmt) (b : Nat) : Prop := b < 2 ^ f.w ∧ b % 2 ^ (f.w - 1) ≤ f.maxBits

/-- An operand under FTZ. -/
def Fmt.read (f : Fmt) (ftz : Bool) (b : Nat) : Int := if ftz = true ∧ (f.units b).natAbs < 2 ^ f.mb then 0 else f.units b

/-- `x / k`, rounded with no bound on the exponent, exceeds the largest finite value. -/
def Fmt.overflows (f : Fmt) (rnd k : Nat) (x : Int) : Prop :=
  let top := (f.units f.maxBits).natAbs
  let next := top + (top - (f.units (f.maxBits - 1)).natAbs)
  if rnd = 0 then k * (top + next) < 2 * x.natAbs ∨ (k * (top + next) = 2 * x.natAbs ∧ f.maxBits % 2 = 1)
  else if (rnd = 2 ∧ x < 0) ∨ (rnd = 3 ∧ 0 < x) then k * top < x.natAbs
  else k * next ≤ x.natAbs

/-- `r` is the result and the flags of `x / k` in a format (R53, R151, Table 3.3, Table 3.6; the overflow of the modes that round
toward zero is log 34). -/
def Fmt.rounds (f : Fmt) (md : BitVec 4) (sat : Bool) (k : Nat) (x : Int) (r : FRes) : Prop :=
  let rnd := field md 0 2
  (f.overflows rnd k x → r.flags = flagOF ||| flagNX ∧
    r.bits = (if x < 0 then 2 ^ (f.w - 1) else 0) +
      (if sat = true ∨ rnd = 1 ∨ (rnd = 2 ∧ 0 < x) ∨ (rnd = 3 ∧ x < 0) then f.maxBits else (2 ^ f.eb - 1) * 2 ^ f.mb)) ∧
  (¬ f.overflows rnd k x → ∃ b, f.finite b ∧ Nearest rnd k x (f.units b) (b % 2 = 0) (fun v => ∃ c, f.finite c ∧ f.units c = v) ∧
    (x ≠ 0 → (2 ^ (f.w - 1) ≤ b ↔ x < 0)) ∧
    (if md.getLsbD 2 = true ∧ f.units b ≠ 0 ∧ (f.units b).natAbs < 2 ^ f.mb then
      r.bits = b / 2 ^ (f.w - 1) * 2 ^ (f.w - 1) ∧ r.flags = flagUF ||| flagNX
    else
      r.bits = b ∧ (r.flags.getLsbD 0 = true ↔ k * f.units b ≠ x) ∧
      ((f.units b).natAbs < 2 ^ f.mb → r.flags.getLsbD 1 = r.flags.getLsbD 0) ∧
      (k * 2 ^ f.mb ≤ x.natAbs → r.flags.getLsbD 1 = false) ∧ r.flags.toNat < 4))

/-- Operation `cmd` of engine `e` of a quad has ended with a fault code or none (R195, R217, R221): it has left the engine, the status
word keeps the fault of an operation that ended in fault, and the issuing core's record of it is done. -/
def Ended (s t : State) (q e : Nat) (cmd : Cmd) (fault : Option Nat) : Prop :=
  (t.dev.engine q e).running = (s.dev.engine q e).running.filter (fun o => o.seq != cmd.seq) ∧
  (t.dev.engine q e).fault = (match fault with | some c => some (c, cmd.seq, cmd.issuer.core) | none => (s.dev.engine q e).fault) ∧
  (∀ k, cmd.issuer.core = some k → ∀ o ∈ (t.dev.core k).ops, o.eng = e → o.seq = cmd.seq → o.done = true ∧ o.fault = fault)

/-- What one transition asks of a class and of the stack's top, and where it leads, for a transition that pushes nothing (R250). -/
def Network.moves (n : Network) (cls : Nat) (c : Config) (t : Word) (x : Config) : Prop :=
  let top := match c.top with | none => none | some i => (Tab.get? n.nodes i).map GssNode.symbol
  (SMap.get n.masks (32 * tMask t + cls / 8)).getLsbD (cls % 8) = true ∧
  (match tTest t with
    | 0 => True
    | 1 => c.top = none
    | 2 => top = some (tV t)
    | _ => c.top ≠ none ∧ top ≠ some (tV t)) ∧
  (tPop t = true → c.top ≠ none) ∧ x = { state := tTarget t, top := if tPop t then parentOf n.nodes c.top else c.top }

/-- Core `k` has completed an instruction that goes on at the next one, with the scalar registers `g`; no byte has changed. -/
def Went (s t : State) (k : Nat) (g : SMap 64) : Prop :=
  (t.dev.core k).pc = (s.dev.core k).pc + 8 ∧ (t.dev.core k).g = g ∧ (t.dev.core k).wait = none ∧
  (t.dev.core k).trapCause = (s.dev.core k).trapCause ∧ t.dev.mem = s.dev.mem

/-- The state in which core `k` waits on `w`, with nothing else changed. -/
def State.stalled (s : State) (k : Nat) (w : Wait) : State :=
  { s with dev := s.dev.setCore k { s.dev.core k with wait := some w } }

/-- The host has been told of a completion (R319, R323): its record stands at the host's address unless none is wanted, and a completion
event in the event ring of the world, unless that is full. -/
def Answered (s t : State) (n w doneAddr : Nat) (quiet : Bool) (record : Bytes) : Prop :=
  let x := s.dev.world w
  let told := if quiet then s.dev.hostMem else SMap.setRun s.dev.hostMem doneAddr record
  t.dev.hostMem = if x.evSize.toNat ≤ (x.evTail - x.evHead).toNat then told else
    SMap.setRun told (x.evBase.toNat + 128 * (x.evTail.toNat % x.evSize.toNat))
      (eventBytes 1 w 0 x.evSeq (BitVec.ofNat 64 s.now.ns) (record ++ bytesOfNat 8 n))

/-- A management command at the head of queue `n` has been consumed and completes with status 0, or 4 and a reason (Table 23.8). -/
def Managed (s t : State) (n : Nat) (q : WorkQueue) (e : Bytes) (reason : Option Nat) : Prop :=
  Tab.get? t.dev.queues n = some { q with consumer := q.consumer + 1 } ∧ t.dev.mem = s.dev.mem ∧
  Answered s t n 0 (u64At e 0x10) ((u16At e 2).testBit 1)
    (bytesOfNat 8 (u64At e 0x18) ++ (match reason with
      | none => bytesOfNat 2 0 ++ bytesOfNat 2 0xFFFF
      | some r => bytesOfNat 2 4 ++ bytesOfNat 2 r) ++ bytesOfNat 4 0xFFFFFFFF)

/-- The host has been told of a trap or halt of core `k` (R131, R132, R135, R323): an event stands in the event ring of its world, unless
that is full. -/
def TrapReported (d d' : Dev) (now : Now) (k cause : Nat) (info pc : Word) : Prop :=
  let w := (d.core k).world
  let x := d.world w
  x.tdisp ≠ .error → d'.hostMem = if x.evSize.toNat ≤ (x.evTail - x.evHead).toNat then d.hostMem else
    SMap.setRun d.hostMem (x.evBase.toNat + 128 * (x.evTail.toNat % x.evSize.toNat))
      (eventBytes 2 w (k / 1024) x.evSeq (BitVec.ofNat 64 now.ns)
        (([cause, info.toNat, pc.toNat, k / 1024, k / 4 % 256, k % 4] : List Nat).flatMap (bytesOfNat 8)))

end Sys2Proof.Machine
end

