-- ==== Sys2Proof/Certificates/Slice0/Obligations.lean ====
section
/-! DEFINITION. Statements about the model, each a proposition named Obligations.<Name>. -/

open Sys2Proof Sys2Proof.Machine

/-! ## Encoding and the step -/

/-- Words of Table 5.8 and of Table 7.2 decode to the instructions that the spec names beside them; an all-zero word, an unlisted
major and a set reserved bit decode to nothing. -/
def Obligations.WordsOfTheSpecDecode : Prop :=
  decode 0x0851558000000000 = .ok (.add Pred.all 20 21 22) ∧
  decode 0x190C414603015000 = .ok (.vfma { m := 2, pn := true } 0 1 3 4 5 6) ∧
  decode 0x10251530FFFFFFFD = .ok (.bcmp 2 20 21 (BitVec.ofInt 32 (-3))) ∧
  decode 0x20A2901000000010 = .ok (.ld Pred.all 2 40 41 0 16) ∧
  decode 0x28552000000A0005 = .ok (.fence 5 1 1 2 5 0x140 0 0) ∧
  decode 0x0101000000000000 = .ok .halt ∧
  decode 0x0102000000000000 = .ok (.brk 0) ∧
  decode 0 = .error .noMajor ∧ decode 0xFF00000000000000 = .error .noMajor ∧ decode 0x0851558000000001 = .error .reservedNonzero

/-- Every well-formed instruction of the opcode map has a word, and the word decodes to it; an event has none. -/
def Obligations.EncodedInstructionsDecodeBack : Prop :=
  ∀ i : Instr, wellFormed i = true → (isEvent i = true ∧ encode i = none) ∨ (∃ w, encode i = some w ∧ decode w = .ok i)

/-- A word that decodes is the word that the encoder gives the instruction, which is well-formed: no two words stand for one
instruction, and no reserved bit is ignored (R89). -/
def Obligations.DecodedWordsAreCanonical : Prop :=
  ∀ (w : Word) (i : Instr), decode w = .ok i → wellFormed i = true ∧ encode i = some w

/-- An ACTIVE core that has started and not halted fetches the word at its pc where that is a multiple of 8 from word 8 to the
header's code_words. -/
def Obligations.CoresFetchTheirPlane : Prop :=
  ∀ (d : Dev) (now : Now) (k n : Nat), (d.core k).active = some n → ((d.core k).plane n).state = .active →
    (d.core k).started = true → (d.core k).startAt ≤ now.clock → (d.core k).halted = false →
    (d.core k).pc.toNat % 8 = 0 → 8 ≤ (d.core k).pc.toNat / 8 → (d.core k).pc.toNat / 8 < 2048 →
    (d.core k).pc.toNat / 8 < (SMap.get ((d.core k).plane n).store 3).toNat / 2 ^ 32 % 2 ^ 16 →
    d.fetch now (.core k) = some (SMap.get ((d.core k).plane n).store ((d.core k).pc.toNat / 8))

/-- When the word at the pc decodes to an instruction and no asynchronous cause is to be taken first (R130), the step is that
instruction's effect, after which an event's turn comes and the model's step counter rises; a scheduled issue hands over no turn.
A core outside a handler that has a pending cause takes it in place of the instruction. -/
def Obligations.StepRunsTheDecodedInstruction : Prop :=
  ∀ (s : State) (w : Word) (i : Instr), s.dev.stopped = false → decode w = .ok i →
    (s.schedule = [] → s.phase = .issue → s.dev.takesAsync s.now s.actor = none → s.dev.fetch s.now s.actor = some w →
      step s = match exec i s with
        | .next t => .next { t with phase := .events, seq := t.seq + 1 }
        | .fault f => .fault f
        | .refused r => .refused r) ∧
    (∀ a rest, s.schedule = .issue a :: rest → s.actor.place < a.place → s.dev.takesAsync s.now a = none →
      s.dev.fetch s.now a = some w →
      step s = match exec i { s with schedule := rest, actor := a } with
        | .next t => .next { t with seq := t.seq + 1 }
        | .fault f => .fault f
        | .refused r => .refused r) ∧
    (∀ k c cs, s.schedule = [] → s.phase = .issue → s.actor = .core k → s.dev.coreIssues s.now k = true →
      (s.dev.core k).inHandler = false → (s.dev.core k).async = c :: cs →
      step s = match exec (.asyncTrapTaken k) s with
        | .next t => .next { t with phase := .events, seq := t.seq + 1 }
        | .fault f => .fault f
        | .refused r => .refused r)

/-- No instruction and no event moves the turn: the schedule, the phase, the agent and the step counter are the step's own. -/
def Obligations.MeaningsLeaveTheTurn : Prop :=
  ∀ (i : Instr) (s t : State), exec i s = .next t →
    t.schedule = s.schedule ∧ t.phase = s.phase ∧ t.actor = s.actor ∧ t.seq = s.seq

/-- A core's word that does not decode traps ILLEGAL with the word in TRAP_INFO; a fetch outside the code traps with 0. On an
engine sequencer either ends the program with fault code 0x01. Each counts as an issued instruction of its world (R329). -/
def Obligations.UndecodableWordsTrapIllegal : Prop :=
  ∀ (s : State), s.dev.stopped = false → s.schedule = [] → s.phase = .issue →
    (∀ k w e, s.actor = .core k → s.dev.takesAsync s.now (.core k) = none → s.dev.fetch s.now (.core k) = some w →
      decode w = .error e →
      step s = .next { s.trapped k 0x01 w with phase := .events, seq := s.seq + 1 }) ∧
    (∀ k, s.actor = .core k → s.dev.takesAsync s.now (.core k) = none → s.dev.coreIssues s.now k = true →
      (s.dev.core k).cur.inCode (s.dev.core k).pc = false →
      step s = .next { s.trapped k 0x01 0 with phase := .events, seq := s.seq + 1 }) ∧
    (∀ q e p w r, s.actor = .engine q e → s.dev.progIssues q e = some p → s.dev.fetch s.now (.engine q e) = some w →
      decode w = .error r →
      step s = .next { s with dev := (s.dev.issuedBy q e).progFault q e 0x01, phase := .events, seq := s.seq + 1 }) ∧
    (∀ q e p, s.actor = .engine q e → s.dev.progIssues q e = some p → (s.dev.core p.core).cur.inCode p.pc = false →
      step s = .next { s with dev := (s.dev.issuedBy q e).progFault q e 0x01, phase := .events, seq := s.seq + 1 })

/-! ## Reset, start-up and the invariant -/

/-- The package at reset is held before its start: no core, quad, team or world is set up, memory lists nothing, device time is
0 and the fabric clock is 1,100 MHz (DESIGN CHOICE where the spec gives no reset value, log 5). -/
def Obligations.ResetHoldsNothing : Prop :=
  State.reset.dev.up = false ∧ State.reset.dev.stopped = false ∧ State.reset.dev.mem = [] ∧ State.reset.dev.teams = [] ∧
  State.reset.now.time = 0 ∧ State.reset.now.mhz = 1100 ∧ State.reset.schedule = [] ∧
  (∀ k r, (State.reset.dev.core k).readG r = 0) ∧ (∀ k r i, (State.reset.dev.core k).lane r i = 0) ∧
  (∀ k, (State.reset.dev.core k).fpstat = 0 ∧ (State.reset.dev.core k).inHandler = false ∧ (State.reset.dev.core k).trapPc = 0)

def Obligations.ResetMeetsTheInvariant : Prop := State.reset.Inv

/-- The fabric clock stays one of 600, 700 … 1,100 MHz, whatever issues and whatever happens. -/
def Obligations.StepsKeepTheInvariant : Prop :=
  ∀ s t : State, s.Inv → step s = .next t → t.Inv

/-- Memory keeps its canonical form, addresses rising and no listed byte 0, whatever issues and whatever happens. -/
def Obligations.StepsKeepMemoryCanonical : Prop :=
  ∀ s t : State, SMap.wf s.dev.mem = true → step s = .next t → SMap.wf t.dev.mem = true

/-- Device time and the clock never decrease, whatever issues and whatever happens, while the package is up; only a start sets
them back (R274). -/
def Obligations.DeviceTimeNeverDecreases : Prop :=
  ∀ s t : State, s.dev.up = true → (∀ fails rest, s.schedule ≠ .event (.startUp fails) :: rest) → step s = .next t →
    s.now.time ≤ t.now.time ∧ s.now.clock ≤ t.now.clock

/-- START_UP, whichever of its steps fail: device time counts from 0 at 1,100 MHz, the staged firmware runs, no core or team of before is
left, and the package is either up or held in reset. Held in reset, the machine does nothing until a start; a start runs, and so does
the staging of an image through the recovery mailbox (R325), which changes no more than the staged firmware. -/
def Obligations.StartUpBeginsAnew : Prop :=
  (∀ (s : State) (fails : Failures), ∃ t, exec (.startUp fails) s = .next t ∧ t.now = Now.reset ∧ t.now.time = 0 ∧ t.now.mhz = 1100 ∧
      t.dev.starts = s.dev.starts + 1 ∧ t.dev.firmware = s.dev.staged ∧ t.dev.cores = [] ∧ t.dev.teams = [] ∧
      t.dev.up = !t.dev.stopped) ∧
  (∀ s : State, s.dev.stopped = true → (s.restarts = false → step s = .fault .heldInReset) ∧
      (∀ fails rest, s.schedule = .event (.startUp fails) :: rest → ∃ t, step s = .next t ∧ t.now = Now.reset) ∧
      (∀ image sig rest, s.schedule = .event (.firmwareStage image sig) :: rest → ∃ t, step s = .next t ∧
        t.dev = { s.dev with staged := if ed25519Verify Config.vendorKey (sha512 image) sig = true then image else s.dev.staged }))

/-! ## Registers and completing an instruction -/

/-- g0 reads zero and discards writes, and m0 reads 0xFFFF_FFFF and discards writes (R77). A write of another scalar register is read
back, discards a result in flight for it, and leaves every other register of the window; the register file keeps its canonical form. A
lane write sets the active lanes of its register and leaves every other lane and register; a mask write sets the selected bits of its
mask. -/
def Obligations.RegistersHoldTheirWrites : Prop :=
  ((∀ (c : Core) (x : Word) (mask y : Lane),
        c.readG 0 = 0 ∧ c.writeG 0 x = c ∧ c.readM 0 = 0xFFFFFFFF ∧ c.writeM 0 mask y = c) ∧
    (∀ (c : Core) (r q : Reg) (x : Word), r ≠ 0 →
        (c.writeG r x).readG r = x ∧ (q ≠ r → (c.writeG r x).readG q = c.readG q) ∧ (c.writeG r x).pendingG r = false ∧
        (SMap.wf c.g = true → SMap.wf (c.writeG r x).g = true))) ∧
  (∀ (c : Core) (d r : Reg) (mask x : Lane) (f : Nat → Lane) (i j : Nat), i < 32 →
      (c.writeV d mask f).lane r i = (if r = d ∧ mask.getLsbD i = true then f i else c.lane r i) ∧
      ((c.writeM j mask x).readM d.toNat).getLsbD i =
        (if d.toNat = j ∧ j ≠ 0 ∧ mask.getLsbD i = true then x.getLsbD i else (c.readM d.toNat).getLsbD i) ∧
      (mask ≠ 0 → (c.writeV d mask f).pendingV d = false))

/-- CALL advances the window by 32, so that the caller's outs become the callee's ins; globals keep their place; the ins, locals
and outs of one window are apart from one another and from the globals (R78). -/
def Obligations.WindowsChain : Prop :=
  ∀ depth : Nat, (∀ i, i < 16 → gPlace depth (48 + i) = gPlace (depth + 1) (16 + i)) ∧ (∀ i, i < 16 → gPlace depth i = i) ∧
    (∀ i j, i < 64 → j < 64 → gPlace depth i = gPlace depth j → i = j)

/-- Completing an instruction moves the pc, ends the stall and adds one to the issued instructions of the core's world; every
other core, every quad, all of memory, every other counter and all else stays. -/
def Obligations.CompletionChangesNothingElse : Prop :=
  ∀ (s : State) (k : Nat) (c : Core) (j : Nat),
    let t := s.completedCore k c
    t.dev.core k = { c with pc := (s.dev.core k).pc + 8, wait := none, stage := .none } ∧
    (j ≠ k → t.dev.core j = s.dev.core j) ∧
    (∀ a, SMap.get t.dev.mem a = SMap.get s.dev.mem a) ∧
    (∃ cs ws, t = { s with dev := { s.dev with cores := cs, worlds := ws } }) ∧
    (∀ w, w ≠ c.world → t.dev.world w = s.dev.world w) ∧
    (∃ n, t.dev.world c.world = { s.dev.world c.world with counters := n } ∧
      n = SMap.set (s.dev.world c.world).counters 1 (SMap.get (s.dev.world c.world).counters 1 + 1))

/-! ## Scalar arithmetic -/

/-- Every instruction of Tables 7.3 and 7.4 but the divisions, and MTOG and KPOLL, complete with their result in the destination,
and nothing else of the core changes: 35 instructions.
A shift immediate above 63 traps ILLEGAL with the instruction word (R116). -/
def Obligations.ScalarResultsAreTheTables : Prop :=
  (∀ (i : Instr) (s : State) (k : Nat) (p : Pred) (d : Reg) (gs : List Reg) (x : Word), s.actor = .core k →
      scalarSpec (s.dev.core k) i = some (p, d, gs, x) → (s.dev.core k).issues p gs →
      exec i s = .next (s.completedCore k ((s.dev.core k).writeG d x))) ∧
  (∀ (i : Instr) (p : Pred) (d a : Reg) (imm : BitVec 32) (s : State) (k : Nat), s.actor = .core k →
      (i = .shli p d a imm ∨ i = .shri p d a imm ∨ i = .sari p d a imm) → 64 ≤ imm.toNat → (s.dev.core k).issues p [a] →
      exec i s = .next (s.trapped k 0x01 ((encode i).getD 0)))

/-- DIV, DIVU, REM and REMU complete and put their result in flight, to land in 34 clocks; an earlier result in flight for
the destination is discarded; division never traps. -/
def Obligations.DivisionsPutTheirResultInFlight : Prop :=
  ∀ (i : Instr) (s : State) (k : Nat) (p : Pred) (d : Reg) (gs : List Reg) (x : Word), s.actor = .core k →
    divisionSpec (s.dev.core k) i = some (p, d, gs, x) → (s.dev.core k).issues p gs →
    exec i s = .next (s.completedCore k ((s.dev.core k).launch ((s.dev.core k).dstG d) [(0, x)] 0 (some 34)))

/-- A result of fixed latency lands in its clock and not before: its destination then reads its value, a v register in the lanes
that the result holds. RESULT_LANDS: the reply of a load or atomic that is ready writes its destination, a scalar register or the
lanes of a v register, if no later instruction has written it, and leaves the results in flight. -/
def Obligations.ResultsInFlightLand : Prop :=
  (∀ (c : Core) (n : Nat) (tag phys : Nat) (x : Word) (flags : BitVec 5),
      let p : Landing := { tag := tag, dst := .g phys, vals := [(0, x)], flags := flags, live := true, ready := true, reply := false,
                           timer := some (n + 1) }
      c.pend = [p] →
      (n ≠ 0 → (c.clock).pend = [{ p with timer := some n }] ∧ (c.clock).g = c.g ∧ (c.clock).fpstat = c.fpstat) ∧
      (n = 0 → (c.clock).pend = [] ∧ SMap.get (c.clock).g phys = x ∧ (c.clock).fpstat = c.fpstat ||| flags)) ∧
  (∀ (c : Core) (r q : Reg) (tag i : Nat) (mask : Lane) (y : Nat → Word) (flags : BitVec 5), i < 32 →
      c.pend = [{ tag := tag, dst := .v r.toNat, vals := (activeLanes mask).map fun i => (i, y i), flags := flags, live := true,
                  ready := true, reply := false, timer := some 1 }] →
      (c.clock).pend = [] ∧ (c.clock).fpstat = c.fpstat ||| flags ∧ (c.clock).g = c.g ∧
      (c.clock).lane q i = if q = r ∧ mask.getLsbD i = true then (y i).truncate 32 else c.lane q i) ∧
  (∀ (s : State) (k j : Nat) (p : Landing), (s.dev.core k).pend[j]? = some p → p.ready = true → p.timer = none →
      ∃ t, exec (.resultLands k j) s = .next t ∧ (t.dev.core k).pend = dropAt (s.dev.core k).pend j ∧
        (∀ i, i ≠ k → t.dev.core i = s.dev.core i) ∧ t.dev.mem = s.dev.mem ∧
        (p.live = false → (t.dev.core k).g = (s.dev.core k).g ∧ (t.dev.core k).v = (s.dev.core k).v) ∧
        (p.live = true → ∀ phys, p.dst = .g phys →
          (t.dev.core k).g = SMap.set (s.dev.core k).g phys (p.vals.headD (0, 0)).2 ∧ (t.dev.core k).v = (s.dev.core k).v) ∧
        (p.live = true → ∀ (r q : Reg) (mask : Lane) (y : Nat → Word) (i : Nat), i < 32 → p.dst = .v r.toNat →
          p.vals = (activeLanes mask).map (fun i => (i, y i)) →
          (t.dev.core k).g = (s.dev.core k).g ∧
          (t.dev.core k).lane q i = if q = r ∧ mask.getLsbD i = true then (y i).truncate 32 else (s.dev.core k).lane q i))

/-- An instruction that a predicate lets take effect nowhere changes no state but the pc (R87): every predicated instruction of
majors 0x08, 0x09, 0x18 to 0x23 and 0x29 to 0x31 but those of R146. -/
def Obligations.PredicatedOffDoesNothing : Prop :=
  ∀ (i : Instr) (p : Pred) (s : State) (k : Nat), s.actor = .core k → (s.dev.core k).blocked = false →
    wellFormed i = true → predOf i = some p → reduces i = false → (s.dev.core k).mask p = 0 →
    exec i s = .next (s.completedCore k (s.dev.core k))

/-- The frame of the register-only instructions of majors 0x08, 0x09 and 0x18 to 0x1B: whenever one answers a next state,
whether it completes, stalls or traps, memory, every quad, every other core and the special registers that it does not name
stay; so does every scalar, vector and mask register but its destinations. FPSTAT changes with the float instructions alone,
RNG_WRAP with VRNG alone, SCOPE_CLAMPED never, and the trap registers and IN_HANDLER only where the form may trap. -/
def Obligations.RegisterInstructionsFrame : Prop :=
  ∀ (i : Instr) (ds : List Reg) (s t : State) (k : Nat), s.actor = .core k → regWrites i = some ds → exec i s = .next t →
    (∀ a, SMap.get t.dev.mem a = SMap.get s.dev.mem a) ∧ (∀ j, j ≠ k → t.dev.core j = s.dev.core j) ∧
    (∀ q, t.dev.quad q = s.dev.quad q) ∧
    (∀ r : Reg, r ∉ ds → (t.dev.core k).readG r = (s.dev.core k).readG r) ∧
    (t.dev.core k).rets = (s.dev.core k).rets ∧ (t.dev.core k).resident = (s.dev.core k).resident ∧
    (t.dev.core k).spilled = (s.dev.core k).spilled ∧ (t.dev.core k).planes = (s.dev.core k).planes ∧
    (t.dev.core k).handles = (s.dev.core k).handles ∧ (t.dev.core k).ports = (s.dev.core k).ports ∧
    (t.dev.core k).latch = (s.dev.core k).latch ∧ (t.dev.core k).ltime = (s.dev.core k).ltime ∧
    (∀ (r : Reg) n, n < 32 → r ∉ lanesWritten i → (t.dev.core k).lane r n = (s.dev.core k).lane r n) ∧
    (∀ r : Reg, r ∉ masksWritten i → (t.dev.core k).readM r.toNat = (s.dev.core k).readM r.toNat) ∧
    (setsFpstat i = false → (t.dev.core k).fpstat = (s.dev.core k).fpstat) ∧
    ((∀ p d a b c, i ≠ .vrng p d a b c) → (t.dev.core k).rngWrap = (s.dev.core k).rngWrap) ∧
    (t.dev.core k).scopeClamped = (s.dev.core k).scopeClamped ∧
    (mayTrap i = false → (t.dev.core k).trapPc = (s.dev.core k).trapPc ∧ (t.dev.core k).trapCause = (s.dev.core k).trapCause ∧
      (t.dev.core k).trapInfo = (s.dev.core k).trapInfo ∧ (t.dev.core k).inHandler = (s.dev.core k).inHandler ∧
      (t.dev.core k).halted = (s.dev.core k).halted)

/-! ## System instructions, traps and special registers -/

/-- NOP does nothing, HALT halts, and ERET resumes at TRAP_PC and leaves the handler; outside the handler ERET traps. -/
def Obligations.NopHaltAndEretComplete : Prop :=
  ∀ (s : State) (k : Nat), s.actor = .core k →
    exec .nop s = .next (s.completedCore k (s.dev.core k)) ∧
    exec .halt s = .next (s.completedCore k { s.dev.core k with halted := true }) ∧
    ((s.dev.core k).inHandler = true → exec .eret s =
      .next (s.completed k (s.dev.setCore k { s.dev.core k with pc := (s.dev.core k).trapPc, inHandler := false }) (s.dev.core k).trapPc)) ∧
    ((s.dev.core k).inHandler = false → exec .eret s = .next (s.trapped k 0x01 0x0104000000000000))

/-- The three ways of a trap: inside the handler, or with no handler, or for ACCESS, the core halts; otherwise the handler is entered. The
handler case saves pc, cause and information; a halt is reported to the host; no register of the program changes. BRK and TRAP complete, and enter the handler
with TRAP_PC at the next instruction and their code in TRAP_INFO. -/
def Obligations.TrapsEnterTheHandlerOrHalt : Prop :=
  (∀ (d : Dev) (now : Now) (k cause : Nat) (info pc : Word),
      let c := d.core k
      let c' := (d.takeTrap now k cause info pc).core k
      (c.inHandler = false → cause ≠ 0x0C → c.cur.handler ≠ 0xFFFF →
        d.takeTrap now k cause info pc = d.setCore k { c with
          trapPc := pc, trapCause := BitVec.ofNat 8 cause, trapInfo := info, wait := none, stage := .none, inHandler := true,
          pc := BitVec.ofNat 64 (8 * c.cur.handler) }) ∧
      (c.inHandler = false → (cause = 0x0C ∨ c.cur.handler = 0xFFFF) →
        c'.halted = true ∧ c'.trapPc = pc ∧ c'.trapCause = BitVec.ofNat 8 cause ∧ c'.trapInfo = info ∧ c'.inHandler = false ∧
        c'.pc = c.pc ∧ TrapReported d (d.takeTrap now k cause info pc) now k cause info pc) ∧
      (c.inHandler = true → c'.halted = true ∧ c'.trapPc = c.trapPc ∧ c'.trapCause = c.trapCause ∧ c'.trapInfo = c.trapInfo ∧
        c'.pc = c.pc ∧ TrapReported d (d.takeTrap now k cause info pc) now k cause info pc) ∧
      c'.g = c.g ∧ c'.v = c.v ∧ c'.m = c.m ∧ c'.rets = c.rets ∧ c'.resident = c.resident ∧ c'.spilled = c.spilled ∧
      c'.fpstat = c.fpstat ∧ c'.handles = c.handles ∧ c'.ports = c.ports ∧ c'.planes = c.planes ∧
      (∀ j, j ≠ k → (d.takeTrap now k cause info pc).core j = d.core j) ∧
      (∀ a, SMap.get (d.takeTrap now k cause info pc).mem a = SMap.get d.mem a)) ∧
  (∀ (s : State) (k : Nat) (code : BitVec 48) (i : Instr) (cause : BitVec 8), s.actor = .core k →
      (i = .brk code ∧ cause = 7 ∨ i = .trap code ∧ cause = 6) → (s.dev.core k).inHandler = false → (s.dev.core k).cur.handler ≠ 0xFFFF →
      ∃ t, exec i s = .next t ∧
        t.dev.core k = { s.dev.core k with
          trapPc := (s.dev.core k).pc + 8, trapCause := cause, trapInfo := code.zeroExtend 64, inHandler := true, wait := none,
          stage := .none, pc := BitVec.ofNat 64 (8 * (s.dev.core k).cur.handler) } ∧
        (∀ j, j ≠ k → t.dev.core j = s.dev.core j) ∧ (∀ a, SMap.get t.dev.mem a = SMap.get s.dev.mem a))

/-- WFE: a set latch is consumed at once; a clear one makes the core wait, with the pc unmoved, until a count of clocks that
the event WFE_TIMEOUT or the instruction itself sees reached; a count of 0 traps. -/
def Obligations.WfeWaitsForTheLatchOrItsDeadline : Prop :=
  ∀ (s : State) (k : Nat) (n : BitVec 32), s.actor = .core k →
    let c := s.dev.core k
    (n = 0 → exec (.wfe n) s = .next (s.trapped k 0x01 0x0105000000000000)) ∧
    (n ≠ 0 → c.latch = true → exec (.wfe n) s = .next (s.completedCore k { c with latch := false })) ∧
    (n ≠ 0 → c.latch = false → c.stage = .none → exec (.wfe n) s = .next { s with dev := s.dev.setCore k { c with
      stage := .wfe (s.now.clock + n.toNat), wait := some Wait.stalled } }) ∧
    (∀ at_, n ≠ 0 → c.latch = false → c.stage = .wfe at_ →
      (at_ ≤ s.now.clock → exec (.wfe n) s = .next (s.completedCore k { c with latch := false })) ∧
      (s.now.clock < at_ → exec (.wfe n) s = .next { s with dev := s.dev.setCore k { c with wait := some Wait.stalled } }) ∧
      (at_ ≤ s.now.clock → exec (.wfeTimeout k) s = .next (s.completedCore k { c with latch := false })))

/-- PHASE casts the core's one vote of the round once its results have landed, and waits with its pc unmoved; it moves no register and no
byte. In the handler it traps. PHASE_SELECT: once every member has voted, each restarts at the context that all-votes and any-vote
choose in the phase table, with its call state emptied and its registers and bindings kept, from the next clock on; context 15 halts
it. -/
def Obligations.PhasesVoteAndRestart : Prop :=
  (∀ (s : State) (k : Nat) (v : BitVec 1) (t : Team), s.actor = .core k → (s.dev.core k).blocked = false →
      ((s.dev.core k).inHandler = true →
        exec (.phase v) s = .next (s.trapped k 0x01 (0x0106000000000000 + v.zeroExtend 64))) ∧
      ((s.dev.core k).inHandler = false → (s.dev.core k).pend = [] → Tab.get? s.dev.teams (s.dev.core k).cur.team = some t →
        (t.votes.any fun x => x.1 == k) = false →
        let voted : Team := { t with votes := t.votes ++ [(k, decide (v = 1))] }
        let d : Dev := { s.dev with teams := Tab.put s.dev.teams (s.dev.core k).cur.team voted }
        ∃ w, exec (.phase v) s = .next { s with dev := d.setCore k { s.dev.core k with stage := .voted, wait := w } })) ∧
  (∀ (s : State) (team : Nat) (t : Team), Tab.get? s.dev.teams team = some t → s.dev.members t ≠ [] →
      (∀ k ∈ s.dev.members t, ∃ x ∈ t.votes, x.1 = k) →
      ∃ u, exec (.phaseSelect team) s = .next u ∧
        Tab.get? u.dev.teams team = some { t with votes := [] } ∧ u.dev.mem = s.dev.mem ∧
        (∀ j, j ∉ s.dev.members t → u.dev.core j = s.dev.core j) ∧
        (∀ k ∈ s.dev.members t,
          let c := s.dev.core k
          let c' := u.dev.core k
          let e := c.cur.phaseTable / 16 ^ ((if t.votes.all Prod.snd then 2 else 0) + (if t.votes.any Prod.snd then 1 else 0)) % 16
          c'.g = c.g ∧ c'.v = c.v ∧ c'.m = c.m ∧ c'.handles = c.handles ∧ c'.ports = c.ports ∧ c'.ranges = c.ranges ∧
          c'.stage = .none ∧ (e = 15 → c'.halted = true ∧ c'.pc = c.pc) ∧
          (e ≠ 15 → c'.pc = BitVec.ofNat 64 (8 * c.cur.entry e) ∧ c'.halted = c.halted ∧ c'.resident = 1 ∧ c'.spilled = 0 ∧
            c'.rets = [] ∧ c'.startAt = s.now.clock + 1)))

/-- NCNT sends the counts of its plane as a group of tokens and clears them, and completes once the group has landed. -/
def Obligations.CountsAreSentAndAwaited : Prop :=
  ∀ (s : State) (k : Nat), s.actor = .core k →
    let c := s.dev.core k
    let sent : Core := { c with counts := Counts.zero, stage := .counting s.dev.nextToken, wait := some Wait.stalled }
    let group : Tokens := { tag := s.dev.nextToken, world := c.world, counts := c.counts }
    (c.stage = .none → exec .ncnt s = .next { s with
      dev := { s.dev.setCore k sent with tokens := s.dev.tokens ++ [group], nextToken := s.dev.nextToken + 1 } }) ∧
    (∀ tag, c.stage = .counting tag → (∀ x ∈ s.dev.tokens, x.tag ≠ tag) → exec .ncnt s = .next (s.completedCore k c))

/-- SRD reads what Table 5.2 lists, PARAM0 to PARAM63 among them; a number that it does not list traps ILLEGAL. -/
def Obligations.SpecialRegistersAreRead : Prop :=
  ∀ (s : State) (k : Nat) (p : Pred) (rd : Reg) (n : BitVec 32), s.actor = .core k → (s.dev.core k).mask p ≠ 0 →
    (∀ v, (n.toNat, v) ∈ specialSpec s k → exec (.srd p rd n) s = .next (s.completedCore k ((s.dev.core k).writeG rd v))) ∧
    (∀ i, i < 64 → n.toNat = 0x050 + i →
      exec (.srd p rd n) s = .next (s.completedCore k ((s.dev.core k).writeG rd (SMap.get (s.dev.core k).cur.params i)))) ∧
    ((∀ v, (n.toNat, v) ∉ specialSpec s k) → ¬ (0x050 ≤ n.toNat ∧ n.toNat ≤ 0x08F) →
      exec (.srd p rd n) s = .next (s.trapped k 0x01 ((encode (.srd p rd n)).getD 0)))

/-- SWR: TRAP_PC takes an instruction's offset, CTX_STATUS and FPSTAT clear the sticky bits that are written 1, every other
listed register traps PRIV with its number, and reserved bits and unlisted numbers trap ILLEGAL (DEDUCED, log 13: reserved bits
are checked before write access, and a flag that lands in the same clock stays set). -/
def Obligations.SpecialRegistersAreWritten : Prop :=
  ∀ (s : State) (k : Nat) (p : Pred) (ra : Reg) (n : BitVec 32), s.actor = .core k → (s.dev.core k).issues p [ra] →
    let c := s.dev.core k
    let v := c.readG ra
    let word := (encode (.swr p ra n)).getD 0
    (n = 0x010 → v &&& 0x3FF8 = v → exec (.swr p ra n) s = .next (s.completedCore k { c with trapPc := v })) ∧
    (n = 0x010 → v &&& 0x3FF8 ≠ v → exec (.swr p ra n) s = .next (s.trapped k 0x01 word)) ∧
    (n = 0x020 → v &&& 7 = v → v.getLsbD 2 = false → exec (.swr p ra n) s =
      .next (s.completedCore k { c with rngWrap := c.rngWrap && !v.getLsbD 1, scopeClamped := c.scopeClamped && !v.getLsbD 0 })) ∧
    (n = 0x020 → v &&& 7 = v → v.getLsbD 2 = true → exec (.swr p ra n) s = .next (s.trapped k 0x02 0x020)) ∧
    (n = 0x020 → v &&& 7 ≠ v → exec (.swr p ra n) s = .next (s.trapped k 0x01 word)) ∧
    (n = 0x021 → v &&& 0x1F = v → exec (.swr p ra n) s =
      .next (s.completedCore k { c with fpstat := (c.fpstat &&& ~~~v.truncate 5) ||| c.newFlags })) ∧
    (n = 0x021 → v &&& 0x1F ≠ v → exec (.swr p ra n) s = .next (s.trapped k 0x01 word)) ∧
    (n ≠ 0x010 → n ≠ 0x020 → n ≠ 0x021 → ((∃ x, (n.toNat, x) ∈ specialSpec s k) ∨ (0x050 ≤ n.toNat ∧ n.toNat ≤ 0x08F)) →
      exec (.swr p ra n) s = .next (s.trapped k 0x02 (n.zeroExtend 64))) ∧
    ((∀ x, (n.toNat, x) ∉ specialSpec s k) → ¬ (0x050 ≤ n.toNat ∧ n.toNat ≤ 0x08F) →
      exec (.swr p ra n) s = .next (s.trapped k 0x01 word))

/-- TLBI in the root world drops the stale translations of its kind, on every die: all, those of a world, or those of one
address of a world; elsewhere it traps PRIV, even where its predicate selects nothing. -/
def Obligations.TranslationsAreInvalidated : Prop :=
  ∀ (s : State) (k : Nat) (p : Pred) (rd ra : Reg) (kind : BitVec 32), s.actor = .core k →
    ((s.dev.core k).world ≠ 0 → exec (.tlbi p rd ra kind) s = .next (s.trapped k 0x02 ((encode (.tlbi p rd ra kind)).getD 0))) ∧
    ((s.dev.core k).world = 0 → (s.dev.core k).issues p [rd, ra] → kind.toNat ≤ 2 →
      let w := ((s.dev.core k).readG rd).toNat % 256
      let va := ((s.dev.core k).readG ra).toNat % 2 ^ 56
      ∃ stale, exec (.tlbi p rd ra kind) s = .next (s.completed k { s.dev with stale := stale } ((s.dev.core k).pc + 8)) ∧
        ∀ e, e ∈ stale ↔ e ∈ s.dev.stale ∧ (kind = 1 → e.world ≠ w) ∧ kind ≠ 0 ∧
          (kind = 2 → e.world = w → ∀ l ∈ [2, 3, 4], leafKeyAt l va ≠ e.key))

/-! ## Branches and calls -/

/-- BR, BZ, BNZ, BCMP, LOOP and BBEAD complete: taken, they go on at their own offset plus eight times the displacement;
otherwise at the next instruction. LOOP on g0 traps ILLEGAL; BBEAD on an empty port waits with nothing consumed. On an engine's
sequencer, ADD, ADDI, BR and LOOP act on its g0 to g15 and its pc alike; there a target outside the code, a register above g15,
a predicate, LOOP on g0, an instruction of another engine and any other instruction of a core end the program with fault 0x01. -/
def Obligations.BranchesGoToTheirTarget : Prop :=
  (∀ (i : Instr) (s : State) (k : Nat) (gs : List Reg) (c : Core) (taken : Bool) (off : BitVec 32), s.actor = .core k →
      branchSpec s.now.clock (s.dev.core k) i = some (gs, c, taken, off) → (∀ r ∈ gs, (s.dev.core k).pendingG r = false) →
      exec i s = .next (s.completed k (s.dev.setCore k c)
        (if taken then (s.dev.core k).pc + 8 * off.signExtend 64 else (s.dev.core k).pc + 8))) ∧
  (∀ (s : State) (k : Nat) (off : BitVec 32) (port : BitVec 4), s.actor = .core k →
      exec (.loop 0 off) s = .next (s.trapped k 0x01 ((encode (.loop 0 off)).getD 0)) ∧
      (Tab.get? (s.dev.core k).ports port.toNat = none → exec (.bbead port off) s = .next { s with
        dev := s.dev.setCore k { s.dev.core k with wait := some ⟨3, port.toNat, 1, 0, 0⟩ } })) ∧
  (∀ (s : State) (q e : Nat) (p : Prog) (d a b : Reg) (imm off : BitVec 32), s.actor = .engine q e →
      (s.dev.engine q e).prog = some p → d.toNat ≤ 15 → a.toNat ≤ 15 → b.toNat ≤ 15 →
      let n := p.readG a - 1
      let goal := p.pc + 8 * off.signExtend 64
      exec (.add Pred.all d a b) s = .next (s.ranOn q e { p.writeG d (p.readG a + p.readG b) with pc := p.pc + 8 }) ∧
      exec (.addi Pred.all d a imm) s = .next (s.ranOn q e { p.writeG d (p.readG a + imm.signExtend 64) with pc := p.pc + 8 }) ∧
      ((s.dev.core p.core).cur.inCode goal = true → exec (.br off) s = .next (s.ranOn q e { p with pc := goal })) ∧
      ((s.dev.core p.core).cur.inCode goal = false → exec (.br off) s = .next (s.endedOn q e)) ∧
      (a ≠ 0 → n = 0 → exec (.loop a off) s = .next (s.ranOn q e { p.writeG a n with pc := p.pc + 8 })) ∧
      (a ≠ 0 → n ≠ 0 → (s.dev.core p.core).cur.inCode goal = true →
        exec (.loop a off) s = .next (s.ranOn q e { p.writeG a n with pc := goal })) ∧
      exec (.loop 0 off) s = .next (s.endedOn q e)) ∧
  (∀ (s : State) (q e : Nat) (p : Prog) (i : Instr), s.actor = .engine q e → (s.dev.engine q e).prog = some p →
      (coreAlone i = true ∨ (∃ f, engineOf i = some f ∧ f ≠ e) ∨ (∃ m d a b, i = .add m d a b ∧ (m ≠ Pred.all ∨ 15 < d.toNat))) →
      exec i s = .next (s.endedOn q e) ∧
      ((s.endedOn q e).dev.engine q e).prog = some { p with ended := some 0x01, joined := true, wait := none } ∧
      ((s.endedOn q e).dev.engine q e).fault = some (0x01, (s.dev.engine q e).seq, some p.core) ∧
      (s.endedOn q e).dev.mem = s.dev.mem)

/-- BSTAT writes the engine's status word whole to g_a and branches if its state is the one named; done joins the core's
operations of that engine; a fault of this core's own operation is observed, and traps ENGINE_FAULT unless the fault state is
named: outside a handler it enters one, inside a handler the core halts. -/
def Obligations.StatusBranchesReadTheWord : Prop :=
  ∀ (s : State) (k : Nat) (st : BitVec 4) (ra : Reg) (e : BitVec 4) (off : BitVec 32), s.actor = .core k → st.toNat < 4 →
    let g := s.dev.engine (k / 4) e.toNat
    let c := s.dev.core k
    ∃ t, exec (.bstat st ra e off) s = .next t ∧ (t.dev.core k).g = (c.writeG ra g.status).g ∧ t.dev.mem = s.dev.mem ∧
      (g.stateCode = 2 → ∀ o ∈ (t.dev.core k).ops, ¬ (o.eng = e.toNat ∧ o.done = true)) ∧
      ((g.faultedBy k = false ∨ st = 3) →
        (t.dev.core k).pc = if g.stateCode = st.toNat then c.pc + 8 * off.signExtend 64 else c.pc + 8) ∧
      (g.faultedBy k = true → st ≠ 3 → c.inHandler = false → c.cur.handler ≠ 0xFFFF →
        (t.dev.core k).trapCause = 8 ∧ (t.dev.core k).trapInfo = g.status ∧
        (t.dev.core k).trapPc = c.pc + 8 ∧ (t.dev.core k).pc = BitVec.ofNat 64 (8 * c.cur.handler)) ∧
      (g.faultedBy k = true → st ≠ 3 → c.inHandler = true → (t.dev.core k).halted = true ∧ (t.dev.core k).pc = c.pc + 8) ∧
      (g.faultedBy k = true → (t.dev.engine (k / 4) e.toNat).fault = none)

/-- JMPR, CALLR and CALL: a register target is a multiple of 8 or the instruction traps ALIGN with it. A CALL with room in the
window store enters the next window, with its locals and outs at 0, and pushes the return offset; with a full store it first
writes the oldest window's spill record, its ins, locals and return offset, at SPILL_BASE + 264 n, and with no window left to
spill it traps CALL_DEPTH, CALLR alike. RET of a resident caller goes back to it; of a spilled one it reads the record back;
with nothing to return to it traps RET_EMPTY. -/
def Obligations.CallsAndReturnsMoveTheWindow : Prop :=
  ∀ (s : State) (k : Nat) (a : Reg) (off : BitVec 32), s.actor = .core k → (s.dev.core k).pendingG a = false →
    let c := s.dev.core k
    let r := c.readG a + 8 * off.signExtend 64
    let place (n : Nat) := s.dev.pkgId * 2 ^ 44 + 0x010000000000 + k / 4 * 0x200000 + 0x8000 * (63 - k % 4) + 264 * n
    let globals (t : State) := ∀ q : Reg, q.toNat < 16 → (t.dev.core k).readG q = c.readG q
    let entered (t : State) (pc : Word) := (t.dev.core k).pc = pc ∧ globals t ∧
      (∀ q : Reg, 32 ≤ q.toNat → (t.dev.core k).readG q = 0) ∧
      (∀ q : Reg, 16 ≤ q.toNat → q.toNat < 32 → (t.dev.core k).readG q = c.readG (q + 32))
    let calls (t : State) (pc : Word) := entered t pc ∧ (t.dev.core k).resident = c.resident + 1 ∧
      (t.dev.core k).spilled = c.spilled ∧ (t.dev.core k).rets = (c.pc + 8) :: c.rets ∧ t.dev.mem = s.dev.mem
    let spills (t : State) (pc : Word) := entered t pc ∧ (t.dev.core k).resident = 8 ∧
      (t.dev.core k).spilled = c.spilled + 1 ∧
      (t.dev.core k).rets = (c.pc + 8) :: (if c.spilled = 0 then c.rets else c.rets.dropLast) ∧
      (∀ i, i < 32 → wordOf (SMap.getRun t.dev.mem (place c.spilled + 8 * i) 8) = SMap.get c.g (gPlace c.spilled (16 + i))) ∧
      wordOf (SMap.getRun t.dev.mem (place c.spilled + 256) 8) =
        (if c.spilled = 0 then BitVec.allOnes 64 else c.rets.getLastD 0) ∧
      (∀ b, (b < place c.spilled ∨ place c.spilled + 264 ≤ b) → SMap.get t.dev.mem b = SMap.get s.dev.mem b)
    (r.toNat % 8 = 0 → exec (.jmpr a off) s = .next (s.completed k s.dev r)) ∧
    (r.toNat % 8 ≠ 0 → exec (.jmpr a off) s = .next (s.trapped k 0x03 r) ∧ exec (.callr a off) s = .next (s.trapped k 0x03 r)) ∧
    (1 ≤ c.resident → c.resident < 8 →
      (∃ t, exec (.call off) s = .next t ∧ calls t (c.pc + 8 * off.signExtend 64)) ∧
      (r.toNat % 8 = 0 → ∃ t, exec (.callr a off) s = .next t ∧ calls t r)) ∧
    (c.resident = 8 → c.spilled = c.cur.spillWindows →
      exec (.call off) s = .next (s.trapped k 0x04 (BitVec.ofNat 64 (c.spilled * 2 ^ 16 + c.resident))) ∧
      (r.toNat % 8 = 0 → exec (.callr a off) s = .next (s.trapped k 0x04 (BitVec.ofNat 64 (c.spilled * 2 ^ 16 + c.resident))))) ∧
    (c.resident = 8 → c.spilled ≠ c.cur.spillWindows → c.held = [] → c.pend = [] →
      (∃ t, exec (.call off) s = .next t ∧ spills t (c.pc + 8 * off.signExtend 64)) ∧
      (r.toNat % 8 = 0 → ∃ t, exec (.callr a off) s = .next t ∧ spills t r)) ∧
    (1 < c.resident → exec .ret s = .next (s.completed k
      (s.dev.setCore k { c with resident := c.resident - 1, rets := c.rets.drop 1 }) (c.rets.headD 0))) ∧
    (∀ n, c.resident = 1 → c.spilled = n + 1 → c.held = [] →
      ∃ t, exec .ret s = .next t ∧ (t.dev.core k).pc = c.rets.headD 0 ∧ (t.dev.core k).resident = 1 ∧ (t.dev.core k).spilled = n ∧
        t.dev.mem = s.dev.mem ∧ globals t ∧
        (∀ q : Reg, 48 ≤ q.toNat → (t.dev.core k).readG q = c.readG (q - 32)) ∧
        (∀ q : Reg, 16 ≤ q.toNat → q.toNat < 48 →
          (t.dev.core k).readG q = wordOf (SMap.getRun s.dev.mem (place n + 8 * (q.toNat - 16)) 8)) ∧
        (t.dev.core k).rets = (if n = 0 then [] else [wordOf (SMap.getRun s.dev.mem (place n + 256) 8)])) ∧
    (c.resident = 1 → c.spilled = 0 → exec .ret s = .next (s.trapped k 0x05 0))

/-! ## Lane instructions -/

/-- The lane integer instructions, the moves, the permutations and the mask instructions complete with their table's result in
the active lanes or bits: 27 instructions. -/
def Obligations.LaneResultsAreTheTables : Prop :=
  ∀ (i : Instr) (s : State) (k : Nat) (p : Pred) (d : Reg) (gs vs : List Reg), s.actor = .core k →
    (s.dev.core k).issuesV p gs vs →
    (∀ f, laneSpec (s.dev.core k) i = some (p, d, gs, vs, f) →
      exec i s = .next (s.completedCore k ((s.dev.core k).writeV d ((s.dev.core k).mask p) f))) ∧
    (∀ x, maskSpec (s.dev.core k) i = some (p, d, gs, vs, x) →
      exec i s = .next (s.completedCore k ((s.dev.core k).writeM d.toNat ((s.dev.core k).mask p) x)))

/-- The lane float instructions complete with the rounded element results in the active lanes, the flags of the active elements
alone in FPSTAT, and one operation counted for each element; the four function units put the same in flight for 14
clocks. The result of VFADD, VFSUB, VFMUL, VFMA and VRCP on finite operands is the exact one correctly rounded once in the
mode of md, with the flags of Table 3.6, FTZ on operands and result, and Table 3.3 at overflow (log 34); an exact zero sum has
the sign R53 gives; a NaN operand, or an invalid operation, gives the canonical NaN and NV; the function units give Table 3.5
at its operands; VFMIN and VFMAX put -0 below +0. -/
def Obligations.LaneFloatResultsAndFlags : Prop :=
  (∀ (i : Instr) (s : State) (k : Nat) (p : Pred) (d : Reg), s.actor = .core k →
    let c := s.dev.core k
    let act := activeLanes (c.mask p)
    (∀ vs w f, floatSpec c i = some (p, d, vs, w, f) → c.issuesV p [] vs →
      exec i s = .next ({ s with dev := s.dev.count c.world 5 (32 / w * act.length) }.completedCore k
        { c.writeV d (c.mask p) (fun l => ofElems w ((f l).map FRes.bits)) with
          fpstat := c.fpstat ||| (act.map fun l => allFlags (f l)).foldl (· ||| ·) 0 })) ∧
    (∀ a f, unitSpec c i = some (p, d, a, f) → c.issuesV p [] [a] →
      exec i s = .next ({ s with dev := s.dev.count c.world 5 act.length }.completedCore k
        (c.launch (.v d.toNat) (act.map fun l => (l, BitVec.ofNat 64 (f l).bits)) (allFlags (act.map f)) (some 14))))) ∧
  (∀ (f : Fmt) (md : BitVec 4) (a b c : Nat), f ∈ [f32, bf16, f16] → f.finite a → f.finite b → f.finite c →
    let sat := md.getLsbD 3
    let k := 2 ^ (f.bias + f.mb - 1)
    let x := f.read (md.getLsbD 2) a
    let y := f.read (md.getLsbD 2) b
    let z := f.read (md.getLsbD 2) c
    let top := 2 ^ (f.w - 1)
    f.rounds md sat 1 (x + y) (fadd f md a b) ∧ f.rounds md sat 1 (x - y) (fsub f md a b) ∧
    f.rounds md sat k (x * y) (fmul f md a b) ∧ f.rounds md sat k (x * y + k * z) (ffma f md a b c) ∧
    (f = f32 → x ≠ 0 → f.rounds md sat x.natAbs (x.sign * 2 ^ 298) (frcp f md a)) ∧
    (x + y = 0 → fadd f md a b =
      { bits := if a / top = b / top then a / top * top else if field md 0 2 = 2 then top else 0, flags := 0 })) ∧
  (∀ (f : Fmt) (md : BitVec 4) (a b c : Nat), f ∈ [f32, bf16, f16] → a < 2 ^ f.w → b < 2 ^ f.w →
    (f.maxBits + 1 < a % 2 ^ (f.w - 1) ∨ f.maxBits + 1 < b % 2 ^ (f.w - 1)) →
    fadd f md a b = { bits := f.nan, flags := 0b10000 } ∧ fsub f md a b = { bits := f.nan, flags := 0b10000 } ∧
    fmul f md a b = { bits := f.nan, flags := 0b10000 } ∧ ffma f md a b c = { bits := f.nan, flags := 0b10000 } ∧
    (∀ less, fminmax less f md a b = { bits := f.nan, flags := 0b10000 })) ∧
  (∀ (md : BitVec 4) (c : Nat),
    let nan : FRes := { bits := 0x7FC00000, flags := 0b10000 }
    fadd f32 md 0x7F800000 0xFF800000 = nan ∧ fmul f32 md 0 0x7F800000 = nan ∧ ffma f32 md 0x7F800000 0 c = nan ∧
    fminmax true f32 md 0 0x80000000 = { bits := 0x80000000, flags := 0 } ∧
    fminmax false f32 md 0x80000000 0 = { bits := 0, flags := 0 } ∧
    ([0, 0x80000000, 0x3F800000, 0x7F800000, 0xFF800000].map (fexp2 f32 md) =
      [0x3F800000, 0x3F800000, 0x40000000, 0x7F800000, 0].map fun b => { bits := b, flags := 0 }) ∧
    ([0, 0x80000000, 0x7F800000, 0xFF800000, 0xBF800000, 0x3F800000, 0x41000000].map (flog2 f32 md) =
      [{ bits := 0xFF800000, flags := 0b01000 }, { bits := 0xFF800000, flags := 0b01000 }, { bits := 0x7F800000, flags := 0 }, nan, nan,
       { bits := 0, flags := 0 }, { bits := 0x40400000, flags := 0 }]) ∧
    ([0, 0x80000000, 0x7F800000, 0xFF800000, 0x3F800000].map (frcp f32 md) =
      [{ bits := 0x7F800000, flags := 0b01000 }, { bits := 0xFF800000, flags := 0b01000 }, { bits := 0, flags := 0 },
       { bits := 0x80000000, flags := 0 }, { bits := 0x3F800000, flags := 0 }]) ∧
    ([0, 0x80000000, 0x7F800000, 0xFF800000, 0xBF800000, 0x3F800000].map (frsq f32 md) =
      [{ bits := 0x7F800000, flags := 0b01000 }, { bits := 0xFF800000, flags := 0b01000 }, { bits := 0, flags := 0 }, nan, nan,
       { bits := 0x3F800000, flags := 0 }]))

/-- VFCVT completes with 32 / max(ws, wd) converted elements of each active lane. Where the destination is no wider, they fill
the part and the other elements stay; where it is wider, they come from the part and fill the lane. Every active element sets
its flags, is counted in its one class of the plane's counts (R66), and is one lane-float operation of the world (R329). A finite
element converted to a float is correctly rounded in the mode of md, saturating to E4M3 whatever md holds; one converted to an
integer is rounded to the nearest integer of the mode and saturates; an integer converted to a float is correctly rounded;
conversions of NaN, of infinities and the ties of E2M1 go as R54 and Table 3.4 say. -/
def Obligations.ConversionsFillTheirPart : Prop :=
  (∀ (s : State) (k : Nat) (p : Pred) (dst md : BitVec 4) (d a src part : Reg) (x y : NumFmt), s.actor = .core k →
    wellFormed (.vfcvt p dst md d a src part) = true → numFmt src.toNat = some x → numFmt dst.toNat = some y →
    (s.dev.core k).issuesV p [] [a] →
    let c := s.dev.core k
    let act := activeLanes (c.mask p)
    let rs := act.flatMap fun l => cvtResults x y md part.toNat (c.lane a l)
    exec (.vfcvt p dst md d a src part) s =
      .next ({ s with dev := s.dev.count c.world 5 (32 / Nat.max x.width y.width * act.length) }.completedCore k
        { c.writeV d (c.mask p) (fun l => ofElems y.width (cvtElems x y md part.toNat (c.lane a l) (c.lane d l))) with
          fpstat := c.fpstat ||| (rs.map CvtRes.flags).foldl (· ||| ·) 0, counts := c.counts.tally rs })) ∧
  (∀ (g : Fmt) (md : BitVec 4) (a : Nat), g ∈ [bf16, f16, e5m2, e4m3] → f32.finite a →
    let r := convert (.float f32) (.float g) md a
    g.rounds md (md.getLsbD 3 || g.w == 8 && g.eb == 4) (2 ^ (150 - (g.bias + g.mb))) (f32.read (md.getLsbD 2) a)
      { bits := r.bits, flags := r.flags }) ∧
  (∀ (w : Nat) (signed : Bool) (md : BitVec 4) (a : Nat), w ∈ [8, 16, 32, 64] → f32.finite a →
    let lo : Int := if signed then -2 ^ (w - 1) else 0
    let hi : Int := if signed then 2 ^ (w - 1) - 1 else 2 ^ w - 1
    let r := convert (.float f32) (.int w signed) md a
    ∃ n : Int, Nearest (field md 0 2) (2 ^ 149) (f32.read (md.getLsbD 2) a) n (n % 2 = 0) (fun _ => True) ∧
      (r.bits : Int) = (if n < lo then lo else if hi < n then hi else n) % 2 ^ w ∧
      (n < lo ∨ hi < n → r.flags = 0b00101) ∧
      (lo ≤ n → n ≤ hi → r.flags = if 2 ^ 149 * n = f32.units a then 0 else 0b00001)) ∧
  (∀ (w : Nat) (signed : Bool) (f : Fmt) (md : BitVec 4) (a : Nat), w ∈ [8, 16, 32, 64] → f ∈ [f32, bf16, f16] → a < 2 ^ w →
    let x : Int := if signed = true ∧ 2 ^ (w - 1) ≤ a then a - 2 ^ w else a
    let r := convert (.int w signed) (.float f) md a
    f.rounds md (md.getLsbD 3) 1 (x * 2 ^ (f.bias + f.mb - 1)) { bits := r.bits, flags := r.flags }) ∧
  (∀ md : BitVec 4,
    ([f32, bf16, f16, e5m2, e4m3, e2m1].map fun g => (convert (.float f32) (.float g) md 0x7F800001).bits) =
      [0x7FC00000, 0x7FC0, 0x7E00, 0x7E, 0x7F, 0] ∧
    (convert (.float f32) (.int 32 true) md 0x7F800001).bits = 0 ∧
    ([f32, bf16, f16, e5m2, e4m3, e2m1].map fun g => (convert (.float f32) (.float g) md 0xFF800000).bits) =
      [0xFF800000, 0xFF80, 0xFC00, 0xFC, 0xFE, 0xF] ∧
    (field md 0 2 = 0 → ([0x3E800000, 0x40200000, 0x40A00000, 0xC0200000, 0xBE800000, 0x41000000].map fun a =>
      (convert (.float f32) (.float e2m1) md a).bits) = [0, 4, 6, 0xC, 0, 7]))

/-- MPOPC, MFIRST and the instructions of Table 9.6 that are no plain permutation complete with their result; the reducing ones
act even where the predicate selects nothing, unless it is m0 negated. -/
def Obligations.ReductionsAreTheTables : Prop :=
  ∀ (i : Instr) (s : State) (k : Nat) (p : Pred) (gs vs : List Reg) (c' : Core), s.actor = .core k →
    reduceSpec (s.dev.core k) i = some (p, gs, vs, c') →
    (∀ r ∈ gs, (s.dev.core k).pendingG r = false) → (∀ r ∈ vs, (s.dev.core k).pendingV r = false) →
    (reduces i = true ∧ ¬ (p.m = 0 ∧ p.pn = true) ∨ (s.dev.core k).mask p ≠ 0) →
    exec i s = .next (s.completedCore k c')

/-- An integer VREDADD adds up the active lanes modulo 2^32, whatever tree it goes by; with none active it gives 0. -/
def Obligations.IntegerReductionsAddUp : Prop :=
  ∀ (c : Core) (a : Reg) (ty md : BitVec 4) (mask : Lane), ty ≠ 0 →
    (upSweep ty md (redInput ty c a mask, 0)).1.getD 31 0 % 2 ^ 32 =
      ((activeLanes mask).map fun l => (c.lane a l).toNat).sum % 2 ^ 32 ∧
    (upSweep ty md (redInput ty c a mask, 0)).2 = 0

/-! ## Memory -/

/-- LD, VLD, VLDG and VLDB complete and put their result in flight: for each element, what its address may return; PREF does
nothing. No byte and no register changes before the result lands. -/
def Obligations.LoadsPutTheirResultInFlight : Prop :=
  (∀ (i : Instr) (s : State) (k : Nat) (p : Pred) (gs vs : List Reg) (x : Accesses) (pa : Elem → Nat), s.actor = .core k →
      (s.dev.core k).blocked = false → memSpec (s.dev.core k) i = some (p, gs, vs, x) → x.kind = .load →
      (s.dev.core k).issuesV p gs vs → s.reach k x pa →
      let c := s.dev.core k
      ∃ t vals time, exec i s = .next t ∧ (∀ a, SMap.get t.dev.mem a = SMap.get s.dev.mem a) ∧
        t.dev.core k = { c with
          pend := killDst x.dst c.pend ++ [inFlight c x.dst vals], nextTag := c.nextTag + 1, ltime := time, pc := c.pc + 8,
          wait := none, stage := .none } ∧
        (x.spread = 0 → vals.map Prod.fst = x.elems.map Elem.lane) ∧
        (x.spread ≠ 0 → vals.map Prod.fst = activeLanes x.spread) ∧
        (x.spread = 0 → ∀ (j : Nat) e (v : Nat × Word), x.elems[j]? = some e → vals[j]? = some v → s.dev.mayRead (quadOfCore k) (pa e) x.bytes v.2) ∧
        (x.spread ≠ 0 → ∀ e (v : Nat × Word), x.elems = [e] → v ∈ vals → s.dev.mayRead (quadOfCore k) (pa e) x.bytes v.2)) ∧
  (∀ (s : State) (k : Nat) (p : Pred) (b x : Reg) (disp : BitVec 24), s.actor = .core k →
      (s.dev.core k).issues p [b, x] → exec (.pref p b x disp) s = .next (s.completedCore k (s.dev.core k)))

/-- ST, VST and VSTS complete and store their elements in ascending order of lanes; every byte outside the stored ones reads as
before, and no register of the core changes but its logical time. -/
def Obligations.StoresWriteTheirElementsAlone : Prop :=
  ∀ (i : Instr) (s : State) (k : Nat) (p : Pred) (gs vs : List Reg) (x : Accesses) (pa : Elem → Nat), s.actor = .core k →
    (s.dev.core k).blocked = false → memSpec (s.dev.core k) i = some (p, gs, vs, x) → x.kind = .store →
    (s.dev.core k).issuesV p gs vs → s.reach k x pa →
    ∃ t time, exec i s = .next t ∧ t.dev.mem = storeAll x.bytes s.dev.mem (x.elems.map fun e => (pa e, e.data)) ∧
      (∀ a, (∀ e ∈ x.elems, a < pa e ∨ pa e + x.bytes ≤ a) → SMap.get t.dev.mem a = SMap.get s.dev.mem a) ∧
      (∀ e, x.elems = [e] → t.dev.bytesAt (pa e) x.bytes = bytesOf x.bytes e.data) ∧
      t.dev.core k = { s.dev.core k with ltime := time, pc := (s.dev.core k).pc + 8, wait := none, stage := .none } ∧
      (∀ j, j ≠ k → t.dev.core j = s.dev.core j) ∧ (∀ q, t.dev.quad q = s.dev.quad q)

/-- The scalar and lane atomics complete: each element in ascending order reads memory, never a lease copy, and writes what its
operation makes of it, and the old values are in flight for the destination; every byte outside the accessed ones reads as
before. -/
def Obligations.AtomicsReadModifyAndWrite : Prop :=
  ∀ (i : Instr) (s : State) (k : Nat) (p : Pred) (gs vs : List Reg) (x : Accesses) (op : AtomicOp) (pa : Elem → Nat), s.actor = .core k →
    (s.dev.core k).blocked = false → memSpec (s.dev.core k) i = some (p, gs, vs, x) → x.kind = .atomic op →
    (s.dev.core k).issuesV p gs vs → s.reach k x pa →
    let c := s.dev.core k
    let r := atomicAll op x.bytes ((x.elems.map Elem.cmp).headD 0) s.dev.mem (x.elems.map fun e => (pa e, e.data))
    ∃ t time, exec i s = .next t ∧ t.dev.mem = r.1 ∧
      (∀ a, (∀ e ∈ x.elems, a < pa e ∨ pa e + x.bytes ≤ a) → SMap.get t.dev.mem a = SMap.get s.dev.mem a) ∧
      t.dev.core k = { c with
        pend := killDst x.dst c.pend ++ [inFlight c x.dst ((x.elems.map Elem.lane).zip r.2)], nextTag := c.nextTag + 1,
        ltime := time, pc := c.pc + 8, wait := none, stage := .none } ∧
      (∀ j, j ≠ k → t.dev.core j = s.dev.core j)

/-- The checks of a memory access, in their order: an element with a set bit of 63:56 traps ACCESS, one that is misaligned traps
ALIGN, each with its address and no effect. An access with an element whose page is absent, before any that is denied, is held
whole and reported, and the core goes on, with the destination alone waiting; behind a held access it takes its place. Where
element j is denied, ACCESS halts the core with its address; of a store or an atomic the elements below j have taken effect and
those from j upward have not (R138). A request that is dropped at another world's place is counted there beside (R295). An address
translates by the leaf of its page, with the causes of R321, only to a frame that is CLEAN or the world's own (R302), under the key
slot of its record (R299), and is dropped at the port where the world has not the leaf's slot; the apertures of Table 11.2 name vaults
of the world's own partition (R164). -/
def Obligations.AccessesAreChecked : Prop :=
  (∀ (i : Instr) (s : State) (k : Nat) (p : Pred) (gs vs : List Reg) (x : Accesses), s.actor = .core k →
      memSpec (s.dev.core k) i = some (p, gs, vs, x) → (s.dev.core k).issuesV p gs vs →
      let c := s.dev.core k
      let req := s.dev.reqOf k x.kind
      (∀ e, x.elems.find? (fun e => decide (2 ^ 56 ≤ e.va.toNat)) = some e → exec i s = .next (s.trapped k 0x0C e.va)) ∧
      (∀ e, (∀ e ∈ x.elems, e.va.toNat < 2 ^ 56) → x.elems.find? (fun e => decide (e.va.toNat % x.bytes ≠ 0)) = some e →
        exec i s = .next (s.trapped k 0x03 e.va)) ∧
      ((∀ e ∈ x.elems, e.va.toNat < 2 ^ 56 ∧ e.va.toNat % x.bytes = 0) →
        (c.held ≠ [] → ∃ t a, exec i s = .next t ∧ t.dev.mem = s.dev.mem ∧ (t.dev.core k).pc = c.pc + 8 ∧
          (t.dev.core k).held = c.held ++ [.access a] ∧ a.elems = x.elems ∧ a.kind = x.kind ∧ a.dst = x.dst) ∧
        (c.held = [] → ∀ pre e post, x.elems = pre ++ e :: post →
          (∀ cause, (∀ e ∈ pre, ∃ pa, s.dev.translate s.seq req e.va.toNat = .mem pa) →
            s.dev.translate s.seq req e.va.toNat = .miss cause →
            ∃ t a l, exec i s = .next t ∧ (t.dev.core k).held = [.access a] ∧ a.elems = x.elems ∧ a.kind = x.kind ∧ a.dst = x.dst ∧
              (t.dev.core k).pc = c.pc + 8 ∧ (t.dev.core k).g = c.g ∧ (t.dev.core k).v = c.v ∧ t.dev.mem = s.dev.mem ∧
              (t.dev.core k).pend = killDst x.dst c.pend ++ [l] ∧ l.dst = x.dst ∧ l.ready = false ∧
              ∃ f, t.dev.faults = s.dev.faults ++ [f] ∧ f.va = e.va ∧ f.world = c.world ∧ f.write = (x.kind != .load)) ∧
          (∀ why, pre = [] → s.dev.translate s.seq req e.va.toNat = .deny why → exec i s = .next (s.trapped k 0x0C e.va)) ∧
          (∀ die router, pre = [] → s.dev.translate s.seq req e.va.toNat = .drop die router →
            exec i s = .next ({ s with dev := s.dev.foreignDrop s.now die req.world req.gen router }.trapped k 0x0C e.va)) ∧
          (∀ why (pa : Elem → Nat), s.dev.stale = [] → (∀ e ∈ pre, s.dev.translate s.seq req e.va.toNat = .mem (pa e)) →
            s.dev.translate s.seq req e.va.toNat = .deny why →
            ∃ t, exec i s = .next t ∧ (t.dev.core k).halted = true ∧ (t.dev.core k).pc = c.pc ∧
              (t.dev.core k).g = c.g ∧ (t.dev.core k).v = c.v ∧ (t.dev.core k).pend = c.pend ∧
              (c.inHandler = false → (t.dev.core k).trapCause = 0x0C ∧ (t.dev.core k).trapInfo = e.va ∧ (t.dev.core k).trapPc = c.pc) ∧
              (x.kind = .load → t.dev.mem = s.dev.mem) ∧
              (x.kind = .store → t.dev.mem = storeAll x.bytes s.dev.mem (pre.map fun e => (pa e, e.data))) ∧
              (∀ op, x.kind = .atomic op → t.dev.mem =
                (atomicAll op x.bytes ((x.elems.map Elem.cmp).headD 0) s.dev.mem (pre.map fun e => (pa e, e.data))).1))))) ∧
  (∀ (d : Dev) (seq : Nat) (r : Req),
      let vault (q o : Nat) := if (d.world r.world).owns q then Xlate.mem (d.pkgId * 2 ^ 44 + 0x010000000000 + q * 2 ^ 21 + o)
        else .drop (q / 256) (q % 256)
      (∀ q o, q < 1024 → o < 2 ^ 21 → d.translate seq r (0xFF000000000000 + q * 2 ^ 21 + o) = vault q o) ∧
      (∀ q o, r.quad = some q → o < 2 ^ 21 → d.translate seq r (0xFFF00000000000 + o) = vault q o) ∧
      (∀ va, 0xFF000000000000 + 2 ^ 31 ≤ va → ¬ (0xFFF00000000000 ≤ va ∧ va < 0xFFF00000000000 + 2 ^ 21) →
        d.translate seq r va = .deny false) ∧
      (∀ va, d.stale = [] → va < 0xFF000000000000 →
        ((d.world r.world).leafOf va = none → r.world ≠ 0 → d.translate seq r va = .miss 2) ∧
        (∀ level e, (d.world r.world).leafOf va = some (level, e) → leafValid e = true → leafPort e = false →
          let pa := leafBase e + va % 2 ^ pageBits level
          let f := d.frame (pa / 65536)
          let names := f.state = .clean ∨ f.state = .inUse ∧ f.world = r.world
          let keyed := leafSlot e ∈ (d.world r.world).keySlots ∧ (d.keySlot (leafSlot e)).state = .assigned
          let agrees := r.slot = none ∨ r.slot = some (leafSlot e)
          let writes := r.write = true → leafWrite e = true ∧ leafExec e = false ∧ d.execAt r.world pa = false
          (leafPresent e = false → d.translate seq r va = .miss 1) ∧
          (leafPresent e = true → ¬ names → d.translate seq r va = .miss 2) ∧
          (leafPresent e = true → names → keyed → agrees → writes → d.paOk r.world pa = true → d.translate seq r va = .mem pa) ∧
          (leafPresent e = true → names → keyed → ¬ (agrees ∧ writes) → d.translate seq r va = .deny true) ∧
          (leafPresent e = true → names → ¬ keyed → agrees → (r.write = true → leafWrite e = true ∧ leafExec e = false) →
            d.translate seq r va = .drop (pa % 2 ^ 44 / 2 ^ 37 % 4) (256 + pa % 2 ^ 44 / 2 ^ 36)))))

/-! ## Fences and barriers -/

/-- FENCE reads its entries once, and waits for every range counter it must (none for acquire, the overlapping ones for release,
all eight for .all) and, but for acquire, for the core's accesses that wait for a page; a stalled one goes on with the ranges it
has read, and its survey mask keeps the counters it has waited on. Then it completes: an acquire leaves the quad no lease copy of
a line that a mapped address of its ranges lies in, .all none at all. LGFENCE drops its TIDs of the issuing world from the legend
caches of the dies in its scope, and from no other; it makes no legend check. -/
def Obligations.FencesWaitForTheirCounters : Prop :=
  (∀ (s : State) (k : Nat) (scope : BitVec 4) (cnt kind : BitVec 2) (form : BitVec 4) (e0 e1 e2 e3 : BitVec 11) (d : Dev)
      (ranges seen : List (Nat × Nat)) (cs : List Nat), s.actor = .core k →
      let c := s.dev.core k
      let entries := ([(form.getLsbD 0, e0), (form.getLsbD 1, e1), (form.getLsbD 2, e2), (form.getLsbD 3, e3)] : List (Bool × BitVec 11)).take
        (if kind = 3 then 0 else cnt.toNat + 1)
      let waits (rs : List (Nat × Nat)) i := ∃ r, Tab.get? c.ranges i = some r ∧ r.count ≠ 0 ∧ kind ≠ 0 ∧
        (kind = 3 ∨ ∃ e ∈ rs, r.lo < e.2 ∧ e.1 < r.hi ∧ r.lo < r.hi ∧ e.1 < e.2)
      let open_ (rs : List (Nat × Nat)) := (∃ n, n < 8 ∧ waits rs n) ∨ (kind ≠ 0 ∧ c.held ≠ [])
      let i := Instr.fence scope cnt kind form e0 e1 e2 e3
      let stalls (u : Dev) (rs : List (Nat × Nat)) (before : List Nat) :=
        ∃ w ns, exec i s = .next { s with dev := u.setCore k { c with stage := .fencing rs ns, wait := some w } } ∧
          w.kind = 6 ∧ w.handle = 1 ∧ w.needed = (ns.map (2 ^ ·)).sum ∧ w.held = ((ns.filter c.counterZero).map (2 ^ ·)).sum ∧
          (kind = 3 → ns = List.range 8) ∧
          (kind ≠ 3 → ∀ n, n ∈ ns ↔ n ∈ before ∨ (n < 8 ∧ waits rs n))
      let completes (rs : List (Nat × Nat)) := ∃ t, exec i s = .next t ∧ t.dev.mem = s.dev.mem ∧
        (t.dev.core k).pc = c.pc + 8 ∧ (t.dev.core k).wait = none ∧ (t.dev.core k).stage = .none ∧
        (t.dev.core k).g = c.g ∧ (t.dev.core k).v = c.v ∧ (t.dev.core k).m = c.m ∧ (t.dev.core k).fpstat = c.fpstat ∧
        (t.dev.core k).scopeClamped = c.scopeClamped ∧ (t.dev.core k).trapCause = c.trapCause ∧
        (kind = 3 → ∀ l ∈ t.dev.leases, l.quad ≠ quadOfCore k) ∧ (∀ l ∈ t.dev.leases, l ∈ s.dev.leases) ∧
        ((kind = 0 ∨ kind = 2) → ∀ l ∈ t.dev.leases, l.quad = quadOfCore k → ∀ r ∈ rs, ∀ va level e, r.1 ≤ va → va < r.2 →
          va < 2 ^ 56 → (s.dev.world c.world).leafOf va = some (level, e) →
          (leafBase e + va % 2 ^ pageBits level) / 128 ≠ l.line)
      (c.stage = .none →
        (∀ e ∈ entries, e.1 = true → c.pendingG (BitVec.ofNat 6 (e.2.toNat / 32 % 64)) = false ∧
          c.pendingG (BitVec.ofNat 6 (e.2.toNat / 32 % 64 + 1)) = false) →
        (∀ tid d', s.dev.fenceRanges s.ctx k entries = (d', .inl tid) → exec i s = .next (s.trapped k 0x0A (BitVec.ofNat 64 tid))) ∧
        (s.dev.fenceRanges s.ctx k entries = (d, .inr ranges) →
          (open_ ranges → stalls d ranges []) ∧
          (¬ open_ ranges → (scope = 6 → (s.dev.world c.world).tenantScope = false) → completes ranges) ∧
          (¬ open_ ranges → scope = 6 → (s.dev.world c.world).tenantScope = true → c.cur.clampTraps = false →
            ∃ t, exec i s = .next t ∧ (t.dev.core k).scopeClamped = true ∧ (t.dev.core k).pc = c.pc + 8) ∧
          (¬ open_ ranges → scope = 6 → (s.dev.world c.world).tenantScope = true → c.cur.clampTraps = true → c.inHandler = false →
            c.cur.handler ≠ 0xFFFF → ∃ t, exec i s = .next t ∧ (t.dev.core k).scopeClamped = true ∧ (t.dev.core k).trapCause = 0x0B ∧
              (t.dev.core k).trapPc = c.pc + 8 ∧ (t.dev.core k).inHandler = true))) ∧
      (c.stage = .fencing seen cs → (open_ seen → stalls s.dev seen cs) ∧
        (¬ open_ seen → (scope = 6 → (s.dev.world c.world).tenantScope = false) → completes seen))) ∧
  (∀ (s : State) (k : Nat) (scope : BitVec 4) (cnt : BitVec 2) (e0 e1 e2 e3 : BitVec 11), s.actor = .core k →
      (s.dev.core k).blocked = false → (scope = 6 → (s.dev.world (s.dev.core k).world).tenantScope = false) →
      let c := s.dev.core k
      let tids := ([e0, e1, e2, e3].map BitVec.toNat).take (cnt.toNat + 1)
      let dies := s.dev.scopeDies k scope.toNat
      ∃ t kept, exec (.lgfence scope cnt e0 e1 e2 e3) s = .next t ∧
        t.dev.core k = { c with pc := c.pc + 8, wait := none, stage := .none, kept := kept } ∧ t.dev.mem = s.dev.mem ∧
        (∀ i, i ∉ dies → t.dev.die i = s.dev.die i) ∧
        (∀ i ∈ dies, ∀ e, e ∈ (t.dev.die i).legend ↔
          e ∈ (s.dev.die i).legend ∧ ¬ (e.1 = c.world ∧ e.2.1 ∈ tids)))

/-- BAR arrives and waits, with its pc unmoved, and completes once the instance has; BARA arrives and writes the instance's epoch;
BARW waits for the instance arrived at; BARX adds pending bytes; BARSET declares within the limit and traps beyond it. A second
arrival at an open instance waits. Completion empties the barrier and moves its epoch on. In a world limited to tenant scope a sys
barrier acts at part scope and sets SCOPE_CLAMPED, and it traps SCOPE_CLAMP past itself where the header says so (R183). -/
def Obligations.BarriersCountArrivals : Prop :=
  ∀ (s : State) (k : Nat) (p : Pred) (scope : BitVec 4) (a : Reg) (id : BitVec 32), s.actor = .core k →
    (s.dev.core k).blocked = false → (s.dev.core k).issues p [a] →
    let c := s.dev.core k
    let clamped := decide (scope = 6) && (s.dev.world c.world).tenantScope
    let sc := if clamped then 5 else scope.toNat
    let key := barKey c.world sc (barPlace sc k) id.toNat
    let b := s.dev.barrier key
    let joined : Barrier := { b with arrived := b.arrived + 1, who := b.who ++ [k], ltime := Nat.max b.ltime c.orderTime }
    let at_ (c' : Core) := c'.pc = c.pc ∧ c'.g = c.g ∧ c'.wait.any (fun w => w.kind == 4) = true
    let went (c' : Core) := c'.pc = c.pc + 8 ∧ c'.wait = none ∧ c'.stage = .none ∧ c'.trapCause = c.trapCause ∧
      c'.scopeClamped = (c.scopeClamped || clamped)
    (c.stage = .none → k ∉ b.who → ∃ t, exec (.bar p scope id) s = .next t ∧ t.dev.barrier key = joined ∧ at_ (t.dev.core k) ∧
      (t.dev.core k).stage = .arrived key b.epoch.toNat (c.barx == some key)) ∧
    (c.stage = .none → k ∈ b.who → ∃ t, exec (.bar p scope id) s = .next t ∧ t.dev.barrier key = b ∧ at_ (t.dev.core k)) ∧
    (Tab.get? c.arrivals key = some b.epoch.toNat →
      ∃ t, exec (.barw p scope id) s = .next t ∧ t.dev.barrier key = b ∧ at_ (t.dev.core k)) ∧
    ((scope = 0 ∨ s.dev.barLimit k (barScope key) < (c.readG a).toNat % 2 ^ 32) →
      exec (.barset p scope a id) s = .next (s.trapped k 0x01 ((encode (.barset p scope a id)).getD 0))) ∧
    ((clamped = true → c.cur.clampTraps = false) →
      (∀ e tag, c.stage = .arrived key e tag → b.epoch.toNat ≠ e →
        ∃ t, exec (.bar p scope id) s = .next t ∧ t.dev.barrier key = b ∧ went (t.dev.core k) ∧ (t.dev.core k).g = c.g) ∧
      (k ∉ b.who → ∃ t, exec (.bara p scope a id) s = .next t ∧ t.dev.barrier key = joined ∧ went (t.dev.core k) ∧
        (t.dev.core k).g = (c.writeG a (b.epoch.zeroExtend 64)).g ∧ Tab.get? (t.dev.core k).arrivals key = some b.epoch.toNat) ∧
      ((∀ e, Tab.get? c.arrivals key = some e → b.epoch.toNat ≠ e) →
        ∃ t, exec (.barw p scope id) s = .next t ∧ t.dev.barrier key = b ∧ went (t.dev.core k) ∧ (t.dev.core k).g = c.g) ∧
      (b.pending + (c.readG a).toNat % 2 ^ 32 < 2 ^ 32 → ∃ t, exec (.barx p scope a id) s = .next t ∧ went (t.dev.core k) ∧
        t.dev.barrier key = { b with pending := b.pending + (c.readG a).toNat % 2 ^ 32 } ∧ (t.dev.core k).barx = some key) ∧
      (scope ≠ 0 → (c.readG a).toNat % 2 ^ 32 ≤ s.dev.barLimit k (barScope key) →
        ∃ t, exec (.barset p scope a id) s = .next t ∧ went (t.dev.core k) ∧
          t.dev.barrier key = { b with declared := (c.readG a).toNat % 2 ^ 32 })) ∧
    (clamped = true → c.cur.clampTraps = true → c.inHandler = false → c.cur.handler ≠ 0xFFFF →
      b.pending + (c.readG a).toNat % 2 ^ 32 < 2 ^ 32 → ∃ t, exec (.barx p scope a id) s = .next t ∧
        t.dev.barrier key = { b with pending := b.pending + (c.readG a).toNat % 2 ^ 32 } ∧ (t.dev.core k).scopeClamped = true ∧
        (t.dev.core k).trapCause = 0x0B ∧ (t.dev.core k).trapPc = c.pc + 8 ∧ (t.dev.core k).inHandler = true) ∧
    (barScope key ≠ 0 → b.declared ≠ 0 → b.declared ≤ b.arrived → b.pending = 0 →
      ∃ t, exec (.barrierComplete key) s = .next t ∧ t.dev.mem = s.dev.mem ∧
        t.dev.barrier key = { b with arrived := 0, pending := 0, who := [], epoch := b.epoch + 1 }) ∧
    (¬ (s.dev.declared key ≠ 0 ∧ s.dev.declared key ≤ b.arrived ∧ b.pending = 0) → exec (.barrierComplete key) s = .next s)


/-! ## Channels and beads -/

/-- The channel instructions on a bound handle: CRESV and CWAIT set what may be pushed and read, or wait; CPUSH and CMARK write one word
of a reserved slot and its tag, where the ring's record is not read-only, and else trap ACCESS; CPEEK reads one of a waited slot;
CPADV and CCADV move the end's own pointers, set its latch and send a count to the other end, which the arrivals add there; CSTAT
reads the end's state. Beyond what is reserved or waited, or above the ring's slots, each traps ILLEGAL; on an unbound or lent handle,
or the other end's, each traps BAD_HANDLE. CBIND binds a handle to the end of the one channel of the core's team that runs on the named
ring, which its core is, and clears that end's count; where no channel fits it traps BAD_HANDLE. -/
def Obligations.ChannelsMoveTheirPointers : Prop :=
  (∀ (s : State) (k n : Nat) (p : Pred) (h : BitVec 4) (x y : Reg) (cnt rank : BitVec 8) (off : BitVec 16) (b : Handle) (ch : Chan),
      s.actor = .core k → (s.dev.core k).blocked = false → (s.dev.core k).issues p [x] →
      Tab.get? (s.dev.core k).handles h.toNat = some b → b.chan = n → b.lent = false → Tab.get? s.dev.chans n = some ch →
      let c := s.dev.core k
      let total := cnt.toNat + (c.readG x).toNat % 2 ^ 32
      let slot := off.toNat % 4096
      let word := off.toNat / 4096
      let bytes := if ch.slotBytes = 4 then 4 else 8
      let place (i : Nat) := ch.ring + i % ch.slots * ch.slotBytes + 8 * word
      let fits := if ch.slotBytes = 4 then word = 0 else word < ch.slotBytes / 8
      let went (t : State) := (t.dev.core k).pc = c.pc + 8 ∧ (t.dev.core k).wait = none ∧ (t.dev.core k).trapCause = c.trapCause
      let illegal (i : Instr) := exec i s = .next (s.trapped k 0x01 ((encode i).getD 0))
      (∃ t, exec (.cstat p h x) s = .next t ∧ went t ∧ t.dev.mem = s.dev.mem ∧ (t.dev.core k).g = (c.writeG x (ch.status b.producer)).g) ∧
      (b.producer = false →
        (slot < ch.waited → fits → ∃ t, exec (.cpeek p h x y off) s = .next t ∧ went t ∧ t.dev.mem = s.dev.mem ∧
          (t.dev.core k).g = ((c.writeG x (wordOf (s.dev.bytesAt (place ((ch.head + slot) % ch.slots)) bytes))).writeG y
            (BitVec.ofNat 64 (Tab.getD ch.tags ((ch.head + slot) % ch.slots) 0))).g) ∧
        (¬ (slot < ch.waited ∧ fits) → illegal (.cpeek p h x y off)) ∧
        (total ≤ ch.slots → total ≤ ch.filled → ∃ t time, exec (.cwait p h x cnt) s = .next t ∧ went t ∧
          Tab.get? t.dev.chans n = some { ch with waited := total, ltime := time } ∧ t.dev.mem = s.dev.mem) ∧
        (total ≤ ch.slots → ch.filled < total → exec (.cwait p h x cnt) s = .next { s with
          dev := s.dev.setCore k { c with wait := some ⟨1, h.toNat, total, ch.filled, 0⟩ } }) ∧
        (ch.slots < total → illegal (.cwait p h x cnt)) ∧
        (total ≤ ch.waited → ∃ t time, exec (.ccadv p h x cnt) s = .next t ∧ went t ∧ t.dev.mem = s.dev.mem ∧
          (t.dev.core k).latch = (c.latch || decide (total ≠ 0)) ∧
          Tab.get? t.dev.chans n = some { ch with
            head := (ch.head + total) % ch.slots, filled := ch.filled - total, waited := ch.waited - total,
            backs := if total = 0 then ch.backs else ch.backs ++ [total], ltime := time }) ∧
        (ch.waited < total → illegal (.ccadv p h x cnt)) ∧
        (∀ i, (i = .cresv p h x cnt ∨ i = .cpush p h x off ∨ i = .cmark p h x rank off ∨ i = .cpadv p h x cnt) →
          exec i s = .next (s.trapped k 0x0A (h.zeroExtend 64)))) ∧
      (b.producer = true →
        (total ≤ ch.slots → total ≤ ch.credits → ∃ t time, exec (.cresv p h x cnt) s = .next t ∧ went t ∧
          Tab.get? t.dev.chans n = some { ch with reserved := total, ltime := time } ∧ t.dev.mem = s.dev.mem) ∧
        (total ≤ ch.slots → ch.credits < total → exec (.cresv p h x cnt) s = .next { s with
          dev := s.dev.setCore k { c with wait := some ⟨2, h.toNat, total, ch.credits, 0⟩ } }) ∧
        (ch.slots < total → illegal (.cresv p h x cnt)) ∧
        (∀ i tag, (i = .cpush p h x off ∧ tag = 0 ∨ i = .cmark p h x rank off ∧ tag = rank.toNat + 1) →
          (slot < ch.reserved → fits → ch.readOnly = false → ∃ t, exec i s = .next t ∧ went t ∧ (t.dev.core k).g = c.g ∧
            t.dev.mem = SMap.setRun s.dev.mem (place ((ch.tail + slot) % ch.slots)) (bytesOf bytes (c.readG x)) ∧
            Tab.get? t.dev.chans n = some { ch with tags := Tab.put ch.tags ((ch.tail + slot) % ch.slots) tag }) ∧
          (slot < ch.reserved → fits → ch.readOnly = true → exec i s = .next (s.trapped k 0x0C
            (BitVec.ofNat 64 (ch.va.toNat + (ch.tail + slot) % ch.slots * ch.slotBytes + 8 * word)))) ∧
          (¬ (slot < ch.reserved ∧ fits) → illegal i)) ∧
        (total ≤ ch.reserved → ∃ t time, exec (.cpadv p h x cnt) s = .next t ∧ went t ∧ t.dev.mem = s.dev.mem ∧
          (t.dev.core k).latch = (c.latch || decide (total ≠ 0)) ∧
          Tab.get? t.dev.chans n = some { ch with
            tail := (ch.tail + total) % ch.slots, credits := ch.credits - total, reserved := ch.reserved - total,
            fills := if total = 0 then ch.fills else ch.fills ++ [total], ltime := time }) ∧
        (ch.reserved < total → illegal (.cpadv p h x cnt)) ∧
        (∀ i, (i = .cwait p h x cnt ∨ i = .ccadv p h x cnt ∨ i = .cpeek p h x y off) →
          exec i s = .next (s.trapped k 0x0A (h.zeroExtend 64))))) ∧
  (∀ (s : State) (k : Nat) (p : Pred) (h : BitVec 4) (x y : Reg) (cnt rank : BitVec 8) (off : BitVec 16) (i : Instr),
      s.actor = .core k → (s.dev.core k).issues p [x] →
      (Tab.get? (s.dev.core k).handles h.toNat = none ∨ ∃ b, Tab.get? (s.dev.core k).handles h.toNat = some b ∧ b.lent = true) →
      (i = .cwait p h x cnt ∨ i = .ccadv p h x cnt ∨ i = .cpeek p h x y off ∨ i = .cresv p h x cnt ∨ i = .cpush p h x off ∨
        i = .cmark p h x rank off ∨ i = .cpadv p h x cnt ∨ i = .cstat p h x) →
      exec i s = .next (s.trapped k 0x0A (h.zeroExtend 64))) ∧
  (∀ (s : State) (n : Nat) (ch : Chan), Tab.get? s.dev.chans n = some ch →
      (∀ v rest, ch.fills = v :: rest → ∃ t, exec (.channelFillArrival n) s = .next t ∧ Tab.get? t.dev.chans n = some
        { ch with filled := if (s.dev.world ch.world).owns (ch.cons / 4) then ch.filled + v else ch.filled, fills := rest }) ∧
      (∀ v rest, ch.backs = v :: rest → ∃ t, exec (.channelCreditArrival n) s = .next t ∧ Tab.get? t.dev.chans n = some
        { ch with credits := if (s.dev.world ch.world).owns (ch.prod / 4) then ch.credits + v else ch.credits, backs := rest })) ∧
  (∀ (s : State) (k : Nat) (p : Pred) (h : BitVec 4) (x : Reg) (end_ : BitVec 16) (d : Dev) (r : Option Rec), s.actor = .core k →
      (s.dev.core k).issues p [x] →
      let c := s.dev.core k
      let tid := (c.readG x).toNat
      ((Tab.get? c.handles h.toNat).any Handle.lent = false) → tid < 2048 →
      s.dev.useKind s.seq (k / 1024) c.world tid [1] = (d, r) →
      let fit (ch : Chan) := ch.team = c.cur.team ∧ ch.world = c.world ∧ ch.tid = tid ∧
        (if end_ = 1 then ch.prod = k else ch.cons = k) ∧ ∃ r', r = some r' ∧ ringOk r' ch = true
      (∀ n ch, Tab.get? d.chans n = some ch → fit ch → (∀ e ∈ d.chans, fit e.2 → e = (n, ch)) →
        ∃ t, exec (.cbind p h x end_) s = .next t ∧ (t.dev.core k).pc = c.pc + 8 ∧ t.dev.mem = s.dev.mem ∧
          (t.dev.core k).handles = Tab.put c.handles h.toNat { chan := n, producer := end_ == 1, lent := false } ∧
          Tab.get? t.dev.chans n = some (if end_ = 1 then { ch with readOnly := r.any Rec.readOnly, reserved := 0 }
            else { ch with readOnly := r.any Rec.readOnly, waited := 0 })) ∧
      ((∀ e ∈ d.chans, ¬ fit e.2) → exec (.cbind p h x end_) s = .next (s.trapped k 0x0A (c.readG x))))

/-- KSEND puts one bit on its route with the logical time that the core has made known to the destination, waits while an earlier bead of
the route is on its way or while its port is full and its own bead would be the next there, and traps BAD_HANDLE on a route that is
not the core's. A bead that arrives at an empty port of the route's team enters it and sets the core's latch; at a port that is full
or was emptied in this clock it waits; where the plane no longer runs that team it is dropped. -/
def Obligations.BeadsTravelToTheirPort : Prop :=
  ∀ (s : State) (k i : Nat) (p : Pred) (x : Reg) (route : BitVec 8) (r : BeadRoute),
    let c := s.dev.core k
    let full := (Tab.get? (s.dev.core r.dst).ports r.port).isSome
    let another := ∃ e ∈ s.dev.beads, e.1 ≠ i ∧ e.2.dst = r.dst ∧ e.2.port = r.port ∧ e.2.fly.isSome = true
    let waits := exec (.ksend p x route) s = .next (s.stalled k ⟨3, 0x10 + route.toNat, 1, 0, 0⟩)
    (s.actor = .core k → (s.dev.core k).issues p [x] →
      (s.dev.beadRoute k route.toNat = none → exec (.ksend p x route) s = .next (s.trapped k 0x0A (route.zeroExtend 64))) ∧
      (s.dev.beadRoute k route.toNat = some i → Tab.get? s.dev.beads i = some r →
        (r.fly = none → (full = false ∨ another) →
          exec (.ksend p x route) s = .next (s.completed k { s.dev with
            beads := Tab.put s.dev.beads i { r with fly := some ((c.readG x).getLsbD 0), flyTime := c.beadTime k r.dst } } (c.pc + 8))) ∧
        (r.fly ≠ none → waits) ∧ (full = true → ¬ another → waits))) ∧
    (∀ b, Tab.get? s.dev.beads i = some r → r.fly = some b →
      let d := s.dev.core r.dst
      let runs := d.active.isSome = true ∧ d.cur.team = r.team ∧ d.cur.state = .active
      (runs → (s.dev.world d.world).owns (quadOfCore r.dst) = true →
        (full = false → Tab.get? d.portAt r.port ≠ some s.now.clock →
          ∃ t, exec (.beadArrival i) s = .next t ∧ Tab.get? (t.dev.core r.dst).ports r.port = some b ∧
            Tab.get? (t.dev.core r.dst).portTimes r.port = some r.flyTime ∧ (t.dev.core r.dst).latch = true ∧
            (t.dev.core r.dst).g = d.g ∧ Tab.get? t.dev.beads i = some { r with fly := none }) ∧
        ((full = true ∨ Tab.get? d.portAt r.port = some s.now.clock) → exec (.beadArrival i) s = .next s)) ∧
      (¬ runs → exec (.beadArrival i) s = .next { s with dev := { s.dev with beads := Tab.put s.dev.beads i { r with fly := none } } }))

/-! ## Engines -/

/-- An engine command of a core enters its engine's queue with the engine's next number, its operands as read, the record it names as
read, and its bytes held in the range counters, and the core goes on; it is ready at once, or once the core's earlier accesses that
wait for a page are done; a full queue stalls it, an invalid record or one of a wrong kind traps BAD_HANDLE with the TID, and a
pushdown command on a follower's core traps BAD_HANDLE with the lead. CPYM enters both queues, or traps ILLEGAL if g_c is no
follow-on. -/
def Obligations.EngineCommandsEnterTheirQueue : Prop :=
  (∀ (i : Instr) (s : State) (k : Nat) (o : Order), s.actor = .core k → orderSpec s k i = some o →
      (∀ r ∈ o.reads, (s.dev.core k).pendingG r = false) →
      let c := s.dev.core k
      let q := quadOfCore k
      let g := s.dev.engine q o.engine
      let r := s.namedRecord k o
      (∀ l, o.engine = 2 → (s.dev.quad q).lead = some l → exec i s = .next (s.trapped k 0x0A (BitVec.ofNat 64 (l % 256)))) ∧
      ((o.engine = 2 → (s.dev.quad q).lead = none) →
        (∀ tid kinds, o.named = some (tid, kinds) → r = none → exec i s = .next (s.trapped k 0x0A (BitVec.ofNat 64 tid))) ∧
        ((o.named = none ∨ r.isSome = true) →
          (8 ≤ g.queue.length → exec i s = .next { s with dev := s.dev.setCore k { c with wait := some Wait.stalled } }) ∧
          (g.queue.length < 8 → (∀ n, n < 8 → (c.range n).count + ((o.operands r).map Operand.bytes).sum < 2 ^ 32) →
            ∃ t cmd, exec i s = .next t ∧
              t.dev.engine q o.engine = { g with queue := g.queue ++ [cmd], seq := (g.seq + 1) % 2 ^ 16, used := true } ∧
              cmd.instr = i ∧ cmd.a = o.a ∧ cmd.b = o.b ∧ cmd.c = o.c ∧ cmd.seq = (g.seq + 1) % 2 ^ 16 ∧ cmd.issuer.core = some k ∧
              cmd.issuer.world = c.world ∧ cmd.issuer.team = c.cur.team ∧ cmd.bar = c.barx ∧ cmd.after = none ∧ cmd.fault = none ∧
              cmd.record = r ∧ cmd.ready = c.held.isEmpty ∧ cmd.ltime = c.orderTime ∧
              (t.dev.core k).held = (if c.held = [] then [] else c.held ++ [.issue o.engine cmd.seq]) ∧
              (t.dev.core k).pc = c.pc + 8 ∧ (t.dev.core k).g = c.g ∧ t.dev.mem = s.dev.mem ∧
              (t.dev.core k).ops = c.ops ++ [{ eng := o.engine, seq := cmd.seq, done := false, fault := none, bar := c.barx }] ∧
              (∀ n, ((t.dev.core k).range n).count = (c.range n).count + heldAt cmd.charged n))))) ∧
  (∀ (s : State) (k : Nat) (a b rc bs : Reg) (tid : BitVec 11) (form : BitVec 1) (d1 : Dev) (r : Rec), s.actor = .core k →
      (∀ x ∈ [a, b, rc], (s.dev.core k).pendingG x = false) →
      let c := s.dev.core k
      let q := quadOfCore k
      let bytes := tileBytes r (form == 1) (c.readG a).toNat (c.readG b).toNat
      s.dev.useRecord s.seq (dieOfQuad q) c.world tid.toNat = (d1, some r) →
      (∀ (i : Instr) (d2 : Dev) (r2 : Rec) (t2 : BitVec 11), decode (c.readG rc) = .ok i →
        (∃ x y, i = .mma x y t2 ∨ i = .mmaz x y t2 ∨ i = .mldb y t2) → d1.useKind s.seq (dieOfQuad q) c.world t2.toNat [0] = (d2, some r2) →
        (s.dev.engine q 0).queue.length < 8 → (s.dev.engine q 1).queue.length < 8 → (∀ n, n < 8 → (c.range n).count + bytes < 2 ^ 32) →
        ∃ t copy matrix, exec (.cpym a b rc bs tid form) s = .next t ∧ (t.dev.core k).pc = c.pc + 8 ∧ t.dev.mem = s.dev.mem ∧
          (t.dev.engine q 0).queue = (s.dev.engine q 0).queue ++ [copy] ∧ (t.dev.engine q 1).queue = (s.dev.engine q 1).queue ++ [matrix] ∧
          copy.instr = .cpym a b rc bs tid form ∧ copy.a = c.readG a ∧ copy.b = c.readG b ∧ copy.follow = some matrix.seq ∧
          copy.record = some r ∧ copy.ready = c.held.isEmpty ∧
          matrix.instr = i ∧ matrix.after = some copy.seq ∧ matrix.ready = false ∧ matrix.record = some r2) ∧
      ((∀ x y t2, decode (c.readG rc) ≠ .ok (.mma x y t2) ∧ decode (c.readG rc) ≠ .ok (.mmaz x y t2) ∧ decode (c.readG rc) ≠ .ok (.mldb y t2)) →
        exec (.cpym a b rc bs tid form) s = .next (s.trapped k 0x01 (c.readG rc))))

/-- BFWAIT waits with nothing consumed until its slot is full, joins the fill, and traps ENGINE_FAULT for a faulted fill that this core
issued or whose slot it armed; BFREL lets a full slot drain; BFSTAT, MSTAT and ASTAT write their status word; BFARM arms its slot at
once and BFARM with the disarm bit disarms it. A draining slot with no reader becomes free and, with tiles left of an armed pattern,
sends its notice; the tile of the oldest notice then starts, ahead of queued commands, with the engine's next number; the head of a
queue starts where the slot states let it. Of one clock's events on a slot, none comes after one of a later row of Table 15.4. -/
def Obligations.SlotsAreFilledAndReleased : Prop :=
  (∀ (s : State) (k : Nat) (a b rc bs : Reg), s.actor = .core k →
      let c := s.dev.core k
      let q := quadOfCore k
      let v := (s.dev.quad q).slot bs.toNat
      let code := match v.state with | .free => 0 | .filling => 1 | .full => 2 | .draining => 3
      let mine := (∃ e, v.filler = some (e, some k)) ∨ ∃ arm, v.armed = some arm ∧ arm.cmd.issuer.core = some k
      let others := (s.dev.quad q).notices.filter fun n => n != bs.toNat
      (v.state ≠ .full → exec (.bfwait bs) s = .next { s with dev := s.dev.setCore k { c with wait := some ⟨5, bs.toNat, 2, code, 0⟩ } }) ∧
      (v.state = .full → (v.faulted = false ∨ ¬ mine) → ∃ t, exec (.bfwait bs) s = .next t ∧
        (t.dev.core k).pc = c.pc + 8 ∧ (t.dev.core k).g = c.g ∧ (t.dev.core k).trapCause = c.trapCause ∧ t.dev.mem = s.dev.mem ∧
        (∀ e i, v.filler = some (e, i) → ∀ o ∈ (t.dev.core k).ops, ¬ (o.eng = e ∧ o.seq = v.seq ∧ o.done = true))) ∧
      (∀ e i, v.state = .full → v.faulted = true → v.filler = some (e, i) → mine → c.inHandler = false → c.cur.handler ≠ 0xFFFF →
        ∃ t, exec (.bfwait bs) s = .next t ∧ (t.dev.core k).trapCause = 8 ∧ (t.dev.core k).trapInfo = (s.dev.engine q e).status ∧
          (t.dev.core k).trapPc = c.pc + 8 ∧ (t.dev.core k).inHandler = true ∧ t.dev.mem = s.dev.mem) ∧
      (c.held ≠ [] → exec (.bfrel bs) s = .next { s with dev := s.dev.setCore k { c with wait := some Wait.stalled } }) ∧
      (c.held = [] →
        (v.state = .filling → v.allows s.now.clock 5 = true →
          exec (.bfrel bs) s = .next { s with dev := s.dev.setCore k { c with wait := some ⟨5, bs.toNat, 2, 1, 0⟩ } }) ∧
        ((v.state ≠ .filling ∨ v.allows s.now.clock 5 = false) → ∃ t, exec (.bfrel bs) s = .next t ∧ (t.dev.core k).pc = c.pc + 8 ∧
          t.dev.mem = s.dev.mem ∧ (t.dev.quad q).slot bs.toNat =
            if v.allows s.now.clock 5 = false then v
            else if v.state = .full then { v with state := .draining, faulted := false, last := (s.now.clock, 5) }
            else { v with faulted := false })) ∧
      (∃ t, exec (.bfstat a bs) s = .next t ∧ (t.dev.core k).pc = c.pc + 8 ∧ (t.dev.core k).g = (c.writeG a v.status).g ∧
        t.dev.mem = s.dev.mem ∧ t.dev.quads = s.dev.quads) ∧
      (∃ t, exec (.bfarmDisarm bs) s = .next t ∧ (t.dev.core k).pc = c.pc + 8 ∧ t.dev.mem = s.dev.mem ∧
        (t.dev.quad q).slot bs.toNat = { v with armed := none } ∧ (t.dev.quad q).notices = others) ∧
      (∃ t, exec (.mstat a) s = .next t ∧ (t.dev.core k).pc = c.pc + 8 ∧ (t.dev.core k).g = (c.writeG a (s.dev.engine q 1).status).g ∧
        t.dev.mem = s.dev.mem ∧ ((s.dev.engine q 1).faultedBy k = true → (t.dev.engine q 1).fault = none)) ∧
      ((s.dev.quad q).lead = none → exec (.astat a) s = .next (s.completedCore k (c.writeG a (s.dev.netStatus q)))) ∧
      (∀ l, (s.dev.quad q).lead = some l → exec (.astat a) s = .next (s.trapped k 0x0A (BitVec.ofNat 64 (l % 256)))) ∧
      (∀ (tid : BitVec 11) (form : BitVec 2), (∀ r ∈ [a, b, rc], c.pendingG r = false) →
        ((s.dev.useRecord s.seq (dieOfQuad q) c.world tid.toNat).2 = none →
          exec (.bfarm a b rc bs tid form) s = .next (s.trapped k 0x0A (tid.zeroExtend 64))) ∧
        (∀ r, (s.dev.useRecord s.seq (dieOfQuad q) c.world tid.toNat).2 = some r → c.readG rc = 0 →
          ∃ t cmd, exec (.bfarm a b rc bs tid form) s = .next t ∧ (t.dev.core k).pc = c.pc + 8 ∧ (t.dev.core k).g = c.g ∧ t.dev.mem = s.dev.mem ∧
            (t.dev.quad q).slot bs.toNat = { v with armed := some { cmd := cmd, count := (c.readG b).toNat % 2 ^ 32 }, tiles := 0 } ∧
            (t.dev.quad q).notices = (if v.state = .free then others ++ [bs.toNat] else others) ∧
            cmd.instr = .bfarm a b rc bs tid form ∧ cmd.a = c.readG a ∧ cmd.b = c.readG b ∧ cmd.issuer.core = some k))) ∧
  (∀ (s : State) (q n e : Nat),
      let v := (s.dev.quad q).slot n
      let g := s.dev.engine q e
      let clock := s.now.clock
      (v.state = .draining → (s.dev.quad q).hasReader n = false → v.allows clock 6 = true → ∃ t, exec (.slotDrained q n) s = .next t ∧
        t.dev.mem = s.dev.mem ∧ (t.dev.quad q).slot n = { v with state := .free, last := (clock, 6) } ∧
        (t.dev.quad q).notices = if v.tileLeft then ((s.dev.quad q).notices.filter fun i => i != n) ++ [n] else (s.dev.quad q).notices) ∧
      (∀ arm, v.armed = some arm → (s.dev.quad q).notice = some n → v.allows clock 7 = true →
        (s.dev.engine q 0).running.length < 8 → fillsSlot arm.cmd.instr = some n →
        ∃ t, exec (.armedTileStart q n) s = .next t ∧ t.dev.mem = s.dev.mem ∧
          (t.dev.engine q 0).queue = (s.dev.engine q 0).queue ∧
          (t.dev.engine q 0).running = (s.dev.engine q 0).running ++
            [{ arm.cmd with seq := ((s.dev.engine q 0).seq + 1) % 2 ^ 16, tile := some v.tiles }] ∧
          ((t.dev.quad q).slot n).state = .filling ∧ ((t.dev.quad q).slot n).tiles = v.tiles + 1 ∧
          ((t.dev.quad q).slot n).last = (clock, 7) ∧ (t.dev.quad q).notices = (s.dev.quad q).notices.filter fun i => i != n) ∧
      (∀ cmd rest, e < 2 → g.queue = cmd :: rest → g.running.length < (if e = 0 then 8 else 1) → cmd.ready = true → cmd.fault = none →
        (e = 0 → (s.dev.quad q).notice = none) →
        (∀ i, fillsSlot cmd.instr = some i → ((s.dev.quad q).slot i).state = .free ∧ ((s.dev.quad q).slot i).allows clock 1 = true) →
        (∀ i, readsSlot cmd.instr = some i → ((s.dev.quad q).slot i).state = .full) →
        (cmd.after = none → ∃ t, exec (.engineCommandStart q e) s = .next t ∧ t.dev.engine q e = { g with queue := rest, running := g.running ++ [cmd] } ∧
          t.dev.mem = s.dev.mem ∧ (∀ i, fillsSlot cmd.instr = some i → ((t.dev.quad q).slot i).state = .filling ∧ ((t.dev.quad q).slot i).last = (clock, 1))) ∧
        (cmd.after.isSome = true → e = 1 → ∃ t, exec (.followOnStart q) s = .next t ∧
          t.dev.engine q 1 = { g with queue := rest, running := g.running ++ [cmd] } ∧ t.dev.mem = s.dev.mem)) ∧
      (∀ i, (e = 0 ∧ (s.dev.quad q).notice.isSome = true ∨ ∃ cmd rest, g.queue = cmd :: rest ∧ fillsSlot cmd.instr = some i ∧
          ¬ (((s.dev.quad q).slot i).state = .free ∧ ((s.dev.quad q).slot i).allows clock 1 = true)) →
        exec (.engineCommandStart q e) s = .next s))

/-- Operations end: a copy or matrix command with a decided fault leaves its engine with that code in the status word, and a drain that
the host's answer ended counts what it had converted; a copy of bytes in one line moves them; MZERO clears its accumulator; MLDB loads
the stationary operand; MMA and MMAZ accumulate each element over its row and column and add 8192 kt to the world's counter of that
format's multiply-accumulates, and the other two add to no counter; a drain to a slot writes its converted elements and sends their
counts to the world's statistics record; ACLEAR puts the network back to its start. Counts that reach the port are added to the fields
of the valid record that the world names, with one group more, and are otherwise discarded with one event. -/
def Obligations.EngineOperationsEnd : Prop :=
  (∀ (s : State) (q seq f : Nat) (cmd : Cmd), cmd.fault = some f → cmd.waiting = false →
      (∀ a b c tid acc, cmd.instr = .cpys a b c tid acc → (s.dev.engine q 0).find seq = some cmd → cmd.tile = none →
        ∃ t, exec (.copyComplete q seq) s = .next t ∧ t.dev.mem = s.dev.mem ∧ Ended s t q 0 cmd (some f)) ∧
      (∀ rest, (s.dev.engine q 1).running = cmd :: rest → ∃ t, exec (.matrixCommandComplete q) s = .next t ∧ Ended s t q 1 cmd (some f) ∧
        t.dev.mem = match cmd.converted with
          | some counts => if f = 0x0C then (s.dev.landCounts s.ctx cmd.issuer.world counts).mem else s.dev.mem
          | none => s.dev.mem)) ∧
  (∀ (s : State) (q seq : Nat) (cmd : Cmd) (a b c bs : Reg) (tid : BitVec 11) (fl : BitVec 13) (d : Dev) (r : Rec) (from_ to_ : Nat),
      cmd.instr = .cpy a b c bs tid fl → fl = 0 → cmd.fault = none → cmd.waiting = false → cmd.tile = none → cmd.landed = [] →
      cmd.counts = Counts.zero → (s.dev.engine q 0).find seq = some cmd → cmd.c.toNat ≠ 0 →
      cmd.b.toNat % 128 + cmd.c.toNat ≤ 128 → cmd.a.toNat % 128 + cmd.c.toNat ≤ 128 → s.dev.stale = [] →
      s.dev.cmdRecord s.ctx q cmd tid.toNat = (d, some r) → r.readOnly = false →
      s.dev.translate s.seq (plainReq cmd.issuer q false) cmd.b.toNat = .mem from_ →
      s.dev.translate s.seq (r.req cmd.issuer q true) cmd.a.toNat = .mem to_ →
      ∃ t, exec (.copyComplete q seq) s = .next t ∧ Ended s t q 0 cmd none ∧
        t.dev.mem = SMap.setRun s.dev.mem to_ (s.dev.bytesAt from_ cmd.c.toNat)) ∧
  (∀ (s : State) (q : Nat) (cmd : Cmd) (rest : List Cmd), (s.dev.engine q 1).running = cmd :: rest → cmd.fault = none → cmd.waiting = false →
      let w := cmd.issuer.world
      let done (t : State) := exec (.matrixCommandComplete q) s = .next t ∧ Ended s t q 1 cmd none
      let same (t : State) := t.dev.mem = s.dev.mem ∧ (t.dev.world w).counters = (s.dev.world w).counters
      (∀ acc, cmd.instr = .mzero acc → ∃ t, done t ∧ same t ∧
        (t.dev.quad q).acc acc.toNat = Acc.zero ∧ (∀ n, n ≠ acc.toNat → (t.dev.quad q).acc n = (s.dev.quad q).acc n)) ∧
      (∀ (bs : Reg) (tid : BitVec 11) (d : Dev) (r : Rec), cmd.instr = .mldb bs tid →
        s.dev.cmdRecord s.ctx q cmd tid.toNat = (d, some r) → r.format = 1 ∨ r.format = 3 ∨ r.format = 4 ∨ r.format = 5 →
        ∃ t, done t ∧ same t ∧
          (t.dev.quad q).statB = some { format := r.format, bytes := SMap.ofList (s.dev.slotBytes q bs.toNat 0 16384) }) ∧
      (∀ (acc bs : Reg) (tid : BitVec 11) (zero : Bool) (d : Dev) (r : Rec) (b : Stationary) (kt : Nat),
        cmd.instr = (if zero then .mmaz acc bs tid else .mma acc bs tid) →
        s.dev.cmdRecord s.ctx q cmd tid.toNat = (d, some r) → (s.dev.quad q).statB = some b → tileK r.format = some kt →
        paired r.format b.format = true →
        let A := s.dev.slotBytes q bs.toNat 0 16384
        let B := SMap.getRun b.bytes 0 16384
        let macs := if r.format = 5 then 2 else if r.format = 1 then 4 else 3
        ∃ t, done t ∧ t.dev.mem = s.dev.mem ∧
          (∀ i, SMap.get (t.dev.world w).counters i =
            SMap.get (s.dev.world w).counters i + if i = macs then BitVec.ofNat 48 (128 * 64 * kt) else 0) ∧
          (t.dev.quad q).statB = some b ∧ (∀ n, n ≠ acc.toNat → (t.dev.quad q).acc n = (s.dev.quad q).acc n) ∧
          (∀ i j, i < 128 → j < 64 → SMap.get ((t.dev.quad q).acc acc.toNat).elems (64 * i + j) =
            BitVec.ofNat 32 (dotBlocks (if zero then 0 else (SMap.get ((s.dev.quad q).acc acc.toNat).elems (64 * i + j)).toNat)
              (vectorBlocks r.format kt (sliceB A (64 * i) 64) (sliceB A (0x2000 + 16 * i) 16))
              (vectorBlocks b.format kt (sliceB B (256 * j) 64) (sliceB B (256 * j + 64) 16))))) ∧
      (∀ (acc b bs : Reg) (tid : BitVec 11) (fl : BitVec 3) (d : Dev) (r : Rec) (f : NumFmt),
        cmd.instr = .mdrain acc b bs tid fl → fl.getLsbD 1 = false → s.dev.cmdRecord s.ctx q cmd tid.toNat = (d, some r) →
        r.format ≠ 5 → r.format ≠ 12 → numFmt r.format = some f → (f.width ≤ 16 ∧ fl.getLsbD 0 = false ∨ f.width = 32) →
        let first := if fl.getLsbD 0 then 4096 else 0
        let rs := (List.range (if f.width = 32 then 4096 else 8192)).map fun n =>
          ((s.dev.quad q).acc acc.toNat).drain f (if fl.getLsbD 2 then 0 else 8) (first + n)
        let bytes := rs.flatMap fun v => bytesOfNat (f.width / 8) v.bits
        let u := ((Run.start d cmd).writeSlot w q bs.toNat 0 bytes).d
        (∀ o, o < bytes.length → SMap.get u.mem (s.dev.slotPa q bs.toNat o) = bytes.getD o 0) ∧
          ∃ t, done t ∧ t.dev.mem = (u.landCounts s.ctx w (Counts.zero.tally rs)).mem)) ∧
  (∀ (s : State) (q : Nat) (cmd : Cmd) (rest : List Cmd) (n : Network), (s.dev.engine q 2).running = cmd :: rest → cmd.waiting = false →
      cmd.fault = none → cmd.instr = .aclear 0 → (s.dev.quad q).net = some n →
      ∃ t, exec (.pushdownCommandDone q) s = .next t ∧ Ended s t q 2 cmd none ∧
        t.dev.mem = s.dev.mem ∧ (t.dev.quad q).net = some n.clear) ∧
  (∀ (s : State) (i : Nat) (x : Tokens), s.dev.tokens[i]? = some x →
      let tid := (s.dev.world x.world).statsTid
      ((s.dev.useKind s.seq 0 x.world tid [5]).2 = none →
        ∃ t, exec (.statsTokensLand i) s = .next t ∧ t.dev.tokens = dropAt s.dev.tokens i ∧ t.dev.mem = s.dev.mem ∧
          (t.dev.world x.world).statsRefused = true ∧ ((s.dev.world x.world).statsRefused = true → t.dev.hostMem = s.dev.hostMem)) ∧
      (∀ d r pa, s.dev.useKind s.seq 0 x.world tid [5] = (d, some r) → r.base % 128 ≤ 88 → s.dev.stale = [] →
        (∀ o, o < 40 → s.dev.translate s.seq { world := x.world, gen := 0, die := 0, quad := none, write := true, slot := some r.keySlot }
          (r.base + o) = .mem (pa + o)) →
        ∃ t, exec (.statsTokensLand i) s = .next t ∧ t.dev.tokens = dropAt s.dev.tokens i ∧
          (∀ f ∈ [(0, x.counts.nanIn), (0x08, x.counts.overflow), (0x10, x.counts.underflow), (0x18, x.counts.inexact), (0x20, 1)],
            t.dev.bytesAt (pa + f.1) 8 = bytesOfNat 8 (natOfBytes (s.dev.bytesAt (pa + f.1) 8) + f.2)) ∧
          (∀ a, ¬ (pa ≤ a ∧ a < pa + 40) → SMap.get t.dev.mem a = SMap.get s.dev.mem a)))

/-- A symbol's step of a network with no sink, no transition that pushes and room for its frontier moves each configuration by every
transition that its class and its stack's top let, and to nothing else (R250); its end lands, and the position advances. A
marker accepts or rejects, and puts the frontier back to the start (R253). -/
def Obligations.NetworksStep : Prop :=
  ∀ (s : State) (q : Nat) (cmd : Cmd) (rest : List Cmd) (n : Network) (a : Reg) (mark : BitVec 1), (s.dev.engine q 2).running = cmd :: rest →
    (s.dev.quad q).net = some n → cmd.waiting = false → cmd.instr = .astep a mark → n.staged = none → n.eventSink = none → n.treeSink = none →
    n.maskSink = none → n.spill = none → n.limit ≤ 4096 → n.nodes.length ≤ 16384 →
    (mark = 0 → (∀ c ∈ n.frontier, ∀ t ∈ n.stateTrans c.state, tPush t = 0) → (∀ m, depthOf n.nodes m ≤ 0xFFFFFF) →
      let cls := (SMap.get n.classMap (cmd.a.toNat % 65536)).toNat
      ∃ t n' next, exec (.pushdownStep q) s = .next t ∧ next.Nodup ∧
        (∀ x, x ∈ next ↔ ∃ c ∈ n.frontier, ∃ w ∈ n.stateTrans c.state, n.moves cls c w x) ∧
        (next.length ≤ n.limit → Ended s t q 2 cmd none ∧ (t.dev.quad q).net = some n' ∧ n'.frontier = next ∧ t.dev.mem = s.dev.mem ∧
          n'.pos = (n.pos + 1) % 2 ^ 32 ∧ n'.dead = (n.dead || next.isEmpty) ∧ n'.accept = n.accept)) ∧
    (mark = 1 → ∃ t n', exec (.pushdownMarker q) s = .next t ∧ Ended s t q 2 cmd none ∧ (t.dev.quad q).net = some n' ∧ t.dev.mem = s.dev.mem ∧
      n'.frontier = [{ state := n.start, top := none }] ∧ n'.nodes = [] ∧ n'.pos = (n.pos + 1) % 2 ^ 32 ∧ n'.dead = false ∧
      n'.accept = n.frontier.any n.accepts)

/-! ## Streams -/

/-- SOPEN opens the lowest free context of its port under the core's lowest free number and starts it, or writes all ones where
none is free; SSTAT, and SDRAIN once the stream has ended, write its status word; SDRAIN of a streaming one and SCLOSE of one that
owes writes wait; SCLOSE frees the context. A returning element is delivered or written at its place; one without a
translation moves to the spill queue and freezes the stream, with a fault record in the port's status that counts it; a frozen stream
thaws when no element is left spilled or held; and a freeze that lasts for fault_timeout raises STREAM_FAULT once. -/
def Obligations.StreamsDeliverTheirElements : Prop :=
  (∀ (s : State) (k : Nat) (a b : Reg) (tid : BitVec 11) (dir : BitVec 1) (d : Dev) (r : Rec), s.actor = .core k →
      (s.dev.core k).pendingG b = false → ((s.dev.core k).readG b).toNat ≤ 95 →
      s.dev.useKind s.seq (k / 1024) (s.dev.core k).world tid.toNat [0] = (d, some r) → patternOk r = true →
      let c := s.dev.core k
      let port := (k / 1024 * 96 + (c.readG b).toNat) * 4
      let free (i n : Nat) := i < 4 ∧ n < 16 ∧ Tab.get? s.dev.streams (port + i) = none ∧ Tab.get? c.streams n = none ∧
        (∀ j, j < i → Tab.get? s.dev.streams (port + j) ≠ none) ∧ (∀ j, j < n → Tab.get? c.streams j ≠ none)
      (∀ i n, free i n → ∃ t x, exec (.sopen a b tid dir) s = .next t ∧ Went s t k (c.writeG a (BitVec.ofNat 64 n)).g ∧
        Tab.get? (t.dev.core k).streams n = some (port + i) ∧ Tab.get? t.dev.streams (port + i) = some x ∧
        x.state = .streaming ∧ x.elements = 0 ∧ x.frozen = false ∧ x.tid = r.tid ∧ x.toMemory = decide (dir = 1) ∧ x.world = c.world ∧
        x.waits = true ∧ (t.dev.core k).held = (if c.held = [] then [] else c.held ++ [.stream (port + i)]) ∧
        x.commutative = r.commutative ∧ x.extents = [r.extent 0, r.extent 1, r.extent 2, r.extent 3] ∧ x.base = BitVec.ofNat 64 r.base ∧
        (dir = 0 → x.inFlight.length = Nat.min 16 x.total)) ∧
      ((∀ i n, ¬ free i n) → ∃ t, exec (.sopen a b tid dir) s = .next t ∧ Went s t k (c.writeG a (BitVec.allOnes 64)).g ∧
        t.dev.streams = s.dev.streams)) ∧
  (∀ (s : State) (k n : Nat) (a b : Reg) (x : Stream), s.actor = .core k → (s.dev.core k).pendingG b = false →
      let c := s.dev.core k
      let v := (c.readG b).toNat
      (Tab.get? c.streams v = none → ∀ i, i = .sstat a b ∨ i = .sdrain a b ∨ i = .sclose b →
        exec i s = .next (s.trapped k 0x0A (c.readG b))) ∧
      (v < 16 → Tab.get? c.streams v = some n → Tab.get? s.dev.streams n = some x →
        (∃ t, exec (.sstat a b) s = .next t ∧ Went s t k (c.writeG a x.status).g ∧ (x.state = .streaming → t.dev.streams = s.dev.streams)) ∧
        (x.state = .streaming → exec (.sdrain a b) s = .next (s.stalled k ⟨6, 0x20 + v, 1, 0, 0⟩)) ∧
        (x.state ≠ .streaming → ∃ t, exec (.sdrain a b) s = .next t ∧ Went s t k (c.writeG a x.status).g) ∧
        (x.owes = true → exec (.sclose b) s = .next (s.stalled k ⟨6, 0x20 + v, 1, 0, 0⟩)) ∧
        (x.owes = false → ∃ t, exec (.sclose b) s = .next t ∧ Went s t k c.g ∧ Tab.get? t.dev.streams n = none ∧
          Tab.get? (t.dev.core k).streams v = none))) ∧
  (∀ (s : State) (n e : Nat) (x : Stream) (data : Bytes), Tab.get? s.dev.streams n = some x → x.inFlightData e = some data →
      x.waits = false → s.dev.streamEnds s.seq n x e = false →
      (∀ pa, s.dev.translate s.seq (x.req n) (x.addr e) = .mem pa → x.state = .streaming → x.frozen = false →
        (x.toMemory = true ∨ x.commutative = true ∨ (x.held = [] ∧ e = x.elements)) →
        ∃ t y, exec (.streamElementReturn n e) s = .next t ∧ Tab.get? t.dev.streams n = some y ∧ y.elements = x.elements + 1 ∧
          (x.toMemory = true → t.dev.mem = SMap.setRun s.dev.mem pa data ∧ y.returned = x.returned) ∧
          (x.toMemory = false → t.dev.mem = s.dev.mem ∧ y.returned = x.returned ++ [(e, s.dev.bytesAt pa x.esize)]) ∧
          y.state = (if x.total ≤ x.elements + 1 then .done else .streaming)) ∧
      (∀ cause, s.dev.streamFaults s.seq n x e = some cause →
        ∃ t y, exec (.streamElementFault n e) s = .next t ∧ Tab.get? t.dev.streams n = some y ∧ t.dev.mem = s.dev.mem ∧
          y.frozen = true ∧ y.elements = x.elements ∧ (e, data) ∈ y.spill ∧ y.spill.length = x.spill.length + 1 ∧
          (∀ p ∈ x.spill, p ∈ y.spill) ∧ (∀ p ∈ y.inFlight, p.1 ≠ e) ∧
          (x.frozen = false → y.frozenAt = s.now.ns ∧ y.raised = false ∧ y.record = e ∧ y.report = streamRecord n y e cause) ∧
          (x.frozen = true → y.frozenAt = x.frozenAt ∧ y.record = x.record ∧ y.report = x.report)) ∧
      (x.frozen = true → x.thaw.frozen = !(x.spill.isEmpty && x.held.isEmpty))) ∧
  (∀ (s : State) (n : Nat) (x : Stream), Tab.get? s.dev.streams n = some x → x.frozen = true → x.raised = false → x.commutative = false →
      (s.dev.core x.core).active = some x.plane →
      let limit := ((s.dev.core x.core).plane x.plane).faultTimeout
      limit ≠ 0 → x.frozenAt + 1000 * limit ≤ s.now.ns →
      ∃ t, exec (.streamFaultTimeout n) s = .next t ∧ Tab.get? t.dev.streams n = some { x with raised := true } ∧ t.dev.mem = s.dev.mem ∧
        (t.dev.core x.core).async = (s.dev.core x.core).async ++
          [{ cause := 0x0D, info := BitVec.ofNat 64 (x.number + x.record % 2 ^ 32 * 2 ^ 32) }])

/-! ## Graphs and triggers -/

/-- FORK starts the program of each named engine at its entry, or waits while the quad's rendezvous is open; JOIN on an engine ends its
program's part, and on a core waits for the programs and the core's operations, closes the rendezvous and goes on, or traps
ENGINE_FAULT with the status word of the lowest engine where one of them ended in fault. GDONE waits for the core's accesses and
counters as a FENCE.all does; it then halts every core of the team and flushes its channels. -/
def Obligations.ForksJoin : Prop :=
  ∀ (s : State) (k : Nat), s.actor = .core k →
    let c := s.dev.core k
    let q := quadOfCore k
    (∀ (a b rc : Reg) (mask : BitVec 3), (∀ r : Reg, r.toNat < 16 → c.pendingG r = false) → (∀ r ∈ [a, b, rc], c.pendingG r = false) →
      let entry (e : Nat) := (c.readG ([a, b, rc].getD e 0)).toNat
      ((s.dev.quad q).rendezvous.isSome = true → ∃ w, exec (.fork a b rc mask) s = .next (s.stalled k w) ∧ w.kind = 6 ∧ w.handle = 0) ∧
      ((s.dev.quad q).rendezvous = none → ∃ t, exec (.fork a b rc mask) s = .next t ∧ Went s t k c.g ∧
        (t.dev.quad q).rendezvous = some (k, (List.range 3).filter fun e => mask.getLsbD e) ∧
        (∀ e, e < 3 → mask.getLsbD e = false → t.dev.engine q e = s.dev.engine q e) ∧
        (∀ e, e < 3 → mask.getLsbD e = true → 8 ≤ entry e → entry e < c.cur.codeWords → ∃ p, (t.dev.engine q e).prog = some p ∧
          p.core = k ∧ p.pc = BitVec.ofNat 64 (8 * entry e) ∧ p.joined = false ∧ p.ended = none ∧ (t.dev.engine q e).queue = (s.dev.engine q e).queue ∧
          (∀ r : Nat, 1 ≤ r → r < 16 → SMap.get p.g r = c.readG (BitVec.ofNat 6 r))) ∧
        (∀ e, e < 3 → mask.getLsbD e = true → ¬ (8 ≤ entry e ∧ entry e < c.cur.codeWords) → (t.dev.engine q e).fault = some (1, (s.dev.engine q e).seq, some k)))) ∧
    (((∃ o ∈ c.ops, o.done = false) ∨ ∃ e ∈ s.dev.forked k, (s.dev.engine q e).progBusy = true ∨ ∃ p, (s.dev.engine q e).prog = some p ∧ p.joined = false) →
      ∃ w, exec .join s = .next (s.stalled k w) ∧ w.kind = 6 ∧ w.handle = 0 ∧ w.needed = 1 + bitMask ((s.dev.forked k).map (· + 1))) ∧
    ((∀ o ∈ c.ops, o.done = true ∧ o.eng < 3) →
      (∀ e ∈ s.dev.forked k, (s.dev.engine q e).progBusy = false ∧ ∀ p, (s.dev.engine q e).prog = some p → p.joined = true) →
      let failed (e : Nat) := (∃ o ∈ c.ops, o.eng = e ∧ o.fault.isSome = true) ∨
        e ∈ s.dev.forked k ∧ ∃ p, (s.dev.engine q e).prog = some p ∧ (p.ended.isSome = true ∨ p.opsFault = true)
      ((∀ e, e < 3 → ¬ failed e) →
        ∃ t, exec .join s = .next t ∧ Went s t k c.g ∧ (t.dev.core k).ops = [] ∧ t.dev.forked k = []) ∧
      (∀ e, e < 3 → failed e → (∀ e', e' < e → ¬ failed e') → c.inHandler = false → c.cur.handler ≠ 0xFFFF →
        ∃ t, exec .join s = .next t ∧ (t.dev.core k).trapCause = 8 ∧ (t.dev.core k).trapInfo = (s.dev.engine q e).status ∧
          (t.dev.core k).trapPc = c.pc + 8 ∧ (t.dev.core k).inHandler = true ∧ t.dev.mem = s.dev.mem ∧
          (t.dev.core k).ops = [] ∧ t.dev.forked k = [])) ∧
    ((c.held ≠ [] ∨ ∃ n, n < 8 ∧ (c.range n).count ≠ 0) → exec .gdone s = .next (s.stalled k
      ⟨6, 1, 0xFF, bitMask ((List.range 8).filter fun n => (c.range n).count == 0), 0⟩)) ∧
    (c.held = [] → (∀ n, n < 8 → (c.range n).count = 0) → ∀ t, Tab.get? s.dev.teams c.cur.team = some t →
      ∃ u, exec .gdone s = .next u ∧ u.dev.mem = s.dev.mem ∧ Tab.get? u.dev.teams c.cur.team = some { t with gone := true } ∧
        (∀ e ∈ t.cores, (s.dev.core e.1).active = some e.2 → (u.dev.core e.1).halted = true ∧ (u.dev.core e.1).g = (s.dev.core e.1).g) ∧
        (∀ n ch, Tab.get? s.dev.chans n = some ch → ch.team = c.cur.team → Tab.get? u.dev.chans n = some { ch with
          head := ch.tail, filled := 0, credits := ch.slots, reserved := 0, fills := [], backs := [] })) ∧
    (∀ (s' : State) (e : Nat) (p : Prog), s'.actor = .engine q e → (s'.dev.engine q e).prog = some p →
      ((s'.dev.engine q e).progBusy = false → ∃ t, exec .join s' = .next t ∧ t.dev.mem = s'.dev.mem ∧
        (t.dev.engine q e).prog = some { p with joined := true, wait := none }) ∧
      ((s'.dev.engine q e).progBusy = true → ∃ t w, exec .join s' = .next t ∧ t.dev.mem = s'.dev.mem ∧
        (t.dev.engine q e).prog = some { p with wait := some w } ∧ w.kind = 6))

/-- GLAUNCH of a graph that passes its checks creates the next launch, with the parameters that it has read, and writes its number; of one
that does not, it writes all ones and creates none; GPARAM sets one parameter of the graph; TRIGBIND sets what a slot watches and the
node that it readies, TRIGBIND unbind leaves its count, and TRIGFIRE fires its slot: at the end of the clock its firings set the
pending bit of an unbound slot and otherwise count. Each waits while an earlier access of the core waits for a page. -/
def Obligations.GraphsAreLaunched : Prop :=
  (∀ (s : State) (k : Nat) (a b rc : Reg) (tid : BitVec 11) (flags : BitVec 3), s.actor = .core k → (s.dev.core k).held ≠ [] →
    ∀ i ∈ [Instr.glaunch a b tid flags, .gparam a b tid, .trigbindStoreWatch a b rc tid, .trigbindRingWatch a b rc tid, .trigbindUnbind a,
      .trigfire a], exec i s = .next (s.stalled k Wait.stalled)) ∧
  (∀ t : Trigger, t.settle = if t.fresh = 0 then t else if t.handler = none then { t with fresh := 0, pending := true }
    else { t with fresh := 0, count := Nat.min (t.count + t.fresh) 0xFFFF }) ∧
  ∀ (s : State) (k : Nat) (a b rc : Reg) (tid : BitVec 11), s.actor = .core k → (s.dev.core k).held = [] →
    (∀ r ∈ [a, b, rc], (s.dev.core k).pendingG r = false) →
    let c := s.dev.core k
    let key := c.world * 256 + (c.readG a).toNat % 256
    let node := (c.readG a).toNat / 256 % 65536
    let slot := Tab.getD s.dev.triggers key { fresh := 0, pending := false, count := 0, watch := none, handler := none }
    (∀ (flags : BitVec 3) (d0 d : Dev) (r : Rec) (ps : SMap 64),
      (c.readG a = 0 ∧ d0 = s.dev ∧ ps = [] ∨
        c.readG a ≠ 0 ∧ (c.readG a).toNat % 8 = 0 ∧ (c.readG a).toNat + 512 ≤ 2 ^ 56 ∧ ∃ vals,
          s.dev.access s.ctx k (paramAccess c (c.readG a)) = .done d0 vals ∧ ps = SMap.ofList (vals.map Prod.snd)) →
      d0.useKind s.seq (k / 1024) c.world tid.toNat [6] = (d, some r) →
      (∀ g, d.checkGraph s.seq c.world (flags.toNat % 4) (flags.getLsbD 2) (some r) = some (g, none) →
        ∃ t x, exec (.glaunch a b tid flags) s = .next t ∧ Went s t k (c.writeG b (BitVec.ofNat 64 s.dev.nextLaunch)).g ∧
          t.dev.nextLaunch = s.dev.nextLaunch + 1 ∧ Tab.get? t.dev.launches s.dev.nextLaunch = some x ∧ x.world = c.world ∧ x.graph = tid.toNat ∧
          x.queue = 4096 ∧ x.level = flags.toNat % 4 ∧ x.coreside = flags.getLsbD 2 ∧ x.params = ps ∧ x.edges = g.edges ∧ x.ended = false ∧
          ∀ n, (x.node n).isSome = decide (n < g.nodes.length)) ∧
      (d.checkGraph s.seq c.world (flags.toNat % 4) (flags.getLsbD 2) (some r) = none →
        ∃ t, exec (.glaunch a b tid flags) s = .next t ∧ Went s t k (c.writeG b (BitVec.allOnes 64)).g ∧ t.dev.launches = s.dev.launches)) ∧
    ((c.readG a).toNat < 2 ^ 56 - 512 → (c.readG a).toNat % 8 ≠ 0 → ∀ flags,
      exec (.glaunch a b tid flags) s = .next (s.trapped k 0x03 (c.readG a))) ∧
    (∀ (d : Dev) (r : Rec), s.dev.useKind s.seq (k / 1024) c.world tid.toNat [6] = (d, some r) →
      ((c.readG b).toNat ≤ 63 → ∃ t, exec (.gparam a b tid) s = .next t ∧ Went s t k c.g ∧
        ∀ i, SMap.get (Tab.getD (t.dev.world c.world).params tid.toNat []) i =
          if i = (c.readG b).toNat then c.readG a else SMap.get (Tab.getD (s.dev.world c.world).params tid.toNat []) i) ∧
      (63 < (c.readG b).toNat → exec (.gparam a b tid) s = .next (s.trapped k 0x01 ((encode (.gparam a b tid)).getD 0))) ∧
      (d.nodeOfKind s.seq c.world (some r) node 5 = true → (c.readG a).toNat < 2 ^ 24 → slot.pending = false →
        ∀ i w, (i = .trigbindStoreWatch a b rc tid ∧ w = .stores (c.readG b).toNat ((c.readG b).toNat + (c.readG rc).toNat) (quadOfCore k) ∨
            i = .trigbindRingWatch a b rc tid ∧ w = .ring ((c.readG b).toNat % 2048) ((c.readG rc).toNat % 4096)) →
          ∃ t x, exec i s = .next t ∧ Went s t k c.g ∧ Tab.get? t.dev.triggers key = some x ∧ x.watch = some w ∧
            x.handler = some (tid.toNat, node) ∧ x.pending = false ∧ x.fresh = slot.fresh ∧ (x.count = slot.count ∨ x.count = 0)) ∧
      (d.nodeOfKind s.seq c.world (some r) node 5 = false → (c.readG a).toNat < 2 ^ 24 →
        exec (.trigbindStoreWatch a b rc tid) s = .next (s.trapped k 0x0A (tid.zeroExtend 64)))) ∧
    (s.dev.useKind s.seq (k / 1024) c.world tid.toNat [6] = (s.dev, none) →
      (c.readG a = 0 → exec (.glaunch a b tid 0) s = .next (s.trapped k 0x0A (tid.zeroExtend 64))) ∧ exec (.gparam a b tid) s = .next (s.trapped k 0x0A (tid.zeroExtend 64))) ∧
    ((c.readG a).toNat < 2 ^ 24 → ∃ t, exec (.trigbindUnbind a) s = .next t ∧ Went s t k c.g ∧
      Tab.getD t.dev.triggers key { fresh := 0, pending := false, count := 0, watch := none, handler := none } =
        { slot with watch := none, handler := none }) ∧
    (∃ t, exec (.trigfire a) s = .next t ∧ Went s t k c.g ∧ Tab.get? t.dev.triggers key = some { slot with fresh := slot.fresh + 1 })

/-- NODE_FINISH of an instance that ended well finishes its node, lowers each successor's count once per edge and puts the compute nodes
that reach zero into the pool, while the graph goes on with what is still to run; of one that ended in fault or was killed, the node is
faulted or killed and no count falls. The graph whose last instance ends has its record written at the host's address. -/
def Obligations.NodesReadyTheirSuccessors : Prop :=
  ∀ (s : State) (l n status cause : Nat) (rest : List (Nat × Nat × Nat × Nat)) (g : Launch) (y : Node),
    s.dev.ended = (l, n, status, cause) :: rest → Tab.get? s.dev.launches l = some g → g.node n = some y →
    let fall (m : Nat) := (g.edges.filter fun e => e.1 == n && e.2 == m).length
    let goesOn := (∃ e ∈ rest, e.1 = l) ∨ 1 < y.runs ∨ ∃ m z, m ≠ n ∧ g.node m = some z ∧ z.runs ≠ 0
    let readies := ∃ m z, m ≠ n ∧ g.node m = some z ∧ z.kind < 4 ∧ fall m ≠ 0 ∧ z.preds = fall m
    (status = 0 → y.kind < 4 → y.state = .placed → goesOn ∨ readies → ∃ t x, exec (.nodeFinish l n) s = .next t ∧ t.dev.ended = rest ∧
      t.dev.mem = s.dev.mem ∧ Tab.get? t.dev.launches l = some x ∧ x.ended = g.ended ∧
      (∀ z, x.node n = some z → z.runs = 0 → z.state = .finished) ∧
      (∀ m z, g.node m = some z → ∃ z', x.node m = some z' ∧ z'.preds = z.preds - fall m ∧ (m ≠ n → z.runs ≤ z'.runs) ∧
        (z.kind < 4 → m ≠ n → fall m ≠ 0 → z.preds = fall m → g.coreside = false →
          z.runs < z'.runs ∧ ∃ it ∈ t.dev.pool, it.launch = l ∧ it.nodes = [m] ∧ it.level = g.level))) ∧
    (status = 1 ∨ status = 2 → goesOn → ∃ t x, exec (.nodeFinish l n) s = .next t ∧ t.dev.ended = rest ∧ t.dev.mem = s.dev.mem ∧
      Tab.get? t.dev.launches l = some x ∧ (∃ z, x.node n = some z ∧ z.state = if status = 1 then .faulted else .killed) ∧
      (∀ m z, g.node m = some z → ∃ z', x.node m = some z' ∧ z'.preds = z.preds)) ∧
    (∀ pre post, status = 0 → y.kind < 4 → y.state = .placed → y.runs = 1 → rest = [] → g.edges = [] → g.failed = none → g.ended = false →
      g.nodes = pre ++ (n, y) :: post → (∀ e ∈ pre, e.1 < n) → (∀ e ∈ pre ++ post, e.2.runs = 0 ∧ e.2.kind < 4) → s.dev.windows = [] → s.dev.triggers = [] →
      (s.dev.world g.world).tdisp ≠ .error → (s.dev.world g.world).evSize = 0 → g.noRecord = false →
      ∃ t x, exec (.nodeFinish l n) s = .next t ∧ Tab.get? t.dev.launches l = some x ∧ x.ended = true ∧ t.dev.mem = s.dev.mem ∧
        t.dev.hostMem = SMap.setRun s.dev.hostMem g.doneAddr
          (bytesOf 8 g.tag ++ bytesOfNat 2 0 ++ bytesOfNat 2 0xFFFF ++ bytesOfNat 4 l))

/-! ## Timed windows and priority queues -/

/-- TWBIND binds the die's lowest free window at the first slot that is still to come; TWGET hands out closed slots in order; TWREL gives
the oldest back, emptied; TWSTAT reads a status word and clears the sticky bits of its first; TICKARM arms the window and TICKARM
disarm and TWBIND unbind discard its ticks; TNOW reads device time. A record goes to the slot of its timestamp while that is open
and has room, with its late bit set as it was moved, and is counted where it is late, ahead or too many; one due slot closes in a
clock, before the clock's placements. PQPUSH appends, and PQPOP takes an entry
that fewer than 32 have a lower key than. -/
def Obligations.WindowsAndQueuesMove : Prop :=
  (∀ (s : State) (k : Nat) (a b rc : Reg) (tid : BitVec 11), s.actor = .core k →
      (∀ r ∈ [a, b, rc], (s.dev.core k).pendingG r = false) →
      let c := s.dev.core k
      let go (i : Instr) (g : SMap 64) (f : State → Prop) := ∃ t, exec i s = .next t ∧ Went s t k g ∧ f t
      exec (.tnow a) s = .next (s.completedCore k (c.writeG a (BitVec.ofNat 64 (s.now.time / 2 ^ 32)))) ∧
      (∀ d r w, s.dev.useKind s.seq (k / 1024) c.world tid.toNat [2] = (d, some r) → windowOf c.world r = some w →
        let n := w.firstSlot s.now.ns
        (∀ i, i < 64 → Tab.get? s.dev.windows (k / 1024 * 64 + i) = none → (∀ j, j < i → Tab.get? s.dev.windows (k / 1024 * 64 + j) ≠ none) →
          go (.twbind a tid) (c.writeG a (BitVec.ofNat 64 (k / 1024 * 64 + i))).g fun t =>
            Tab.get? t.dev.windows (k / 1024 * 64 + i) = some { w with o := n, g := n, c := n, openAt := s.now.clock + 1, ltime := c.orderTime }) ∧
        ((∀ i, i < 64 → Tab.get? s.dev.windows (k / 1024 * 64 + i) ≠ none) → go (.twbind a tid) (c.writeG a (BitVec.allOnes 64)).g fun t =>
          t.dev.windows = s.dev.windows)) ∧
      (∀ h w, (c.readG b).toNat = h → h < 256 → Tab.get? s.dev.windows h = some w → w.world = c.world →
        let slotAt (i : Nat) := w.base.toNat + 32 * w.k * (i % w.n)
        (w.g < w.c → ∀ nw, go (.twget a rc b nw) (((c.writeG a (BitVec.ofNat 64 (slotAt w.g))).writeG rc
          (BitVec.ofNat 64 (w.g % 2 ^ 48 * 2 ^ 16 + w.count w.g))).g) fun t => Tab.get? t.dev.windows h = some { w with g := w.g + 1 }) ∧
        (w.c ≤ w.g → go (.twget a rc b 1) ((c.writeG a 0).writeG rc 0).g fun t => t.dev.windows = s.dev.windows) ∧
        (w.c ≤ w.g → exec (.twget a rc b 0) s = .next (s.stalled k ⟨6, 0x100 + h, 1, 0, 0⟩)) ∧
        (w.o < w.g → c.held ≠ [] → exec (.twrel b) s = .next (s.stalled k Wait.stalled)) ∧
        (w.o < w.g → c.held = [] → go (.twrel b) c.g fun t => ∃ v, Tab.get? t.dev.windows h = some v ∧ v.o = w.o + 1 ∧ v.g = w.g ∧ v.c = w.c ∧
          v.count w.o = 0 ∧ (∀ i, i % w.n ≠ w.o % w.n → v.count i = w.count i)) ∧
        (w.g ≤ w.o → exec (.twrel b) s = .next (s.trapped k 0x01 ((encode (.twrel b)).getD 0))) ∧
        (∀ sel, go (.twstat a b sel) (c.writeG a (w.status s.now.ns (s.dev.armedRuns w) sel.toNat)).g fun t =>
          Tab.get? t.dev.windows h = some (if sel = 0 then { w with sinkFault := false, overrunSeen := false, lateSeen := false, aheadSeen := false } else w)) ∧
        (w.armed = none → ∀ d r, s.dev.useKind s.seq (k / 1024) c.world tid.toNat [6] = (d, some r) → (c.readG rc).toNat ≤ 65535 →
          s.dev.nodeOfKind s.seq c.world (some r) (c.readG rc).toNat 4 = true →
          (∀ e ∈ s.dev.windows, e.2.world = c.world → e.2.armed ≠ some (tid.toNat, (c.readG rc).toNat)) →
          go (.tickarm b rc tid) c.g fun t => Tab.get? t.dev.windows h = some { w with armed := some (tid.toNat, (c.readG rc).toNat), pending := 0 }) ∧
        (w.armed.isSome = true → exec (.tickarm b rc tid) s = .next (s.trapped k 0x0A (c.readG b))) ∧
        (go (.tickarmDisarm b) c.g fun t => Tab.get? t.dev.windows h = some { w with armed := none, pending := 0 }) ∧
        (go (.twbindUnbind b) c.g fun t => Tab.get? t.dev.windows h = none)) ∧
      (Tab.get? s.dev.windows (c.readG b).toNat = none →
        ∀ i, i ∈ [Instr.twget a rc b 0, .twrel b, .twstat a b 0, .tickarm b rc tid, .tickarmDisarm b, .twbindUnbind b] →
          exec i s = .next (s.trapped k 0x0A (c.readG b))) ∧
      (c.held ≠ [] → exec (.pqpush a b rc) s = .next (s.stalled k Wait.stalled) ∧ exec (.pqpop a b rc) s = .next (s.stalled k Wait.stalled)) ∧
      (∀ n es lt, c.held = [] → (c.readG rc).toNat = n → n < 64 → Tab.get? s.dev.pqueues n = some { world := some c.world, entries := es, ltime := lt } →
        (es.length < 65536 → go (.pqpush a b rc) c.g fun t => ∃ q, Tab.get? t.dev.pqueues n = some q ∧
          q.entries = es ++ [((c.readG a).truncate 32, (c.readG b).truncate 32)]) ∧
        (65536 ≤ es.length → exec (.pqpush a b rc) s = .next (s.stalled k ⟨6, 0x40 + n, 1, 0, 0⟩)) ∧
        (es = [] → exec (.pqpop a b rc) s = .next (s.stalled k ⟨6, 0x40 + n, 1, 0, 0⟩)) ∧
        (es ≠ [] → ∃ j e, es[j]? = some e ∧ (es.filter fun o => decide (o.1.toNat < e.1.toNat)).length < 32 ∧
          go (.pqpop a b rc) ((c.writeG a (e.1.zeroExtend 64)).writeG b (e.2.zeroExtend 64)).g fun t =>
            ∃ q, Tab.get? t.dev.pqueues n = some q ∧ q.entries = es.take j ++ es.drop (j + 1)))) ∧
  (∀ (s : State) (h : Nat) (w : TWin) (x : Bytes) (rest : List Bytes), Tab.get? s.dev.windows h = some w →
      let mayClose := w.closes s.now.ns = true ∧ w.closedAt ≠ some s.now.clock ∧ w.placedAt ≠ some s.now.clock
      (mayClose → ∃ t v, exec (.slotClose h) s = .next t ∧ Tab.get? t.dev.windows h = some v ∧ v.c = w.c + 1 ∧ v.g = w.g ∧
        v.o = w.o ∧ v.counts = w.counts ∧ v.closedAt = some s.now.clock ∧ t.dev.mem = s.dev.mem) ∧
      (¬ mayClose → exec (.slotClose h) s = .next s) ∧
      exec (.ingestRecord h) s = .next (if w.settled s.now then { s with dev := s.dev.takeRecord s.ctx h } else s) ∧
      (w.inbox = x :: rest →
        let a := w.slotFor (u64At x 0)
        let left : TWin := { w with inbox := rest, placedAt := some s.now.clock }
        let u := s.dev.takeRecord s.ctx h
        let lands (v : TWin) := Tab.get? u.windows h = some v ∧ u.mem = s.dev.mem
        (a < Int.ofNat w.c → w.policy ≠ 1 → lands { left with lateDropped := w.lateDropped + 1, lateSeen := true }) ∧
        (∀ (i : Nat) (moved : Bool), (moved = false ∧ a = Int.ofNat i ∧ w.c ≤ i ∨ moved = true ∧ a < Int.ofNat w.c ∧ w.policy = 1 ∧ i = w.c) →
          (w.o + w.n ≤ i → lands { left with ahead := w.ahead + 1, aheadSeen := true }) ∧
          (i < w.o + w.n → w.k ≤ w.count i → lands { left with full := w.full + 1 }) ∧
          (∀ pa, i < w.o + w.n → w.count i < w.k → w.readOnly = false → x.length = 32 →
            let va := w.base.toNat + 32 * w.k * (i % w.n) + 32 * w.count i
            va % 128 ≤ 96 → s.dev.translate s.seq
              { world := w.world, gen := 0, die := h / 64, quad := none, write := true, slot := some w.keySlot } va = .mem pa →
            ∃ v, Tab.get? u.windows h = some v ∧ v.count i = w.count i + 1 ∧ v.inbox = rest ∧ v.c = w.c ∧ v.o = w.o ∧
              v.lateMoved = (if moved then w.lateMoved + 1 else w.lateMoved) ∧
              u.mem = SMap.setRun s.dev.mem pa
                (x.take 10 ++ (((x.getD 10 0) &&& 0xFE) ||| (if moved then 1 else 0)) :: x.drop 11)))))

/-! ## Teams, planes and the ready pool -/

/-- A team of a set whose cores all hold it ACTIVE starts with the set, each core at its entry from the next clock on; PLANE_SWAP makes
the oldest loaded plane ACTIVE with cleared registers, puts an idle plane to DRAINING with its next generation and frees a
drained one; completion ends the team's node; a survey is taken once; a pending cause of the lowest code enters the handler; a lease
ends. -/
def Obligations.TeamsStartSwapAndComplete : Prop :=
  (∀ (s : State) (team : Nat) (t : Team), Tab.get? s.dev.teams team = some t →
      ((∀ g ∈ t.group, s.dev.teamReady g = true) → ∃ u, exec (.teamStart team) s = .next u ∧ u.dev.mem = s.dev.mem ∧
        ∀ g ∈ t.group, ∀ tg, Tab.get? s.dev.teams g = some tg → Tab.get? u.dev.teams g = some { tg with started := true } ∧
          ∀ e ∈ tg.cores, (u.dev.core e.1).started = true ∧ (u.dev.core e.1).startAt = s.now.clock + 1 ∧
            (u.dev.core e.1).pc = BitVec.ofNat 64 (8 * (s.dev.core e.1).cur.entry 0) ∧ (u.dev.core e.1).g = (s.dev.core e.1).g) ∧
      ((∃ g ∈ t.group, s.dev.teamReady g = false) → exec (.teamStart team) s = .next s) ∧
      (s.dev.teamDone team t = true → ∃ u, exec (.teamCompletion team) s = .next u ∧ u.dev.mem = s.dev.mem ∧
        u.dev.ended = s.dev.ended ++ [(t.launch, t.node, 0, 0)]) ∧
      (s.dev.teamDone team t = false → exec (.teamCompletion team) s = .next s) ∧
      (s.dev.stuck team t = true → t.surveyed = false → (∀ c, t.quietSince = some c → c + 4096 ≤ s.now.clock →
        let ps := s.dev.waiting team t
        ∃ (u : State) (flag : Nat → Nat), exec (.deadlockSurvey team) s = .next u ∧ Tab.get? u.dev.teams team = some { t with surveyed := true } ∧
          (∀ i, flag i ≤ 1 ∧ (s.dev.undispatched t = false → flag i = 0)) ∧
          let recs := ps.zipIdx.map fun (p, i) => surveyRecord s.dev.pkgId s.now.clock i ps.length (flag i) p
          (∀ die pa size, (∀ p ∈ ps, p.die = die) → (s.dev.die die).survey = some (pa, size) →
            u.dev.mem = SMap.setRun s.dev.mem pa (recs.take size).flatten) ∧
          ((∀ p ∈ ps, (s.dev.die p.die).survey = none) → u.dev.mem = s.dev.mem)))) ∧
  (∀ (s : State) (k n : Nat) (p : Plane), Tab.get? (s.dev.core k).planes n = some p →
      let c := s.dev.core k
      (c.active = none → p.state = .loaded → (∀ e ∈ c.planes, e ≠ (n, p) → e.2.state = .loaded → p.order < e.2.order) →
        ∃ t, exec (.planeSwap k) s = .next t ∧ (t.dev.core k).active = some n ∧ (t.dev.core k).cur = { p with state := .active } ∧
          (t.dev.core k).g = [] ∧ (t.dev.core k).v = [] ∧ (t.dev.core k).m = [] ∧ (t.dev.core k).started = false ∧ t.dev.mem = s.dev.mem) ∧
      (c.active = some n → p.state = .active → c.started = true → s.dev.idle k = true →
        ∃ t, exec (.planeSwap k) s = .next t ∧ (t.dev.core k).cur = { p with state := .draining, gen := p.gen + 1 } ∧
          (t.dev.core k).started = false ∧ t.dev.mem = s.dev.mem) ∧
      (c.active = some n → p.state = .active → s.dev.idle k = false → exec (.planeSwap k) s = .next s) ∧
      (c.active = some n → p.state = .draining → c.stage = .none → (∀ e ∈ c.planes, e.1 = n → e.2.state ≠ .loaded) → ∃ t, exec (.planeSwap k) s = .next t ∧ t.dev.mem = s.dev.mem ∧
        (t.dev.core k).plane n = { Plane.empty with gen := p.gen } ∧ (t.dev.core k).active ≠ some n)) ∧
  (∀ (s : State) (k : Nat), (s.dev.core k).async ≠ [] →
      let c := s.dev.core k
      ∃ a ∈ c.async, (∀ b ∈ c.async, a.cause ≤ b.cause) ∧
        (c.halted = false → c.started = true → c.inHandler = false → c.cur.handler ≠ 0xFFFF → a.cause ≠ 0x0C →
          ∃ t, exec (.asyncTrapTaken k) s = .next t ∧ (t.dev.core k).trapCause = BitVec.ofNat 8 a.cause ∧ (t.dev.core k).trapInfo = a.info ∧
            (t.dev.core k).trapPc = c.pc ∧ (t.dev.core k).inHandler = true ∧ (t.dev.core k).pc = BitVec.ofNat 64 (8 * c.cur.handler) ∧
            (t.dev.core k).g = c.g ∧ (t.dev.core k).async.length + 1 = c.async.length ∧ t.dev.mem = s.dev.mem) ∧
        (c.halted = true → ∃ t, exec (.asyncTrapTaken k) s = .next t ∧ (t.dev.core k).halted = true ∧ (t.dev.core k).trapCause = c.trapCause ∧
          (t.dev.core k).async.length + 1 = c.async.length ∧ t.dev.mem = s.dev.mem) ∧
        (c.halted = false → c.inHandler = true → exec (.asyncTrapTaken k) s = .next s)) ∧
  (∀ (s : State) (q line : Nat), exec (.leaseExpiry q line) s = .next { s with
      dev := { s.dev with leases := s.dev.leases.filter fun l => !(l.quad == q && l.line == line) } })

/-- The pool: a dispatch takes a ready team node to the region that its scan finds, and loads its team there, or an engine node's command to
a queue; an item that has waited 50 microseconds rises a level, and at level 0 is held. The scan passes over an item that cannot be
placed, and past a held one it takes nothing of the same world and kind of target. -/
def Obligations.ThePoolPlacesReadyNodes : Prop :=
  (∀ (s : State) (i : Nat) (it : PoolItem), s.dev.pool[i]? = some it →
      (it.level ≠ 0 → it.since + 50000 ≤ s.now.ns → ∃ t, exec (.poolPromote i) s = .next t ∧ t.dev.mem = s.dev.mem ∧
        ∀ o, o ∈ t.dev.pool ↔ o = { it with level := it.level - 1, since := it.since + 50000 } ∨ o ∈ s.dev.pool.take i ++ s.dev.pool.drop (i + 1)) ∧
      (it.level = 0 → it.held = false → it.since + 50000 ≤ s.now.ns → ∃ t, exec (.poolHold i) s = .next t ∧ t.dev.mem = s.dev.mem ∧
        ∀ o, o ∈ t.dev.pool ↔ o = { it with held := true } ∨ (o ∈ s.dev.pool ∧ o ≠ it)) ∧
      (s.now.ns < it.since + 50000 → exec (.poolPromote i) s = .next s ∧ exec (.poolHold i) s = .next s)) ∧
  (∀ (s : State) (pre post : List PoolItem) (it : PoolItem) (d : Dev), s.dev.pool = pre ++ it :: post →
      (∀ o ∈ pre, s.dev.placeItem s.ctx o = none ∧ (o.held = true → s.dev.itemKind o ≠ s.dev.itemKind it)) →
      s.dev.placeItem s.ctx it = some d → exec .poolDispatch s = .next { s with dev := { d with pool := pre ++ post } }) ∧
  (∀ (s : State), (∀ pre o post, s.dev.pool = pre ++ o :: post → s.dev.placeItem s.ctx o = none ∨
        ∃ h ∈ pre, h.held = true ∧ s.dev.placeItem s.ctx h = none ∧ s.dev.itemKind h = s.dev.itemKind o) →
      exec .poolDispatch s = .next s) ∧
  (∀ (s : State) (it : PoolItem) (rest : List PoolItem) (n : Nat) (g : Launch) (y : Node), s.dev.pool = it :: rest → it.nodes = [n] →
      Tab.get? s.dev.launches it.launch = some g → g.node n = some y → y.state = .ready →
      (∀ i p, y.body = 0 → (s.dev.world g.world).programs[y.program]? = some p →
        placeAll (s.dev.freeQuads (s.dev.world g.world) it.entryLevel) [s.dev.shapeOf g n] = some [i] →
        (∀ d : Dev, d.worlds = s.dev.worlds → d.mem = s.dev.mem → d.dies = s.dev.dies → d.strayRing s.seq g.world (i % 32) (i / 32) p = none) →
        (s.dev.world g.world).loadable y.program p = true →
        ∃ t x, exec .poolDispatch s = .next t ∧ t.dev.pool = rest ∧ t.dev.mem = s.dev.mem ∧ Tab.get? t.dev.teams s.dev.nextTeam = some x ∧
          x.world = g.world ∧ x.launch = it.launch ∧ x.node = n ∧ x.left = i % 32 ∧ x.top = i / 32 ∧ x.width = p.width ∧ x.height = p.height ∧
          x.started = false ∧ x.group = [s.dev.nextTeam] ∧ x.segs = p.segs x.left x.top ∧ x.cores.length = 4 * p.width * p.height) ∧
      (∀ e i, y.body = e + 1 → e < 3 → decode y.command = .ok i → isCpym i = false → y.place ≠ 0xFFFF →
        (s.dev.world g.world).off = false → y.place ∈ (s.dev.world g.world).usable it.entryLevel → s.dev.inTeam (quadOfIndex y.place) = false →
        (s.dev.engine (quadOfIndex y.place) e).queue.length < 8 →
        let v (sel : Nat) (x : Word) := if sel % 4 = 1 then SMap.get g.params (x.toNat % 64) else x
        ∃ t cmd, exec .poolDispatch s = .next t ∧ t.dev.pool = rest ∧ t.dev.mem = s.dev.mem ∧
          (t.dev.engine (quadOfIndex y.place) e).queue = (s.dev.engine (quadOfIndex y.place) e).queue ++ [cmd] ∧ cmd.instr = i ∧
          cmd.a = v y.valueSel y.va ∧ cmd.b = v (y.valueSel / 4) y.vb ∧ cmd.c = v (y.valueSel / 16) y.vc ∧ cmd.issuer.core = none ∧
          cmd.issuer.node = some (it.launch, n) ∧ cmd.issuer.world = g.world ∧ cmd.issuer.plane = 0xFF ∧ cmd.issuer.pc = 0xFFFFFFFF))

/-! ## The host -/

/-- HOST_READ answers the bytes that its address translates to, the registers of the function's page or of any page in the root world's
register view, or Unsupported Request where the access has no mapping or passes the end of the BAR; HOST_WRITE stores; a doorbell moves a queue's producer, or sets the queue's error where it leads by more than the queue's size;
REGISTER_WRITE sets the event ring's registers. LAUNCH and REPLAY of a graph that passes its checks create the next launch, with the
parameter set of the entry or the one that stands and the entry's patches; a refused entry is answered with status 3; a queue fence is
consumed, and answers once every launch before it has ended. An event stands in its function's ring, or is counted lost where the ring
is full. -/
def Obligations.TheHostReadsWritesAndLaunches : Prop :=
  (∀ (s : State) (w : Nat) (va : Word) (size : Nat) (bytes : Bytes), (s.dev.world w).tdisp ≠ .error →
      let view (write : Bool) := s.dev.translate s.seq (hostReq w write) va.toNat
      (0 < size → va.toNat % 128 + size ≤ 128 → va.toNat + size ≤ 2 ^ 48 →
        (∀ pa, view false = .mem pa → ∃ t, exec (.hostRead w va size) s = .next t ∧ t.dev.mem = s.dev.mem ∧
            t.dev.hostReply = some { world := w, data := s.dev.bytesAt pa size, unsupported := false }) ∧
        ((∀ pa, view false ≠ .mem pa) → (∀ h, view false ≠ .port h) → (∀ v o, view false ≠ .regs v o) →
          ∃ t, exec (.hostRead w va size) s = .next t ∧ t.dev.mem = s.dev.mem ∧ t.dev.hostReply = some { world := w, data := [], unsupported := true }) ∧
        (∀ pa, bytes.length = size → view true = .mem pa →
          ∃ t, exec (.hostWrite w va bytes) s = .next t ∧ t.dev.mem = SMap.setRun s.dev.mem pa bytes)) ∧
      (2 ^ 48 < va.toNat + size → va.toNat < 2 ^ 48 → ∃ t, exec (.hostRead w va size) s = .next t ∧ t.dev.mem = s.dev.mem ∧
        t.dev.hostReply = some { world := w, data := [], unsupported := true }) ∧
      (∀ v o n x, (va.toNat = 2 ^ 48 + o ∧ v = w ∨ va.toNat + n ≤ 2 ^ 48 ∧ va.toNat % 128 = o % 128 ∧ view false = .regs v o) → v < 256 →
        let f := s.dev.world v
        ((o, n, x) ∈ [(0x1000, 8, f.evBase.toNat), (0x1008, 4, f.evSize.toNat), (0x100C, 4, f.evHead.toNat), (0x1010, 4, f.evTail.toNat),
          (0x1014, 4, f.evLost.toNat)] ∨ ∃ i, i < 16 ∧ (o, n, x) = (0x2000 + 8 * i, 8, (s.dev.counter s.now.clock v i).toNat)) →
        exec (.hostRead w va n) s = .next { s with dev := { s.dev with hostReply := some { world := w, data := bytesOfNat n x, unsupported := false } } }) ∧
      (∀ o, va.toNat = 2 ^ 48 + o → o + bytes.length ≤ 0x10000 →
        exec (.hostWrite w va bytes) s = .next { s with dev := s.dev.writeRegister s.now w o (wordOf bytes) }) ∧
      (∀ v, exec (.registerWrite w 0x1000 v) s = .next { s with dev := s.dev.setWorld w { s.dev.world w with evBase := v } } ∧
        exec (.registerWrite w 0x100C v) s = .next { s with dev := s.dev.setWorld w { s.dev.world w with evHead := v.truncate 32 } } ∧
        ((∃ i, i ≤ 10 ∧ v.toNat % 2 ^ 32 = 64 * 2 ^ i) →
          exec (.registerWrite w 0x1008 v) s = .next { s with dev := s.dev.setWorld w { s.dev.world w with evSize := v.truncate 32 } })) ∧
      (∀ i n q value, (s.dev.queuesOf w)[i]? = some n → Tab.get? s.dev.queues n = some q → q.error = false → value < 2 ^ 32 →
        let ahead := (BitVec.ofNat 32 value - q.consumer).toNat
        (ahead ≤ 2 ^ q.logSize → exec (.doorbell w (8 * i) value) s = .next { s with
          dev := { s.dev with queues := Tab.put s.dev.queues n { q with producer := BitVec.ofNat 32 value } } }) ∧
        (2 ^ q.logSize < ahead → ∃ t, exec (.doorbell w (8 * i) value) s = .next t ∧ t.dev.mem = s.dev.mem ∧
          Tab.get? t.dev.queues n = some { q with error := true }))) ∧
  (∀ (d : Dev) (now : Now) (kind w die : Nat) (payload : Bytes), (d.world w).tdisp ≠ .error → payload.length ≤ 112 →
      let x := d.world w
      let u := d.event now kind w die payload
      (x.evSize.toNat ≤ (x.evTail - x.evHead).toNat → u.hostMem = d.hostMem ∧ u.world w = { x with evLost := x.evLost + 1 }) ∧
      ((x.evTail - x.evHead).toNat < x.evSize.toNat → u.world w = { x with evTail := x.evTail + 1, evSeq := x.evSeq + 1 } ∧
        u.hostMem = SMap.setRun d.hostMem (x.evBase.toNat + 128 * (x.evTail.toNat % x.evSize.toNat))
          (bytesOfNat 2 kind ++ bytesOfNat 1 w ++ bytesOfNat 1 die ++ bytesOfNat 4 x.evSeq.toNat ++
            bytesOf 8 (BitVec.ofNat 64 (now.time / 2 ^ 32)) ++ payload ++ List.replicate (112 - payload.length) 0))) ∧
  (∀ (s : State) (n w : Nat) (q : WorkQueue) (e : Bytes) (d : Dev) (r : Option Rec), s.dev.entry n = some (q, w, e) →
      let d0 := s.dev.setQueue n { q with consumer := q.consumer + 1 }
      let refused (i : Instr) := ∃ t, exec i s = .next t ∧ Tab.get? t.dev.queues n = some { q with consumer := q.consumer + 1 } ∧
        t.dev.launches = s.dev.launches ∧ t.dev.mem = s.dev.mem ∧
        Answered s t n w (u64At e 0x10) ((u16At e 2).testBit 1)
          (bytesOfNat 8 (u64At e 0x18) ++ bytesOfNat 2 3 ++ bytesOfNat 2 0xFFFF ++ bytesOfNat 4 0xFFFFFFFF)
      (launchOk q e = true → d0.useKind s.seq (s.dev.world w).walkerDie w (u16At e 4) [6] = (d, r) →
        ∀ i ps, (i = .launch n ∧ entryOp e = 1 ∧ ps = s.dev.hostParams (u64At e 8) ∨
            i = .replay n ∧ entryOp e = 2 ∧ u64At e 8 = 0 ∧ ps = Tab.getD (s.dev.world w).params (u16At e 4) []) →
          let params := (patches e).foldl (fun m p => SMap.set m p.1 p.2) ps
          (∀ g, d.checkGraph s.seq w (entryLevel e) ((u16At e 2).testBit 0) r = some (g, none) →
            ∃ t x, exec i s = .next t ∧ t.dev.mem = s.dev.mem ∧ t.dev.nextLaunch = s.dev.nextLaunch + 1 ∧
              Tab.get? t.dev.queues n = some { q with consumer := q.consumer + 1, unended := q.unended ++ [s.dev.nextLaunch] } ∧
              Tab.get? t.dev.launches s.dev.nextLaunch = some x ∧ x.world = w ∧ x.graph = u16At e 4 ∧ x.queue = n ∧ x.level = entryLevel e ∧
              x.params = params ∧ x.doneAddr = u64At e 0x10 ∧ x.tag = BitVec.ofNat 64 (u64At e 0x18) ∧ x.edges = g.edges ∧ x.ended = false ∧
              Tab.get? (t.dev.world w).params (u16At e 4) = some params) ∧
          (d.checkGraph s.seq w (entryLevel e) ((u16At e 2).testBit 0) r = none → refused i)) ∧
      (launchOk q e = false → (entryOp e = 1 → refused (.launch n)) ∧ (entryOp e = 2 → refused (.replay n))) ∧
      (entryOp e = 3 → entryOk q e = true → (q.fences = [] ∨ ∃ f fs, q.fences = f :: fs ∧ f.waits ≠ []) →
        exec (.queueFence n) s = .next { s with dev := s.dev.setQueue n { q with
          consumer := q.consumer + 1,
          fences := q.fences ++ [{ waits := q.unended, doneAddr := u64At e 0x10, tag := BitVec.ofNat 64 (u64At e 0x18),
                                   noRecord := (u16At e 2).testBit 1, world := w }] } })) ∧
  (∀ (s : State) (n : Nat) (q : WorkQueue) (f : QueueFence) (fs : List QueueFence), Tab.get? s.dev.queues n = some q →
      q.fences = f :: fs → f.waits = [] → (s.dev.world f.world).tdisp ≠ .error → ∃ t, exec (.queueFence n) s = .next t ∧
        Tab.get? t.dev.queues n = some { q with fences := fs } ∧ t.dev.mem = s.dev.mem ∧
        Answered s t n f.world f.doneAddr f.noRecord (bytesOf 8 f.tag ++ bytesOfNat 2 0 ++ bytesOfNat 2 0xFFFF ++ bytesOfNat 4 0xFFFFFFFF))

/-- The management commands: each is consumed, and answered with status 0 and its effect, or with status 4 and a reason and none. FREE leaves
no translation of its frames; RESOLVE replays a core's held access, which goes on or traps ACCESS at its own pc. A frame makes no
transition after a request of its clock that found it not CLEAN, and a key slot is freed once every frame mapped under it is CLEAN. -/
def Obligations.ManagementCommandsComplete : Prop :=
  (∀ (s : State) (n op : Nat) (q : WorkQueue) (e : Bytes), s.dev.mgmtEntry n op = some (q, e) → mgmtOk q e = true →
      let w := u16At e 4
      let a0 := u64At e 8
      let a1 := u64At e 0x20
      let a2 := u64At e 0x28
      let a3 := u64At e 0x30
      let x := s.dev.world w
      let took (i : Instr) (f : State → Prop) := ∃ t, exec i s = .next t ∧ Managed s t n q e none ∧ f t
      let fails (i : Instr) (reason : Nat) := ∃ t, exec i s = .next t ∧ Managed s t n q e (some reason) ∧
        (∀ f, t.dev.frame f = { s.dev.frame f with askedAt := (t.dev.frame f).askedAt }) ∧
        t.dev.teams = s.dev.teams ∧ t.dev.keySlots = s.dev.keySlots
      (op = 0x10 → w < 256 → a1 = 0 → a2 = 0 → a3 = 0 →
        (x.live = true → fails (.worldCreate n) 1) ∧
        (x.live = false → (∀ k ∈ s.dev.keySlots, ¬ (k.2.state = .retiring ∧ k.2.world = w)) → ∀ y,
          s.dev.worldOf w (SMap.getRun s.dev.hostMem a0 576) = some y → y.partition.all s.dev.quadFree = true →
          took (.worldCreate n) fun t => y.live = true ∧ (∀ v ∈ y.keySlots, t.dev.keySlot v = { state := .assigned, world := w }) ∧
            (w ≠ 0 → t.dev.world w = { y with changedAt := some s.now.clock }) ∧ (∀ v, v ≠ w → v ≠ 0 → t.dev.world v = s.dev.world v))) ∧
      (op = 0x11 → w < 256 → w ≠ 0 → a0 = 0 → a1 = 0 → a2 = 0 → a3 = 0 →
        (x.live = false → fails (.worldDestroy n) 2) ∧
        (x.live = true → ∃ t, exec (.worldDestroy n) s = .next t ∧ t.dev.mem = s.dev.mem ∧ (t.dev.world w).live = false ∧
          (t.dev.world w).partition = [] ∧ (t.dev.world w).programs = [] ∧ (∀ v ∈ x.keySlots, (t.dev.keySlot v).state = .retiring) ∧
          (∀ n v, Tab.get? t.dev.teams n = some v → v.world = w → v.finished = true) ∧
          ∀ f, (s.dev.frame f).world = w → (s.dev.frame f).state = .inUse → f ∈ t.dev.scrubQueue ∧ (t.dev.frame f).state = .scrubPending)) ∧
      (op = 0x12 → w < 256 → a3 = 0 →
        (x.live = false → fails (.worldSet n) 2) ∧
        (x.live = true → x.locked = true → w ≠ 0 → a0 ∈ [0, 2, 3, 4, 6, 7, 8] → ∃ t, exec (.worldSet n) s = .next t ∧
          Managed s t n q e (some 3) ∧ t.dev.world w = { x with tdisp := .error }) ∧
        (x.live = true → w ≠ 0 → a2 = 0 → a0 = 1 → a1 ≤ x.partition.length → took (.worldSet n) fun t => t.dev.world w = { x with reserve := a1 }) ∧
        (x.live = true → w ≠ 0 → a2 = 0 → a0 = 5 → a1 ≤ 1 → took (.worldSet n) fun t => t.dev.world w = { x with warn := a1 == 1 }) ∧
        (x.live = true → w ≠ 0 → x.locked = false → a2 = 0 → a0 = 7 → a1 % 64 = 0 → a1 < 2 ^ 56 →
          took (.worldSet n) fun t => t.dev.world w =
            { x with legendBase := BitVec.ofNat 64 a1, changedAt := some s.now.clock })) ∧
      (∀ level, op = 0x13 → w < 256 → w ≠ 0 → a3 = 0 → x.live = true → x.ptRoot.isSome = true → sizeLevel (a2 % 4) = some level → a2 < 2 ^ 26 →
        a2 / 32 % 2048 = 0 →
        let size := 2 ^ pageBits level
        (a0 % size ≠ 0 ∨ a1 % size ≠ 0 → fails (.map n) 5) ∧
        (a0 % size = 0 → a1 % size = 0 → a0 + size ≤ vaWindow → a1 + size ≤ 2 ^ 48 → isHbm a1 = true → x.clash level a0 = false →
          let write := (a2 / 4 % 2 == 1)
          let exec_ := (a2 / 8 % 2 == 1)
          let slot := a2 / 65536
          let own (f : Nat) := (s.dev.frame f).state = .clean ∨ ((s.dev.frame f).state = .inUse ∧ (s.dev.frame f).world = w)
          (write = true ∧ exec_ = true ∨ slot ∉ x.keySlots → fails (.map n) 13) ∧
          (¬ (write = true ∧ exec_ = true) → slot ∈ x.keySlots → (∃ f ∈ framesOf level a1, ¬ own f) → fails (.map n) 4) ∧
          (¬ (write = true ∧ exec_ = true) → slot ∈ x.keySlots → (∀ f ∈ framesOf level a1, own f) →
            took (.map n) fun t =>
              (∀ f ∈ framesOf level a1, let old := s.dev.frame f
                t.dev.frame f = { state := .inUse, world := w, slots := if slot ∈ old.slots then old.slots else old.slots ++ [slot],
                                  notify := false, askedAt := old.askedAt }) ∧
              Tab.get? (t.dev.world w).leaves (leafKeyAt level a0) = some (makeLeaf a1 slot write exec_ (a2 / 16 % 2 == 1) false)))) ∧
      (∀ level, op = 0x14 → w < 256 → w ≠ 0 → sizeLevel a1 = some level → a2 = 0 → a3 = 0 → x.live = true → a0 % 2 ^ pageBits level = 0 →
        (Tab.get? x.leaves (leafKeyAt level a0) = none → fails (.free n) 14) ∧
        (∀ leaf, Tab.get? x.leaves (leafKeyAt level a0) = some leaf → leafPort leaf = false → took (.free n) fun t =>
          Tab.get? (t.dev.world w).leaves (leafKeyAt level a0) = none ∧
            ∀ f ∈ framesOf level (leafBase leaf), (t.dev.frame f).state = .freeing ∧
              (∀ v ∈ (t.dev.world w).leaves, leafPort v.2 = false → f ∉ framesOf (v.1 / 2 ^ 40) (leafBase v.2)) ∧
              (∀ v ∈ t.dev.stale, leafPort v.leaf = false → f ∉ framesOf (v.key / 2 ^ 40) (leafBase v.leaf)))) ∧
      (op = 0x15 → w < 256 → a1 ≤ 1 → a2 = 0 → a3 = 0 → x.live = true →
        let near (va : Nat) := va / 2 ^ x.offsetBits a0 = a0 / 2 ^ x.offsetBits a0
        (∀ f ∈ s.dev.faults, ¬ (f.world = w ∧ f.invalid = false ∧ near f.va.toNat)) → s.dev.streams = [] → fails (.resolve n) 6) ∧
      (op = 0x15 → w < 256 → w ≠ 0 → a1 = 0 → a2 = 0 → a3 = 0 → x.live = true → s.dev.streams = [] → ∀ f k a,
        s.dev.faults = [f] → f.world = w → f.invalid = false → f.va.toNat = a0 → f.party = .core k → (s.dev.core k).held = [.access a] →
        let again := ({ s.dev.setQueue n { q with consumer := q.consumer + 1 } with faults := [] } : Dev).access s.ctx k a
        (∀ d vals, again = .done d vals →
          ∃ t, exec (.resolve n) s = .next t ∧ t.dev.faults = [] ∧ (t.dev.core k).held = [] ∧ t.dev.mem = d.mem) ∧
        (∀ d va, again = .deny d va → (d.core k).inHandler = false → (d.core k).cur.handler ≠ 0xFFFF →
          ∃ t, exec (.resolve n) s = .next t ∧ (t.dev.core k).held = [] ∧ (t.dev.core k).trapCause = 0x0C ∧ (t.dev.core k).trapInfo = va ∧
            (t.dev.core k).trapPc = a.pc ∧ t.dev.mem = d.mem)) ∧
      (op = 0x16 → w < 256 → a3 = 0 → a2 < 256 → x.live = true → ∀ place, instanceOf s.dev.pkgId a0 a1 = some place →
        let key := barKey w a0 place a2
        ((∃ c ∈ s.dev.cores, c.2.world = w ∧ s.dev.waitsOn c.1 key = true) → fails (.barrierReset n) 7) ∧
        ((∀ c ∈ s.dev.cores, ¬ (c.2.world = w ∧ s.dev.waitsOn c.1 key = true)) → took (.barrierReset n) fun t =>
          t.dev.barrier key = { s.dev.barrier key with declared := 0, arrived := 0, pending := 0, who := [] })) ∧
      (op = 0x17 → w = 0 → a1 = 0 → a2 = 0 → a3 = 0 → a0 % 65536 = 0 →
        ((s.dev.frame (a0 / 65536)).state ≠ .scrubPending → fails (.scrubFirst n) 8) ∧
        ((s.dev.frame (a0 / 65536)).state = .scrubPending → took (.scrubFirst n) fun t => t.dev.scrubQueue.head? = some (a0 / 65536) ∧
          (t.dev.frame (a0 / 65536)).notify = true)) ∧
      (op = 0x18 → w = 0 → a2 = 0 → a3 = 0 →
        let offset := toSigned 64 a1
        took (.timeAdj n) fun t => t.now.rate = toSigned 64 a0 ∧ t.now.clock = s.now.clock ∧
          (1000000 < offset → t.now.time = s.now.time + offset.toNat * 2 ^ 32 ∧ t.now.slew = s.now.slew) ∧
          (offset ≤ 1000000 → t.now.time = s.now.time ∧ t.now.slew = s.now.slew + offset * 2 ^ 32)) ∧
      (op = 0x19 → w < 256 → a1 = 0 → a2 = 0 → a3 = 0 → x.live = true →
        (Tab.get? s.dev.teams a0 = none → fails (.kill n) 10) ∧
        (∀ t, Tab.get? s.dev.teams a0 = some t → t.world = w → t.finished = false → ∃ u, exec (.kill n) s = .next u ∧ u.dev.mem = s.dev.mem ∧
          u.dev.ended = s.dev.ended ++ [(t.launch, t.node, 2, 0)] ∧
          (∀ v, Tab.get? u.dev.teams a0 = some v → v.finished = true ∧ v.votes = []) ∧
          ∀ c ∈ t.cores, (s.dev.core c.1).active = some c.2 → ((s.dev.core c.1).plane c.2).state = .active →
            ((s.dev.core c.1).plane c.2).team = a0 → (u.dev.core c.1).halted = true ∧ (u.dev.core c.1).pend = [] ∧
              ((u.dev.core c.1).plane c.2).state = .draining)) ∧
      (op = 0x1A → w = 0 → a0 ≤ 3 →
        (a1 = 0 → a2 % 64 = 0 → a2 < 2 ^ 48 → 1 ≤ a3 → a3 ≤ 65536 → took (.dieSet n) fun t => (t.dev.die a0).survey = some (a2, a3)) ∧
        (a1 = 1 → 1 ≤ a2 → a2 ≤ 12 → a3 = 0 → took (.dieSet n) fun t => (t.dev.die a0).scrubCap = a2) ∧ (1 < a1 → fails (.dieSet n) 12)) ∧
      (op = 0x1B → w < 256 → a0 < 4096 → x.live = true → a0 ≠ n →
        let log := a2 % 32
        let old := Tab.get? s.dev.queues a0
        (a3 = 0 → old = none → a1 % 4096 = 0 → 4 ≤ log → log ≤ 16 → a2 = log + a2 / 2 ^ 8 % 256 * 2 ^ 8 + a2 / 2 ^ 16 % 4 * 2 ^ 16 →
          ((s.dev.setQueue n q.consume).queuesOf w).length < 512 → took (.queueSet n) fun t => Tab.get? t.dev.queues a0 = some
            { world := some w, base := a1, logSize := log, vector := a2 / 2 ^ 8 % 256, ceiling := a2 / 2 ^ 16 % 4, producer := 0, consumer := 0,
              error := false, unended := [], fences := [] }) ∧
        (∀ y, old = some y → y.world = some w → a3 = 1 → a1 = 0 → a2 = 0 → took (.queueSet n) fun t =>
          Tab.get? t.dev.queues a0 = some { y with world := none }) ∧
        (∀ y v, old = some y → y.world = some v → v ≠ w → a3 ≤ 1 → fails (.queueSet n) 11)) ∧
      (op = 0x1C → w < 256 → a0 < 64 → a2 = 0 → a3 = 0 → x.live = true →
        let p := s.dev.pqueue a0
        ((p.world = none ∨ p.world = some w) → a1 = 0 → took (.pqSet n) fun t => t.dev.pqueue a0 = { p with world := some w }) ∧
        (∀ v, p.world = some v → v ≠ w → a1 ≤ 1 → fails (.pqSet n) 11) ∧
        (p.world = some w → a1 = 1 → s.dev.cores = [] → took (.pqSet n) fun t => t.dev.pqueue a0 = { p with world := none, entries := [] })) ∧
      (op = 0x1D → w < 256 → w ≠ 0 → a3 = 0 → x.live = true → x.ptRoot.isSome = true → a0 % 65536 = 0 → a0 < vaWindow → a1 < 256 →
        (a2 = 0 → Tab.get? x.leaves (leafKeyAt 4 a0) = none → x.clash 4 a0 = false → took (.ingestMap n) fun t =>
          Tab.get? (t.dev.world w).leaves (leafKeyAt 4 a0) = some (makeLeaf (a1 * 65536) 0 true false true true)) ∧
        (∀ leaf, a2 = 1 → Tab.get? x.leaves (leafKeyAt 4 a0) = some leaf → leafPort leaf = true → leafWindow leaf = a1 → took (.ingestMap n) fun t =>
          Tab.get? (t.dev.world w).leaves (leafKeyAt 4 a0) = none)) ∧
      (op = 0x1E → w < 256 → w ≠ 0 → a1 = 0 → a2 = 0 → a3 = 0 → a0 ≤ 1 →
        (x.live = false → fails (.power n) 2) ∧
        (x.live = true → a0 = 0 → x.partition.all s.dev.quadFree = false → fails (.power n) 16) ∧
        (x.live = true → (a0 = 0 → x.partition.all s.dev.quadFree = true) → took (.power n) fun t =>
          t.dev.world w = { x with gating := some (a0 == 0, s.now.ns) }))) ∧
  (∀ (s : State) (f w : Nat),
      let asked := (s.dev.frame f).askedAt = some s.now.clock
      ((s.dev.frame f).state = .freeing → ¬ asked → ∃ t, exec (.frameScrubPending f) s = .next t ∧ t.dev.mem = s.dev.mem ∧
        (t.dev.frame f).state = .scrubPending ∧ t.dev.scrubQueue = s.dev.scrubQueue ++ [f]) ∧
      ((s.dev.frame f).state ≠ .freeing ∨ asked → exec (.frameScrubPending f) s = .next s) ∧
      (∀ die, asked → s.dev.scrubQueue.find? (fun f => frameDie f == die) = some f → exec (.scrubFrameClean die) s = .next s) ∧
      (∀ die, ¬ asked → s.dev.scrubQueue.find? (fun f => frameDie f == die) = some f → ∃ t, exec (.scrubFrameClean die) s = .next t ∧
        t.dev.frame f = Frame.clean ∧ t.dev.scrubQueue = s.dev.scrubQueue.erase f ∧
        (∀ a, f * 65536 ≤ a → a < f * 65536 + 65536 → SMap.get t.dev.mem a = 0) ∧
        (∀ a, ¬ (f * 65536 ≤ a ∧ a < f * 65536 + 65536) → SMap.get t.dev.mem a = SMap.get s.dev.mem a)) ∧
      ((s.dev.keySlot f).state = .retiring → (∀ e ∈ s.dev.frames, f ∈ e.2.slots → e.2.state = .clean) →
        ∃ t, exec (.keySlotFreed f) s = .next t ∧ t.dev.mem = s.dev.mem ∧ t.dev.keySlot f = { state := .free, world := 0 }) ∧
      (∀ off since, (s.dev.world w).gating = some (off, since) → since + 200000 ≤ s.now.ns →
        exec (.powerGateComplete w) s = .next { s with dev := s.dev.setWorld w { s.dev.world w with gated := off, gating := none } }))

/-! ## Tenancy, attestation, the loader and start-up -/

/-- A packet whose tag fails is dropped and counted by the die that drops it, or as a stale reply; a sealed tunnel takes rising counters alone, and
otherwise closes and sends a locked function to ERROR; TDISP moves a virtual function between its states, the lock before every
change of its clock, and an integrity failure sends a locked one to ERROR; the SPDM responder answers the requests of a connection in their order, GET_MEASUREMENTS with the measurement
blocks, and others with an empty answer (PRESUMED and DESIGN CHOICE, log 8). -/
def Obligations.TenantsAreSeparatedAndAttested : Prop :=
  (∀ (s : State) (row place w gen : Nat), row ≤ 3 →
      let passes := match row with
        | 0 => (s.dev.world w).owns place = true
        | 1 => ∃ t, Tab.get? s.dev.tunnels (place % 2 ^ 32) = some t ∧ t.isOpen = true ∧ t.world = w ∧ t.die = place / 2 ^ 32
        | 2 => s.dev.portOpen w (place % 2048) = true
        | _ => ((s.dev.core (place / 4)).plane (place % 4)).world = w ∧ ((s.dev.core (place / 4)).plane (place % 4)).gen = BitVec.ofNat 16 gen
      let die := match row with | 0 => place / 256 | 1 => place / 2 ^ 32 | _ => place / 4096 % 4
      (passes → exec (.meshPacketEnters row place w gen) s = .next s) ∧
      (¬ passes → row ≠ 3 → ∃ t, exec (.meshPacketEnters row place w gen) s = .next t ∧ t.dev.mem = s.dev.mem ∧
        (t.dev.die die).foreign = ((s.dev.die die).foreign + 1) % 2 ^ 48) ∧
      (¬ passes → row = 3 → ∃ t, exec (.meshPacketEnters row place w gen) s = .next t ∧ t.dev.mem = s.dev.mem ∧
        (t.dev.die (place / 4096)).stale = (s.dev.die (place / 4096)).stale + 1)) ∧
  (∀ (s : State) (n c : Nat) (ok : Bool) (x : Tunnel), Tab.get? s.dev.tunnels n = some x → x.isOpen = true →
      let good := ok = true ∧ ∀ last, x.counter = some last → last < BitVec.ofNat 64 c
      (good → exec (.tunnelPacketExit n c ok) s = .next { s with
        dev := { s.dev with tunnels := Tab.put s.dev.tunnels n { x with counter := some (BitVec.ofNat 64 c),
                                                                        sent := Nat.max x.sent (c % 2 ^ 64 + 1) } } }) ∧
      (¬ good → ∃ t, exec (.tunnelPacketExit n c ok) s = .next t ∧ t.dev.mem = s.dev.mem ∧
        (t.dev.world x.world).tdisp = (if (s.dev.world x.world).locked then .error else (s.dev.world x.world).tdisp) ∧
        (Tab.get? t.dev.tunnels n = some { x with isOpen := false } ∨ ∀ e ∈ t.dev.tunnels, e.2.team ≠ x.team) ∧
        (t.dev.die x.die).foreign = ((s.dev.die x.die).foreign + 1) % 2 ^ 48)) ∧
  (∀ (s : State) (w : Nat), 1 ≤ w → w < 256 →
      let x := s.dev.world w
      let moved (i : Instr) (y : World) := exec i s = .next { s with dev := s.dev.setWorld w y }
      (x.tdisp = .configUnlocked → x.changedAt = some s.now.clock → exec (.lockInterfaceRequest w) s = .next s) ∧
      (x.tdisp = .configUnlocked → x.changedAt ≠ some s.now.clock → ∃ report, moved (.lockInterfaceRequest w) { x with tdisp := .configLocked, report := report }) ∧
      (x.tdisp = .configLocked → moved (.startInterfaceRequest w) { x with tdisp := .run }) ∧
      (x.tdisp ≠ .configLocked → exec (.startInterfaceRequest w) s = .next s) ∧
      (x.tdisp ≠ .configUnlocked → exec (.lockInterfaceRequest w) s = .next s ∧ ∃ t, exec (.stopInterfaceRequest w) s = .next t ∧
        (t.dev.world w).tdisp = .configUnlocked ∧ t.dev.mem = s.dev.mem ∧ (∀ e ∈ (t.dev.world w).leaves, leafPort e.2 = true) ∧ (∀ n v, Tab.get? t.dev.teams n = some v → v.world = w → v.finished = true) ∧
        ∀ f, (s.dev.frame f).world = w → (s.dev.frame f).state = .inUse → (t.dev.frame f).state = .scrubPending) ∧
      ((x.tdisp = .configLocked ∨ x.tdisp = .run) → moved (.ideIntegrityFailure w) { x with tdisp := .error }) ∧
      ((x.tdisp = .configUnlocked ∨ x.tdisp = .error) → ∃ t, exec (.ideIntegrityFailure w) s = .next t ∧ t.dev.world w = x)) ∧
  (∀ (s : State) (fn slot index : Nat) (nonce pub : Bytes), fn < 256 →
      let c := s.dev.spdmOf fn
      let becomes (i : Instr) (y : Spdm) := exec i s = .next { s with dev := s.dev.setSpdm fn y }
      becomes (.getVersion fn) { version := true, capabilities := false, algorithms := false, exchanged := false, session := false,
                                 transcript := Config.spdmAnswer 0, secret := [], reply := Config.spdmAnswer 0 } ∧
      (c.version = true → becomes (.getCapabilities fn) { c with
        capabilities := true, transcript := c.transcript ++ Config.spdmAnswer 1, reply := Config.spdmAnswer 1 }) ∧
      (c.version = false → becomes (.getCapabilities fn) { c with reply := [] }) ∧
      (c.capabilities = true → becomes (.negotiateAlgorithms fn) { c with
        algorithms := true, transcript := c.transcript ++ Config.spdmAnswer 2, reply := Config.spdmAnswer 2 }) ∧
      (c.algorithms = true →
        (∃ digests, digests = ([0, 1, 2, 3, 4] : List Nat).flatMap (fun i => sha512 (Config.certificate i)) ∧
          becomes (.getDigests fn) { c with transcript := c.transcript ++ digests, reply := digests }) ∧
        (slot < 5 → becomes (.getCertificate fn slot) { c with
            transcript := c.transcript ++ Config.certificate slot, reply := Config.certificate slot } ∧
          ∃ body sig, body = sha512 (Config.certificate slot) ++ Config.nonce s.seq ∧
            sig = Config.ed25519Sign slot (c.transcript ++ nonce ++ body) ∧
            becomes (.challenge fn slot nonce) { c with transcript := c.transcript ++ nonce ++ (body ++ sig), reply := body ++ sig }) ∧
        (5 ≤ slot → becomes (.getCertificate fn slot) { c with reply := [] }) ∧
        (∀ value, s.dev.block fn index = some value → index ∈ [0x01, 0x02, 0x10, 0x11, 0x12, 0x13, 0x20, 0x21, 0xF0] →
          ∃ sig, sig = Config.ed25519Sign 0 (nonce ++ (BitVec.ofNat 8 index :: value ++ Config.nonce s.seq)) ∧
            ∃ y, becomes (.getMeasurements fn index nonce) y ∧ y.reply = BitVec.ofNat 8 index :: value ++ Config.nonce s.seq ++ sig) ∧
        (∃ y, becomes (.keyExchange fn pub) y ∧ y.exchanged = true ∧ y.session = false ∧ y.secret = Config.x25519Shared s.seq pub ∧
          y.reply = Config.x25519Public s.seq ++ Config.ed25519Sign 0 (c.transcript ++ pub ++ Config.x25519Public s.seq))) ∧
      (c.exchanged = true → (∃ y, becomes (.finish fn (Config.finishVerify c.secret c.transcript)) y ∧ y.session = true ∧ y.exchanged = false) ∧
        (pub ≠ Config.finishVerify c.secret c.transcript → becomes (.finish fn pub) { c with reply := [] })) ∧
      (c.session = true → ∃ y, becomes (.endSession fn) y ∧ y.session = false ∧ y.secret = []) ∧
      s.dev.block fn 0x01 = some (sha512 s.dev.firmware) ∧ s.dev.block fn 0x20 = some (s.dev.world fn).measurement)

/-- A file that passes its checks enters its kernels into the world's program table; one that fails is refused, with no byte changed and nothing
admitted. A code page's re-admission measures a writable page, and returns it to execution only with a note that holds. The clock steps
by 100 MHz between its bounds; a clock advances device time by its rate, and by a thousandth more or less while a correction is to be
absorbed (R275); PTM corrects device time, by itself once 10 ms have passed since the last refresh; a pod port takes a flit or, after 16 failed ones, goes down; firmware is
staged only when its signature verifies; an uncontainable error puts every function in ERROR and holds the device in reset. -/
def Obligations.FilesAreAdmittedAndTheDeviceIsManaged : Prop :=
  (∀ (s : State) (w : Nat) (file : Bytes), (s.dev.world w).live = true →
      let x := s.dev.world w
      let slot := pick s.seq 301 0 x.keySlots
      let refused := ∃ t, exec (.loaderAdmit w file) s = .next t ∧ t.dev.mem = s.dev.mem ∧ t.dev.frames = s.dev.frames ∧
        (t.dev.world w).programs = x.programs ∧ (t.dev.world w).measurement = x.measurement ∧ (t.dev.world w).code = x.code
      (∀ why, parseFile file w slot = .error why → refused) ∧
      (∀ p, parseFile file w slot = .ok p →
        (∀ why, s.dev.refuses s.seq w file p = some why → refused) ∧
        (∀ d, s.dev.refuses s.seq w file p = none → s.dev.ensurePages s.seq w slot (x.filePages p) 0 = some d →
          ∃ t, exec (.loaderAdmit w file) s = .next t ∧ (t.dev.world w).programs = x.programs ++ p.programs ∧
            (t.dev.world w).extensions = x.extensions + BitVec.ofNat 32 (p.segs.filter Seg.code).length ∧
            (t.dev.world w).code = x.code ++ codePages p x.programs.length))) ∧
  (∀ (s : State) (w page : Nat) (note : Bytes) (c : CodePage), (s.dev.world w).code[page]? = some c →
      let after (f : CodePage → Prop) := ∃ t c', exec (.codeReadmit w page note) s = .next t ∧ (t.dev.world w).code[page]? = some c' ∧ f c'
      (c.state = .exec → exec (.codeReadmit w page note) s = .next s) ∧
      (c.state = .writable → after fun c' => c'.state = .measuring ∧ c'.measurement = sliceB note 4 64 ∧ c'.signer = sliceB note 68 32 ∧ c'.va = c.va) ∧
      (∀ bs, c.state = .measuring → s.dev.image s.seq w none c.segVa.toNat c.segLen = some bs →
        ((s.dev.world w).noteOk { index := c.segIndex, measurement := c.measurement, signer := c.signer, signature := c.signature } bs = true →
          after fun c' => c' = { c with state := .exec }) ∧
        ((s.dev.world w).noteOk { index := c.segIndex, measurement := c.measurement, signer := c.signer, signature := c.signature } bs = false →
          after fun c' => c' = { c with state := .writable }))) ∧
  (∀ (s : State) (port host code : Nat) (image sig : Bytes),
      exec (.clockThrottle true) s = .next { s with now := { s.now with mhz := Nat.max 600 (s.now.mhz - 100) } } ∧
      exec (.clockThrottle false) s = .next { s with now := { s.now with mhz := Nat.min 1100 (s.now.mhz + 100) } } ∧
      (let full := (2 ^ 32 + s.now.rate).toNat * 1000 / s.now.mhz
        let u := s.now.tick
        u.clock = s.now.clock + 1 ∧ (s.now.slew = 0 → u.time = s.now.time + full ∧ u.slew = 0) ∧
        (Int.ofNat (full / 1000) ≤ s.now.slew → u.time = s.now.time + full + full / 1000 ∧ u.slew = s.now.slew - Int.ofNat (full / 1000)) ∧
        (s.now.slew ≤ -Int.ofNat (full / 1000) → u.time = s.now.time + full - full / 1000 ∧ u.slew = s.now.slew + Int.ofNat (full / 1000))) ∧
      (s.dev.ptm = false → exec (.ptmRefresh host) s = .next s) ∧
      (s.dev.ptm = true →
        (s.now.ns + 1000000 < host → exec (.ptmRefresh host) s = .next { s with
          now := { s.now with slew := 0, refreshed := s.now.time, time := s.now.time + (host - s.now.ns) * 2 ^ 32 } }) ∧
        (host ≤ s.now.ns + 1000000 → exec (.ptmRefresh host) s = .next { s with
          now := { s.now with refreshed := s.now.time, slew := ((host : Int) - (s.now.ns : Int)) * 2 ^ 32 } })) ∧
      (s.now.time < s.now.refreshed + 10000000 * 2 ^ 32 → s.now.forceRefresh s.seq true = s.now) ∧
      (s.now.refreshed + 10000000 * 2 ^ 32 ≤ s.now.time → ∃ offset : Int, -40 ≤ offset ∧ offset ≤ 40 ∧
        s.now.forceRefresh s.seq true = { s.now with refreshed := s.now.time, slew := offset * 2 ^ 32 }) ∧
      (∀ p, Tab.get? s.dev.ports port = some p → p.up = true →
        let takes (ok : Bool) (y : PodPort) := exec (.podFlitReceive port ok) s = .next { s with dev := { s.dev with ports := Tab.put s.dev.ports port y } }
        takes true { p with retries := 0 } ∧ (p.retries < 16 → takes false { p with retries := p.retries + 1 }) ∧
        (16 ≤ p.retries → takes false { p with up := false, retries := 0 })) ∧
      (ed25519Verify Config.vendorKey (sha512 image) sig = true →
        exec (.firmwareStage image sig) s = .next { s with dev := { s.dev with staged := image } }) ∧
      (ed25519Verify Config.vendorKey (sha512 image) sig = false → exec (.firmwareStage image sig) s = .next s) ∧
      ∃ t, exec (.uncontainableError code) s = .next t ∧ t.dev.stopped = true ∧ t.dev.up = false ∧ t.dev.cores = [] ∧ t.dev.teams = [] ∧
        (∀ w, w < 256 → (t.dev.world w).tdisp = .error) ∧ t.dev.mem = s.dev.mem ∧ t.dev.firmware = s.dev.firmware)
end

