-- ==== Sys2Proof/Laws/Encoding.lean ====
section
/-! SUPPORT. The decoder reads back each field of each format of R85. -/

namespace Sys2Proof.Laws

open Sys2Proof

theorem take_low {n m : Nat} (x : BitVec n) (y : BitVec m) : (x ++ y).extractLsb' 0 m = y := by
  rw [BitVec.extractLsb'_append_eq_of_add_le (by omega)]
  exact BitVec.extractLsb'_eq_self

theorem skip_low {n m s l : Nat} (x : BitVec n) (y : BitVec m) (h : m ≤ s) :
    (x ++ y).extractLsb' s l = x.extractLsb' (s - m) l :=
  BitVec.extractLsb'_append_eq_of_le h

theorem bool_bit (w : Word) (i : Nat) (b : Bool) (h : w.extractLsb' i 1 = BitVec.ofBool b) : w.getLsbD i = b := by
  have h0 := congrArg (fun v => v.getLsbD 0) h
  simpa using h0

theorem packR_op (op fn : BitVec 8) (d a b c : Reg) (ty md : BitVec 4) (p : Pred) :
    (packR op fn d a b c ty md p).extractLsb' 56 8 = op :=
  (skip_low _ _ (by decide)).trans <| (skip_low _ _ (by decide)).trans <| (skip_low _ _ (by decide)).trans <| (skip_low _ _ (by decide)).trans <| (skip_low _ _ (by decide)).trans <| (skip_low _ _ (by decide)).trans <| (skip_low _ _ (by decide)).trans <| (skip_low _ _ (by decide)).trans <| (skip_low _ _ (by decide)).trans <| (skip_low _ _ (by decide)).trans <| BitVec.extractLsb'_eq_self
theorem packR_d (op fn : BitVec 8) (d a b c : Reg) (ty md : BitVec 4) (p : Pred) :
    (packR op fn d a b c ty md p).extractLsb' 50 6 = d :=
  (skip_low _ _ (by decide)).trans <| (skip_low _ _ (by decide)).trans <| (skip_low _ _ (by decide)).trans <| (skip_low _ _ (by decide)).trans <| (skip_low _ _ (by decide)).trans <| (skip_low _ _ (by decide)).trans <| (skip_low _ _ (by decide)).trans <| (skip_low _ _ (by decide)).trans <| (skip_low _ _ (by decide)).trans <| take_low _ _
theorem packR_a (op fn : BitVec 8) (d a b c : Reg) (ty md : BitVec 4) (p : Pred) :
    (packR op fn d a b c ty md p).extractLsb' 44 6 = a :=
  (skip_low _ _ (by decide)).trans <| (skip_low _ _ (by decide)).trans <| (skip_low _ _ (by decide)).trans <| (skip_low _ _ (by decide)).trans <| (skip_low _ _ (by decide)).trans <| (skip_low _ _ (by decide)).trans <| (skip_low _ _ (by decide)).trans <| (skip_low _ _ (by decide)).trans <| take_low _ _
theorem packR_b (op fn : BitVec 8) (d a b c : Reg) (ty md : BitVec 4) (p : Pred) :
    (packR op fn d a b c ty md p).extractLsb' 38 6 = b :=
  (skip_low _ _ (by decide)).trans <| (skip_low _ _ (by decide)).trans <| (skip_low _ _ (by decide)).trans <| (skip_low _ _ (by decide)).trans <| (skip_low _ _ (by decide)).trans <| (skip_low _ _ (by decide)).trans <| (skip_low _ _ (by decide)).trans <| take_low _ _
theorem packR_c (op fn : BitVec 8) (d a b c : Reg) (ty md : BitVec 4) (p : Pred) :
    (packR op fn d a b c ty md p).extractLsb' 32 6 = c :=
  (skip_low _ _ (by decide)).trans <| (skip_low _ _ (by decide)).trans <| (skip_low _ _ (by decide)).trans <| (skip_low _ _ (by decide)).trans <| (skip_low _ _ (by decide)).trans <| (skip_low _ _ (by decide)).trans <| take_low _ _
theorem packR_fn (op fn : BitVec 8) (d a b c : Reg) (ty md : BitVec 4) (p : Pred) :
    (packR op fn d a b c ty md p).extractLsb' 24 8 = fn :=
  (skip_low _ _ (by decide)).trans <| (skip_low _ _ (by decide)).trans <| (skip_low _ _ (by decide)).trans <| (skip_low _ _ (by decide)).trans <| (skip_low _ _ (by decide)).trans <| take_low _ _
theorem packR_ty (op fn : BitVec 8) (d a b c : Reg) (ty md : BitVec 4) (p : Pred) :
    (packR op fn d a b c ty md p).extractLsb' 20 4 = ty :=
  (skip_low _ _ (by decide)).trans <| (skip_low _ _ (by decide)).trans <| (skip_low _ _ (by decide)).trans <| (skip_low _ _ (by decide)).trans <| take_low _ _
theorem packR_md (op fn : BitVec 8) (d a b c : Reg) (ty md : BitVec 4) (p : Pred) :
    (packR op fn d a b c ty md p).extractLsb' 16 4 = md :=
  (skip_low _ _ (by decide)).trans <| (skip_low _ _ (by decide)).trans <| (skip_low _ _ (by decide)).trans <| take_low _ _
theorem packR_m (op fn : BitVec 8) (d a b c : Reg) (ty md : BitVec 4) (p : Pred) :
    (packR op fn d a b c ty md p).extractLsb' 13 3 = p.m :=
  (skip_low _ _ (by decide)).trans <| (skip_low _ _ (by decide)).trans <| take_low _ _
theorem packR_pn (op fn : BitVec 8) (d a b c : Reg) (ty md : BitVec 4) (p : Pred) :
    (packR op fn d a b c ty md p).extractLsb' 12 1 = BitVec.ofBool p.pn :=
  (skip_low _ _ (by decide)).trans <| take_low _ _
theorem packR_pred (op fn : BitVec 8) (d a b c : Reg) (ty md : BitVec 4) (p : Pred) : predAt (packR op fn d a b c ty md p) 13 12 = p := by
  simp only [predAt, packR_m, bool_bit _ 12 _ (packR_pn _ _ _ _ _ _ _ _ _)]

theorem packI_op (op : BitVec 8) (fn : BitVec 4) (d a : Reg) (md : BitVec 4) (imm : BitVec 32) (p : Pred) :
    (packI op fn d a md imm p).extractLsb' 56 8 = op :=
  (skip_low _ _ (by decide)).trans <| (skip_low _ _ (by decide)).trans <| (skip_low _ _ (by decide)).trans <| (skip_low _ _ (by decide)).trans <| (skip_low _ _ (by decide)).trans <| (skip_low _ _ (by decide)).trans <| (skip_low _ _ (by decide)).trans <| BitVec.extractLsb'_eq_self
theorem packI_d (op : BitVec 8) (fn : BitVec 4) (d a : Reg) (md : BitVec 4) (imm : BitVec 32) (p : Pred) :
    (packI op fn d a md imm p).extractLsb' 50 6 = d :=
  (skip_low _ _ (by decide)).trans <| (skip_low _ _ (by decide)).trans <| (skip_low _ _ (by decide)).trans <| (skip_low _ _ (by decide)).trans <| (skip_low _ _ (by decide)).trans <| (skip_low _ _ (by decide)).trans <| take_low _ _
theorem packI_a (op : BitVec 8) (fn : BitVec 4) (d a : Reg) (md : BitVec 4) (imm : BitVec 32) (p : Pred) :
    (packI op fn d a md imm p).extractLsb' 44 6 = a :=
  (skip_low _ _ (by decide)).trans <| (skip_low _ _ (by decide)).trans <| (skip_low _ _ (by decide)).trans <| (skip_low _ _ (by decide)).trans <| (skip_low _ _ (by decide)).trans <| take_low _ _
theorem packI_fn (op : BitVec 8) (fn : BitVec 4) (d a : Reg) (md : BitVec 4) (imm : BitVec 32) (p : Pred) :
    (packI op fn d a md imm p).extractLsb' 40 4 = fn :=
  (skip_low _ _ (by decide)).trans <| (skip_low _ _ (by decide)).trans <| (skip_low _ _ (by decide)).trans <| (skip_low _ _ (by decide)).trans <| take_low _ _
theorem packI_m (op : BitVec 8) (fn : BitVec 4) (d a : Reg) (md : BitVec 4) (imm : BitVec 32) (p : Pred) :
    (packI op fn d a md imm p).extractLsb' 37 3 = p.m :=
  (skip_low _ _ (by decide)).trans <| (skip_low _ _ (by decide)).trans <| (skip_low _ _ (by decide)).trans <| take_low _ _
theorem packI_pn (op : BitVec 8) (fn : BitVec 4) (d a : Reg) (md : BitVec 4) (imm : BitVec 32) (p : Pred) :
    (packI op fn d a md imm p).extractLsb' 36 1 = BitVec.ofBool p.pn :=
  (skip_low _ _ (by decide)).trans <| (skip_low _ _ (by decide)).trans <| take_low _ _
theorem packI_md (op : BitVec 8) (fn : BitVec 4) (d a : Reg) (md : BitVec 4) (imm : BitVec 32) (p : Pred) :
    (packI op fn d a md imm p).extractLsb' 32 4 = md :=
  (skip_low _ _ (by decide)).trans <| take_low _ _
theorem packI_imm (op : BitVec 8) (fn : BitVec 4) (d a : Reg) (md : BitVec 4) (imm : BitVec 32) (p : Pred) :
    (packI op fn d a md imm p).extractLsb' 0 32 = imm :=
  take_low _ _
theorem packI_pred (op : BitVec 8) (fn : BitVec 4) (d a : Reg) (md : BitVec 4) (imm : BitVec 32) (p : Pred) : predAt (packI op fn d a md imm p) 37 36 = p := by
  simp only [predAt, packI_m, bool_bit _ 36 _ (packI_pn _ _ _ _ _ _ _)]

theorem packB_op (op : BitVec 8) (fn cc : BitVec 4) (a b : Reg) (sel : BitVec 4) (off : BitVec 32) :
    (packB op fn cc a b sel off).extractLsb' 56 8 = op :=
  (skip_low _ _ (by decide)).trans <| (skip_low _ _ (by decide)).trans <| (skip_low _ _ (by decide)).trans <| (skip_low _ _ (by decide)).trans <| (skip_low _ _ (by decide)).trans <| (skip_low _ _ (by decide)).trans <| BitVec.extractLsb'_eq_self
theorem packB_cc (op : BitVec 8) (fn cc : BitVec 4) (a b : Reg) (sel : BitVec 4) (off : BitVec 32) :
    (packB op fn cc a b sel off).extractLsb' 52 4 = cc :=
  (skip_low _ _ (by decide)).trans <| (skip_low _ _ (by decide)).trans <| (skip_low _ _ (by decide)).trans <| (skip_low _ _ (by decide)).trans <| (skip_low _ _ (by decide)).trans <| take_low _ _
theorem packB_a (op : BitVec 8) (fn cc : BitVec 4) (a b : Reg) (sel : BitVec 4) (off : BitVec 32) :
    (packB op fn cc a b sel off).extractLsb' 46 6 = a :=
  (skip_low _ _ (by decide)).trans <| (skip_low _ _ (by decide)).trans <| (skip_low _ _ (by decide)).trans <| (skip_low _ _ (by decide)).trans <| take_low _ _
theorem packB_b (op : BitVec 8) (fn cc : BitVec 4) (a b : Reg) (sel : BitVec 4) (off : BitVec 32) :
    (packB op fn cc a b sel off).extractLsb' 40 6 = b :=
  (skip_low _ _ (by decide)).trans <| (skip_low _ _ (by decide)).trans <| (skip_low _ _ (by decide)).trans <| take_low _ _
theorem packB_fn (op : BitVec 8) (fn cc : BitVec 4) (a b : Reg) (sel : BitVec 4) (off : BitVec 32) :
    (packB op fn cc a b sel off).extractLsb' 36 4 = fn :=
  (skip_low _ _ (by decide)).trans <| (skip_low _ _ (by decide)).trans <| take_low _ _
theorem packB_sel (op : BitVec 8) (fn cc : BitVec 4) (a b : Reg) (sel : BitVec 4) (off : BitVec 32) :
    (packB op fn cc a b sel off).extractLsb' 32 4 = sel :=
  (skip_low _ _ (by decide)).trans <| take_low _ _
theorem packB_off (op : BitVec 8) (fn cc : BitVec 4) (a b : Reg) (sel : BitVec 4) (off : BitVec 32) :
    (packB op fn cc a b sel off).extractLsb' 0 32 = off :=
  take_low _ _

theorem packM_op (op : BitVec 8) (fn : BitVec 3) (d base idx : Reg) (sz : BitVec 3) (md : BitVec 4) (disp : BitVec 24) (p : Pred) :
    (packM op fn d base idx sz md disp p).extractLsb' 56 8 = op :=
  (skip_low _ _ (by decide)).trans <| (skip_low _ _ (by decide)).trans <| (skip_low _ _ (by decide)).trans <| (skip_low _ _ (by decide)).trans <| (skip_low _ _ (by decide)).trans <| (skip_low _ _ (by decide)).trans <| (skip_low _ _ (by decide)).trans <| (skip_low _ _ (by decide)).trans <| (skip_low _ _ (by decide)).trans <| BitVec.extractLsb'_eq_self
theorem packM_d (op : BitVec 8) (fn : BitVec 3) (d base idx : Reg) (sz : BitVec 3) (md : BitVec 4) (disp : BitVec 24) (p : Pred) :
    (packM op fn d base idx sz md disp p).extractLsb' 50 6 = d :=
  (skip_low _ _ (by decide)).trans <| (skip_low _ _ (by decide)).trans <| (skip_low _ _ (by decide)).trans <| (skip_low _ _ (by decide)).trans <| (skip_low _ _ (by decide)).trans <| (skip_low _ _ (by decide)).trans <| (skip_low _ _ (by decide)).trans <| (skip_low _ _ (by decide)).trans <| take_low _ _
theorem packM_base (op : BitVec 8) (fn : BitVec 3) (d base idx : Reg) (sz : BitVec 3) (md : BitVec 4) (disp : BitVec 24) (p : Pred) :
    (packM op fn d base idx sz md disp p).extractLsb' 44 6 = base :=
  (skip_low _ _ (by decide)).trans <| (skip_low _ _ (by decide)).trans <| (skip_low _ _ (by decide)).trans <| (skip_low _ _ (by decide)).trans <| (skip_low _ _ (by decide)).trans <| (skip_low _ _ (by decide)).trans <| (skip_low _ _ (by decide)).trans <| take_low _ _
theorem packM_idx (op : BitVec 8) (fn : BitVec 3) (d base idx : Reg) (sz : BitVec 3) (md : BitVec 4) (disp : BitVec 24) (p : Pred) :
    (packM op fn d base idx sz md disp p).extractLsb' 38 6 = idx :=
  (skip_low _ _ (by decide)).trans <| (skip_low _ _ (by decide)).trans <| (skip_low _ _ (by decide)).trans <| (skip_low _ _ (by decide)).trans <| (skip_low _ _ (by decide)).trans <| (skip_low _ _ (by decide)).trans <| take_low _ _
theorem packM_sz (op : BitVec 8) (fn : BitVec 3) (d base idx : Reg) (sz : BitVec 3) (md : BitVec 4) (disp : BitVec 24) (p : Pred) :
    (packM op fn d base idx sz md disp p).extractLsb' 35 3 = sz :=
  (skip_low _ _ (by decide)).trans <| (skip_low _ _ (by decide)).trans <| (skip_low _ _ (by decide)).trans <| (skip_low _ _ (by decide)).trans <| (skip_low _ _ (by decide)).trans <| take_low _ _
theorem packM_m (op : BitVec 8) (fn : BitVec 3) (d base idx : Reg) (sz : BitVec 3) (md : BitVec 4) (disp : BitVec 24) (p : Pred) :
    (packM op fn d base idx sz md disp p).extractLsb' 32 3 = p.m :=
  (skip_low _ _ (by decide)).trans <| (skip_low _ _ (by decide)).trans <| (skip_low _ _ (by decide)).trans <| (skip_low _ _ (by decide)).trans <| take_low _ _
theorem packM_pn (op : BitVec 8) (fn : BitVec 3) (d base idx : Reg) (sz : BitVec 3) (md : BitVec 4) (disp : BitVec 24) (p : Pred) :
    (packM op fn d base idx sz md disp p).extractLsb' 31 1 = BitVec.ofBool p.pn :=
  (skip_low _ _ (by decide)).trans <| (skip_low _ _ (by decide)).trans <| (skip_low _ _ (by decide)).trans <| take_low _ _
theorem packM_fn (op : BitVec 8) (fn : BitVec 3) (d base idx : Reg) (sz : BitVec 3) (md : BitVec 4) (disp : BitVec 24) (p : Pred) :
    (packM op fn d base idx sz md disp p).extractLsb' 28 3 = fn :=
  (skip_low _ _ (by decide)).trans <| (skip_low _ _ (by decide)).trans <| take_low _ _
theorem packM_md (op : BitVec 8) (fn : BitVec 3) (d base idx : Reg) (sz : BitVec 3) (md : BitVec 4) (disp : BitVec 24) (p : Pred) :
    (packM op fn d base idx sz md disp p).extractLsb' 24 4 = md :=
  (skip_low _ _ (by decide)).trans <| take_low _ _
theorem packM_disp (op : BitVec 8) (fn : BitVec 3) (d base idx : Reg) (sz : BitVec 3) (md : BitVec 4) (disp : BitVec 24) (p : Pred) :
    (packM op fn d base idx sz md disp p).extractLsb' 0 24 = disp :=
  take_low _ _
theorem packM_pred (op : BitVec 8) (fn : BitVec 3) (d base idx : Reg) (sz : BitVec 3) (md : BitVec 4) (disp : BitVec 24) (p : Pred) : predAt (packM op fn d base idx sz md disp p) 32 31 = p := by
  simp only [predAt, packM_m, bool_bit _ 31 _ (packM_pn _ _ _ _ _ _ _ _ _)]

theorem packH_op (op fn : BitVec 8) (h : BitVec 4) (gx gy : Reg) (n : BitVec 8) (md : BitVec 4) (imm : BitVec 16) (p : Pred) :
    (packH op fn h gx gy n md imm p).extractLsb' 56 8 = op :=
  (skip_low _ _ (by decide)).trans <| (skip_low _ _ (by decide)).trans <| (skip_low _ _ (by decide)).trans <| (skip_low _ _ (by decide)).trans <| (skip_low _ _ (by decide)).trans <| (skip_low _ _ (by decide)).trans <| (skip_low _ _ (by decide)).trans <| (skip_low _ _ (by decide)).trans <| (skip_low _ _ (by decide)).trans <| BitVec.extractLsb'_eq_self
theorem packH_h (op fn : BitVec 8) (h : BitVec 4) (gx gy : Reg) (n : BitVec 8) (md : BitVec 4) (imm : BitVec 16) (p : Pred) :
    (packH op fn h gx gy n md imm p).extractLsb' 52 4 = h :=
  (skip_low _ _ (by decide)).trans <| (skip_low _ _ (by decide)).trans <| (skip_low _ _ (by decide)).trans <| (skip_low _ _ (by decide)).trans <| (skip_low _ _ (by decide)).trans <| (skip_low _ _ (by decide)).trans <| (skip_low _ _ (by decide)).trans <| (skip_low _ _ (by decide)).trans <| take_low _ _
theorem packH_gx (op fn : BitVec 8) (h : BitVec 4) (gx gy : Reg) (n : BitVec 8) (md : BitVec 4) (imm : BitVec 16) (p : Pred) :
    (packH op fn h gx gy n md imm p).extractLsb' 46 6 = gx :=
  (skip_low _ _ (by decide)).trans <| (skip_low _ _ (by decide)).trans <| (skip_low _ _ (by decide)).trans <| (skip_low _ _ (by decide)).trans <| (skip_low _ _ (by decide)).trans <| (skip_low _ _ (by decide)).trans <| (skip_low _ _ (by decide)).trans <| take_low _ _
theorem packH_gy (op fn : BitVec 8) (h : BitVec 4) (gx gy : Reg) (n : BitVec 8) (md : BitVec 4) (imm : BitVec 16) (p : Pred) :
    (packH op fn h gx gy n md imm p).extractLsb' 40 6 = gy :=
  (skip_low _ _ (by decide)).trans <| (skip_low _ _ (by decide)).trans <| (skip_low _ _ (by decide)).trans <| (skip_low _ _ (by decide)).trans <| (skip_low _ _ (by decide)).trans <| (skip_low _ _ (by decide)).trans <| take_low _ _
theorem packH_n (op fn : BitVec 8) (h : BitVec 4) (gx gy : Reg) (n : BitVec 8) (md : BitVec 4) (imm : BitVec 16) (p : Pred) :
    (packH op fn h gx gy n md imm p).extractLsb' 32 8 = n :=
  (skip_low _ _ (by decide)).trans <| (skip_low _ _ (by decide)).trans <| (skip_low _ _ (by decide)).trans <| (skip_low _ _ (by decide)).trans <| (skip_low _ _ (by decide)).trans <| take_low _ _
theorem packH_fn (op fn : BitVec 8) (h : BitVec 4) (gx gy : Reg) (n : BitVec 8) (md : BitVec 4) (imm : BitVec 16) (p : Pred) :
    (packH op fn h gx gy n md imm p).extractLsb' 24 8 = fn :=
  (skip_low _ _ (by decide)).trans <| (skip_low _ _ (by decide)).trans <| (skip_low _ _ (by decide)).trans <| (skip_low _ _ (by decide)).trans <| take_low _ _
theorem packH_m (op fn : BitVec 8) (h : BitVec 4) (gx gy : Reg) (n : BitVec 8) (md : BitVec 4) (imm : BitVec 16) (p : Pred) :
    (packH op fn h gx gy n md imm p).extractLsb' 21 3 = p.m :=
  (skip_low _ _ (by decide)).trans <| (skip_low _ _ (by decide)).trans <| (skip_low _ _ (by decide)).trans <| take_low _ _
theorem packH_pn (op fn : BitVec 8) (h : BitVec 4) (gx gy : Reg) (n : BitVec 8) (md : BitVec 4) (imm : BitVec 16) (p : Pred) :
    (packH op fn h gx gy n md imm p).extractLsb' 20 1 = BitVec.ofBool p.pn :=
  (skip_low _ _ (by decide)).trans <| (skip_low _ _ (by decide)).trans <| take_low _ _
theorem packH_md (op fn : BitVec 8) (h : BitVec 4) (gx gy : Reg) (n : BitVec 8) (md : BitVec 4) (imm : BitVec 16) (p : Pred) :
    (packH op fn h gx gy n md imm p).extractLsb' 16 4 = md :=
  (skip_low _ _ (by decide)).trans <| take_low _ _
theorem packH_imm (op fn : BitVec 8) (h : BitVec 4) (gx gy : Reg) (n : BitVec 8) (md : BitVec 4) (imm : BitVec 16) (p : Pred) :
    (packH op fn h gx gy n md imm p).extractLsb' 0 16 = imm :=
  take_low _ _
theorem packH_pred (op fn : BitVec 8) (h : BitVec 4) (gx gy : Reg) (n : BitVec 8) (md : BitVec 4) (imm : BitVec 16) (p : Pred) : predAt (packH op fn h gx gy n md imm p) 21 20 = p := by
  simp only [predAt, packH_m, bool_bit _ 20 _ (packH_pn _ _ _ _ _ _ _ _ _)]

theorem packX_op (op fn : BitVec 8) (a b c bs : Reg) (tid : BitVec 11) (flags : BitVec 13) :
    (packX op fn a b c bs tid flags).extractLsb' 56 8 = op :=
  (skip_low _ _ (by decide)).trans <| (skip_low _ _ (by decide)).trans <| (skip_low _ _ (by decide)).trans <| (skip_low _ _ (by decide)).trans <| (skip_low _ _ (by decide)).trans <| (skip_low _ _ (by decide)).trans <| (skip_low _ _ (by decide)).trans <| BitVec.extractLsb'_eq_self
theorem packX_a (op fn : BitVec 8) (a b c bs : Reg) (tid : BitVec 11) (flags : BitVec 13) :
    (packX op fn a b c bs tid flags).extractLsb' 50 6 = a :=
  (skip_low _ _ (by decide)).trans <| (skip_low _ _ (by decide)).trans <| (skip_low _ _ (by decide)).trans <| (skip_low _ _ (by decide)).trans <| (skip_low _ _ (by decide)).trans <| (skip_low _ _ (by decide)).trans <| take_low _ _
theorem packX_b (op fn : BitVec 8) (a b c bs : Reg) (tid : BitVec 11) (flags : BitVec 13) :
    (packX op fn a b c bs tid flags).extractLsb' 44 6 = b :=
  (skip_low _ _ (by decide)).trans <| (skip_low _ _ (by decide)).trans <| (skip_low _ _ (by decide)).trans <| (skip_low _ _ (by decide)).trans <| (skip_low _ _ (by decide)).trans <| take_low _ _
theorem packX_c (op fn : BitVec 8) (a b c bs : Reg) (tid : BitVec 11) (flags : BitVec 13) :
    (packX op fn a b c bs tid flags).extractLsb' 38 6 = c :=
  (skip_low _ _ (by decide)).trans <| (skip_low _ _ (by decide)).trans <| (skip_low _ _ (by decide)).trans <| (skip_low _ _ (by decide)).trans <| take_low _ _
theorem packX_bs (op fn : BitVec 8) (a b c bs : Reg) (tid : BitVec 11) (flags : BitVec 13) :
    (packX op fn a b c bs tid flags).extractLsb' 32 6 = bs :=
  (skip_low _ _ (by decide)).trans <| (skip_low _ _ (by decide)).trans <| (skip_low _ _ (by decide)).trans <| take_low _ _
theorem packX_fn (op fn : BitVec 8) (a b c bs : Reg) (tid : BitVec 11) (flags : BitVec 13) :
    (packX op fn a b c bs tid flags).extractLsb' 24 8 = fn :=
  (skip_low _ _ (by decide)).trans <| (skip_low _ _ (by decide)).trans <| take_low _ _
theorem packX_tid (op fn : BitVec 8) (a b c bs : Reg) (tid : BitVec 11) (flags : BitVec 13) :
    (packX op fn a b c bs tid flags).extractLsb' 13 11 = tid :=
  (skip_low _ _ (by decide)).trans <| take_low _ _
theorem packX_flags (op fn : BitVec 8) (a b c bs : Reg) (tid : BitVec 11) (flags : BitVec 13) :
    (packX op fn a b c bs tid flags).extractLsb' 0 13 = flags :=
  take_low _ _

theorem packF_op (op : BitVec 8) (scope : BitVec 4) (cnt kind : BitVec 2) (form : BitVec 4) (e3 e2 e1 e0 : BitVec 11) :
    (packF op scope cnt kind form e3 e2 e1 e0).extractLsb' 56 8 = op :=
  (skip_low _ _ (by decide)).trans <| (skip_low _ _ (by decide)).trans <| (skip_low _ _ (by decide)).trans <| (skip_low _ _ (by decide)).trans <| (skip_low _ _ (by decide)).trans <| (skip_low _ _ (by decide)).trans <| (skip_low _ _ (by decide)).trans <| (skip_low _ _ (by decide)).trans <| BitVec.extractLsb'_eq_self
theorem packF_scope (op : BitVec 8) (scope : BitVec 4) (cnt kind : BitVec 2) (form : BitVec 4) (e3 e2 e1 e0 : BitVec 11) :
    (packF op scope cnt kind form e3 e2 e1 e0).extractLsb' 52 4 = scope :=
  (skip_low _ _ (by decide)).trans <| (skip_low _ _ (by decide)).trans <| (skip_low _ _ (by decide)).trans <| (skip_low _ _ (by decide)).trans <| (skip_low _ _ (by decide)).trans <| (skip_low _ _ (by decide)).trans <| (skip_low _ _ (by decide)).trans <| take_low _ _
theorem packF_cnt (op : BitVec 8) (scope : BitVec 4) (cnt kind : BitVec 2) (form : BitVec 4) (e3 e2 e1 e0 : BitVec 11) :
    (packF op scope cnt kind form e3 e2 e1 e0).extractLsb' 50 2 = cnt :=
  (skip_low _ _ (by decide)).trans <| (skip_low _ _ (by decide)).trans <| (skip_low _ _ (by decide)).trans <| (skip_low _ _ (by decide)).trans <| (skip_low _ _ (by decide)).trans <| (skip_low _ _ (by decide)).trans <| take_low _ _
theorem packF_kind (op : BitVec 8) (scope : BitVec 4) (cnt kind : BitVec 2) (form : BitVec 4) (e3 e2 e1 e0 : BitVec 11) :
    (packF op scope cnt kind form e3 e2 e1 e0).extractLsb' 48 2 = kind :=
  (skip_low _ _ (by decide)).trans <| (skip_low _ _ (by decide)).trans <| (skip_low _ _ (by decide)).trans <| (skip_low _ _ (by decide)).trans <| (skip_low _ _ (by decide)).trans <| take_low _ _
theorem packF_form (op : BitVec 8) (scope : BitVec 4) (cnt kind : BitVec 2) (form : BitVec 4) (e3 e2 e1 e0 : BitVec 11) :
    (packF op scope cnt kind form e3 e2 e1 e0).extractLsb' 44 4 = form :=
  (skip_low _ _ (by decide)).trans <| (skip_low _ _ (by decide)).trans <| (skip_low _ _ (by decide)).trans <| (skip_low _ _ (by decide)).trans <| take_low _ _
theorem packF_e3 (op : BitVec 8) (scope : BitVec 4) (cnt kind : BitVec 2) (form : BitVec 4) (e3 e2 e1 e0 : BitVec 11) :
    (packF op scope cnt kind form e3 e2 e1 e0).extractLsb' 33 11 = e3 :=
  (skip_low _ _ (by decide)).trans <| (skip_low _ _ (by decide)).trans <| (skip_low _ _ (by decide)).trans <| take_low _ _
theorem packF_e2 (op : BitVec 8) (scope : BitVec 4) (cnt kind : BitVec 2) (form : BitVec 4) (e3 e2 e1 e0 : BitVec 11) :
    (packF op scope cnt kind form e3 e2 e1 e0).extractLsb' 22 11 = e2 :=
  (skip_low _ _ (by decide)).trans <| (skip_low _ _ (by decide)).trans <| take_low _ _
theorem packF_e1 (op : BitVec 8) (scope : BitVec 4) (cnt kind : BitVec 2) (form : BitVec 4) (e3 e2 e1 e0 : BitVec 11) :
    (packF op scope cnt kind form e3 e2 e1 e0).extractLsb' 11 11 = e1 :=
  (skip_low _ _ (by decide)).trans <| take_low _ _
theorem packF_e0 (op : BitVec 8) (scope : BitVec 4) (cnt kind : BitVec 2) (form : BitVec 4) (e3 e2 e1 e0 : BitVec 11) :
    (packF op scope cnt kind form e3 e2 e1 e0).extractLsb' 0 11 = e0 :=
  take_low _ _

theorem packZ_op (op fn : BitVec 8) (imm : BitVec 48) :
    (packZ op fn imm).extractLsb' 56 8 = op :=
  (skip_low _ _ (by decide)).trans <| (skip_low _ _ (by decide)).trans <| BitVec.extractLsb'_eq_self
theorem packZ_fn (op fn : BitVec 8) (imm : BitVec 48) :
    (packZ op fn imm).extractLsb' 48 8 = fn :=
  (skip_low _ _ (by decide)).trans <| take_low _ _
theorem packZ_imm (op fn : BitVec 8) (imm : BitVec 48) :
    (packZ op fn imm).extractLsb' 0 48 = imm :=
  take_low _ _

end Sys2Proof.Laws
end

