-- ==== Sys2Proof/Laws/Memory.lean ====
section
/-! SUPPORT. Sparse maps, tables and memory: reading what was written, and the canonical form. -/

namespace Sys2Proof.Laws

open Sys2Proof Sys2Proof.Machine

/-! ## The canonical form of a sparse map -/

theorem wfFrom_mono {w : Nat} {lo lo' : Nat} {m : SMap w} (h : lo' ≤ lo) (hm : SMap.wfFrom lo m = true) :
    SMap.wfFrom lo' m = true := by
  cases m with
  | nil => rfl
  | cons e m =>
    obtain ⟨k, x⟩ := e
    simp only [SMap.wfFrom, Bool.and_eq_true, decide_eq_true_eq] at hm ⊢
    exact ⟨⟨h.trans hm.1.1, hm.1.2⟩, hm.2⟩

theorem wfFrom_cons {w : Nat} {lo k : Nat} {x : BitVec w} {m : SMap w} (h : lo ≤ k) (hm : SMap.wfFrom (k + 1) m = true) :
    SMap.wfFrom lo (SMap.cons k x m) = true := by
  unfold SMap.cons
  split
  · exact wfFrom_mono (by omega) hm
  · simp only [SMap.wfFrom, Bool.and_eq_true, decide_eq_true_eq]
    exact ⟨⟨h, ‹_›⟩, hm⟩

theorem wfFrom_filter {w : Nat} (p : Nat × BitVec w → Bool) (m : SMap w) (lo : Nat) (h : SMap.wfFrom lo m = true) :
    SMap.wfFrom lo (m.filter p) = true := by
  induction m generalizing lo with
  | nil => rfl
  | cons e m ih =>
    obtain ⟨k, x⟩ := e
    simp only [SMap.wfFrom, Bool.and_eq_true, decide_eq_true_eq] at h
    rw [List.filter_cons]
    split
    · simp only [SMap.wfFrom, Bool.and_eq_true, decide_eq_true_eq]
      exact ⟨h.1, ih _ h.2⟩
    · exact wfFrom_mono (by omega) (ih _ h.2)

theorem wfFrom_set {w : Nat} (m : SMap w) (lo k : Nat) (x : BitVec w) (h : lo ≤ k) (hm : SMap.wfFrom lo m = true) :
    SMap.wfFrom lo (SMap.set m k x) = true := by
  induction m generalizing lo with
  | nil => exact wfFrom_cons h rfl
  | cons e m ih =>
    obtain ⟨k', y⟩ := e
    simp only [SMap.wfFrom, Bool.and_eq_true, decide_eq_true_eq] at hm
    unfold SMap.set
    split
    · simp only [SMap.wfFrom, Bool.and_eq_true, decide_eq_true_eq]
      exact ⟨hm.1, ih (k' + 1) (by omega) hm.2⟩
    · refine wfFrom_cons h ?_
      unfold SMap.del
      by_cases hk : k' = k
      · subst hk
        rw [List.filter_cons, if_neg (by simp)]
        exact wfFrom_filter _ _ _ hm.2
      · refine wfFrom_filter _ _ _ ?_
        simp only [SMap.wfFrom, Bool.and_eq_true, decide_eq_true_eq]
        exact ⟨⟨by omega, hm.1.2⟩, hm.2⟩

/-- Writing one key keeps the canonical form. -/
theorem wf_set {w : Nat} {m : SMap w} (k : Nat) (x : BitVec w) (h : SMap.wf m = true) : SMap.wf (SMap.set m k x) = true :=
  wfFrom_set m 0 k x (Nat.zero_le k) h

/-- Writing a run keeps the canonical form. -/
theorem wf_setRun {w : Nat} (xs : List (BitVec w)) (m : SMap w) (k : Nat) (h : SMap.wf m = true) :
    SMap.wf (SMap.setRun m k xs) = true := by
  induction xs generalizing m k with
  | nil => exact h
  | cons x xs ih => exact ih _ _ (wf_set k x h)

/-- Forgetting entries keeps the canonical form. -/
theorem wf_filter {w : Nat} (p : Nat × BitVec w → Bool) {m : SMap w} (h : SMap.wf m = true) : SMap.wf (m.filter p) = true :=
  wfFrom_filter p m 0 h

/-! ## Reading what was written -/

theorem get_cons {w : Nat} (m : SMap w) (k j : Nat) (x : BitVec w) (hm : SMap.get m k = 0) :
    SMap.get (SMap.cons k x m) j = if j = k then x else SMap.get m j := by
  unfold SMap.cons
  split
  · split
    · subst_vars; exact hm
    · rfl
  · simp only [SMap.get, eq_comm]

theorem get_del {w : Nat} (m : SMap w) (k j : Nat) : SMap.get (SMap.del m k) j = if j = k then 0 else SMap.get m j := by
  induction m with
  | nil => simp [SMap.del, SMap.get]
  | cons e m ih =>
    obtain ⟨k', y⟩ := e
    unfold SMap.del at ih ⊢
    rw [List.filter_cons]
    split
    · simp only [SMap.get, ih]
      rename_i h
      simp only [ne_eq, decide_eq_true_eq] at h
      split_ifs <;> first | rfl | omega
    · rename_i h
      simp only [ne_eq, decide_eq_true_eq, not_not] at h
      rw [ih]
      simp only [SMap.get]
      split_ifs <;> first | rfl | omega

/-- Reading after a write. -/
theorem get_set {w : Nat} (m : SMap w) (k j : Nat) (x : BitVec w) :
    SMap.get (SMap.set m k x) j = if j = k then x else SMap.get m j := by
  induction m with
  | nil => exact get_cons [] k j x rfl
  | cons e m ih =>
    obtain ⟨k', y⟩ := e
    unfold SMap.set
    split
    · simp only [SMap.get]
      rw [ih]
      split_ifs <;> first | rfl | omega
    · rw [get_cons _ _ _ _ (by rw [get_del]; simp), get_del]
      split_ifs <;> rfl

theorem get_set_same {w : Nat} {m : SMap w} (k : Nat) (x : BitVec w) : SMap.get (SMap.set m k x) k = x := by
  rw [get_set]; simp

theorem get_set_other {w : Nat} {m : SMap w} {k j : Nat} (x : BitVec w) (h : j ≠ k) :
    SMap.get (SMap.set m k x) j = SMap.get m j := by
  rw [get_set]; simp [h]

/-- A byte outside a run that is written keeps its value. -/
theorem get_setRun_other {w : Nat} (xs : List (BitVec w)) (m : SMap w) (k j : Nat) (h : j < k ∨ k + xs.length ≤ j) :
    SMap.get (SMap.setRun m k xs) j = SMap.get m j := by
  induction xs generalizing m k with
  | nil => rfl
  | cons x xs ih =>
    simp only [List.length_cons] at h
    rw [SMap.setRun, ih (SMap.set m k x) (k + 1) (by omega), get_set_other x (by omega)]

/-- A byte of a run that is written has the run's value. -/
theorem get_setRun {w : Nat} (xs : List (BitVec w)) (m : SMap w) (k i : Nat) (hi : i < xs.length) :
    SMap.get (SMap.setRun m k xs) (k + i) = xs[i] := by
  induction xs generalizing m k i with
  | nil => simp at hi
  | cons x xs ih =>
    rw [SMap.setRun]
    cases i with
    | zero =>
      rw [show k + 0 = k from rfl, get_setRun_other xs _ (k + 1) k (by omega), get_set_same k x]
      rfl
    | succ i =>
      have h := ih (SMap.set m k x) (k + 1) i (by simpa using hi)
      rw [show k + (i + 1) = k + 1 + i by omega, h]
      rfl

/-! ## Tables -/

theorem tab_get_put {α : Type} (t : Tab α) (k : Nat) (x : α) : Tab.get? (Tab.put t k x) k = some x := by
  induction t with
  | nil => simp [Tab.put, Tab.get?]
  | cons e t ih =>
    obtain ⟨k', y⟩ := e
    unfold Tab.put
    split
    · have h : k' ≠ k := by omega
      simp [Tab.get?, h, ih]
    · split <;> simp [Tab.get?]

theorem tab_get_put_other {α : Type} (t : Tab α) {k j : Nat} (x : α) (h : j ≠ k) :
    Tab.get? (Tab.put t k x) j = Tab.get? t j := by
  induction t with
  | nil => simp [Tab.put, Tab.get?, h.symm]
  | cons e t ih =>
    obtain ⟨k', y⟩ := e
    unfold Tab.put
    split
    · simp [Tab.get?, ih]
    · split
      · subst_vars; simp [Tab.get?, h.symm]
      · simp [Tab.get?, h.symm]

@[simp] theorem tab_getD_put {α : Type} (t : Tab α) (k : Nat) (x d : α) : Tab.getD (Tab.put t k x) k d = x := by
  simp [Tab.getD, tab_get_put]

theorem tab_getD_put_other {α : Type} (t : Tab α) {k j : Nat} (x d : α) (h : j ≠ k) :
    Tab.getD (Tab.put t k x) j d = Tab.getD t j d := by
  simp [Tab.getD, tab_get_put_other t x h]

theorem tab_put_put {α : Type} (t : Tab α) (k : Nat) (x y : α) : Tab.put (Tab.put t k x) k y = Tab.put t k y := by
  induction t with
  | nil => simp [Tab.put]
  | cons e t ih =>
    obtain ⟨k', z⟩ := e
    by_cases h1 : k' < k
    · simp [Tab.put, h1, ih]
    · by_cases h2 : k' = k
      · subst h2; simp [Tab.put]
      · simp [Tab.put, h1, h2]

/-! ## Memory -/

/-- A store keeps the canonical form. -/
theorem storePa_wf (d : Dev) (t pa : Nat) (bs : Bytes) (h : Memory.wf d.mem) : Memory.wf (d.storePa t pa bs).1.mem :=
  wf_setRun bs d.mem pa h

/-- A load changes no byte. -/
theorem loadPa_mem (d : Dev) (seq : Nat) (lease : Option Nat) (t pa n : Nat) : (d.loadPa seq lease t pa n).1.mem = d.mem := by
  unfold Dev.loadPa
  dsimp only
  repeat' split
  all_goals rfl

theorem loadPa_wf (d : Dev) (seq : Nat) (lease : Option Nat) (t pa n : Nat) (h : Memory.wf d.mem) :
    Memory.wf (d.loadPa seq lease t pa n).1.mem := by
  rw [loadPa_mem]; exact h

/-- What a store leaves: every byte outside it. -/
theorem storePa_other (d : Dev) (t pa j : Nat) (bs : Bytes) (h : j < pa ∨ pa + bs.length ≤ j) :
    SMap.get (d.storePa t pa bs).1.mem j = SMap.get d.mem j :=
  get_setRun_other bs d.mem pa j h

/-- Memory as reset leaves it lists nothing. -/
theorem reset_mem_wf : Memory.wf State.reset.dev.mem := rfl

end Sys2Proof.Laws
end

