-- ==== Sys2Proof/Laws/State.lean ====
section
/-! SUPPORT. What each update of the state leaves and sets, one lemma for each field of each update. -/

namespace Sys2Proof.Laws

open Sys2Proof Sys2Proof.Machine

/-! ## Dev.setCore -/

@[simp] theorem setCore_pkgId (d : Dev) (k : Nat) (x : Core) : (d.setCore k x).pkgId = d.pkgId := rfl
@[simp] theorem setCore_stopped (d : Dev) (k : Nat) (x : Core) : (d.setCore k x).stopped = d.stopped := rfl
@[simp] theorem setCore_up (d : Dev) (k : Nat) (x : Core) : (d.setCore k x).up = d.up := rfl
@[simp] theorem setCore_starts (d : Dev) (k : Nat) (x : Core) : (d.setCore k x).starts = d.starts := rfl
@[simp] theorem setCore_stepLog (d : Dev) (k : Nat) (x : Core) : (d.setCore k x).stepLog = d.stepLog := rfl
@[simp] theorem setCore_firmware (d : Dev) (k : Nat) (x : Core) : (d.setCore k x).firmware = d.firmware := rfl
@[simp] theorem setCore_staged (d : Dev) (k : Nat) (x : Core) : (d.setCore k x).staged = d.staged := rfl
@[simp] theorem setCore_absentStacks (d : Dev) (k : Nat) (x : Core) : (d.setCore k x).absentStacks = d.absentStacks := rfl
@[simp] theorem setCore_ptm (d : Dev) (k : Nat) (x : Core) : (d.setCore k x).ptm = d.ptm := rfl
@[simp] theorem setCore_ports (d : Dev) (k : Nat) (x : Core) : (d.setCore k x).ports = d.ports := rfl
@[simp] theorem setCore_cores (d : Dev) (k : Nat) (x : Core) : (d.setCore k x).cores = Tab.put d.cores k x := rfl
@[simp] theorem setCore_quads (d : Dev) (k : Nat) (x : Core) : (d.setCore k x).quads = d.quads := rfl
@[simp] theorem setCore_dies (d : Dev) (k : Nat) (x : Core) : (d.setCore k x).dies = d.dies := rfl
@[simp] theorem setCore_streams (d : Dev) (k : Nat) (x : Core) : (d.setCore k x).streams = d.streams := rfl
@[simp] theorem setCore_windows (d : Dev) (k : Nat) (x : Core) : (d.setCore k x).windows = d.windows := rfl
@[simp] theorem setCore_pqueues (d : Dev) (k : Nat) (x : Core) : (d.setCore k x).pqueues = d.pqueues := rfl
@[simp] theorem setCore_triggers (d : Dev) (k : Nat) (x : Core) : (d.setCore k x).triggers = d.triggers := rfl
@[simp] theorem setCore_chans (d : Dev) (k : Nat) (x : Core) : (d.setCore k x).chans = d.chans := rfl
@[simp] theorem setCore_beads (d : Dev) (k : Nat) (x : Core) : (d.setCore k x).beads = d.beads := rfl
@[simp] theorem setCore_barriers (d : Dev) (k : Nat) (x : Core) : (d.setCore k x).barriers = d.barriers := rfl
@[simp] theorem setCore_tokens (d : Dev) (k : Nat) (x : Core) : (d.setCore k x).tokens = d.tokens := rfl
@[simp] theorem setCore_nextToken (d : Dev) (k : Nat) (x : Core) : (d.setCore k x).nextToken = d.nextToken := rfl
@[simp] theorem setCore_teams (d : Dev) (k : Nat) (x : Core) : (d.setCore k x).teams = d.teams := rfl
@[simp] theorem setCore_nextTeam (d : Dev) (k : Nat) (x : Core) : (d.setCore k x).nextTeam = d.nextTeam := rfl
@[simp] theorem setCore_launches (d : Dev) (k : Nat) (x : Core) : (d.setCore k x).launches = d.launches := rfl
@[simp] theorem setCore_nextLaunch (d : Dev) (k : Nat) (x : Core) : (d.setCore k x).nextLaunch = d.nextLaunch := rfl
@[simp] theorem setCore_pool (d : Dev) (k : Nat) (x : Core) : (d.setCore k x).pool = d.pool := rfl
@[simp] theorem setCore_ended (d : Dev) (k : Nat) (x : Core) : (d.setCore k x).ended = d.ended := rfl
@[simp] theorem setCore_worlds (d : Dev) (k : Nat) (x : Core) : (d.setCore k x).worlds = d.worlds := rfl
@[simp] theorem setCore_queues (d : Dev) (k : Nat) (x : Core) : (d.setCore k x).queues = d.queues := rfl
@[simp] theorem setCore_frames (d : Dev) (k : Nat) (x : Core) : (d.setCore k x).frames = d.frames := rfl
@[simp] theorem setCore_scrubQueue (d : Dev) (k : Nat) (x : Core) : (d.setCore k x).scrubQueue = d.scrubQueue := rfl
@[simp] theorem setCore_keySlots (d : Dev) (k : Nat) (x : Core) : (d.setCore k x).keySlots = d.keySlots := rfl
@[simp] theorem setCore_faults (d : Dev) (k : Nat) (x : Core) : (d.setCore k x).faults = d.faults := rfl
@[simp] theorem setCore_stale (d : Dev) (k : Nat) (x : Core) : (d.setCore k x).stale = d.stale := rfl
@[simp] theorem setCore_lines (d : Dev) (k : Nat) (x : Core) : (d.setCore k x).lines = d.lines := rfl
@[simp] theorem setCore_leases (d : Dev) (k : Nat) (x : Core) : (d.setCore k x).leases = d.leases := rfl
@[simp] theorem setCore_l2 (d : Dev) (k : Nat) (x : Core) : (d.setCore k x).l2 = d.l2 := rfl
@[simp] theorem setCore_hostTime (d : Dev) (k : Nat) (x : Core) : (d.setCore k x).hostTime = d.hostTime := rfl
@[simp] theorem setCore_tunnels (d : Dev) (k : Nat) (x : Core) : (d.setCore k x).tunnels = d.tunnels := rfl
@[simp] theorem setCore_spdm (d : Dev) (k : Nat) (x : Core) : (d.setCore k x).spdm = d.spdm := rfl
@[simp] theorem setCore_hostReply (d : Dev) (k : Nat) (x : Core) : (d.setCore k x).hostReply = d.hostReply := rfl
@[simp] theorem setCore_mem (d : Dev) (k : Nat) (x : Core) : (d.setCore k x).mem = d.mem := rfl
@[simp] theorem setCore_hostMem (d : Dev) (k : Nat) (x : Core) : (d.setCore k x).hostMem = d.hostMem := rfl

/-! ## Dev.setQuad -/

@[simp] theorem setQuad_pkgId (d : Dev) (k : Nat) (x : Quad) : (d.setQuad k x).pkgId = d.pkgId := rfl
@[simp] theorem setQuad_stopped (d : Dev) (k : Nat) (x : Quad) : (d.setQuad k x).stopped = d.stopped := rfl
@[simp] theorem setQuad_up (d : Dev) (k : Nat) (x : Quad) : (d.setQuad k x).up = d.up := rfl
@[simp] theorem setQuad_starts (d : Dev) (k : Nat) (x : Quad) : (d.setQuad k x).starts = d.starts := rfl
@[simp] theorem setQuad_stepLog (d : Dev) (k : Nat) (x : Quad) : (d.setQuad k x).stepLog = d.stepLog := rfl
@[simp] theorem setQuad_firmware (d : Dev) (k : Nat) (x : Quad) : (d.setQuad k x).firmware = d.firmware := rfl
@[simp] theorem setQuad_staged (d : Dev) (k : Nat) (x : Quad) : (d.setQuad k x).staged = d.staged := rfl
@[simp] theorem setQuad_absentStacks (d : Dev) (k : Nat) (x : Quad) : (d.setQuad k x).absentStacks = d.absentStacks := rfl
@[simp] theorem setQuad_ptm (d : Dev) (k : Nat) (x : Quad) : (d.setQuad k x).ptm = d.ptm := rfl
@[simp] theorem setQuad_ports (d : Dev) (k : Nat) (x : Quad) : (d.setQuad k x).ports = d.ports := rfl
@[simp] theorem setQuad_cores (d : Dev) (k : Nat) (x : Quad) : (d.setQuad k x).cores = d.cores := rfl
@[simp] theorem setQuad_quads (d : Dev) (k : Nat) (x : Quad) : (d.setQuad k x).quads = Tab.put d.quads k x := rfl
@[simp] theorem setQuad_dies (d : Dev) (k : Nat) (x : Quad) : (d.setQuad k x).dies = d.dies := rfl
@[simp] theorem setQuad_streams (d : Dev) (k : Nat) (x : Quad) : (d.setQuad k x).streams = d.streams := rfl
@[simp] theorem setQuad_windows (d : Dev) (k : Nat) (x : Quad) : (d.setQuad k x).windows = d.windows := rfl
@[simp] theorem setQuad_pqueues (d : Dev) (k : Nat) (x : Quad) : (d.setQuad k x).pqueues = d.pqueues := rfl
@[simp] theorem setQuad_triggers (d : Dev) (k : Nat) (x : Quad) : (d.setQuad k x).triggers = d.triggers := rfl
@[simp] theorem setQuad_chans (d : Dev) (k : Nat) (x : Quad) : (d.setQuad k x).chans = d.chans := rfl
@[simp] theorem setQuad_beads (d : Dev) (k : Nat) (x : Quad) : (d.setQuad k x).beads = d.beads := rfl
@[simp] theorem setQuad_barriers (d : Dev) (k : Nat) (x : Quad) : (d.setQuad k x).barriers = d.barriers := rfl
@[simp] theorem setQuad_tokens (d : Dev) (k : Nat) (x : Quad) : (d.setQuad k x).tokens = d.tokens := rfl
@[simp] theorem setQuad_nextToken (d : Dev) (k : Nat) (x : Quad) : (d.setQuad k x).nextToken = d.nextToken := rfl
@[simp] theorem setQuad_teams (d : Dev) (k : Nat) (x : Quad) : (d.setQuad k x).teams = d.teams := rfl
@[simp] theorem setQuad_nextTeam (d : Dev) (k : Nat) (x : Quad) : (d.setQuad k x).nextTeam = d.nextTeam := rfl
@[simp] theorem setQuad_launches (d : Dev) (k : Nat) (x : Quad) : (d.setQuad k x).launches = d.launches := rfl
@[simp] theorem setQuad_nextLaunch (d : Dev) (k : Nat) (x : Quad) : (d.setQuad k x).nextLaunch = d.nextLaunch := rfl
@[simp] theorem setQuad_pool (d : Dev) (k : Nat) (x : Quad) : (d.setQuad k x).pool = d.pool := rfl
@[simp] theorem setQuad_ended (d : Dev) (k : Nat) (x : Quad) : (d.setQuad k x).ended = d.ended := rfl
@[simp] theorem setQuad_worlds (d : Dev) (k : Nat) (x : Quad) : (d.setQuad k x).worlds = d.worlds := rfl
@[simp] theorem setQuad_queues (d : Dev) (k : Nat) (x : Quad) : (d.setQuad k x).queues = d.queues := rfl
@[simp] theorem setQuad_frames (d : Dev) (k : Nat) (x : Quad) : (d.setQuad k x).frames = d.frames := rfl
@[simp] theorem setQuad_scrubQueue (d : Dev) (k : Nat) (x : Quad) : (d.setQuad k x).scrubQueue = d.scrubQueue := rfl
@[simp] theorem setQuad_keySlots (d : Dev) (k : Nat) (x : Quad) : (d.setQuad k x).keySlots = d.keySlots := rfl
@[simp] theorem setQuad_faults (d : Dev) (k : Nat) (x : Quad) : (d.setQuad k x).faults = d.faults := rfl
@[simp] theorem setQuad_stale (d : Dev) (k : Nat) (x : Quad) : (d.setQuad k x).stale = d.stale := rfl
@[simp] theorem setQuad_lines (d : Dev) (k : Nat) (x : Quad) : (d.setQuad k x).lines = d.lines := rfl
@[simp] theorem setQuad_leases (d : Dev) (k : Nat) (x : Quad) : (d.setQuad k x).leases = d.leases := rfl
@[simp] theorem setQuad_l2 (d : Dev) (k : Nat) (x : Quad) : (d.setQuad k x).l2 = d.l2 := rfl
@[simp] theorem setQuad_hostTime (d : Dev) (k : Nat) (x : Quad) : (d.setQuad k x).hostTime = d.hostTime := rfl
@[simp] theorem setQuad_tunnels (d : Dev) (k : Nat) (x : Quad) : (d.setQuad k x).tunnels = d.tunnels := rfl
@[simp] theorem setQuad_spdm (d : Dev) (k : Nat) (x : Quad) : (d.setQuad k x).spdm = d.spdm := rfl
@[simp] theorem setQuad_hostReply (d : Dev) (k : Nat) (x : Quad) : (d.setQuad k x).hostReply = d.hostReply := rfl
@[simp] theorem setQuad_mem (d : Dev) (k : Nat) (x : Quad) : (d.setQuad k x).mem = d.mem := rfl
@[simp] theorem setQuad_hostMem (d : Dev) (k : Nat) (x : Quad) : (d.setQuad k x).hostMem = d.hostMem := rfl

/-! ## Dev.setDie -/

@[simp] theorem setDie_pkgId (d : Dev) (k : Nat) (x : Die) : (d.setDie k x).pkgId = d.pkgId := rfl
@[simp] theorem setDie_stopped (d : Dev) (k : Nat) (x : Die) : (d.setDie k x).stopped = d.stopped := rfl
@[simp] theorem setDie_up (d : Dev) (k : Nat) (x : Die) : (d.setDie k x).up = d.up := rfl
@[simp] theorem setDie_starts (d : Dev) (k : Nat) (x : Die) : (d.setDie k x).starts = d.starts := rfl
@[simp] theorem setDie_stepLog (d : Dev) (k : Nat) (x : Die) : (d.setDie k x).stepLog = d.stepLog := rfl
@[simp] theorem setDie_firmware (d : Dev) (k : Nat) (x : Die) : (d.setDie k x).firmware = d.firmware := rfl
@[simp] theorem setDie_staged (d : Dev) (k : Nat) (x : Die) : (d.setDie k x).staged = d.staged := rfl
@[simp] theorem setDie_absentStacks (d : Dev) (k : Nat) (x : Die) : (d.setDie k x).absentStacks = d.absentStacks := rfl
@[simp] theorem setDie_ptm (d : Dev) (k : Nat) (x : Die) : (d.setDie k x).ptm = d.ptm := rfl
@[simp] theorem setDie_ports (d : Dev) (k : Nat) (x : Die) : (d.setDie k x).ports = d.ports := rfl
@[simp] theorem setDie_cores (d : Dev) (k : Nat) (x : Die) : (d.setDie k x).cores = d.cores := rfl
@[simp] theorem setDie_quads (d : Dev) (k : Nat) (x : Die) : (d.setDie k x).quads = d.quads := rfl
@[simp] theorem setDie_dies (d : Dev) (k : Nat) (x : Die) : (d.setDie k x).dies = Tab.put d.dies k x := rfl
@[simp] theorem setDie_streams (d : Dev) (k : Nat) (x : Die) : (d.setDie k x).streams = d.streams := rfl
@[simp] theorem setDie_windows (d : Dev) (k : Nat) (x : Die) : (d.setDie k x).windows = d.windows := rfl
@[simp] theorem setDie_pqueues (d : Dev) (k : Nat) (x : Die) : (d.setDie k x).pqueues = d.pqueues := rfl
@[simp] theorem setDie_triggers (d : Dev) (k : Nat) (x : Die) : (d.setDie k x).triggers = d.triggers := rfl
@[simp] theorem setDie_chans (d : Dev) (k : Nat) (x : Die) : (d.setDie k x).chans = d.chans := rfl
@[simp] theorem setDie_beads (d : Dev) (k : Nat) (x : Die) : (d.setDie k x).beads = d.beads := rfl
@[simp] theorem setDie_barriers (d : Dev) (k : Nat) (x : Die) : (d.setDie k x).barriers = d.barriers := rfl
@[simp] theorem setDie_tokens (d : Dev) (k : Nat) (x : Die) : (d.setDie k x).tokens = d.tokens := rfl
@[simp] theorem setDie_nextToken (d : Dev) (k : Nat) (x : Die) : (d.setDie k x).nextToken = d.nextToken := rfl
@[simp] theorem setDie_teams (d : Dev) (k : Nat) (x : Die) : (d.setDie k x).teams = d.teams := rfl
@[simp] theorem setDie_nextTeam (d : Dev) (k : Nat) (x : Die) : (d.setDie k x).nextTeam = d.nextTeam := rfl
@[simp] theorem setDie_launches (d : Dev) (k : Nat) (x : Die) : (d.setDie k x).launches = d.launches := rfl
@[simp] theorem setDie_nextLaunch (d : Dev) (k : Nat) (x : Die) : (d.setDie k x).nextLaunch = d.nextLaunch := rfl
@[simp] theorem setDie_pool (d : Dev) (k : Nat) (x : Die) : (d.setDie k x).pool = d.pool := rfl
@[simp] theorem setDie_ended (d : Dev) (k : Nat) (x : Die) : (d.setDie k x).ended = d.ended := rfl
@[simp] theorem setDie_worlds (d : Dev) (k : Nat) (x : Die) : (d.setDie k x).worlds = d.worlds := rfl
@[simp] theorem setDie_queues (d : Dev) (k : Nat) (x : Die) : (d.setDie k x).queues = d.queues := rfl
@[simp] theorem setDie_frames (d : Dev) (k : Nat) (x : Die) : (d.setDie k x).frames = d.frames := rfl
@[simp] theorem setDie_scrubQueue (d : Dev) (k : Nat) (x : Die) : (d.setDie k x).scrubQueue = d.scrubQueue := rfl
@[simp] theorem setDie_keySlots (d : Dev) (k : Nat) (x : Die) : (d.setDie k x).keySlots = d.keySlots := rfl
@[simp] theorem setDie_faults (d : Dev) (k : Nat) (x : Die) : (d.setDie k x).faults = d.faults := rfl
@[simp] theorem setDie_stale (d : Dev) (k : Nat) (x : Die) : (d.setDie k x).stale = d.stale := rfl
@[simp] theorem setDie_lines (d : Dev) (k : Nat) (x : Die) : (d.setDie k x).lines = d.lines := rfl
@[simp] theorem setDie_leases (d : Dev) (k : Nat) (x : Die) : (d.setDie k x).leases = d.leases := rfl
@[simp] theorem setDie_l2 (d : Dev) (k : Nat) (x : Die) : (d.setDie k x).l2 = d.l2 := rfl
@[simp] theorem setDie_hostTime (d : Dev) (k : Nat) (x : Die) : (d.setDie k x).hostTime = d.hostTime := rfl
@[simp] theorem setDie_tunnels (d : Dev) (k : Nat) (x : Die) : (d.setDie k x).tunnels = d.tunnels := rfl
@[simp] theorem setDie_spdm (d : Dev) (k : Nat) (x : Die) : (d.setDie k x).spdm = d.spdm := rfl
@[simp] theorem setDie_hostReply (d : Dev) (k : Nat) (x : Die) : (d.setDie k x).hostReply = d.hostReply := rfl
@[simp] theorem setDie_mem (d : Dev) (k : Nat) (x : Die) : (d.setDie k x).mem = d.mem := rfl
@[simp] theorem setDie_hostMem (d : Dev) (k : Nat) (x : Die) : (d.setDie k x).hostMem = d.hostMem := rfl

/-! ## Dev.setWorld -/

@[simp] theorem setWorld_pkgId (d : Dev) (k : Nat) (x : World) : (d.setWorld k x).pkgId = d.pkgId := rfl
@[simp] theorem setWorld_stopped (d : Dev) (k : Nat) (x : World) : (d.setWorld k x).stopped = d.stopped := rfl
@[simp] theorem setWorld_up (d : Dev) (k : Nat) (x : World) : (d.setWorld k x).up = d.up := rfl
@[simp] theorem setWorld_starts (d : Dev) (k : Nat) (x : World) : (d.setWorld k x).starts = d.starts := rfl
@[simp] theorem setWorld_stepLog (d : Dev) (k : Nat) (x : World) : (d.setWorld k x).stepLog = d.stepLog := rfl
@[simp] theorem setWorld_firmware (d : Dev) (k : Nat) (x : World) : (d.setWorld k x).firmware = d.firmware := rfl
@[simp] theorem setWorld_staged (d : Dev) (k : Nat) (x : World) : (d.setWorld k x).staged = d.staged := rfl
@[simp] theorem setWorld_absentStacks (d : Dev) (k : Nat) (x : World) : (d.setWorld k x).absentStacks = d.absentStacks := rfl
@[simp] theorem setWorld_ptm (d : Dev) (k : Nat) (x : World) : (d.setWorld k x).ptm = d.ptm := rfl
@[simp] theorem setWorld_ports (d : Dev) (k : Nat) (x : World) : (d.setWorld k x).ports = d.ports := rfl
@[simp] theorem setWorld_cores (d : Dev) (k : Nat) (x : World) : (d.setWorld k x).cores = d.cores := rfl
@[simp] theorem setWorld_quads (d : Dev) (k : Nat) (x : World) : (d.setWorld k x).quads = d.quads := rfl
@[simp] theorem setWorld_dies (d : Dev) (k : Nat) (x : World) : (d.setWorld k x).dies = d.dies := rfl
@[simp] theorem setWorld_streams (d : Dev) (k : Nat) (x : World) : (d.setWorld k x).streams = d.streams := rfl
@[simp] theorem setWorld_windows (d : Dev) (k : Nat) (x : World) : (d.setWorld k x).windows = d.windows := rfl
@[simp] theorem setWorld_pqueues (d : Dev) (k : Nat) (x : World) : (d.setWorld k x).pqueues = d.pqueues := rfl
@[simp] theorem setWorld_triggers (d : Dev) (k : Nat) (x : World) : (d.setWorld k x).triggers = d.triggers := rfl
@[simp] theorem setWorld_chans (d : Dev) (k : Nat) (x : World) : (d.setWorld k x).chans = d.chans := rfl
@[simp] theorem setWorld_beads (d : Dev) (k : Nat) (x : World) : (d.setWorld k x).beads = d.beads := rfl
@[simp] theorem setWorld_barriers (d : Dev) (k : Nat) (x : World) : (d.setWorld k x).barriers = d.barriers := rfl
@[simp] theorem setWorld_tokens (d : Dev) (k : Nat) (x : World) : (d.setWorld k x).tokens = d.tokens := rfl
@[simp] theorem setWorld_nextToken (d : Dev) (k : Nat) (x : World) : (d.setWorld k x).nextToken = d.nextToken := rfl
@[simp] theorem setWorld_teams (d : Dev) (k : Nat) (x : World) : (d.setWorld k x).teams = d.teams := rfl
@[simp] theorem setWorld_nextTeam (d : Dev) (k : Nat) (x : World) : (d.setWorld k x).nextTeam = d.nextTeam := rfl
@[simp] theorem setWorld_launches (d : Dev) (k : Nat) (x : World) : (d.setWorld k x).launches = d.launches := rfl
@[simp] theorem setWorld_nextLaunch (d : Dev) (k : Nat) (x : World) : (d.setWorld k x).nextLaunch = d.nextLaunch := rfl
@[simp] theorem setWorld_pool (d : Dev) (k : Nat) (x : World) : (d.setWorld k x).pool = d.pool := rfl
@[simp] theorem setWorld_ended (d : Dev) (k : Nat) (x : World) : (d.setWorld k x).ended = d.ended := rfl
@[simp] theorem setWorld_worlds (d : Dev) (k : Nat) (x : World) : (d.setWorld k x).worlds = Tab.put d.worlds k x := rfl
@[simp] theorem setWorld_queues (d : Dev) (k : Nat) (x : World) : (d.setWorld k x).queues = d.queues := rfl
@[simp] theorem setWorld_frames (d : Dev) (k : Nat) (x : World) : (d.setWorld k x).frames = d.frames := rfl
@[simp] theorem setWorld_scrubQueue (d : Dev) (k : Nat) (x : World) : (d.setWorld k x).scrubQueue = d.scrubQueue := rfl
@[simp] theorem setWorld_keySlots (d : Dev) (k : Nat) (x : World) : (d.setWorld k x).keySlots = d.keySlots := rfl
@[simp] theorem setWorld_faults (d : Dev) (k : Nat) (x : World) : (d.setWorld k x).faults = d.faults := rfl
@[simp] theorem setWorld_stale (d : Dev) (k : Nat) (x : World) : (d.setWorld k x).stale = d.stale := rfl
@[simp] theorem setWorld_lines (d : Dev) (k : Nat) (x : World) : (d.setWorld k x).lines = d.lines := rfl
@[simp] theorem setWorld_leases (d : Dev) (k : Nat) (x : World) : (d.setWorld k x).leases = d.leases := rfl
@[simp] theorem setWorld_l2 (d : Dev) (k : Nat) (x : World) : (d.setWorld k x).l2 = d.l2 := rfl
@[simp] theorem setWorld_hostTime (d : Dev) (k : Nat) (x : World) : (d.setWorld k x).hostTime = d.hostTime := rfl
@[simp] theorem setWorld_tunnels (d : Dev) (k : Nat) (x : World) : (d.setWorld k x).tunnels = d.tunnels := rfl
@[simp] theorem setWorld_spdm (d : Dev) (k : Nat) (x : World) : (d.setWorld k x).spdm = d.spdm := rfl
@[simp] theorem setWorld_hostReply (d : Dev) (k : Nat) (x : World) : (d.setWorld k x).hostReply = d.hostReply := rfl
@[simp] theorem setWorld_mem (d : Dev) (k : Nat) (x : World) : (d.setWorld k x).mem = d.mem := rfl
@[simp] theorem setWorld_hostMem (d : Dev) (k : Nat) (x : World) : (d.setWorld k x).hostMem = d.hostMem := rfl

/-! ## Dev.setFrame -/

@[simp] theorem setFrame_pkgId (d : Dev) (k : Nat) (x : Frame) : (d.setFrame k x).pkgId = d.pkgId := rfl
@[simp] theorem setFrame_stopped (d : Dev) (k : Nat) (x : Frame) : (d.setFrame k x).stopped = d.stopped := rfl
@[simp] theorem setFrame_up (d : Dev) (k : Nat) (x : Frame) : (d.setFrame k x).up = d.up := rfl
@[simp] theorem setFrame_starts (d : Dev) (k : Nat) (x : Frame) : (d.setFrame k x).starts = d.starts := rfl
@[simp] theorem setFrame_stepLog (d : Dev) (k : Nat) (x : Frame) : (d.setFrame k x).stepLog = d.stepLog := rfl
@[simp] theorem setFrame_firmware (d : Dev) (k : Nat) (x : Frame) : (d.setFrame k x).firmware = d.firmware := rfl
@[simp] theorem setFrame_staged (d : Dev) (k : Nat) (x : Frame) : (d.setFrame k x).staged = d.staged := rfl
@[simp] theorem setFrame_absentStacks (d : Dev) (k : Nat) (x : Frame) : (d.setFrame k x).absentStacks = d.absentStacks := rfl
@[simp] theorem setFrame_ptm (d : Dev) (k : Nat) (x : Frame) : (d.setFrame k x).ptm = d.ptm := rfl
@[simp] theorem setFrame_ports (d : Dev) (k : Nat) (x : Frame) : (d.setFrame k x).ports = d.ports := rfl
@[simp] theorem setFrame_cores (d : Dev) (k : Nat) (x : Frame) : (d.setFrame k x).cores = d.cores := rfl
@[simp] theorem setFrame_quads (d : Dev) (k : Nat) (x : Frame) : (d.setFrame k x).quads = d.quads := rfl
@[simp] theorem setFrame_dies (d : Dev) (k : Nat) (x : Frame) : (d.setFrame k x).dies = d.dies := rfl
@[simp] theorem setFrame_streams (d : Dev) (k : Nat) (x : Frame) : (d.setFrame k x).streams = d.streams := rfl
@[simp] theorem setFrame_windows (d : Dev) (k : Nat) (x : Frame) : (d.setFrame k x).windows = d.windows := rfl
@[simp] theorem setFrame_pqueues (d : Dev) (k : Nat) (x : Frame) : (d.setFrame k x).pqueues = d.pqueues := rfl
@[simp] theorem setFrame_triggers (d : Dev) (k : Nat) (x : Frame) : (d.setFrame k x).triggers = d.triggers := rfl
@[simp] theorem setFrame_chans (d : Dev) (k : Nat) (x : Frame) : (d.setFrame k x).chans = d.chans := rfl
@[simp] theorem setFrame_beads (d : Dev) (k : Nat) (x : Frame) : (d.setFrame k x).beads = d.beads := rfl
@[simp] theorem setFrame_barriers (d : Dev) (k : Nat) (x : Frame) : (d.setFrame k x).barriers = d.barriers := rfl
@[simp] theorem setFrame_tokens (d : Dev) (k : Nat) (x : Frame) : (d.setFrame k x).tokens = d.tokens := rfl
@[simp] theorem setFrame_nextToken (d : Dev) (k : Nat) (x : Frame) : (d.setFrame k x).nextToken = d.nextToken := rfl
@[simp] theorem setFrame_teams (d : Dev) (k : Nat) (x : Frame) : (d.setFrame k x).teams = d.teams := rfl
@[simp] theorem setFrame_nextTeam (d : Dev) (k : Nat) (x : Frame) : (d.setFrame k x).nextTeam = d.nextTeam := rfl
@[simp] theorem setFrame_launches (d : Dev) (k : Nat) (x : Frame) : (d.setFrame k x).launches = d.launches := rfl
@[simp] theorem setFrame_nextLaunch (d : Dev) (k : Nat) (x : Frame) : (d.setFrame k x).nextLaunch = d.nextLaunch := rfl
@[simp] theorem setFrame_pool (d : Dev) (k : Nat) (x : Frame) : (d.setFrame k x).pool = d.pool := rfl
@[simp] theorem setFrame_ended (d : Dev) (k : Nat) (x : Frame) : (d.setFrame k x).ended = d.ended := rfl
@[simp] theorem setFrame_worlds (d : Dev) (k : Nat) (x : Frame) : (d.setFrame k x).worlds = d.worlds := rfl
@[simp] theorem setFrame_queues (d : Dev) (k : Nat) (x : Frame) : (d.setFrame k x).queues = d.queues := rfl
@[simp] theorem setFrame_frames (d : Dev) (k : Nat) (x : Frame) : (d.setFrame k x).frames = Tab.put d.frames k x := rfl
@[simp] theorem setFrame_scrubQueue (d : Dev) (k : Nat) (x : Frame) : (d.setFrame k x).scrubQueue = d.scrubQueue := rfl
@[simp] theorem setFrame_keySlots (d : Dev) (k : Nat) (x : Frame) : (d.setFrame k x).keySlots = d.keySlots := rfl
@[simp] theorem setFrame_faults (d : Dev) (k : Nat) (x : Frame) : (d.setFrame k x).faults = d.faults := rfl
@[simp] theorem setFrame_stale (d : Dev) (k : Nat) (x : Frame) : (d.setFrame k x).stale = d.stale := rfl
@[simp] theorem setFrame_lines (d : Dev) (k : Nat) (x : Frame) : (d.setFrame k x).lines = d.lines := rfl
@[simp] theorem setFrame_leases (d : Dev) (k : Nat) (x : Frame) : (d.setFrame k x).leases = d.leases := rfl
@[simp] theorem setFrame_l2 (d : Dev) (k : Nat) (x : Frame) : (d.setFrame k x).l2 = d.l2 := rfl
@[simp] theorem setFrame_hostTime (d : Dev) (k : Nat) (x : Frame) : (d.setFrame k x).hostTime = d.hostTime := rfl
@[simp] theorem setFrame_tunnels (d : Dev) (k : Nat) (x : Frame) : (d.setFrame k x).tunnels = d.tunnels := rfl
@[simp] theorem setFrame_spdm (d : Dev) (k : Nat) (x : Frame) : (d.setFrame k x).spdm = d.spdm := rfl
@[simp] theorem setFrame_hostReply (d : Dev) (k : Nat) (x : Frame) : (d.setFrame k x).hostReply = d.hostReply := rfl
@[simp] theorem setFrame_mem (d : Dev) (k : Nat) (x : Frame) : (d.setFrame k x).mem = d.mem := rfl
@[simp] theorem setFrame_hostMem (d : Dev) (k : Nat) (x : Frame) : (d.setFrame k x).hostMem = d.hostMem := rfl

/-! ## Dev.setBarrier -/

@[simp] theorem setBarrier_pkgId (d : Dev) (k : Nat) (x : Barrier) : (d.setBarrier k x).pkgId = d.pkgId := rfl
@[simp] theorem setBarrier_stopped (d : Dev) (k : Nat) (x : Barrier) : (d.setBarrier k x).stopped = d.stopped := rfl
@[simp] theorem setBarrier_up (d : Dev) (k : Nat) (x : Barrier) : (d.setBarrier k x).up = d.up := rfl
@[simp] theorem setBarrier_starts (d : Dev) (k : Nat) (x : Barrier) : (d.setBarrier k x).starts = d.starts := rfl
@[simp] theorem setBarrier_stepLog (d : Dev) (k : Nat) (x : Barrier) : (d.setBarrier k x).stepLog = d.stepLog := rfl
@[simp] theorem setBarrier_firmware (d : Dev) (k : Nat) (x : Barrier) : (d.setBarrier k x).firmware = d.firmware := rfl
@[simp] theorem setBarrier_staged (d : Dev) (k : Nat) (x : Barrier) : (d.setBarrier k x).staged = d.staged := rfl
@[simp] theorem setBarrier_absentStacks (d : Dev) (k : Nat) (x : Barrier) : (d.setBarrier k x).absentStacks = d.absentStacks := rfl
@[simp] theorem setBarrier_ptm (d : Dev) (k : Nat) (x : Barrier) : (d.setBarrier k x).ptm = d.ptm := rfl
@[simp] theorem setBarrier_ports (d : Dev) (k : Nat) (x : Barrier) : (d.setBarrier k x).ports = d.ports := rfl
@[simp] theorem setBarrier_cores (d : Dev) (k : Nat) (x : Barrier) : (d.setBarrier k x).cores = d.cores := rfl
@[simp] theorem setBarrier_quads (d : Dev) (k : Nat) (x : Barrier) : (d.setBarrier k x).quads = d.quads := rfl
@[simp] theorem setBarrier_dies (d : Dev) (k : Nat) (x : Barrier) : (d.setBarrier k x).dies = d.dies := rfl
@[simp] theorem setBarrier_streams (d : Dev) (k : Nat) (x : Barrier) : (d.setBarrier k x).streams = d.streams := rfl
@[simp] theorem setBarrier_windows (d : Dev) (k : Nat) (x : Barrier) : (d.setBarrier k x).windows = d.windows := rfl
@[simp] theorem setBarrier_pqueues (d : Dev) (k : Nat) (x : Barrier) : (d.setBarrier k x).pqueues = d.pqueues := rfl
@[simp] theorem setBarrier_triggers (d : Dev) (k : Nat) (x : Barrier) : (d.setBarrier k x).triggers = d.triggers := rfl
@[simp] theorem setBarrier_chans (d : Dev) (k : Nat) (x : Barrier) : (d.setBarrier k x).chans = d.chans := rfl
@[simp] theorem setBarrier_beads (d : Dev) (k : Nat) (x : Barrier) : (d.setBarrier k x).beads = d.beads := rfl
@[simp] theorem setBarrier_barriers (d : Dev) (k : Nat) (x : Barrier) : (d.setBarrier k x).barriers = Tab.put d.barriers k x := rfl
@[simp] theorem setBarrier_tokens (d : Dev) (k : Nat) (x : Barrier) : (d.setBarrier k x).tokens = d.tokens := rfl
@[simp] theorem setBarrier_nextToken (d : Dev) (k : Nat) (x : Barrier) : (d.setBarrier k x).nextToken = d.nextToken := rfl
@[simp] theorem setBarrier_teams (d : Dev) (k : Nat) (x : Barrier) : (d.setBarrier k x).teams = d.teams := rfl
@[simp] theorem setBarrier_nextTeam (d : Dev) (k : Nat) (x : Barrier) : (d.setBarrier k x).nextTeam = d.nextTeam := rfl
@[simp] theorem setBarrier_launches (d : Dev) (k : Nat) (x : Barrier) : (d.setBarrier k x).launches = d.launches := rfl
@[simp] theorem setBarrier_nextLaunch (d : Dev) (k : Nat) (x : Barrier) : (d.setBarrier k x).nextLaunch = d.nextLaunch := rfl
@[simp] theorem setBarrier_pool (d : Dev) (k : Nat) (x : Barrier) : (d.setBarrier k x).pool = d.pool := rfl
@[simp] theorem setBarrier_ended (d : Dev) (k : Nat) (x : Barrier) : (d.setBarrier k x).ended = d.ended := rfl
@[simp] theorem setBarrier_worlds (d : Dev) (k : Nat) (x : Barrier) : (d.setBarrier k x).worlds = d.worlds := rfl
@[simp] theorem setBarrier_queues (d : Dev) (k : Nat) (x : Barrier) : (d.setBarrier k x).queues = d.queues := rfl
@[simp] theorem setBarrier_frames (d : Dev) (k : Nat) (x : Barrier) : (d.setBarrier k x).frames = d.frames := rfl
@[simp] theorem setBarrier_scrubQueue (d : Dev) (k : Nat) (x : Barrier) : (d.setBarrier k x).scrubQueue = d.scrubQueue := rfl
@[simp] theorem setBarrier_keySlots (d : Dev) (k : Nat) (x : Barrier) : (d.setBarrier k x).keySlots = d.keySlots := rfl
@[simp] theorem setBarrier_faults (d : Dev) (k : Nat) (x : Barrier) : (d.setBarrier k x).faults = d.faults := rfl
@[simp] theorem setBarrier_stale (d : Dev) (k : Nat) (x : Barrier) : (d.setBarrier k x).stale = d.stale := rfl
@[simp] theorem setBarrier_lines (d : Dev) (k : Nat) (x : Barrier) : (d.setBarrier k x).lines = d.lines := rfl
@[simp] theorem setBarrier_leases (d : Dev) (k : Nat) (x : Barrier) : (d.setBarrier k x).leases = d.leases := rfl
@[simp] theorem setBarrier_l2 (d : Dev) (k : Nat) (x : Barrier) : (d.setBarrier k x).l2 = d.l2 := rfl
@[simp] theorem setBarrier_hostTime (d : Dev) (k : Nat) (x : Barrier) : (d.setBarrier k x).hostTime = d.hostTime := rfl
@[simp] theorem setBarrier_tunnels (d : Dev) (k : Nat) (x : Barrier) : (d.setBarrier k x).tunnels = d.tunnels := rfl
@[simp] theorem setBarrier_spdm (d : Dev) (k : Nat) (x : Barrier) : (d.setBarrier k x).spdm = d.spdm := rfl
@[simp] theorem setBarrier_hostReply (d : Dev) (k : Nat) (x : Barrier) : (d.setBarrier k x).hostReply = d.hostReply := rfl
@[simp] theorem setBarrier_mem (d : Dev) (k : Nat) (x : Barrier) : (d.setBarrier k x).mem = d.mem := rfl
@[simp] theorem setBarrier_hostMem (d : Dev) (k : Nat) (x : Barrier) : (d.setBarrier k x).hostMem = d.hostMem := rfl

/-! ## Dev.setChan -/

@[simp] theorem setChan_pkgId (d : Dev) (k : Nat) (x : Chan) : (d.setChan k x).pkgId = d.pkgId := rfl
@[simp] theorem setChan_stopped (d : Dev) (k : Nat) (x : Chan) : (d.setChan k x).stopped = d.stopped := rfl
@[simp] theorem setChan_up (d : Dev) (k : Nat) (x : Chan) : (d.setChan k x).up = d.up := rfl
@[simp] theorem setChan_starts (d : Dev) (k : Nat) (x : Chan) : (d.setChan k x).starts = d.starts := rfl
@[simp] theorem setChan_stepLog (d : Dev) (k : Nat) (x : Chan) : (d.setChan k x).stepLog = d.stepLog := rfl
@[simp] theorem setChan_firmware (d : Dev) (k : Nat) (x : Chan) : (d.setChan k x).firmware = d.firmware := rfl
@[simp] theorem setChan_staged (d : Dev) (k : Nat) (x : Chan) : (d.setChan k x).staged = d.staged := rfl
@[simp] theorem setChan_absentStacks (d : Dev) (k : Nat) (x : Chan) : (d.setChan k x).absentStacks = d.absentStacks := rfl
@[simp] theorem setChan_ptm (d : Dev) (k : Nat) (x : Chan) : (d.setChan k x).ptm = d.ptm := rfl
@[simp] theorem setChan_ports (d : Dev) (k : Nat) (x : Chan) : (d.setChan k x).ports = d.ports := rfl
@[simp] theorem setChan_cores (d : Dev) (k : Nat) (x : Chan) : (d.setChan k x).cores = d.cores := rfl
@[simp] theorem setChan_quads (d : Dev) (k : Nat) (x : Chan) : (d.setChan k x).quads = d.quads := rfl
@[simp] theorem setChan_dies (d : Dev) (k : Nat) (x : Chan) : (d.setChan k x).dies = d.dies := rfl
@[simp] theorem setChan_streams (d : Dev) (k : Nat) (x : Chan) : (d.setChan k x).streams = d.streams := rfl
@[simp] theorem setChan_windows (d : Dev) (k : Nat) (x : Chan) : (d.setChan k x).windows = d.windows := rfl
@[simp] theorem setChan_pqueues (d : Dev) (k : Nat) (x : Chan) : (d.setChan k x).pqueues = d.pqueues := rfl
@[simp] theorem setChan_triggers (d : Dev) (k : Nat) (x : Chan) : (d.setChan k x).triggers = d.triggers := rfl
@[simp] theorem setChan_chans (d : Dev) (k : Nat) (x : Chan) : (d.setChan k x).chans = Tab.put d.chans k x := rfl
@[simp] theorem setChan_beads (d : Dev) (k : Nat) (x : Chan) : (d.setChan k x).beads = d.beads := rfl
@[simp] theorem setChan_barriers (d : Dev) (k : Nat) (x : Chan) : (d.setChan k x).barriers = d.barriers := rfl
@[simp] theorem setChan_tokens (d : Dev) (k : Nat) (x : Chan) : (d.setChan k x).tokens = d.tokens := rfl
@[simp] theorem setChan_nextToken (d : Dev) (k : Nat) (x : Chan) : (d.setChan k x).nextToken = d.nextToken := rfl
@[simp] theorem setChan_teams (d : Dev) (k : Nat) (x : Chan) : (d.setChan k x).teams = d.teams := rfl
@[simp] theorem setChan_nextTeam (d : Dev) (k : Nat) (x : Chan) : (d.setChan k x).nextTeam = d.nextTeam := rfl
@[simp] theorem setChan_launches (d : Dev) (k : Nat) (x : Chan) : (d.setChan k x).launches = d.launches := rfl
@[simp] theorem setChan_nextLaunch (d : Dev) (k : Nat) (x : Chan) : (d.setChan k x).nextLaunch = d.nextLaunch := rfl
@[simp] theorem setChan_pool (d : Dev) (k : Nat) (x : Chan) : (d.setChan k x).pool = d.pool := rfl
@[simp] theorem setChan_ended (d : Dev) (k : Nat) (x : Chan) : (d.setChan k x).ended = d.ended := rfl
@[simp] theorem setChan_worlds (d : Dev) (k : Nat) (x : Chan) : (d.setChan k x).worlds = d.worlds := rfl
@[simp] theorem setChan_queues (d : Dev) (k : Nat) (x : Chan) : (d.setChan k x).queues = d.queues := rfl
@[simp] theorem setChan_frames (d : Dev) (k : Nat) (x : Chan) : (d.setChan k x).frames = d.frames := rfl
@[simp] theorem setChan_scrubQueue (d : Dev) (k : Nat) (x : Chan) : (d.setChan k x).scrubQueue = d.scrubQueue := rfl
@[simp] theorem setChan_keySlots (d : Dev) (k : Nat) (x : Chan) : (d.setChan k x).keySlots = d.keySlots := rfl
@[simp] theorem setChan_faults (d : Dev) (k : Nat) (x : Chan) : (d.setChan k x).faults = d.faults := rfl
@[simp] theorem setChan_stale (d : Dev) (k : Nat) (x : Chan) : (d.setChan k x).stale = d.stale := rfl
@[simp] theorem setChan_lines (d : Dev) (k : Nat) (x : Chan) : (d.setChan k x).lines = d.lines := rfl
@[simp] theorem setChan_leases (d : Dev) (k : Nat) (x : Chan) : (d.setChan k x).leases = d.leases := rfl
@[simp] theorem setChan_l2 (d : Dev) (k : Nat) (x : Chan) : (d.setChan k x).l2 = d.l2 := rfl
@[simp] theorem setChan_hostTime (d : Dev) (k : Nat) (x : Chan) : (d.setChan k x).hostTime = d.hostTime := rfl
@[simp] theorem setChan_tunnels (d : Dev) (k : Nat) (x : Chan) : (d.setChan k x).tunnels = d.tunnels := rfl
@[simp] theorem setChan_spdm (d : Dev) (k : Nat) (x : Chan) : (d.setChan k x).spdm = d.spdm := rfl
@[simp] theorem setChan_hostReply (d : Dev) (k : Nat) (x : Chan) : (d.setChan k x).hostReply = d.hostReply := rfl
@[simp] theorem setChan_mem (d : Dev) (k : Nat) (x : Chan) : (d.setChan k x).mem = d.mem := rfl
@[simp] theorem setChan_hostMem (d : Dev) (k : Nat) (x : Chan) : (d.setChan k x).hostMem = d.hostMem := rfl

/-! ## Dev.setLaunch -/

@[simp] theorem setLaunch_pkgId (d : Dev) (k : Nat) (x : Launch) : (d.setLaunch k x).pkgId = d.pkgId := rfl
@[simp] theorem setLaunch_stopped (d : Dev) (k : Nat) (x : Launch) : (d.setLaunch k x).stopped = d.stopped := rfl
@[simp] theorem setLaunch_up (d : Dev) (k : Nat) (x : Launch) : (d.setLaunch k x).up = d.up := rfl
@[simp] theorem setLaunch_starts (d : Dev) (k : Nat) (x : Launch) : (d.setLaunch k x).starts = d.starts := rfl
@[simp] theorem setLaunch_stepLog (d : Dev) (k : Nat) (x : Launch) : (d.setLaunch k x).stepLog = d.stepLog := rfl
@[simp] theorem setLaunch_firmware (d : Dev) (k : Nat) (x : Launch) : (d.setLaunch k x).firmware = d.firmware := rfl
@[simp] theorem setLaunch_staged (d : Dev) (k : Nat) (x : Launch) : (d.setLaunch k x).staged = d.staged := rfl
@[simp] theorem setLaunch_absentStacks (d : Dev) (k : Nat) (x : Launch) : (d.setLaunch k x).absentStacks = d.absentStacks := rfl
@[simp] theorem setLaunch_ptm (d : Dev) (k : Nat) (x : Launch) : (d.setLaunch k x).ptm = d.ptm := rfl
@[simp] theorem setLaunch_ports (d : Dev) (k : Nat) (x : Launch) : (d.setLaunch k x).ports = d.ports := rfl
@[simp] theorem setLaunch_cores (d : Dev) (k : Nat) (x : Launch) : (d.setLaunch k x).cores = d.cores := rfl
@[simp] theorem setLaunch_quads (d : Dev) (k : Nat) (x : Launch) : (d.setLaunch k x).quads = d.quads := rfl
@[simp] theorem setLaunch_dies (d : Dev) (k : Nat) (x : Launch) : (d.setLaunch k x).dies = d.dies := rfl
@[simp] theorem setLaunch_streams (d : Dev) (k : Nat) (x : Launch) : (d.setLaunch k x).streams = d.streams := rfl
@[simp] theorem setLaunch_windows (d : Dev) (k : Nat) (x : Launch) : (d.setLaunch k x).windows = d.windows := rfl
@[simp] theorem setLaunch_pqueues (d : Dev) (k : Nat) (x : Launch) : (d.setLaunch k x).pqueues = d.pqueues := rfl
@[simp] theorem setLaunch_triggers (d : Dev) (k : Nat) (x : Launch) : (d.setLaunch k x).triggers = d.triggers := rfl
@[simp] theorem setLaunch_chans (d : Dev) (k : Nat) (x : Launch) : (d.setLaunch k x).chans = d.chans := rfl
@[simp] theorem setLaunch_beads (d : Dev) (k : Nat) (x : Launch) : (d.setLaunch k x).beads = d.beads := rfl
@[simp] theorem setLaunch_barriers (d : Dev) (k : Nat) (x : Launch) : (d.setLaunch k x).barriers = d.barriers := rfl
@[simp] theorem setLaunch_tokens (d : Dev) (k : Nat) (x : Launch) : (d.setLaunch k x).tokens = d.tokens := rfl
@[simp] theorem setLaunch_nextToken (d : Dev) (k : Nat) (x : Launch) : (d.setLaunch k x).nextToken = d.nextToken := rfl
@[simp] theorem setLaunch_teams (d : Dev) (k : Nat) (x : Launch) : (d.setLaunch k x).teams = d.teams := rfl
@[simp] theorem setLaunch_nextTeam (d : Dev) (k : Nat) (x : Launch) : (d.setLaunch k x).nextTeam = d.nextTeam := rfl
@[simp] theorem setLaunch_launches (d : Dev) (k : Nat) (x : Launch) : (d.setLaunch k x).launches = Tab.put d.launches k x := rfl
@[simp] theorem setLaunch_nextLaunch (d : Dev) (k : Nat) (x : Launch) : (d.setLaunch k x).nextLaunch = d.nextLaunch := rfl
@[simp] theorem setLaunch_pool (d : Dev) (k : Nat) (x : Launch) : (d.setLaunch k x).pool = d.pool := rfl
@[simp] theorem setLaunch_ended (d : Dev) (k : Nat) (x : Launch) : (d.setLaunch k x).ended = d.ended := rfl
@[simp] theorem setLaunch_worlds (d : Dev) (k : Nat) (x : Launch) : (d.setLaunch k x).worlds = d.worlds := rfl
@[simp] theorem setLaunch_queues (d : Dev) (k : Nat) (x : Launch) : (d.setLaunch k x).queues = d.queues := rfl
@[simp] theorem setLaunch_frames (d : Dev) (k : Nat) (x : Launch) : (d.setLaunch k x).frames = d.frames := rfl
@[simp] theorem setLaunch_scrubQueue (d : Dev) (k : Nat) (x : Launch) : (d.setLaunch k x).scrubQueue = d.scrubQueue := rfl
@[simp] theorem setLaunch_keySlots (d : Dev) (k : Nat) (x : Launch) : (d.setLaunch k x).keySlots = d.keySlots := rfl
@[simp] theorem setLaunch_faults (d : Dev) (k : Nat) (x : Launch) : (d.setLaunch k x).faults = d.faults := rfl
@[simp] theorem setLaunch_stale (d : Dev) (k : Nat) (x : Launch) : (d.setLaunch k x).stale = d.stale := rfl
@[simp] theorem setLaunch_lines (d : Dev) (k : Nat) (x : Launch) : (d.setLaunch k x).lines = d.lines := rfl
@[simp] theorem setLaunch_leases (d : Dev) (k : Nat) (x : Launch) : (d.setLaunch k x).leases = d.leases := rfl
@[simp] theorem setLaunch_l2 (d : Dev) (k : Nat) (x : Launch) : (d.setLaunch k x).l2 = d.l2 := rfl
@[simp] theorem setLaunch_hostTime (d : Dev) (k : Nat) (x : Launch) : (d.setLaunch k x).hostTime = d.hostTime := rfl
@[simp] theorem setLaunch_tunnels (d : Dev) (k : Nat) (x : Launch) : (d.setLaunch k x).tunnels = d.tunnels := rfl
@[simp] theorem setLaunch_spdm (d : Dev) (k : Nat) (x : Launch) : (d.setLaunch k x).spdm = d.spdm := rfl
@[simp] theorem setLaunch_hostReply (d : Dev) (k : Nat) (x : Launch) : (d.setLaunch k x).hostReply = d.hostReply := rfl
@[simp] theorem setLaunch_mem (d : Dev) (k : Nat) (x : Launch) : (d.setLaunch k x).mem = d.mem := rfl
@[simp] theorem setLaunch_hostMem (d : Dev) (k : Nat) (x : Launch) : (d.setLaunch k x).hostMem = d.hostMem := rfl

/-! ## Core.setPlane -/

@[simp] theorem setPlane_planes (c : Core) (n : Nat) (p : Plane) : (c.setPlane n p).planes = Tab.put c.planes n p := rfl
@[simp] theorem setPlane_active (c : Core) (n : Nat) (p : Plane) : (c.setPlane n p).active = c.active := rfl
@[simp] theorem setPlane_activeSince (c : Core) (n : Nat) (p : Plane) : (c.setPlane n p).activeSince = c.activeSince := rfl
@[simp] theorem setPlane_started (c : Core) (n : Nat) (p : Plane) : (c.setPlane n p).started = c.started := rfl
@[simp] theorem setPlane_startAt (c : Core) (n : Nat) (p : Plane) : (c.setPlane n p).startAt = c.startAt := rfl
@[simp] theorem setPlane_halted (c : Core) (n : Nat) (p : Plane) : (c.setPlane n p).halted = c.halted := rfl
@[simp] theorem setPlane_pc (c : Core) (n : Nat) (p : Plane) : (c.setPlane n p).pc = c.pc := rfl
@[simp] theorem setPlane_g (c : Core) (n : Nat) (p : Plane) : (c.setPlane n p).g = c.g := rfl
@[simp] theorem setPlane_resident (c : Core) (n : Nat) (p : Plane) : (c.setPlane n p).resident = c.resident := rfl
@[simp] theorem setPlane_spilled (c : Core) (n : Nat) (p : Plane) : (c.setPlane n p).spilled = c.spilled := rfl
@[simp] theorem setPlane_rets (c : Core) (n : Nat) (p : Plane) : (c.setPlane n p).rets = c.rets := rfl
@[simp] theorem setPlane_v (c : Core) (n : Nat) (p : Plane) : (c.setPlane n p).v = c.v := rfl
@[simp] theorem setPlane_m (c : Core) (n : Nat) (p : Plane) : (c.setPlane n p).m = c.m := rfl
@[simp] theorem setPlane_ports (c : Core) (n : Nat) (p : Plane) : (c.setPlane n p).ports = c.ports := rfl
@[simp] theorem setPlane_handles (c : Core) (n : Nat) (p : Plane) : (c.setPlane n p).handles = c.handles := rfl
@[simp] theorem setPlane_trapPc (c : Core) (n : Nat) (p : Plane) : (c.setPlane n p).trapPc = c.trapPc := rfl
@[simp] theorem setPlane_trapCause (c : Core) (n : Nat) (p : Plane) : (c.setPlane n p).trapCause = c.trapCause := rfl
@[simp] theorem setPlane_trapInfo (c : Core) (n : Nat) (p : Plane) : (c.setPlane n p).trapInfo = c.trapInfo := rfl
@[simp] theorem setPlane_inHandler (c : Core) (n : Nat) (p : Plane) : (c.setPlane n p).inHandler = c.inHandler := rfl
@[simp] theorem setPlane_rngWrap (c : Core) (n : Nat) (p : Plane) : (c.setPlane n p).rngWrap = c.rngWrap := rfl
@[simp] theorem setPlane_scopeClamped (c : Core) (n : Nat) (p : Plane) : (c.setPlane n p).scopeClamped = c.scopeClamped := rfl
@[simp] theorem setPlane_fpstat (c : Core) (n : Nat) (p : Plane) : (c.setPlane n p).fpstat = c.fpstat := rfl
@[simp] theorem setPlane_newFlags (c : Core) (n : Nat) (p : Plane) : (c.setPlane n p).newFlags = c.newFlags := rfl
@[simp] theorem setPlane_latch (c : Core) (n : Nat) (p : Plane) : (c.setPlane n p).latch = c.latch := rfl
@[simp] theorem setPlane_pend (c : Core) (n : Nat) (p : Plane) : (c.setPlane n p).pend = c.pend := rfl
@[simp] theorem setPlane_nextTag (c : Core) (n : Nat) (p : Plane) : (c.setPlane n p).nextTag = c.nextTag := rfl
@[simp] theorem setPlane_held (c : Core) (n : Nat) (p : Plane) : (c.setPlane n p).held = c.held := rfl
@[simp] theorem setPlane_counts (c : Core) (n : Nat) (p : Plane) : (c.setPlane n p).counts = c.counts := rfl
@[simp] theorem setPlane_ranges (c : Core) (n : Nat) (p : Plane) : (c.setPlane n p).ranges = c.ranges := rfl
@[simp] theorem setPlane_streams (c : Core) (n : Nat) (p : Plane) : (c.setPlane n p).streams = c.streams := rfl
@[simp] theorem setPlane_arrivals (c : Core) (n : Nat) (p : Plane) : (c.setPlane n p).arrivals = c.arrivals := rfl
@[simp] theorem setPlane_barx (c : Core) (n : Nat) (p : Plane) : (c.setPlane n p).barx = c.barx := rfl
@[simp] theorem setPlane_ops (c : Core) (n : Nat) (p : Plane) : (c.setPlane n p).ops = c.ops := rfl
@[simp] theorem setPlane_async (c : Core) (n : Nat) (p : Plane) : (c.setPlane n p).async = c.async := rfl
@[simp] theorem setPlane_stage (c : Core) (n : Nat) (p : Plane) : (c.setPlane n p).stage = c.stage := rfl
@[simp] theorem setPlane_wait (c : Core) (n : Nat) (p : Plane) : (c.setPlane n p).wait = c.wait := rfl
@[simp] theorem setPlane_ltime (c : Core) (n : Nat) (p : Plane) : (c.setPlane n p).ltime = c.ltime := rfl
@[simp] theorem setPlane_ended (c : Core) (n : Nat) (p : Plane) : (c.setPlane n p).ended = c.ended := rfl
@[simp] theorem setPlane_kept (c : Core) (n : Nat) (p : Plane) : (c.setPlane n p).kept = c.kept := rfl
@[simp] theorem setPlane_stime (c : Core) (n : Nat) (p : Plane) : (c.setPlane n p).stime = c.stime := rfl
@[simp] theorem setPlane_floors (c : Core) (n : Nat) (p : Plane) : (c.setPlane n p).floors = c.floors := rfl
@[simp] theorem setPlane_portTimes (c : Core) (n : Nat) (p : Plane) : (c.setPlane n p).portTimes = c.portTimes := rfl
@[simp] theorem setPlane_portAt (c : Core) (n : Nat) (p : Plane) : (c.setPlane n p).portAt = c.portAt := rfl

/-! ## Core.setTrap -/

@[simp] theorem setTrap_planes (c : Core) (cause : Nat) (info pc : Word) : (c.setTrap cause info pc).planes = c.planes := rfl
@[simp] theorem setTrap_active (c : Core) (cause : Nat) (info pc : Word) : (c.setTrap cause info pc).active = c.active := rfl
@[simp] theorem setTrap_activeSince (c : Core) (cause : Nat) (info pc : Word) : (c.setTrap cause info pc).activeSince = c.activeSince := rfl
@[simp] theorem setTrap_started (c : Core) (cause : Nat) (info pc : Word) : (c.setTrap cause info pc).started = c.started := rfl
@[simp] theorem setTrap_startAt (c : Core) (cause : Nat) (info pc : Word) : (c.setTrap cause info pc).startAt = c.startAt := rfl
@[simp] theorem setTrap_halted (c : Core) (cause : Nat) (info pc : Word) : (c.setTrap cause info pc).halted = c.halted := rfl
@[simp] theorem setTrap_pc (c : Core) (cause : Nat) (info pc : Word) : (c.setTrap cause info pc).pc = c.pc := rfl
@[simp] theorem setTrap_g (c : Core) (cause : Nat) (info pc : Word) : (c.setTrap cause info pc).g = c.g := rfl
@[simp] theorem setTrap_resident (c : Core) (cause : Nat) (info pc : Word) : (c.setTrap cause info pc).resident = c.resident := rfl
@[simp] theorem setTrap_spilled (c : Core) (cause : Nat) (info pc : Word) : (c.setTrap cause info pc).spilled = c.spilled := rfl
@[simp] theorem setTrap_rets (c : Core) (cause : Nat) (info pc : Word) : (c.setTrap cause info pc).rets = c.rets := rfl
@[simp] theorem setTrap_v (c : Core) (cause : Nat) (info pc : Word) : (c.setTrap cause info pc).v = c.v := rfl
@[simp] theorem setTrap_m (c : Core) (cause : Nat) (info pc : Word) : (c.setTrap cause info pc).m = c.m := rfl
@[simp] theorem setTrap_ports (c : Core) (cause : Nat) (info pc : Word) : (c.setTrap cause info pc).ports = c.ports := rfl
@[simp] theorem setTrap_handles (c : Core) (cause : Nat) (info pc : Word) : (c.setTrap cause info pc).handles = c.handles := rfl
@[simp] theorem setTrap_trapPc (c : Core) (cause : Nat) (info pc : Word) : (c.setTrap cause info pc).trapPc = pc := rfl
@[simp] theorem setTrap_trapCause (c : Core) (cause : Nat) (info pc : Word) : (c.setTrap cause info pc).trapCause = BitVec.ofNat 8 cause := rfl
@[simp] theorem setTrap_trapInfo (c : Core) (cause : Nat) (info pc : Word) : (c.setTrap cause info pc).trapInfo = info := rfl
@[simp] theorem setTrap_inHandler (c : Core) (cause : Nat) (info pc : Word) : (c.setTrap cause info pc).inHandler = c.inHandler := rfl
@[simp] theorem setTrap_rngWrap (c : Core) (cause : Nat) (info pc : Word) : (c.setTrap cause info pc).rngWrap = c.rngWrap := rfl
@[simp] theorem setTrap_scopeClamped (c : Core) (cause : Nat) (info pc : Word) : (c.setTrap cause info pc).scopeClamped = c.scopeClamped := rfl
@[simp] theorem setTrap_fpstat (c : Core) (cause : Nat) (info pc : Word) : (c.setTrap cause info pc).fpstat = c.fpstat := rfl
@[simp] theorem setTrap_newFlags (c : Core) (cause : Nat) (info pc : Word) : (c.setTrap cause info pc).newFlags = c.newFlags := rfl
@[simp] theorem setTrap_latch (c : Core) (cause : Nat) (info pc : Word) : (c.setTrap cause info pc).latch = c.latch := rfl
@[simp] theorem setTrap_pend (c : Core) (cause : Nat) (info pc : Word) : (c.setTrap cause info pc).pend = c.pend := rfl
@[simp] theorem setTrap_nextTag (c : Core) (cause : Nat) (info pc : Word) : (c.setTrap cause info pc).nextTag = c.nextTag := rfl
@[simp] theorem setTrap_held (c : Core) (cause : Nat) (info pc : Word) : (c.setTrap cause info pc).held = c.held := rfl
@[simp] theorem setTrap_counts (c : Core) (cause : Nat) (info pc : Word) : (c.setTrap cause info pc).counts = c.counts := rfl
@[simp] theorem setTrap_ranges (c : Core) (cause : Nat) (info pc : Word) : (c.setTrap cause info pc).ranges = c.ranges := rfl
@[simp] theorem setTrap_streams (c : Core) (cause : Nat) (info pc : Word) : (c.setTrap cause info pc).streams = c.streams := rfl
@[simp] theorem setTrap_arrivals (c : Core) (cause : Nat) (info pc : Word) : (c.setTrap cause info pc).arrivals = c.arrivals := rfl
@[simp] theorem setTrap_barx (c : Core) (cause : Nat) (info pc : Word) : (c.setTrap cause info pc).barx = c.barx := rfl
@[simp] theorem setTrap_ops (c : Core) (cause : Nat) (info pc : Word) : (c.setTrap cause info pc).ops = c.ops := rfl
@[simp] theorem setTrap_async (c : Core) (cause : Nat) (info pc : Word) : (c.setTrap cause info pc).async = c.async := rfl
@[simp] theorem setTrap_stage (c : Core) (cause : Nat) (info pc : Word) : (c.setTrap cause info pc).stage = .none := rfl
@[simp] theorem setTrap_wait (c : Core) (cause : Nat) (info pc : Word) : (c.setTrap cause info pc).wait = none := rfl
@[simp] theorem setTrap_ltime (c : Core) (cause : Nat) (info pc : Word) : (c.setTrap cause info pc).ltime = c.ltime := rfl
@[simp] theorem setTrap_ended (c : Core) (cause : Nat) (info pc : Word) : (c.setTrap cause info pc).ended = c.ended := rfl
@[simp] theorem setTrap_kept (c : Core) (cause : Nat) (info pc : Word) : (c.setTrap cause info pc).kept = c.kept := rfl
@[simp] theorem setTrap_stime (c : Core) (cause : Nat) (info pc : Word) : (c.setTrap cause info pc).stime = c.stime := rfl
@[simp] theorem setTrap_floors (c : Core) (cause : Nat) (info pc : Word) : (c.setTrap cause info pc).floors = c.floors := rfl
@[simp] theorem setTrap_portTimes (c : Core) (cause : Nat) (info pc : Word) : (c.setTrap cause info pc).portTimes = c.portTimes := rfl
@[simp] theorem setTrap_portAt (c : Core) (cause : Nat) (info pc : Word) : (c.setTrap cause info pc).portAt = c.portAt := rfl

/-! ## Core.eret -/

@[simp] theorem eret_planes (c : Core) : (c.eret).planes = c.planes := rfl
@[simp] theorem eret_active (c : Core) : (c.eret).active = c.active := rfl
@[simp] theorem eret_activeSince (c : Core) : (c.eret).activeSince = c.activeSince := rfl
@[simp] theorem eret_started (c : Core) : (c.eret).started = c.started := rfl
@[simp] theorem eret_startAt (c : Core) : (c.eret).startAt = c.startAt := rfl
@[simp] theorem eret_halted (c : Core) : (c.eret).halted = c.halted := rfl
@[simp] theorem eret_pc (c : Core) : (c.eret).pc = c.trapPc := rfl
@[simp] theorem eret_g (c : Core) : (c.eret).g = c.g := rfl
@[simp] theorem eret_resident (c : Core) : (c.eret).resident = c.resident := rfl
@[simp] theorem eret_spilled (c : Core) : (c.eret).spilled = c.spilled := rfl
@[simp] theorem eret_rets (c : Core) : (c.eret).rets = c.rets := rfl
@[simp] theorem eret_v (c : Core) : (c.eret).v = c.v := rfl
@[simp] theorem eret_m (c : Core) : (c.eret).m = c.m := rfl
@[simp] theorem eret_ports (c : Core) : (c.eret).ports = c.ports := rfl
@[simp] theorem eret_handles (c : Core) : (c.eret).handles = c.handles := rfl
@[simp] theorem eret_trapPc (c : Core) : (c.eret).trapPc = c.trapPc := rfl
@[simp] theorem eret_trapCause (c : Core) : (c.eret).trapCause = c.trapCause := rfl
@[simp] theorem eret_trapInfo (c : Core) : (c.eret).trapInfo = c.trapInfo := rfl
@[simp] theorem eret_inHandler (c : Core) : (c.eret).inHandler = false := rfl
@[simp] theorem eret_rngWrap (c : Core) : (c.eret).rngWrap = c.rngWrap := rfl
@[simp] theorem eret_scopeClamped (c : Core) : (c.eret).scopeClamped = c.scopeClamped := rfl
@[simp] theorem eret_fpstat (c : Core) : (c.eret).fpstat = c.fpstat := rfl
@[simp] theorem eret_newFlags (c : Core) : (c.eret).newFlags = c.newFlags := rfl
@[simp] theorem eret_latch (c : Core) : (c.eret).latch = c.latch := rfl
@[simp] theorem eret_pend (c : Core) : (c.eret).pend = c.pend := rfl
@[simp] theorem eret_nextTag (c : Core) : (c.eret).nextTag = c.nextTag := rfl
@[simp] theorem eret_held (c : Core) : (c.eret).held = c.held := rfl
@[simp] theorem eret_counts (c : Core) : (c.eret).counts = c.counts := rfl
@[simp] theorem eret_ranges (c : Core) : (c.eret).ranges = c.ranges := rfl
@[simp] theorem eret_streams (c : Core) : (c.eret).streams = c.streams := rfl
@[simp] theorem eret_arrivals (c : Core) : (c.eret).arrivals = c.arrivals := rfl
@[simp] theorem eret_barx (c : Core) : (c.eret).barx = c.barx := rfl
@[simp] theorem eret_ops (c : Core) : (c.eret).ops = c.ops := rfl
@[simp] theorem eret_async (c : Core) : (c.eret).async = c.async := rfl
@[simp] theorem eret_stage (c : Core) : (c.eret).stage = c.stage := rfl
@[simp] theorem eret_wait (c : Core) : (c.eret).wait = c.wait := rfl
@[simp] theorem eret_ltime (c : Core) : (c.eret).ltime = c.ltime := rfl
@[simp] theorem eret_ended (c : Core) : (c.eret).ended = c.ended := rfl
@[simp] theorem eret_kept (c : Core) : (c.eret).kept = c.kept := rfl
@[simp] theorem eret_stime (c : Core) : (c.eret).stime = c.stime := rfl
@[simp] theorem eret_floors (c : Core) : (c.eret).floors = c.floors := rfl
@[simp] theorem eret_portTimes (c : Core) : (c.eret).portTimes = c.portTimes := rfl
@[simp] theorem eret_portAt (c : Core) : (c.eret).portAt = c.portAt := rfl

/-! ## Core.writeG -/

@[simp] theorem writeG_planes (c : Core) (r : Reg) (x : Word) : (c.writeG r x).planes = c.planes := by unfold Core.writeG; split <;> rfl
@[simp] theorem writeG_active (c : Core) (r : Reg) (x : Word) : (c.writeG r x).active = c.active := by unfold Core.writeG; split <;> rfl
@[simp] theorem writeG_activeSince (c : Core) (r : Reg) (x : Word) : (c.writeG r x).activeSince = c.activeSince := by unfold Core.writeG; split <;> rfl
@[simp] theorem writeG_started (c : Core) (r : Reg) (x : Word) : (c.writeG r x).started = c.started := by unfold Core.writeG; split <;> rfl
@[simp] theorem writeG_startAt (c : Core) (r : Reg) (x : Word) : (c.writeG r x).startAt = c.startAt := by unfold Core.writeG; split <;> rfl
@[simp] theorem writeG_halted (c : Core) (r : Reg) (x : Word) : (c.writeG r x).halted = c.halted := by unfold Core.writeG; split <;> rfl
@[simp] theorem writeG_pc (c : Core) (r : Reg) (x : Word) : (c.writeG r x).pc = c.pc := by unfold Core.writeG; split <;> rfl
@[simp] theorem writeG_resident (c : Core) (r : Reg) (x : Word) : (c.writeG r x).resident = c.resident := by unfold Core.writeG; split <;> rfl
@[simp] theorem writeG_spilled (c : Core) (r : Reg) (x : Word) : (c.writeG r x).spilled = c.spilled := by unfold Core.writeG; split <;> rfl
@[simp] theorem writeG_rets (c : Core) (r : Reg) (x : Word) : (c.writeG r x).rets = c.rets := by unfold Core.writeG; split <;> rfl
@[simp] theorem writeG_v (c : Core) (r : Reg) (x : Word) : (c.writeG r x).v = c.v := by unfold Core.writeG; split <;> rfl
@[simp] theorem writeG_m (c : Core) (r : Reg) (x : Word) : (c.writeG r x).m = c.m := by unfold Core.writeG; split <;> rfl
@[simp] theorem writeG_ports (c : Core) (r : Reg) (x : Word) : (c.writeG r x).ports = c.ports := by unfold Core.writeG; split <;> rfl
@[simp] theorem writeG_handles (c : Core) (r : Reg) (x : Word) : (c.writeG r x).handles = c.handles := by unfold Core.writeG; split <;> rfl
@[simp] theorem writeG_trapPc (c : Core) (r : Reg) (x : Word) : (c.writeG r x).trapPc = c.trapPc := by unfold Core.writeG; split <;> rfl
@[simp] theorem writeG_trapCause (c : Core) (r : Reg) (x : Word) : (c.writeG r x).trapCause = c.trapCause := by unfold Core.writeG; split <;> rfl
@[simp] theorem writeG_trapInfo (c : Core) (r : Reg) (x : Word) : (c.writeG r x).trapInfo = c.trapInfo := by unfold Core.writeG; split <;> rfl
@[simp] theorem writeG_inHandler (c : Core) (r : Reg) (x : Word) : (c.writeG r x).inHandler = c.inHandler := by unfold Core.writeG; split <;> rfl
@[simp] theorem writeG_rngWrap (c : Core) (r : Reg) (x : Word) : (c.writeG r x).rngWrap = c.rngWrap := by unfold Core.writeG; split <;> rfl
@[simp] theorem writeG_scopeClamped (c : Core) (r : Reg) (x : Word) : (c.writeG r x).scopeClamped = c.scopeClamped := by unfold Core.writeG; split <;> rfl
@[simp] theorem writeG_fpstat (c : Core) (r : Reg) (x : Word) : (c.writeG r x).fpstat = c.fpstat := by unfold Core.writeG; split <;> rfl
@[simp] theorem writeG_newFlags (c : Core) (r : Reg) (x : Word) : (c.writeG r x).newFlags = c.newFlags := by unfold Core.writeG; split <;> rfl
@[simp] theorem writeG_latch (c : Core) (r : Reg) (x : Word) : (c.writeG r x).latch = c.latch := by unfold Core.writeG; split <;> rfl
@[simp] theorem writeG_nextTag (c : Core) (r : Reg) (x : Word) : (c.writeG r x).nextTag = c.nextTag := by unfold Core.writeG; split <;> rfl
@[simp] theorem writeG_held (c : Core) (r : Reg) (x : Word) : (c.writeG r x).held = c.held := by unfold Core.writeG; split <;> rfl
@[simp] theorem writeG_counts (c : Core) (r : Reg) (x : Word) : (c.writeG r x).counts = c.counts := by unfold Core.writeG; split <;> rfl
@[simp] theorem writeG_ranges (c : Core) (r : Reg) (x : Word) : (c.writeG r x).ranges = c.ranges := by unfold Core.writeG; split <;> rfl
@[simp] theorem writeG_streams (c : Core) (r : Reg) (x : Word) : (c.writeG r x).streams = c.streams := by unfold Core.writeG; split <;> rfl
@[simp] theorem writeG_arrivals (c : Core) (r : Reg) (x : Word) : (c.writeG r x).arrivals = c.arrivals := by unfold Core.writeG; split <;> rfl
@[simp] theorem writeG_barx (c : Core) (r : Reg) (x : Word) : (c.writeG r x).barx = c.barx := by unfold Core.writeG; split <;> rfl
@[simp] theorem writeG_ops (c : Core) (r : Reg) (x : Word) : (c.writeG r x).ops = c.ops := by unfold Core.writeG; split <;> rfl
@[simp] theorem writeG_async (c : Core) (r : Reg) (x : Word) : (c.writeG r x).async = c.async := by unfold Core.writeG; split <;> rfl
@[simp] theorem writeG_stage (c : Core) (r : Reg) (x : Word) : (c.writeG r x).stage = c.stage := by unfold Core.writeG; split <;> rfl
@[simp] theorem writeG_wait (c : Core) (r : Reg) (x : Word) : (c.writeG r x).wait = c.wait := by unfold Core.writeG; split <;> rfl
@[simp] theorem writeG_ltime (c : Core) (r : Reg) (x : Word) : (c.writeG r x).ltime = c.ltime := by unfold Core.writeG; split <;> rfl
@[simp] theorem writeG_ended (c : Core) (r : Reg) (x : Word) : (c.writeG r x).ended = c.ended := by unfold Core.writeG; split <;> rfl
@[simp] theorem writeG_kept (c : Core) (r : Reg) (x : Word) : (c.writeG r x).kept = c.kept := by unfold Core.writeG; split <;> rfl
@[simp] theorem writeG_stime (c : Core) (r : Reg) (x : Word) : (c.writeG r x).stime = c.stime := by unfold Core.writeG; split <;> rfl
@[simp] theorem writeG_floors (c : Core) (r : Reg) (x : Word) : (c.writeG r x).floors = c.floors := by unfold Core.writeG; split <;> rfl
@[simp] theorem writeG_portTimes (c : Core) (r : Reg) (x : Word) : (c.writeG r x).portTimes = c.portTimes := by unfold Core.writeG; split <;> rfl
@[simp] theorem writeG_portAt (c : Core) (r : Reg) (x : Word) : (c.writeG r x).portAt = c.portAt := by unfold Core.writeG; split <;> rfl

/-! ## Core.writeM -/

@[simp] theorem writeM_planes (c : Core) (r : Nat) (m x : Lane) : (c.writeM r m x).planes = c.planes := by unfold Core.writeM; split <;> rfl
@[simp] theorem writeM_active (c : Core) (r : Nat) (m x : Lane) : (c.writeM r m x).active = c.active := by unfold Core.writeM; split <;> rfl
@[simp] theorem writeM_activeSince (c : Core) (r : Nat) (m x : Lane) : (c.writeM r m x).activeSince = c.activeSince := by unfold Core.writeM; split <;> rfl
@[simp] theorem writeM_started (c : Core) (r : Nat) (m x : Lane) : (c.writeM r m x).started = c.started := by unfold Core.writeM; split <;> rfl
@[simp] theorem writeM_startAt (c : Core) (r : Nat) (m x : Lane) : (c.writeM r m x).startAt = c.startAt := by unfold Core.writeM; split <;> rfl
@[simp] theorem writeM_halted (c : Core) (r : Nat) (m x : Lane) : (c.writeM r m x).halted = c.halted := by unfold Core.writeM; split <;> rfl
@[simp] theorem writeM_pc (c : Core) (r : Nat) (m x : Lane) : (c.writeM r m x).pc = c.pc := by unfold Core.writeM; split <;> rfl
@[simp] theorem writeM_g (c : Core) (r : Nat) (m x : Lane) : (c.writeM r m x).g = c.g := by unfold Core.writeM; split <;> rfl
@[simp] theorem writeM_resident (c : Core) (r : Nat) (m x : Lane) : (c.writeM r m x).resident = c.resident := by unfold Core.writeM; split <;> rfl
@[simp] theorem writeM_spilled (c : Core) (r : Nat) (m x : Lane) : (c.writeM r m x).spilled = c.spilled := by unfold Core.writeM; split <;> rfl
@[simp] theorem writeM_rets (c : Core) (r : Nat) (m x : Lane) : (c.writeM r m x).rets = c.rets := by unfold Core.writeM; split <;> rfl
@[simp] theorem writeM_v (c : Core) (r : Nat) (m x : Lane) : (c.writeM r m x).v = c.v := by unfold Core.writeM; split <;> rfl
@[simp] theorem writeM_ports (c : Core) (r : Nat) (m x : Lane) : (c.writeM r m x).ports = c.ports := by unfold Core.writeM; split <;> rfl
@[simp] theorem writeM_handles (c : Core) (r : Nat) (m x : Lane) : (c.writeM r m x).handles = c.handles := by unfold Core.writeM; split <;> rfl
@[simp] theorem writeM_trapPc (c : Core) (r : Nat) (m x : Lane) : (c.writeM r m x).trapPc = c.trapPc := by unfold Core.writeM; split <;> rfl
@[simp] theorem writeM_trapCause (c : Core) (r : Nat) (m x : Lane) : (c.writeM r m x).trapCause = c.trapCause := by unfold Core.writeM; split <;> rfl
@[simp] theorem writeM_trapInfo (c : Core) (r : Nat) (m x : Lane) : (c.writeM r m x).trapInfo = c.trapInfo := by unfold Core.writeM; split <;> rfl
@[simp] theorem writeM_inHandler (c : Core) (r : Nat) (m x : Lane) : (c.writeM r m x).inHandler = c.inHandler := by unfold Core.writeM; split <;> rfl
@[simp] theorem writeM_rngWrap (c : Core) (r : Nat) (m x : Lane) : (c.writeM r m x).rngWrap = c.rngWrap := by unfold Core.writeM; split <;> rfl
@[simp] theorem writeM_scopeClamped (c : Core) (r : Nat) (m x : Lane) : (c.writeM r m x).scopeClamped = c.scopeClamped := by unfold Core.writeM; split <;> rfl
@[simp] theorem writeM_fpstat (c : Core) (r : Nat) (m x : Lane) : (c.writeM r m x).fpstat = c.fpstat := by unfold Core.writeM; split <;> rfl
@[simp] theorem writeM_newFlags (c : Core) (r : Nat) (m x : Lane) : (c.writeM r m x).newFlags = c.newFlags := by unfold Core.writeM; split <;> rfl
@[simp] theorem writeM_latch (c : Core) (r : Nat) (m x : Lane) : (c.writeM r m x).latch = c.latch := by unfold Core.writeM; split <;> rfl
@[simp] theorem writeM_pend (c : Core) (r : Nat) (m x : Lane) : (c.writeM r m x).pend = c.pend := by unfold Core.writeM; split <;> rfl
@[simp] theorem writeM_nextTag (c : Core) (r : Nat) (m x : Lane) : (c.writeM r m x).nextTag = c.nextTag := by unfold Core.writeM; split <;> rfl
@[simp] theorem writeM_held (c : Core) (r : Nat) (m x : Lane) : (c.writeM r m x).held = c.held := by unfold Core.writeM; split <;> rfl
@[simp] theorem writeM_counts (c : Core) (r : Nat) (m x : Lane) : (c.writeM r m x).counts = c.counts := by unfold Core.writeM; split <;> rfl
@[simp] theorem writeM_ranges (c : Core) (r : Nat) (m x : Lane) : (c.writeM r m x).ranges = c.ranges := by unfold Core.writeM; split <;> rfl
@[simp] theorem writeM_streams (c : Core) (r : Nat) (m x : Lane) : (c.writeM r m x).streams = c.streams := by unfold Core.writeM; split <;> rfl
@[simp] theorem writeM_arrivals (c : Core) (r : Nat) (m x : Lane) : (c.writeM r m x).arrivals = c.arrivals := by unfold Core.writeM; split <;> rfl
@[simp] theorem writeM_barx (c : Core) (r : Nat) (m x : Lane) : (c.writeM r m x).barx = c.barx := by unfold Core.writeM; split <;> rfl
@[simp] theorem writeM_ops (c : Core) (r : Nat) (m x : Lane) : (c.writeM r m x).ops = c.ops := by unfold Core.writeM; split <;> rfl
@[simp] theorem writeM_async (c : Core) (r : Nat) (m x : Lane) : (c.writeM r m x).async = c.async := by unfold Core.writeM; split <;> rfl
@[simp] theorem writeM_stage (c : Core) (r : Nat) (m x : Lane) : (c.writeM r m x).stage = c.stage := by unfold Core.writeM; split <;> rfl
@[simp] theorem writeM_wait (c : Core) (r : Nat) (m x : Lane) : (c.writeM r m x).wait = c.wait := by unfold Core.writeM; split <;> rfl
@[simp] theorem writeM_ltime (c : Core) (r : Nat) (m x : Lane) : (c.writeM r m x).ltime = c.ltime := by unfold Core.writeM; split <;> rfl
@[simp] theorem writeM_ended (c : Core) (r : Nat) (m x : Lane) : (c.writeM r m x).ended = c.ended := by unfold Core.writeM; split <;> rfl
@[simp] theorem writeM_kept (c : Core) (r : Nat) (m x : Lane) : (c.writeM r m x).kept = c.kept := by unfold Core.writeM; split <;> rfl
@[simp] theorem writeM_stime (c : Core) (r : Nat) (m x : Lane) : (c.writeM r m x).stime = c.stime := by unfold Core.writeM; split <;> rfl
@[simp] theorem writeM_floors (c : Core) (r : Nat) (m x : Lane) : (c.writeM r m x).floors = c.floors := by unfold Core.writeM; split <;> rfl
@[simp] theorem writeM_portTimes (c : Core) (r : Nat) (m x : Lane) : (c.writeM r m x).portTimes = c.portTimes := by unfold Core.writeM; split <;> rfl
@[simp] theorem writeM_portAt (c : Core) (r : Nat) (m x : Lane) : (c.writeM r m x).portAt = c.portAt := by unfold Core.writeM; split <;> rfl

/-! ## Core.writeLanes -/

@[simp] theorem writeLanes_planes (c : Core) (r : Reg) (xs : List (Nat × Lane)) : (c.writeLanes r xs).planes = c.planes := by unfold Core.writeLanes; split <;> rfl
@[simp] theorem writeLanes_active (c : Core) (r : Reg) (xs : List (Nat × Lane)) : (c.writeLanes r xs).active = c.active := by unfold Core.writeLanes; split <;> rfl
@[simp] theorem writeLanes_activeSince (c : Core) (r : Reg) (xs : List (Nat × Lane)) : (c.writeLanes r xs).activeSince = c.activeSince := by unfold Core.writeLanes; split <;> rfl
@[simp] theorem writeLanes_started (c : Core) (r : Reg) (xs : List (Nat × Lane)) : (c.writeLanes r xs).started = c.started := by unfold Core.writeLanes; split <;> rfl
@[simp] theorem writeLanes_startAt (c : Core) (r : Reg) (xs : List (Nat × Lane)) : (c.writeLanes r xs).startAt = c.startAt := by unfold Core.writeLanes; split <;> rfl
@[simp] theorem writeLanes_halted (c : Core) (r : Reg) (xs : List (Nat × Lane)) : (c.writeLanes r xs).halted = c.halted := by unfold Core.writeLanes; split <;> rfl
@[simp] theorem writeLanes_pc (c : Core) (r : Reg) (xs : List (Nat × Lane)) : (c.writeLanes r xs).pc = c.pc := by unfold Core.writeLanes; split <;> rfl
@[simp] theorem writeLanes_g (c : Core) (r : Reg) (xs : List (Nat × Lane)) : (c.writeLanes r xs).g = c.g := by unfold Core.writeLanes; split <;> rfl
@[simp] theorem writeLanes_resident (c : Core) (r : Reg) (xs : List (Nat × Lane)) : (c.writeLanes r xs).resident = c.resident := by unfold Core.writeLanes; split <;> rfl
@[simp] theorem writeLanes_spilled (c : Core) (r : Reg) (xs : List (Nat × Lane)) : (c.writeLanes r xs).spilled = c.spilled := by unfold Core.writeLanes; split <;> rfl
@[simp] theorem writeLanes_rets (c : Core) (r : Reg) (xs : List (Nat × Lane)) : (c.writeLanes r xs).rets = c.rets := by unfold Core.writeLanes; split <;> rfl
@[simp] theorem writeLanes_m (c : Core) (r : Reg) (xs : List (Nat × Lane)) : (c.writeLanes r xs).m = c.m := by unfold Core.writeLanes; split <;> rfl
@[simp] theorem writeLanes_ports (c : Core) (r : Reg) (xs : List (Nat × Lane)) : (c.writeLanes r xs).ports = c.ports := by unfold Core.writeLanes; split <;> rfl
@[simp] theorem writeLanes_handles (c : Core) (r : Reg) (xs : List (Nat × Lane)) : (c.writeLanes r xs).handles = c.handles := by unfold Core.writeLanes; split <;> rfl
@[simp] theorem writeLanes_trapPc (c : Core) (r : Reg) (xs : List (Nat × Lane)) : (c.writeLanes r xs).trapPc = c.trapPc := by unfold Core.writeLanes; split <;> rfl
@[simp] theorem writeLanes_trapCause (c : Core) (r : Reg) (xs : List (Nat × Lane)) : (c.writeLanes r xs).trapCause = c.trapCause := by unfold Core.writeLanes; split <;> rfl
@[simp] theorem writeLanes_trapInfo (c : Core) (r : Reg) (xs : List (Nat × Lane)) : (c.writeLanes r xs).trapInfo = c.trapInfo := by unfold Core.writeLanes; split <;> rfl
@[simp] theorem writeLanes_inHandler (c : Core) (r : Reg) (xs : List (Nat × Lane)) : (c.writeLanes r xs).inHandler = c.inHandler := by unfold Core.writeLanes; split <;> rfl
@[simp] theorem writeLanes_rngWrap (c : Core) (r : Reg) (xs : List (Nat × Lane)) : (c.writeLanes r xs).rngWrap = c.rngWrap := by unfold Core.writeLanes; split <;> rfl
@[simp] theorem writeLanes_scopeClamped (c : Core) (r : Reg) (xs : List (Nat × Lane)) : (c.writeLanes r xs).scopeClamped = c.scopeClamped := by unfold Core.writeLanes; split <;> rfl
@[simp] theorem writeLanes_fpstat (c : Core) (r : Reg) (xs : List (Nat × Lane)) : (c.writeLanes r xs).fpstat = c.fpstat := by unfold Core.writeLanes; split <;> rfl
@[simp] theorem writeLanes_newFlags (c : Core) (r : Reg) (xs : List (Nat × Lane)) : (c.writeLanes r xs).newFlags = c.newFlags := by unfold Core.writeLanes; split <;> rfl
@[simp] theorem writeLanes_latch (c : Core) (r : Reg) (xs : List (Nat × Lane)) : (c.writeLanes r xs).latch = c.latch := by unfold Core.writeLanes; split <;> rfl
@[simp] theorem writeLanes_nextTag (c : Core) (r : Reg) (xs : List (Nat × Lane)) : (c.writeLanes r xs).nextTag = c.nextTag := by unfold Core.writeLanes; split <;> rfl
@[simp] theorem writeLanes_held (c : Core) (r : Reg) (xs : List (Nat × Lane)) : (c.writeLanes r xs).held = c.held := by unfold Core.writeLanes; split <;> rfl
@[simp] theorem writeLanes_counts (c : Core) (r : Reg) (xs : List (Nat × Lane)) : (c.writeLanes r xs).counts = c.counts := by unfold Core.writeLanes; split <;> rfl
@[simp] theorem writeLanes_ranges (c : Core) (r : Reg) (xs : List (Nat × Lane)) : (c.writeLanes r xs).ranges = c.ranges := by unfold Core.writeLanes; split <;> rfl
@[simp] theorem writeLanes_streams (c : Core) (r : Reg) (xs : List (Nat × Lane)) : (c.writeLanes r xs).streams = c.streams := by unfold Core.writeLanes; split <;> rfl
@[simp] theorem writeLanes_arrivals (c : Core) (r : Reg) (xs : List (Nat × Lane)) : (c.writeLanes r xs).arrivals = c.arrivals := by unfold Core.writeLanes; split <;> rfl
@[simp] theorem writeLanes_barx (c : Core) (r : Reg) (xs : List (Nat × Lane)) : (c.writeLanes r xs).barx = c.barx := by unfold Core.writeLanes; split <;> rfl
@[simp] theorem writeLanes_ops (c : Core) (r : Reg) (xs : List (Nat × Lane)) : (c.writeLanes r xs).ops = c.ops := by unfold Core.writeLanes; split <;> rfl
@[simp] theorem writeLanes_async (c : Core) (r : Reg) (xs : List (Nat × Lane)) : (c.writeLanes r xs).async = c.async := by unfold Core.writeLanes; split <;> rfl
@[simp] theorem writeLanes_stage (c : Core) (r : Reg) (xs : List (Nat × Lane)) : (c.writeLanes r xs).stage = c.stage := by unfold Core.writeLanes; split <;> rfl
@[simp] theorem writeLanes_wait (c : Core) (r : Reg) (xs : List (Nat × Lane)) : (c.writeLanes r xs).wait = c.wait := by unfold Core.writeLanes; split <;> rfl
@[simp] theorem writeLanes_ltime (c : Core) (r : Reg) (xs : List (Nat × Lane)) : (c.writeLanes r xs).ltime = c.ltime := by unfold Core.writeLanes; split <;> rfl
@[simp] theorem writeLanes_ended (c : Core) (r : Reg) (xs : List (Nat × Lane)) : (c.writeLanes r xs).ended = c.ended := by unfold Core.writeLanes; split <;> rfl
@[simp] theorem writeLanes_kept (c : Core) (r : Reg) (xs : List (Nat × Lane)) : (c.writeLanes r xs).kept = c.kept := by unfold Core.writeLanes; split <;> rfl
@[simp] theorem writeLanes_stime (c : Core) (r : Reg) (xs : List (Nat × Lane)) : (c.writeLanes r xs).stime = c.stime := by unfold Core.writeLanes; split <;> rfl
@[simp] theorem writeLanes_floors (c : Core) (r : Reg) (xs : List (Nat × Lane)) : (c.writeLanes r xs).floors = c.floors := by unfold Core.writeLanes; split <;> rfl
@[simp] theorem writeLanes_portTimes (c : Core) (r : Reg) (xs : List (Nat × Lane)) : (c.writeLanes r xs).portTimes = c.portTimes := by unfold Core.writeLanes; split <;> rfl
@[simp] theorem writeLanes_portAt (c : Core) (r : Reg) (xs : List (Nat × Lane)) : (c.writeLanes r xs).portAt = c.portAt := by unfold Core.writeLanes; split <;> rfl

/-! ## Core.launch -/

@[simp] theorem launch_planes (c : Core) (dst : Dst) (vals : List (Nat × Word)) (flags : BitVec 5) (timer : Option Nat) :
    (c.launch dst vals flags timer).planes = c.planes := rfl
@[simp] theorem launch_active (c : Core) (dst : Dst) (vals : List (Nat × Word)) (flags : BitVec 5) (timer : Option Nat) :
    (c.launch dst vals flags timer).active = c.active := rfl
@[simp] theorem launch_activeSince (c : Core) (dst : Dst) (vals : List (Nat × Word)) (flags : BitVec 5) (timer : Option Nat) :
    (c.launch dst vals flags timer).activeSince = c.activeSince := rfl
@[simp] theorem launch_started (c : Core) (dst : Dst) (vals : List (Nat × Word)) (flags : BitVec 5) (timer : Option Nat) :
    (c.launch dst vals flags timer).started = c.started := rfl
@[simp] theorem launch_startAt (c : Core) (dst : Dst) (vals : List (Nat × Word)) (flags : BitVec 5) (timer : Option Nat) :
    (c.launch dst vals flags timer).startAt = c.startAt := rfl
@[simp] theorem launch_halted (c : Core) (dst : Dst) (vals : List (Nat × Word)) (flags : BitVec 5) (timer : Option Nat) :
    (c.launch dst vals flags timer).halted = c.halted := rfl
@[simp] theorem launch_pc (c : Core) (dst : Dst) (vals : List (Nat × Word)) (flags : BitVec 5) (timer : Option Nat) :
    (c.launch dst vals flags timer).pc = c.pc := rfl
@[simp] theorem launch_g (c : Core) (dst : Dst) (vals : List (Nat × Word)) (flags : BitVec 5) (timer : Option Nat) :
    (c.launch dst vals flags timer).g = c.g := rfl
@[simp] theorem launch_resident (c : Core) (dst : Dst) (vals : List (Nat × Word)) (flags : BitVec 5) (timer : Option Nat) :
    (c.launch dst vals flags timer).resident = c.resident := rfl
@[simp] theorem launch_spilled (c : Core) (dst : Dst) (vals : List (Nat × Word)) (flags : BitVec 5) (timer : Option Nat) :
    (c.launch dst vals flags timer).spilled = c.spilled := rfl
@[simp] theorem launch_rets (c : Core) (dst : Dst) (vals : List (Nat × Word)) (flags : BitVec 5) (timer : Option Nat) :
    (c.launch dst vals flags timer).rets = c.rets := rfl
@[simp] theorem launch_v (c : Core) (dst : Dst) (vals : List (Nat × Word)) (flags : BitVec 5) (timer : Option Nat) :
    (c.launch dst vals flags timer).v = c.v := rfl
@[simp] theorem launch_m (c : Core) (dst : Dst) (vals : List (Nat × Word)) (flags : BitVec 5) (timer : Option Nat) :
    (c.launch dst vals flags timer).m = c.m := rfl
@[simp] theorem launch_ports (c : Core) (dst : Dst) (vals : List (Nat × Word)) (flags : BitVec 5) (timer : Option Nat) :
    (c.launch dst vals flags timer).ports = c.ports := rfl
@[simp] theorem launch_handles (c : Core) (dst : Dst) (vals : List (Nat × Word)) (flags : BitVec 5) (timer : Option Nat) :
    (c.launch dst vals flags timer).handles = c.handles := rfl
@[simp] theorem launch_trapPc (c : Core) (dst : Dst) (vals : List (Nat × Word)) (flags : BitVec 5) (timer : Option Nat) :
    (c.launch dst vals flags timer).trapPc = c.trapPc := rfl
@[simp] theorem launch_trapCause (c : Core) (dst : Dst) (vals : List (Nat × Word)) (flags : BitVec 5) (timer : Option Nat) :
    (c.launch dst vals flags timer).trapCause = c.trapCause := rfl
@[simp] theorem launch_trapInfo (c : Core) (dst : Dst) (vals : List (Nat × Word)) (flags : BitVec 5) (timer : Option Nat) :
    (c.launch dst vals flags timer).trapInfo = c.trapInfo := rfl
@[simp] theorem launch_inHandler (c : Core) (dst : Dst) (vals : List (Nat × Word)) (flags : BitVec 5) (timer : Option Nat) :
    (c.launch dst vals flags timer).inHandler = c.inHandler := rfl
@[simp] theorem launch_rngWrap (c : Core) (dst : Dst) (vals : List (Nat × Word)) (flags : BitVec 5) (timer : Option Nat) :
    (c.launch dst vals flags timer).rngWrap = c.rngWrap := rfl
@[simp] theorem launch_scopeClamped (c : Core) (dst : Dst) (vals : List (Nat × Word)) (flags : BitVec 5) (timer : Option Nat) :
    (c.launch dst vals flags timer).scopeClamped = c.scopeClamped := rfl
@[simp] theorem launch_fpstat (c : Core) (dst : Dst) (vals : List (Nat × Word)) (flags : BitVec 5) (timer : Option Nat) :
    (c.launch dst vals flags timer).fpstat = c.fpstat := rfl
@[simp] theorem launch_newFlags (c : Core) (dst : Dst) (vals : List (Nat × Word)) (flags : BitVec 5) (timer : Option Nat) :
    (c.launch dst vals flags timer).newFlags = c.newFlags := rfl
@[simp] theorem launch_latch (c : Core) (dst : Dst) (vals : List (Nat × Word)) (flags : BitVec 5) (timer : Option Nat) :
    (c.launch dst vals flags timer).latch = c.latch := rfl
@[simp] theorem launch_held (c : Core) (dst : Dst) (vals : List (Nat × Word)) (flags : BitVec 5) (timer : Option Nat) :
    (c.launch dst vals flags timer).held = c.held := rfl
@[simp] theorem launch_counts (c : Core) (dst : Dst) (vals : List (Nat × Word)) (flags : BitVec 5) (timer : Option Nat) :
    (c.launch dst vals flags timer).counts = c.counts := rfl
@[simp] theorem launch_ranges (c : Core) (dst : Dst) (vals : List (Nat × Word)) (flags : BitVec 5) (timer : Option Nat) :
    (c.launch dst vals flags timer).ranges = c.ranges := rfl
@[simp] theorem launch_streams (c : Core) (dst : Dst) (vals : List (Nat × Word)) (flags : BitVec 5) (timer : Option Nat) :
    (c.launch dst vals flags timer).streams = c.streams := rfl
@[simp] theorem launch_arrivals (c : Core) (dst : Dst) (vals : List (Nat × Word)) (flags : BitVec 5) (timer : Option Nat) :
    (c.launch dst vals flags timer).arrivals = c.arrivals := rfl
@[simp] theorem launch_barx (c : Core) (dst : Dst) (vals : List (Nat × Word)) (flags : BitVec 5) (timer : Option Nat) :
    (c.launch dst vals flags timer).barx = c.barx := rfl
@[simp] theorem launch_ops (c : Core) (dst : Dst) (vals : List (Nat × Word)) (flags : BitVec 5) (timer : Option Nat) :
    (c.launch dst vals flags timer).ops = c.ops := rfl
@[simp] theorem launch_async (c : Core) (dst : Dst) (vals : List (Nat × Word)) (flags : BitVec 5) (timer : Option Nat) :
    (c.launch dst vals flags timer).async = c.async := rfl
@[simp] theorem launch_stage (c : Core) (dst : Dst) (vals : List (Nat × Word)) (flags : BitVec 5) (timer : Option Nat) :
    (c.launch dst vals flags timer).stage = c.stage := rfl
@[simp] theorem launch_wait (c : Core) (dst : Dst) (vals : List (Nat × Word)) (flags : BitVec 5) (timer : Option Nat) :
    (c.launch dst vals flags timer).wait = c.wait := rfl
@[simp] theorem launch_ltime (c : Core) (dst : Dst) (vals : List (Nat × Word)) (flags : BitVec 5) (timer : Option Nat) :
    (c.launch dst vals flags timer).ltime = c.ltime := rfl

/-! ## State.tick -/

@[simp] theorem tick_schedule (s : State) : s.tick.schedule = s.schedule := rfl
@[simp] theorem tick_phase (s : State) : s.tick.phase = s.phase := rfl
@[simp] theorem tick_actor (s : State) : s.tick.actor = s.actor := rfl
@[simp] theorem tick_seq (s : State) : s.tick.seq = s.seq := rfl
@[simp] theorem tick_now (s : State) : s.tick.now = s.now.tick.forceRefresh s.seq s.dev.ptm := rfl
@[simp] theorem tick_dev (s : State) : s.tick.dev = ((s.dev.endClock s.ctx).clock).watch s.tick.now.clock := rfl
@[simp] theorem pass_schedule (s : State) : s.pass.schedule = s.schedule := rfl
@[simp] theorem pass_actor (s : State) : s.pass.actor = s.actor := rfl
@[simp] theorem pass_now (s : State) : s.pass.now = s.tick.now := rfl
@[simp] theorem pass_dev (s : State) : s.pass.dev = s.tick.dev := rfl

end Sys2Proof.Laws
end

