-- ==== Sys2Proof/Laws/Ops.lean ====
section
/-! SUPPORT. What each shared operation of the meanings can do: reading and writing parts of the device, retiring an
instruction, taking a trap, the shapes of instructions, and the step. -/

namespace Sys2Proof.Laws

open Sys2Proof Sys2Proof.Machine

/-! ## Parts by number -/

@[simp] theorem core_setCore (d : Dev) (k : Nat) (c : Core) : (d.setCore k c).core k = c := tab_getD_put _ _ _ _
theorem core_setCore_other (d : Dev) {k j : Nat} (c : Core) (h : j ≠ k) : (d.setCore k c).core j = d.core j :=
  tab_getD_put_other _ _ _ h
@[simp] theorem setCore_setCore (d : Dev) (k : Nat) (c c' : Core) : (d.setCore k c).setCore k c' = d.setCore k c' := by
  simp [Dev.setCore, tab_put_put]
@[simp] theorem world_setWorld (d : Dev) (w : Nat) (x : World) : (d.setWorld w x).world w = x := tab_getD_put _ _ _ _
theorem world_setWorld_other (d : Dev) {w v : Nat} (x : World) (h : v ≠ w) : (d.setWorld w x).world v = d.world v :=
  tab_getD_put_other _ _ _ h
@[simp] theorem quad_setQuad (d : Dev) (q : Nat) (x : Quad) : (d.setQuad q x).quad q = x := tab_getD_put _ _ _ _
theorem quad_setQuad_other (d : Dev) {q r : Nat} (x : Quad) (h : r ≠ q) : (d.setQuad q x).quad r = d.quad r :=
  tab_getD_put_other _ _ _ h
@[simp] theorem barrier_setBarrier (d : Dev) (b : Nat) (x : Barrier) : (d.setBarrier b x).barrier b = x := tab_getD_put _ _ _ _
theorem barrier_setBarrier_other (d : Dev) {b a : Nat} (x : Barrier) (h : a ≠ b) : (d.setBarrier b x).barrier a = d.barrier a :=
  tab_getD_put_other _ _ _ h
@[simp] theorem frame_setFrame (d : Dev) (f : Nat) (x : Frame) : (d.setFrame f x).frame f = x := tab_getD_put _ _ _ _
@[simp] theorem engine_setEngine (x : Quad) (e : Nat) (g : Engine) : (x.setEngine e g).engine e = g := tab_getD_put _ _ _ _
theorem engine_setEngine_other (x : Quad) {e f : Nat} (g : Engine) (h : f ≠ e) : (x.setEngine e g).engine f = x.engine f :=
  tab_getD_put_other _ _ _ h
@[simp] theorem slot_setSlot (x : Quad) (n : Nat) (v : Slot) : (x.setSlot n v).slot n = v := tab_getD_put _ _ _ _
@[simp] theorem dev_engine_setEngine (d : Dev) (q e : Nat) (g : Engine) : (d.setEngine q e g).engine q e = g := by
  simp [Dev.setEngine, Dev.engine]

@[simp] theorem world_setCore (d : Dev) (k : Nat) (c : Core) (w : Nat) : (d.setCore k c).world w = d.world w := rfl
@[simp] theorem quad_setCore (d : Dev) (k : Nat) (c : Core) (q : Nat) : (d.setCore k c).quad q = d.quad q := rfl
@[simp] theorem engine_setCore (d : Dev) (k : Nat) (c : Core) (q e : Nat) : (d.setCore k c).engine q e = d.engine q e := rfl
@[simp] theorem barrier_setCore (d : Dev) (k : Nat) (c : Core) (b : Nat) : (d.setCore k c).barrier b = d.barrier b := rfl
@[simp] theorem die_setCore (d : Dev) (k : Nat) (c : Core) (i : Nat) : (d.setCore k c).die i = d.die i := rfl
@[simp] theorem core_setWorld (d : Dev) (w : Nat) (x : World) (k : Nat) : (d.setWorld w x).core k = d.core k := rfl
@[simp] theorem core_setQuad (d : Dev) (q : Nat) (x : Quad) (k : Nat) : (d.setQuad q x).core k = d.core k := rfl
@[simp] theorem core_setEngine (d : Dev) (q e : Nat) (g : Engine) (k : Nat) : (d.setEngine q e g).core k = d.core k := rfl
@[simp] theorem core_setBarrier (d : Dev) (b : Nat) (x : Barrier) (k : Nat) : (d.setBarrier b x).core k = d.core k := rfl
@[simp] theorem world_setQuad (d : Dev) (q : Nat) (x : Quad) (w : Nat) : (d.setQuad q x).world w = d.world w := rfl
@[simp] theorem world_setBarrier (d : Dev) (b : Nat) (x : Barrier) (w : Nat) : (d.setBarrier b x).world w = d.world w := rfl
@[simp] theorem world_setEngine (d : Dev) (q e : Nat) (g : Engine) (w : Nat) : (d.setEngine q e g).world w = d.world w := rfl
@[simp] theorem quad_setWorld (d : Dev) (w : Nat) (x : World) (q : Nat) : (d.setWorld w x).quad q = d.quad q := rfl

/-! ## Counting, events and the latch -/

/-- Counting touches the world's counters alone. -/
theorem count_eq (d : Dev) (w i n : Nat) : ∃ ws, d.count w i n = { d with worlds := ws } := by
  unfold Dev.count
  split
  · exact ⟨d.worlds, rfl⟩
  · exact ⟨_, rfl⟩

@[simp] theorem core_count (d : Dev) (w i n k : Nat) : (d.count w i n).core k = d.core k := by
  unfold Dev.count; split <;> rfl
@[simp] theorem quad_count (d : Dev) (w i n q : Nat) : (d.count w i n).quad q = d.quad q := by
  unfold Dev.count; split <;> rfl
@[simp] theorem mem_count (d : Dev) (w i n : Nat) : (d.count w i n).mem = d.mem := by
  unfold Dev.count; split <;> rfl

/-- An event touches host memory and the worlds' event registers alone. -/
theorem event_eq (d : Dev) (now : Now) (kind world die : Nat) (payload : Bytes) :
    ∃ ws hm, d.event now kind world die payload = { d with worlds := ws, hostMem := hm } := by
  unfold Dev.event
  dsimp only
  split
  · exact ⟨d.worlds, d.hostMem, rfl⟩
  · split
    · exact ⟨_, d.hostMem, rfl⟩
    · exact ⟨_, _, rfl⟩

@[simp] theorem core_event (d : Dev) (now : Now) (kind world die : Nat) (payload : Bytes) (k : Nat) :
    (d.event now kind world die payload).core k = d.core k := by
  obtain ⟨ws, hm, h⟩ := event_eq d now kind world die payload
  rw [h]; rfl

@[simp] theorem quad_event (d : Dev) (now : Now) (kind world die : Nat) (payload : Bytes) (q : Nat) :
    (d.event now kind world die payload).quad q = d.quad q := by
  obtain ⟨ws, hm, h⟩ := event_eq d now kind world die payload
  rw [h]; rfl

@[simp] theorem mem_event (d : Dev) (now : Now) (kind world die : Nat) (payload : Bytes) :
    (d.event now kind world die payload).mem = d.mem := by
  obtain ⟨ws, hm, h⟩ := event_eq d now kind world die payload
  rw [h]

@[simp] theorem core_issued (d : Dev) (k j : Nat) : (d.issued k).core j = d.core j := by simp [Dev.issued]
@[simp] theorem quad_issued (d : Dev) (k q : Nat) : (d.issued k).quad q = d.quad q := by simp [Dev.issued]
@[simp] theorem mem_issued (d : Dev) (k : Nat) : (d.issued k).mem = d.mem := by simp [Dev.issued]

/-- An engine's issue touches the counters of its program's world alone. -/
theorem issuedBy_eq (d : Dev) (q e : Nat) : ∃ ws, d.issuedBy q e = { d with worlds := ws } := by
  unfold Dev.issuedBy
  split
  · exact count_eq _ _ _ _
  · exact ⟨d.worlds, rfl⟩

@[simp] theorem core_issuedBy (d : Dev) (q e k : Nat) : (d.issuedBy q e).core k = d.core k := by
  obtain ⟨ws, h⟩ := issuedBy_eq d q e
  rw [h]; rfl
@[simp] theorem quad_issuedBy (d : Dev) (q e r : Nat) : (d.issuedBy q e).quad r = d.quad r := by
  obtain ⟨ws, h⟩ := issuedBy_eq d q e
  rw [h]; rfl
@[simp] theorem engine_issuedBy (d : Dev) (q e r f : Nat) : (d.issuedBy q e).engine r f = d.engine r f := by
  simp [Dev.engine]

/-! ## Retiring and trapping -/

/-- Retiring moves the pc, ends the stall and counts in the core's world. -/
@[simp] theorem core_retire (d : Dev) (k : Nat) (pc : Word) :
    (d.retire k pc).core k = { d.core k with pc := pc, wait := none, stage := .none } := by
  simp [Dev.retire]

theorem core_retire_other (d : Dev) {k j : Nat} (pc : Word) (h : j ≠ k) : (d.retire k pc).core j = d.core j := by
  simp [Dev.retire, core_setCore_other d _ h]

theorem retire_eq (d : Dev) (k : Nat) (pc : Word) :
    ∃ ws, d.retire k pc = { d.setCore k { d.core k with pc := pc, wait := none, stage := .none } with worlds := ws } := by
  unfold Dev.retire
  exact count_eq _ _ _ _

@[simp] theorem quad_retire (d : Dev) (k : Nat) (pc : Word) (q : Nat) : (d.retire k pc).quad q = d.quad q := by
  obtain ⟨ws, h⟩ := retire_eq d k pc
  rw [h]; rfl
@[simp] theorem mem_retire (d : Dev) (k : Nat) (pc : Word) : (d.retire k pc).mem = d.mem := by
  obtain ⟨ws, h⟩ := retire_eq d k pc
  rw [h]; rfl

/-- The three ways in which a trap ends (R127, R131, R132): in the handler, without one, or into it. -/
theorem takeTrapAt_cases (d : Dev) (now : Now) (k cause : Nat) (info pc this : Word) :
    ((d.core k).inHandler = true ∧ d.takeTrapAt now k cause info pc this =
      (d.setCore k { d.core k with halted := true, wait := none, stage := .none }).trapEvent now k cause info this) ∨
    ((d.core k).inHandler = false ∧ (cause = Cause.access ∨ (d.core k).cur.handler = 0xFFFF) ∧
      d.takeTrapAt now k cause info pc this =
        (d.setCore k { (d.core k).setTrap cause info pc with halted := true }).trapEvent now k cause info pc) ∨
    ((d.core k).inHandler = false ∧ cause ≠ Cause.access ∧ (d.core k).cur.handler ≠ 0xFFFF ∧
      d.takeTrapAt now k cause info pc this =
        d.setCore k { (d.core k).setTrap cause info pc with inHandler := true,
                                                            pc := BitVec.ofNat 64 (8 * (d.core k).cur.handler) }) := by
  by_cases h : (d.core k).inHandler = true
  · exact .inl ⟨h, by simp [Dev.takeTrapAt, h]⟩
  · have h' : (d.core k).inHandler = false := by simpa using h
    by_cases h2 : cause = Cause.access ∨ (d.core k).cur.handler = 0xFFFF
    · exact .inr (.inl ⟨h', h2, by simp [Dev.takeTrapAt, h', h2]⟩)
    · refine .inr (.inr ⟨h', fun e => h2 (.inl e), fun e => h2 (.inr e), ?_⟩)
      simp [Dev.takeTrapAt, h', h2]

@[simp] theorem core_trapEvent (d : Dev) (now : Now) (k cause : Nat) (info pc : Word) (j : Nat) :
    (d.trapEvent now k cause info pc).core j = d.core j := by
  simp [Dev.trapEvent]

/-! ## The outcomes of an instruction -/

@[simp] theorem finish_done (d : Dev) (now : Now) (k : Nat) (d' : Dev) :
    d.finish now k (.done d') = d'.retire k ((d.core k).pc + 8) := rfl
@[simp] theorem finish_jump (d : Dev) (now : Now) (k : Nat) (d' : Dev) (pc : Word) :
    d.finish now k (.jump d' pc) = d'.retire k pc := rfl
@[simp] theorem finish_trap (d : Dev) (now : Now) (k cause : Nat) (info : Word) :
    d.finish now k (.trap cause info) = (d.issued k).takeTrap now k cause info (d.core k).pc := rfl
@[simp] theorem finish_stall (d : Dev) (now : Now) (k : Nat) (w : Option Wait) :
    d.finish now k (.stall w) = d.setCore k { d.core k with wait := some (w.getD Wait.stalled) } := rfl

/-! ## The shapes of instructions -/

/-- A meaning changes the device alone. -/
theorem run_next (f : Ctx → Dev → Dev) (s : State) : run f s = .next { s with dev := f s.ctx s.dev } := rfl

theorem onCore_core {s : State} {k : Nat} (f : Ctx → Nat → Dev → Res) (h : s.actor = .core k) :
    onCore f s = .next { s with dev := s.dev.finish s.now k (f s.ctx k s.dev) } := by
  simp [onCore, run, State.ctx, h]

theorem onCore_engine {s : State} {q e : Nat} (f : Ctx → Nat → Dev → Res) (h : s.actor = .engine q e) :
    onCore f s = .next { s with dev := (s.dev.issuedBy q e).progFault q e 0x01 } := by
  simp [onCore, run, State.ctx, h]

theorem onRegs_core {s : State} {k : Nat} (f : Core → CRes) (h : s.actor = .core k) :
    onRegs f s = .next { s with dev := s.dev.finish s.now k ((f (s.dev.core k)).lift s.dev k) } :=
  onCore_core _ h

theorem onBoth_core {s : State} {k : Nat} (regs : List Reg) (p : Pred) (f : Core → CRes) (g : Plane → Prog → Option Prog)
    (h : s.actor = .core k) :
    onBoth regs p f g s = .next { s with dev := s.dev.finish s.now k ((f (s.dev.core k)).lift s.dev k) } := by
  simp [onBoth, run, State.ctx, h]

theorem onCoreSync_core {s : State} {k : Nat} (f : Ctx → Nat → Dev → Res) (h : s.actor = .core k)
    (hb : (s.dev.core k).blocked = false) :
    onCoreSync f s = .next { s with dev := s.dev.finish s.now k (f s.ctx k s.dev) } := by
  rw [onCoreSync, onCore_core _ h]
  simp [hb]

theorem onX_core {s : State} {k : Nat} (eng : Nat) (reads writes : List Reg) (f : Ctx → Who → Dev → Res) (h : s.actor = .core k)
    (hr : reads.any (s.dev.core k).pendingG = false) :
    onX eng reads writes f s = .next { s with dev := s.dev.finish s.now k (f s.ctx { core := k, eng := none } s.dev) } := by
  simp [onX, run, State.ctx, h, hr]

theorem scalar_on {p : Pred} {gs : List Reg} {c : Core} (f : Core → CRes) (hm : c.mask p ≠ 0) (hg : gs.any c.pendingG = false) :
    scalar p gs f c = f c := by
  rw [scalar, if_neg hm, hg]; rfl

theorem scalar_off {p : Pred} {c : Core} (gs : List Reg) (f : Core → CRes) (hm : c.mask p = 0) : scalar p gs f c = .done c := by
  simp [scalar, hm]

theorem lanes_on {p : Pred} {gs vs : List Reg} {c : Core} (f : Core → Lane → CRes) (hm : c.mask p ≠ 0)
    (hg : gs.any c.pendingG = false) (hv : vs.any c.pendingV = false) : lanes p gs vs f c = f c (c.mask p) := by
  rw [lanes, if_neg hm, hg, hv]; rfl

theorem reducing_on {p : Pred} {vs : List Reg} {c : Core} (f : Core → Lane → CRes) (hp : p.never = false)
    (hv : vs.any c.pendingV = false) : reducing p vs f c = f c (c.mask p) := by
  simp [reducing, hp, hv]

theorem scalarDev_on {p : Pred} {gs : List Reg} {d : Dev} {k : Nat} (f : Core → Res) (hm : (d.core k).mask p ≠ 0)
    (hg : gs.any (d.core k).pendingG = false) : scalarDev p gs f d k = f (d.core k) := by
  simp only [scalarDev]
  rw [if_neg hm, hg]; rfl

/-! ## The step -/

/-- A step that runs a decoded instruction: with an empty schedule, in the phase of issuing, not held in reset, and with no
asynchronous cause to take first. -/
theorem step_issue {s : State} {w : Word} {i : Instr} (hs : s.schedule = []) (hp : s.phase = .issue) (hh : s.dev.stopped = false)
    (ha : s.dev.takesAsync s.now s.actor = none) (hf : s.dev.fetch s.now s.actor = some w) (hd : decode w = .ok i) :
    step s = match exec i s with
      | .next t => .next (t.settle false)
      | .fault f => .fault f
      | .refused r => .refused r := by
  unfold step oneStep
  simp only [hh, hs, turn, hp, issueTurn, ha, hf, hd, Bool.false_and, Bool.false_eq_true, if_false, List.isEmpty_nil, Bool.not_true] <;> rfl

end Sys2Proof.Laws
end

