-- ==== Sys2Proof/Laws/PerInstr.lean ====
section
/-! SUPPORT. Decoding what the encoder writes gives the instruction back, one lemma for each constructor. -/

namespace Sys2Proof.Laws

open Sys2Proof

set_option linter.unusedSimpArgs false

/-- A well-formed instruction's word decodes to it. An event has no word. -/
def Coded.Statement (i : Instr) : Prop := wellFormed i = true → ∀ w, encode i = some w → decode w = .ok i

theorem bool_bit' (w : BitVec 13) (i : Nat) (h : w.extractLsb' i 1 = 0#1) : w.getLsbD i = false := by
  have h0 := congrArg (fun v => v.getLsbD 0) h
  simpa using h0

theorem packX_part (op fn : BitVec 8) (a b c bs : Reg) (tid : BitVec 11) (flags : BitVec 13) (s l : Nat) (h : s + l ≤ 13) :
    (packX op fn a b c bs tid flags).extractLsb' s l = flags.extractLsb' s l :=
  BitVec.extractLsb'_append_eq_of_add_le h
theorem packX_bit (op fn : BitVec 8) (a b c bs : Reg) (tid : BitVec 11) (flags : BitVec 13) (i : Nat) (h : i < 13) :
    (packX op fn a b c bs tid flags).getLsbD i = flags.getLsbD i := by
  have h1 := packX_part op fn a b c bs tid flags i 1 (by omega)
  have h2 := congrArg (fun v => v.getLsbD 0) h1
  simpa using h2
theorem packX_get (op fn : BitVec 8) (a b c bs : Reg) (tid : BitVec 11) (flags : BitVec 13) (i : Nat) (h : i < 64) (h' : i < 13) :
    (packX op fn a b c bs tid flags)[i]'h = flags.getLsbD i := by
  rw [← packX_bit op fn a b c bs tid flags i h']
  exact (BitVec.getLsbD_eq_getElem h).symm
theorem packZ_part (op fn : BitVec 8) (imm : BitVec 48) (l : Nat) (h : l ≤ 48) :
    (packZ op fn imm).extractLsb' 0 l = imm.extractLsb' 0 l :=
  BitVec.extractLsb'_append_eq_of_add_le (by omega)
theorem low1 (x : BitVec 1) : (0#12 ++ x : BitVec 13).extractLsb' 0 1 = x := take_low _ _
theorem low2 (x : BitVec 2) : (0#11 ++ x : BitVec 13).extractLsb' 0 2 = x := take_low _ _
theorem low3 (x : BitVec 3) : (0#10 ++ x : BitVec 13).extractLsb' 0 3 = x := take_low _ _
theorem bit2 (x : BitVec 2) : (0#11 ++ x : BitVec 13).getLsbD 2 = false := by
  have h : (0#11 ++ x : BitVec 13).extractLsb' 2 1 = 0#1 := (skip_low (0#11) x (by decide)).trans (by decide)
  exact bool_bit' _ _ h
theorem bit2b (x : BitVec 2) : (0#11 ++ x : BitVec 13)[2] = false := by
  have h := bit2 x
  simpa using h
theorem abindFn (x y : BitVec 3) : (0#7 ++ x ++ y : BitVec 13).extractLsb' 0 3 = y := take_low _ _
theorem abindHi (x y : BitVec 3) : (0#7 ++ x ++ y : BitVec 13).extractLsb' 3 3 = x :=
  (skip_low _ _ (by decide)).trans (take_low _ _)
theorem lowWfe (x : BitVec 32) : (0#16 ++ x : BitVec 48).extractLsb' 0 32 = x := take_low _ _
theorem lowPhase (x : BitVec 1) : (0#47 ++ x : BitVec 48).extractLsb' 0 1 = x := take_low _ _

/-- What is left to show for one instruction: its raw decoding, and that its major is one of Table 5.7. -/
theorem decode_encoded {i : Instr} {w : Word} (he : encode i = some w) (hr : rawDecode w = some i)
    (hm : majors.contains (w.extractLsb' 56 8).toNat = true) (hw : wellFormed i = true) : decode w = .ok i := by
  have h0 : (w == 0) = false := by
    by_contra h
    have hz : w = 0 := by simpa using h
    subst hz
    exact absurd hm (by decide)
  unfold decode
  rw [h0, hm]
  simp [hr, he, hw]

/-- The same, from the word of the encoder. -/
theorem coded_of {i : Instr} {w : Word} (he : encode i = some w) (hr : rawDecode w = some i)
    (hm : majors.contains (w.extractLsb' 56 8).toNat = true) : Coded.Statement i := by
  intro hw w' h'
  rw [he] at h'
  cases h'
  exact decode_encoded he hr hm hw

theorem Coded.nop : Coded.Statement (.nop) :=
  coded_of rfl (by simp [rawDecode, raw01, packZ_op, packZ_fn, packZ_imm, packZ_part, lowWfe, lowPhase]) (by simp [majors, packZ_op])
theorem Coded.halt : Coded.Statement (.halt) :=
  coded_of rfl (by simp [rawDecode, raw01, packZ_op, packZ_fn, packZ_imm, packZ_part, lowWfe, lowPhase]) (by simp [majors, packZ_op])
theorem Coded.brk (code : BitVec 48) : Coded.Statement (.brk code) :=
  coded_of rfl (by simp [rawDecode, raw01, packZ_op, packZ_fn, packZ_imm, packZ_part, lowWfe, lowPhase]) (by simp [majors, packZ_op])
theorem Coded.trap (code : BitVec 48) : Coded.Statement (.trap code) :=
  coded_of rfl (by simp [rawDecode, raw01, packZ_op, packZ_fn, packZ_imm, packZ_part, lowWfe, lowPhase]) (by simp [majors, packZ_op])
theorem Coded.eret : Coded.Statement (.eret) :=
  coded_of rfl (by simp [rawDecode, raw01, packZ_op, packZ_fn, packZ_imm, packZ_part, lowWfe, lowPhase]) (by simp [majors, packZ_op])
theorem Coded.wfe (clocks : BitVec 32) : Coded.Statement (.wfe clocks) :=
  coded_of rfl (by simp [rawDecode, raw01, packZ_op, packZ_fn, packZ_imm, packZ_part, lowWfe, lowPhase]) (by simp [majors, packZ_op])
theorem Coded.phase (vote : BitVec 1) : Coded.Statement (.phase vote) :=
  coded_of rfl (by simp [rawDecode, raw01, packZ_op, packZ_fn, packZ_imm, packZ_part, lowWfe, lowPhase]) (by simp [majors, packZ_op])
theorem Coded.ncnt : Coded.Statement (.ncnt) :=
  coded_of rfl (by simp [rawDecode, raw01, packZ_op, packZ_fn, packZ_imm, packZ_part, lowWfe, lowPhase]) (by simp [majors, packZ_op])
theorem Coded.srd (p : Pred) (d : BitVec 6) (sreg : BitVec 32) : Coded.Statement (.srd p d sreg) :=
  coded_of rfl (by simp [rawDecode, raw02, packI_op, packI_d, packI_a, packI_fn, packI_md, packI_imm, packI_pred]) (by simp [majors, packI_op])
theorem Coded.swr (p : Pred) (a : BitVec 6) (sreg : BitVec 32) : Coded.Statement (.swr p a sreg) :=
  coded_of rfl (by simp [rawDecode, raw02, packI_op, packI_d, packI_a, packI_fn, packI_md, packI_imm, packI_pred]) (by simp [majors, packI_op])
theorem Coded.tlbi (p : Pred) (d : BitVec 6) (a : BitVec 6) (kind : BitVec 32) : Coded.Statement (.tlbi p d a kind) :=
  coded_of rfl (by simp [rawDecode, raw02, packI_op, packI_d, packI_a, packI_fn, packI_md, packI_imm, packI_pred]) (by simp [majors, packI_op])
theorem Coded.add (p : Pred) (d : BitVec 6) (a : BitVec 6) (b : BitVec 6) : Coded.Statement (.add p d a b) :=
  coded_of rfl (by simp [rawDecode, raw08, packR_op, packR_d, packR_a, packR_b, packR_c, packR_fn, packR_ty, packR_md, packR_pred]) (by simp [majors, packR_op])
theorem Coded.sub (p : Pred) (d : BitVec 6) (a : BitVec 6) (b : BitVec 6) : Coded.Statement (.sub p d a b) :=
  coded_of rfl (by simp [rawDecode, raw08, packR_op, packR_d, packR_a, packR_b, packR_c, packR_fn, packR_ty, packR_md, packR_pred]) (by simp [majors, packR_op])
theorem Coded.mul (p : Pred) (d : BitVec 6) (a : BitVec 6) (b : BitVec 6) : Coded.Statement (.mul p d a b) :=
  coded_of rfl (by simp [rawDecode, raw08, packR_op, packR_d, packR_a, packR_b, packR_c, packR_fn, packR_ty, packR_md, packR_pred]) (by simp [majors, packR_op])
theorem Coded.mulh (p : Pred) (d : BitVec 6) (a : BitVec 6) (b : BitVec 6) : Coded.Statement (.mulh p d a b) :=
  coded_of rfl (by simp [rawDecode, raw08, packR_op, packR_d, packR_a, packR_b, packR_c, packR_fn, packR_ty, packR_md, packR_pred]) (by simp [majors, packR_op])
theorem Coded.mulhu (p : Pred) (d : BitVec 6) (a : BitVec 6) (b : BitVec 6) : Coded.Statement (.mulhu p d a b) :=
  coded_of rfl (by simp [rawDecode, raw08, packR_op, packR_d, packR_a, packR_b, packR_c, packR_fn, packR_ty, packR_md, packR_pred]) (by simp [majors, packR_op])
theorem Coded.div (p : Pred) (d : BitVec 6) (a : BitVec 6) (b : BitVec 6) : Coded.Statement (.div p d a b) :=
  coded_of rfl (by simp [rawDecode, raw08, packR_op, packR_d, packR_a, packR_b, packR_c, packR_fn, packR_ty, packR_md, packR_pred]) (by simp [majors, packR_op])
theorem Coded.divu (p : Pred) (d : BitVec 6) (a : BitVec 6) (b : BitVec 6) : Coded.Statement (.divu p d a b) :=
  coded_of rfl (by simp [rawDecode, raw08, packR_op, packR_d, packR_a, packR_b, packR_c, packR_fn, packR_ty, packR_md, packR_pred]) (by simp [majors, packR_op])
theorem Coded.rem (p : Pred) (d : BitVec 6) (a : BitVec 6) (b : BitVec 6) : Coded.Statement (.rem p d a b) :=
  coded_of rfl (by simp [rawDecode, raw08, packR_op, packR_d, packR_a, packR_b, packR_c, packR_fn, packR_ty, packR_md, packR_pred]) (by simp [majors, packR_op])
theorem Coded.remu (p : Pred) (d : BitVec 6) (a : BitVec 6) (b : BitVec 6) : Coded.Statement (.remu p d a b) :=
  coded_of rfl (by simp [rawDecode, raw08, packR_op, packR_d, packR_a, packR_b, packR_c, packR_fn, packR_ty, packR_md, packR_pred]) (by simp [majors, packR_op])
theorem Coded.and (p : Pred) (d : BitVec 6) (a : BitVec 6) (b : BitVec 6) : Coded.Statement (.and p d a b) :=
  coded_of rfl (by simp [rawDecode, raw08, packR_op, packR_d, packR_a, packR_b, packR_c, packR_fn, packR_ty, packR_md, packR_pred]) (by simp [majors, packR_op])
theorem Coded.or (p : Pred) (d : BitVec 6) (a : BitVec 6) (b : BitVec 6) : Coded.Statement (.or p d a b) :=
  coded_of rfl (by simp [rawDecode, raw08, packR_op, packR_d, packR_a, packR_b, packR_c, packR_fn, packR_ty, packR_md, packR_pred]) (by simp [majors, packR_op])
theorem Coded.xor (p : Pred) (d : BitVec 6) (a : BitVec 6) (b : BitVec 6) : Coded.Statement (.xor p d a b) :=
  coded_of rfl (by simp [rawDecode, raw08, packR_op, packR_d, packR_a, packR_b, packR_c, packR_fn, packR_ty, packR_md, packR_pred]) (by simp [majors, packR_op])
theorem Coded.andn (p : Pred) (d : BitVec 6) (a : BitVec 6) (b : BitVec 6) : Coded.Statement (.andn p d a b) :=
  coded_of rfl (by simp [rawDecode, raw08, packR_op, packR_d, packR_a, packR_b, packR_c, packR_fn, packR_ty, packR_md, packR_pred]) (by simp [majors, packR_op])
theorem Coded.shl (p : Pred) (d : BitVec 6) (a : BitVec 6) (b : BitVec 6) : Coded.Statement (.shl p d a b) :=
  coded_of rfl (by simp [rawDecode, raw08, packR_op, packR_d, packR_a, packR_b, packR_c, packR_fn, packR_ty, packR_md, packR_pred]) (by simp [majors, packR_op])
theorem Coded.shr (p : Pred) (d : BitVec 6) (a : BitVec 6) (b : BitVec 6) : Coded.Statement (.shr p d a b) :=
  coded_of rfl (by simp [rawDecode, raw08, packR_op, packR_d, packR_a, packR_b, packR_c, packR_fn, packR_ty, packR_md, packR_pred]) (by simp [majors, packR_op])
theorem Coded.sar (p : Pred) (d : BitVec 6) (a : BitVec 6) (b : BitVec 6) : Coded.Statement (.sar p d a b) :=
  coded_of rfl (by simp [rawDecode, raw08, packR_op, packR_d, packR_a, packR_b, packR_c, packR_fn, packR_ty, packR_md, packR_pred]) (by simp [majors, packR_op])
theorem Coded.rol (p : Pred) (d : BitVec 6) (a : BitVec 6) (b : BitVec 6) : Coded.Statement (.rol p d a b) :=
  coded_of rfl (by simp [rawDecode, raw08, packR_op, packR_d, packR_a, packR_b, packR_c, packR_fn, packR_ty, packR_md, packR_pred]) (by simp [majors, packR_op])
theorem Coded.min (p : Pred) (d : BitVec 6) (a : BitVec 6) (b : BitVec 6) : Coded.Statement (.min p d a b) :=
  coded_of rfl (by simp [rawDecode, raw08, packR_op, packR_d, packR_a, packR_b, packR_c, packR_fn, packR_ty, packR_md, packR_pred]) (by simp [majors, packR_op])
theorem Coded.max (p : Pred) (d : BitVec 6) (a : BitVec 6) (b : BitVec 6) : Coded.Statement (.max p d a b) :=
  coded_of rfl (by simp [rawDecode, raw08, packR_op, packR_d, packR_a, packR_b, packR_c, packR_fn, packR_ty, packR_md, packR_pred]) (by simp [majors, packR_op])
theorem Coded.minu (p : Pred) (d : BitVec 6) (a : BitVec 6) (b : BitVec 6) : Coded.Statement (.minu p d a b) :=
  coded_of rfl (by simp [rawDecode, raw08, packR_op, packR_d, packR_a, packR_b, packR_c, packR_fn, packR_ty, packR_md, packR_pred]) (by simp [majors, packR_op])
theorem Coded.maxu (p : Pred) (d : BitVec 6) (a : BitVec 6) (b : BitVec 6) : Coded.Statement (.maxu p d a b) :=
  coded_of rfl (by simp [rawDecode, raw08, packR_op, packR_d, packR_a, packR_b, packR_c, packR_fn, packR_ty, packR_md, packR_pred]) (by simp [majors, packR_op])
theorem Coded.clz (p : Pred) (d : BitVec 6) (a : BitVec 6) : Coded.Statement (.clz p d a) :=
  coded_of rfl (by simp [rawDecode, raw08, packR_op, packR_d, packR_a, packR_b, packR_c, packR_fn, packR_ty, packR_md, packR_pred]) (by simp [majors, packR_op])
theorem Coded.popc (p : Pred) (d : BitVec 6) (a : BitVec 6) : Coded.Statement (.popc p d a) :=
  coded_of rfl (by simp [rawDecode, raw08, packR_op, packR_d, packR_a, packR_b, packR_c, packR_fn, packR_ty, packR_md, packR_pred]) (by simp [majors, packR_op])
theorem Coded.sext (p : Pred) (d : BitVec 6) (a : BitVec 6) (n : BitVec 6) : Coded.Statement (.sext p d a n) :=
  coded_of rfl (by simp [rawDecode, raw08, packR_op, packR_d, packR_a, packR_b, packR_c, packR_fn, packR_ty, packR_md, packR_pred]) (by simp [majors, packR_op])
theorem Coded.zext (p : Pred) (d : BitVec 6) (a : BitVec 6) (n : BitVec 6) : Coded.Statement (.zext p d a n) :=
  coded_of rfl (by simp [rawDecode, raw08, packR_op, packR_d, packR_a, packR_b, packR_c, packR_fn, packR_ty, packR_md, packR_pred]) (by simp [majors, packR_op])
theorem Coded.sel (p : Pred) (d : BitVec 6) (a : BitVec 6) (b : BitVec 6) (c : BitVec 6) : Coded.Statement (.sel p d a b c) :=
  coded_of rfl (by simp [rawDecode, raw08, packR_op, packR_d, packR_a, packR_b, packR_c, packR_fn, packR_ty, packR_md, packR_pred]) (by simp [majors, packR_op])
theorem Coded.cmp (p : Pred) (cond : BitVec 4) (d : BitVec 6) (a : BitVec 6) (b : BitVec 6) : Coded.Statement (.cmp p cond d a b) :=
  coded_of rfl (by simp [rawDecode, raw08, packR_op, packR_d, packR_a, packR_b, packR_c, packR_fn, packR_ty, packR_md, packR_pred]) (by simp [majors, packR_op])
theorem Coded.addi (p : Pred) (d : BitVec 6) (a : BitVec 6) (imm : BitVec 32) : Coded.Statement (.addi p d a imm) :=
  coded_of rfl (by simp [rawDecode, raw09, packI_op, packI_d, packI_a, packI_fn, packI_md, packI_imm, packI_pred]) (by simp [majors, packI_op])
theorem Coded.andi (p : Pred) (d : BitVec 6) (a : BitVec 6) (imm : BitVec 32) : Coded.Statement (.andi p d a imm) :=
  coded_of rfl (by simp [rawDecode, raw09, packI_op, packI_d, packI_a, packI_fn, packI_md, packI_imm, packI_pred]) (by simp [majors, packI_op])
theorem Coded.ori (p : Pred) (d : BitVec 6) (a : BitVec 6) (imm : BitVec 32) : Coded.Statement (.ori p d a imm) :=
  coded_of rfl (by simp [rawDecode, raw09, packI_op, packI_d, packI_a, packI_fn, packI_md, packI_imm, packI_pred]) (by simp [majors, packI_op])
theorem Coded.xori (p : Pred) (d : BitVec 6) (a : BitVec 6) (imm : BitVec 32) : Coded.Statement (.xori p d a imm) :=
  coded_of rfl (by simp [rawDecode, raw09, packI_op, packI_d, packI_a, packI_fn, packI_md, packI_imm, packI_pred]) (by simp [majors, packI_op])
theorem Coded.shli (p : Pred) (d : BitVec 6) (a : BitVec 6) (imm : BitVec 32) : Coded.Statement (.shli p d a imm) :=
  coded_of rfl (by simp [rawDecode, raw09, packI_op, packI_d, packI_a, packI_fn, packI_md, packI_imm, packI_pred]) (by simp [majors, packI_op])
theorem Coded.shri (p : Pred) (d : BitVec 6) (a : BitVec 6) (imm : BitVec 32) : Coded.Statement (.shri p d a imm) :=
  coded_of rfl (by simp [rawDecode, raw09, packI_op, packI_d, packI_a, packI_fn, packI_md, packI_imm, packI_pred]) (by simp [majors, packI_op])
theorem Coded.sari (p : Pred) (d : BitVec 6) (a : BitVec 6) (imm : BitVec 32) : Coded.Statement (.sari p d a imm) :=
  coded_of rfl (by simp [rawDecode, raw09, packI_op, packI_d, packI_a, packI_fn, packI_md, packI_imm, packI_pred]) (by simp [majors, packI_op])
theorem Coded.cmpi (p : Pred) (cond : BitVec 4) (d : BitVec 6) (a : BitVec 6) (imm : BitVec 32) : Coded.Statement (.cmpi p cond d a imm) :=
  coded_of rfl (by simp [rawDecode, raw09, packI_op, packI_d, packI_a, packI_fn, packI_md, packI_imm, packI_pred]) (by simp [majors, packI_op])
theorem Coded.movi (p : Pred) (d : BitVec 6) (imm : BitVec 32) : Coded.Statement (.movi p d imm) :=
  coded_of rfl (by simp [rawDecode, raw09, packI_op, packI_d, packI_a, packI_fn, packI_md, packI_imm, packI_pred]) (by simp [majors, packI_op])
theorem Coded.movhi (p : Pred) (d : BitVec 6) (a : BitVec 6) (imm : BitVec 32) : Coded.Statement (.movhi p d a imm) :=
  coded_of rfl (by simp [rawDecode, raw09, packI_op, packI_d, packI_a, packI_fn, packI_md, packI_imm, packI_pred]) (by simp [majors, packI_op])
theorem Coded.br (off : BitVec 32) : Coded.Statement (.br off) :=
  coded_of rfl (by simp [rawDecode, raw10, packB_op, packB_cc, packB_a, packB_b, packB_fn, packB_sel, packB_off]) (by simp [majors, packB_op])
theorem Coded.bz (a : BitVec 6) (off : BitVec 32) : Coded.Statement (.bz a off) :=
  coded_of rfl (by simp [rawDecode, raw10, packB_op, packB_cc, packB_a, packB_b, packB_fn, packB_sel, packB_off]) (by simp [majors, packB_op])
theorem Coded.bnz (a : BitVec 6) (off : BitVec 32) : Coded.Statement (.bnz a off) :=
  coded_of rfl (by simp [rawDecode, raw10, packB_op, packB_cc, packB_a, packB_b, packB_fn, packB_sel, packB_off]) (by simp [majors, packB_op])
theorem Coded.bcmp (cond : BitVec 4) (a : BitVec 6) (b : BitVec 6) (off : BitVec 32) : Coded.Statement (.bcmp cond a b off) :=
  coded_of rfl (by simp [rawDecode, raw10, packB_op, packB_cc, packB_a, packB_b, packB_fn, packB_sel, packB_off]) (by simp [majors, packB_op])
theorem Coded.bbead (port : BitVec 4) (off : BitVec 32) : Coded.Statement (.bbead port off) :=
  coded_of rfl (by simp [rawDecode, raw10, packB_op, packB_cc, packB_a, packB_b, packB_fn, packB_sel, packB_off]) (by simp [majors, packB_op])
theorem Coded.bstat (state : BitVec 4) (a : BitVec 6) (eng : BitVec 4) (off : BitVec 32) : Coded.Statement (.bstat state a eng off) :=
  coded_of rfl (by simp [rawDecode, raw10, packB_op, packB_cc, packB_a, packB_b, packB_fn, packB_sel, packB_off]) (by simp [majors, packB_op])
theorem Coded.loop (a : BitVec 6) (off : BitVec 32) : Coded.Statement (.loop a off) :=
  coded_of rfl (by simp [rawDecode, raw10, packB_op, packB_cc, packB_a, packB_b, packB_fn, packB_sel, packB_off]) (by simp [majors, packB_op])
theorem Coded.jmpr (a : BitVec 6) (off : BitVec 32) : Coded.Statement (.jmpr a off) :=
  coded_of rfl (by simp [rawDecode, raw10, packB_op, packB_cc, packB_a, packB_b, packB_fn, packB_sel, packB_off]) (by simp [majors, packB_op])
theorem Coded.call (off : BitVec 32) : Coded.Statement (.call off) :=
  coded_of rfl (by simp [rawDecode, raw11, packB_op, packB_cc, packB_a, packB_b, packB_fn, packB_sel, packB_off]) (by simp [majors, packB_op])
theorem Coded.callr (a : BitVec 6) (off : BitVec 32) : Coded.Statement (.callr a off) :=
  coded_of rfl (by simp [rawDecode, raw11, packB_op, packB_cc, packB_a, packB_b, packB_fn, packB_sel, packB_off]) (by simp [majors, packB_op])
theorem Coded.ret : Coded.Statement (.ret) :=
  coded_of rfl (by simp [rawDecode, raw11, packB_op, packB_cc, packB_a, packB_b, packB_fn, packB_sel, packB_off]) (by simp [majors, packB_op])
theorem Coded.vadd (p : Pred) (ty : BitVec 4) (d : BitVec 6) (a : BitVec 6) (b : BitVec 6) : Coded.Statement (.vadd p ty d a b) :=
  coded_of rfl (by simp [rawDecode, raw18, packR_op, packR_d, packR_a, packR_b, packR_c, packR_fn, packR_ty, packR_md, packR_pred]) (by simp [majors, packR_op])
theorem Coded.vsub (p : Pred) (ty : BitVec 4) (d : BitVec 6) (a : BitVec 6) (b : BitVec 6) : Coded.Statement (.vsub p ty d a b) :=
  coded_of rfl (by simp [rawDecode, raw18, packR_op, packR_d, packR_a, packR_b, packR_c, packR_fn, packR_ty, packR_md, packR_pred]) (by simp [majors, packR_op])
theorem Coded.vmul (p : Pred) (ty : BitVec 4) (d : BitVec 6) (a : BitVec 6) (b : BitVec 6) : Coded.Statement (.vmul p ty d a b) :=
  coded_of rfl (by simp [rawDecode, raw18, packR_op, packR_d, packR_a, packR_b, packR_c, packR_fn, packR_ty, packR_md, packR_pred]) (by simp [majors, packR_op])
theorem Coded.vmulh (p : Pred) (ty : BitVec 4) (d : BitVec 6) (a : BitVec 6) (b : BitVec 6) : Coded.Statement (.vmulh p ty d a b) :=
  coded_of rfl (by simp [rawDecode, raw18, packR_op, packR_d, packR_a, packR_b, packR_c, packR_fn, packR_ty, packR_md, packR_pred]) (by simp [majors, packR_op])
theorem Coded.vand (p : Pred) (d : BitVec 6) (a : BitVec 6) (b : BitVec 6) : Coded.Statement (.vand p d a b) :=
  coded_of rfl (by simp [rawDecode, raw18, packR_op, packR_d, packR_a, packR_b, packR_c, packR_fn, packR_ty, packR_md, packR_pred]) (by simp [majors, packR_op])
theorem Coded.vor (p : Pred) (d : BitVec 6) (a : BitVec 6) (b : BitVec 6) : Coded.Statement (.vor p d a b) :=
  coded_of rfl (by simp [rawDecode, raw18, packR_op, packR_d, packR_a, packR_b, packR_c, packR_fn, packR_ty, packR_md, packR_pred]) (by simp [majors, packR_op])
theorem Coded.vxor (p : Pred) (d : BitVec 6) (a : BitVec 6) (b : BitVec 6) : Coded.Statement (.vxor p d a b) :=
  coded_of rfl (by simp [rawDecode, raw18, packR_op, packR_d, packR_a, packR_b, packR_c, packR_fn, packR_ty, packR_md, packR_pred]) (by simp [majors, packR_op])
theorem Coded.vshl (p : Pred) (ty : BitVec 4) (d : BitVec 6) (a : BitVec 6) (b : BitVec 6) : Coded.Statement (.vshl p ty d a b) :=
  coded_of rfl (by simp [rawDecode, raw18, packR_op, packR_d, packR_a, packR_b, packR_c, packR_fn, packR_ty, packR_md, packR_pred]) (by simp [majors, packR_op])
theorem Coded.vshr (p : Pred) (ty : BitVec 4) (d : BitVec 6) (a : BitVec 6) (b : BitVec 6) : Coded.Statement (.vshr p ty d a b) :=
  coded_of rfl (by simp [rawDecode, raw18, packR_op, packR_d, packR_a, packR_b, packR_c, packR_fn, packR_ty, packR_md, packR_pred]) (by simp [majors, packR_op])
theorem Coded.vsar (p : Pred) (ty : BitVec 4) (d : BitVec 6) (a : BitVec 6) (b : BitVec 6) : Coded.Statement (.vsar p ty d a b) :=
  coded_of rfl (by simp [rawDecode, raw18, packR_op, packR_d, packR_a, packR_b, packR_c, packR_fn, packR_ty, packR_md, packR_pred]) (by simp [majors, packR_op])
theorem Coded.vmin (p : Pred) (ty : BitVec 4) (d : BitVec 6) (a : BitVec 6) (b : BitVec 6) : Coded.Statement (.vmin p ty d a b) :=
  coded_of rfl (by simp [rawDecode, raw18, packR_op, packR_d, packR_a, packR_b, packR_c, packR_fn, packR_ty, packR_md, packR_pred]) (by simp [majors, packR_op])
theorem Coded.vmax (p : Pred) (ty : BitVec 4) (d : BitVec 6) (a : BitVec 6) (b : BitVec 6) : Coded.Statement (.vmax p ty d a b) :=
  coded_of rfl (by simp [rawDecode, raw18, packR_op, packR_d, packR_a, packR_b, packR_c, packR_fn, packR_ty, packR_md, packR_pred]) (by simp [majors, packR_op])
theorem Coded.vabs (p : Pred) (ty : BitVec 4) (d : BitVec 6) (a : BitVec 6) : Coded.Statement (.vabs p ty d a) :=
  coded_of rfl (by simp [rawDecode, raw18, packR_op, packR_d, packR_a, packR_b, packR_c, packR_fn, packR_ty, packR_md, packR_pred]) (by simp [majors, packR_op])
theorem Coded.vsel (p : Pred) (d : BitVec 6) (a : BitVec 6) (b : BitVec 6) (c : BitVec 6) : Coded.Statement (.vsel p d a b c) :=
  coded_of rfl (by simp [rawDecode, raw18, packR_op, packR_d, packR_a, packR_b, packR_c, packR_fn, packR_ty, packR_md, packR_pred]) (by simp [majors, packR_op])
theorem Coded.vsplat (p : Pred) (d : BitVec 6) (a : BitVec 6) : Coded.Statement (.vsplat p d a) :=
  coded_of rfl (by simp [rawDecode, raw18, packR_op, packR_d, packR_a, packR_b, packR_c, packR_fn, packR_ty, packR_md, packR_pred]) (by simp [majors, packR_op])
theorem Coded.viota (p : Pred) (d : BitVec 6) (a : BitVec 6) : Coded.Statement (.viota p d a) :=
  coded_of rfl (by simp [rawDecode, raw18, packR_op, packR_d, packR_a, packR_b, packR_c, packR_fn, packR_ty, packR_md, packR_pred]) (by simp [majors, packR_op])
theorem Coded.vmov (p : Pred) (d : BitVec 6) (a : BitVec 6) : Coded.Statement (.vmov p d a) :=
  coded_of rfl (by simp [rawDecode, raw18, packR_op, packR_d, packR_a, packR_b, packR_c, packR_fn, packR_ty, packR_md, packR_pred]) (by simp [majors, packR_op])
theorem Coded.vclz (p : Pred) (ty : BitVec 4) (d : BitVec 6) (a : BitVec 6) : Coded.Statement (.vclz p ty d a) :=
  coded_of rfl (by simp [rawDecode, raw18, packR_op, packR_d, packR_a, packR_b, packR_c, packR_fn, packR_ty, packR_md, packR_pred]) (by simp [majors, packR_op])
theorem Coded.vfadd (p : Pred) (ty : BitVec 4) (md : BitVec 4) (d : BitVec 6) (a : BitVec 6) (b : BitVec 6) : Coded.Statement (.vfadd p ty md d a b) :=
  coded_of rfl (by simp [rawDecode, raw19, packR_op, packR_d, packR_a, packR_b, packR_c, packR_fn, packR_ty, packR_md, packR_pred]) (by simp [majors, packR_op])
theorem Coded.vfsub (p : Pred) (ty : BitVec 4) (md : BitVec 4) (d : BitVec 6) (a : BitVec 6) (b : BitVec 6) : Coded.Statement (.vfsub p ty md d a b) :=
  coded_of rfl (by simp [rawDecode, raw19, packR_op, packR_d, packR_a, packR_b, packR_c, packR_fn, packR_ty, packR_md, packR_pred]) (by simp [majors, packR_op])
theorem Coded.vfmul (p : Pred) (ty : BitVec 4) (md : BitVec 4) (d : BitVec 6) (a : BitVec 6) (b : BitVec 6) : Coded.Statement (.vfmul p ty md d a b) :=
  coded_of rfl (by simp [rawDecode, raw19, packR_op, packR_d, packR_a, packR_b, packR_c, packR_fn, packR_ty, packR_md, packR_pred]) (by simp [majors, packR_op])
theorem Coded.vfma (p : Pred) (ty : BitVec 4) (md : BitVec 4) (d : BitVec 6) (a : BitVec 6) (b : BitVec 6) (c : BitVec 6) : Coded.Statement (.vfma p ty md d a b c) :=
  coded_of rfl (by simp [rawDecode, raw19, packR_op, packR_d, packR_a, packR_b, packR_c, packR_fn, packR_ty, packR_md, packR_pred]) (by simp [majors, packR_op])
theorem Coded.vfmin (p : Pred) (ty : BitVec 4) (md : BitVec 4) (d : BitVec 6) (a : BitVec 6) (b : BitVec 6) : Coded.Statement (.vfmin p ty md d a b) :=
  coded_of rfl (by simp [rawDecode, raw19, packR_op, packR_d, packR_a, packR_b, packR_c, packR_fn, packR_ty, packR_md, packR_pred]) (by simp [majors, packR_op])
theorem Coded.vfmax (p : Pred) (ty : BitVec 4) (md : BitVec 4) (d : BitVec 6) (a : BitVec 6) (b : BitVec 6) : Coded.Statement (.vfmax p ty md d a b) :=
  coded_of rfl (by simp [rawDecode, raw19, packR_op, packR_d, packR_a, packR_b, packR_c, packR_fn, packR_ty, packR_md, packR_pred]) (by simp [majors, packR_op])
theorem Coded.vfabs (p : Pred) (ty : BitVec 4) (md : BitVec 4) (d : BitVec 6) (a : BitVec 6) : Coded.Statement (.vfabs p ty md d a) :=
  coded_of rfl (by simp [rawDecode, raw19, packR_op, packR_d, packR_a, packR_b, packR_c, packR_fn, packR_ty, packR_md, packR_pred]) (by simp [majors, packR_op])
theorem Coded.vfneg (p : Pred) (ty : BitVec 4) (md : BitVec 4) (d : BitVec 6) (a : BitVec 6) : Coded.Statement (.vfneg p ty md d a) :=
  coded_of rfl (by simp [rawDecode, raw19, packR_op, packR_d, packR_a, packR_b, packR_c, packR_fn, packR_ty, packR_md, packR_pred]) (by simp [majors, packR_op])
theorem Coded.vfcvt (p : Pred) (dst : BitVec 4) (md : BitVec 4) (d : BitVec 6) (a : BitVec 6) (src : BitVec 6) (part : BitVec 6) : Coded.Statement (.vfcvt p dst md d a src part) :=
  coded_of rfl (by simp [rawDecode, raw19, packR_op, packR_d, packR_a, packR_b, packR_c, packR_fn, packR_ty, packR_md, packR_pred]) (by simp [majors, packR_op])
theorem Coded.vexp2 (p : Pred) (md : BitVec 4) (d : BitVec 6) (a : BitVec 6) : Coded.Statement (.vexp2 p md d a) :=
  coded_of rfl (by simp [rawDecode, raw19, packR_op, packR_d, packR_a, packR_b, packR_c, packR_fn, packR_ty, packR_md, packR_pred]) (by simp [majors, packR_op])
theorem Coded.vlog2 (p : Pred) (md : BitVec 4) (d : BitVec 6) (a : BitVec 6) : Coded.Statement (.vlog2 p md d a) :=
  coded_of rfl (by simp [rawDecode, raw19, packR_op, packR_d, packR_a, packR_b, packR_c, packR_fn, packR_ty, packR_md, packR_pred]) (by simp [majors, packR_op])
theorem Coded.vrcp (p : Pred) (md : BitVec 4) (d : BitVec 6) (a : BitVec 6) : Coded.Statement (.vrcp p md d a) :=
  coded_of rfl (by simp [rawDecode, raw19, packR_op, packR_d, packR_a, packR_b, packR_c, packR_fn, packR_ty, packR_md, packR_pred]) (by simp [majors, packR_op])
theorem Coded.vrsq (p : Pred) (md : BitVec 4) (d : BitVec 6) (a : BitVec 6) : Coded.Statement (.vrsq p md d a) :=
  coded_of rfl (by simp [rawDecode, raw19, packR_op, packR_d, packR_a, packR_b, packR_c, packR_fn, packR_ty, packR_md, packR_pred]) (by simp [majors, packR_op])
theorem Coded.vfscl (p : Pred) (ty : BitVec 4) (md : BitVec 4) (d : BitVec 6) (a : BitVec 6) (b : BitVec 6) : Coded.Statement (.vfscl p ty md d a b) :=
  coded_of rfl (by simp [rawDecode, raw19, packR_op, packR_d, packR_a, packR_b, packR_c, packR_fn, packR_ty, packR_md, packR_pred]) (by simp [majors, packR_op])
theorem Coded.vcmp (p : Pred) (ty : BitVec 4) (cond : BitVec 4) (d : BitVec 6) (a : BitVec 6) (b : BitVec 6) : Coded.Statement (.vcmp p ty cond d a b) :=
  coded_of rfl (by simp [rawDecode, raw1A, packR_op, packR_d, packR_a, packR_b, packR_c, packR_fn, packR_ty, packR_md, packR_pred]) (by simp [majors, packR_op])
theorem Coded.vfcmp (p : Pred) (ty : BitVec 4) (cond : BitVec 4) (d : BitVec 6) (a : BitVec 6) (b : BitVec 6) : Coded.Statement (.vfcmp p ty cond d a b) :=
  coded_of rfl (by simp [rawDecode, raw1A, packR_op, packR_d, packR_a, packR_b, packR_c, packR_fn, packR_ty, packR_md, packR_pred]) (by simp [majors, packR_op])
theorem Coded.mand (p : Pred) (d : BitVec 6) (a : BitVec 6) (b : BitVec 6) : Coded.Statement (.mand p d a b) :=
  coded_of rfl (by simp [rawDecode, raw1A, packR_op, packR_d, packR_a, packR_b, packR_c, packR_fn, packR_ty, packR_md, packR_pred]) (by simp [majors, packR_op])
theorem Coded.mor (p : Pred) (d : BitVec 6) (a : BitVec 6) (b : BitVec 6) : Coded.Statement (.mor p d a b) :=
  coded_of rfl (by simp [rawDecode, raw1A, packR_op, packR_d, packR_a, packR_b, packR_c, packR_fn, packR_ty, packR_md, packR_pred]) (by simp [majors, packR_op])
theorem Coded.mxor (p : Pred) (d : BitVec 6) (a : BitVec 6) (b : BitVec 6) : Coded.Statement (.mxor p d a b) :=
  coded_of rfl (by simp [rawDecode, raw1A, packR_op, packR_d, packR_a, packR_b, packR_c, packR_fn, packR_ty, packR_md, packR_pred]) (by simp [majors, packR_op])
theorem Coded.mnot (p : Pred) (d : BitVec 6) (a : BitVec 6) : Coded.Statement (.mnot p d a) :=
  coded_of rfl (by simp [rawDecode, raw1A, packR_op, packR_d, packR_a, packR_b, packR_c, packR_fn, packR_ty, packR_md, packR_pred]) (by simp [majors, packR_op])
theorem Coded.mpopc (p : Pred) (d : BitVec 6) (a : BitVec 6) : Coded.Statement (.mpopc p d a) :=
  coded_of rfl (by simp [rawDecode, raw1A, packR_op, packR_d, packR_a, packR_b, packR_c, packR_fn, packR_ty, packR_md, packR_pred]) (by simp [majors, packR_op])
theorem Coded.mfirst (p : Pred) (d : BitVec 6) (a : BitVec 6) : Coded.Statement (.mfirst p d a) :=
  coded_of rfl (by simp [rawDecode, raw1A, packR_op, packR_d, packR_a, packR_b, packR_c, packR_fn, packR_ty, packR_md, packR_pred]) (by simp [majors, packR_op])
theorem Coded.mfromg (p : Pred) (d : BitVec 6) (a : BitVec 6) : Coded.Statement (.mfromg p d a) :=
  coded_of rfl (by simp [rawDecode, raw1A, packR_op, packR_d, packR_a, packR_b, packR_c, packR_fn, packR_ty, packR_md, packR_pred]) (by simp [majors, packR_op])
theorem Coded.mtog (p : Pred) (d : BitVec 6) (a : BitVec 6) : Coded.Statement (.mtog p d a) :=
  coded_of rfl (by simp [rawDecode, raw1A, packR_op, packR_d, packR_a, packR_b, packR_c, packR_fn, packR_ty, packR_md, packR_pred]) (by simp [majors, packR_op])
theorem Coded.vshuf (p : Pred) (d : BitVec 6) (a : BitVec 6) (b : BitVec 6) : Coded.Statement (.vshuf p d a b) :=
  coded_of rfl (by simp [rawDecode, raw1B, packR_op, packR_d, packR_a, packR_b, packR_c, packR_fn, packR_ty, packR_md, packR_pred]) (by simp [majors, packR_op])
theorem Coded.vrot (p : Pred) (d : BitVec 6) (a : BitVec 6) (b : BitVec 6) : Coded.Statement (.vrot p d a b) :=
  coded_of rfl (by simp [rawDecode, raw1B, packR_op, packR_d, packR_a, packR_b, packR_c, packR_fn, packR_ty, packR_md, packR_pred]) (by simp [majors, packR_op])
theorem Coded.vbcast (p : Pred) (d : BitVec 6) (a : BitVec 6) (b : BitVec 6) : Coded.Statement (.vbcast p d a b) :=
  coded_of rfl (by simp [rawDecode, raw1B, packR_op, packR_d, packR_a, packR_b, packR_c, packR_fn, packR_ty, packR_md, packR_pred]) (by simp [majors, packR_op])
theorem Coded.vext (p : Pred) (d : BitVec 6) (a : BitVec 6) (b : BitVec 6) : Coded.Statement (.vext p d a b) :=
  coded_of rfl (by simp [rawDecode, raw1B, packR_op, packR_d, packR_a, packR_b, packR_c, packR_fn, packR_ty, packR_md, packR_pred]) (by simp [majors, packR_op])
theorem Coded.vins (p : Pred) (d : BitVec 6) (a : BitVec 6) (b : BitVec 6) : Coded.Statement (.vins p d a b) :=
  coded_of rfl (by simp [rawDecode, raw1B, packR_op, packR_d, packR_a, packR_b, packR_c, packR_fn, packR_ty, packR_md, packR_pred]) (by simp [majors, packR_op])
theorem Coded.vredadd (p : Pred) (ty : BitVec 4) (md : BitVec 4) (d : BitVec 6) (a : BitVec 6) : Coded.Statement (.vredadd p ty md d a) :=
  coded_of rfl (by simp [rawDecode, raw1B, packR_op, packR_d, packR_a, packR_b, packR_c, packR_fn, packR_ty, packR_md, packR_pred]) (by simp [majors, packR_op])
theorem Coded.vredmax (p : Pred) (ty : BitVec 4) (d : BitVec 6) (a : BitVec 6) : Coded.Statement (.vredmax p ty d a) :=
  coded_of rfl (by simp [rawDecode, raw1B, packR_op, packR_d, packR_a, packR_b, packR_c, packR_fn, packR_ty, packR_md, packR_pred]) (by simp [majors, packR_op])
theorem Coded.vredmin (p : Pred) (ty : BitVec 4) (d : BitVec 6) (a : BitVec 6) : Coded.Statement (.vredmin p ty d a) :=
  coded_of rfl (by simp [rawDecode, raw1B, packR_op, packR_d, packR_a, packR_b, packR_c, packR_fn, packR_ty, packR_md, packR_pred]) (by simp [majors, packR_op])
theorem Coded.vargmax (p : Pred) (d : BitVec 6) (a : BitVec 6) : Coded.Statement (.vargmax p d a) :=
  coded_of rfl (by simp [rawDecode, raw1B, packR_op, packR_d, packR_a, packR_b, packR_c, packR_fn, packR_ty, packR_md, packR_pred]) (by simp [majors, packR_op])
theorem Coded.vscan (p : Pred) (ty : BitVec 4) (md : BitVec 4) (d : BitVec 6) (a : BitVec 6) : Coded.Statement (.vscan p ty md d a) :=
  coded_of rfl (by simp [rawDecode, raw1B, packR_op, packR_d, packR_a, packR_b, packR_c, packR_fn, packR_ty, packR_md, packR_pred]) (by simp [majors, packR_op])
theorem Coded.vcompact (p : Pred) (d : BitVec 6) (a : BitVec 6) (b : BitVec 6) : Coded.Statement (.vcompact p d a b) :=
  coded_of rfl (by simp [rawDecode, raw1B, packR_op, packR_d, packR_a, packR_b, packR_c, packR_fn, packR_ty, packR_md, packR_pred]) (by simp [majors, packR_op])
theorem Coded.vrng (p : Pred) (d : BitVec 6) (a : BitVec 6) (b : BitVec 6) (c : BitVec 6) : Coded.Statement (.vrng p d a b c) :=
  coded_of rfl (by simp [rawDecode, raw1B, packR_op, packR_d, packR_a, packR_b, packR_c, packR_fn, packR_ty, packR_md, packR_pred]) (by simp [majors, packR_op])
theorem Coded.ld (p : Pred) (sz : BitVec 3) (d : BitVec 6) (base : BitVec 6) (idx : BitVec 6) (disp : BitVec 24) : Coded.Statement (.ld p sz d base idx disp) :=
  coded_of rfl (by simp [rawDecode, raw20, packM_op, packM_d, packM_base, packM_idx, packM_sz, packM_fn, packM_md, packM_disp, packM_pred]) (by simp [majors, packM_op])
theorem Coded.vld (p : Pred) (d : BitVec 6) (base : BitVec 6) (idx : BitVec 6) (disp : BitVec 24) : Coded.Statement (.vld p d base idx disp) :=
  coded_of rfl (by simp [rawDecode, raw20, packM_op, packM_d, packM_base, packM_idx, packM_sz, packM_fn, packM_md, packM_disp, packM_pred]) (by simp [majors, packM_op])
theorem Coded.vldg (p : Pred) (d : BitVec 6) (base : BitVec 6) (idx : BitVec 6) (disp : BitVec 24) : Coded.Statement (.vldg p d base idx disp) :=
  coded_of rfl (by simp [rawDecode, raw20, packM_op, packM_d, packM_base, packM_idx, packM_sz, packM_fn, packM_md, packM_disp, packM_pred]) (by simp [majors, packM_op])
theorem Coded.vldb (p : Pred) (d : BitVec 6) (base : BitVec 6) (idx : BitVec 6) (disp : BitVec 24) : Coded.Statement (.vldb p d base idx disp) :=
  coded_of rfl (by simp [rawDecode, raw20, packM_op, packM_d, packM_base, packM_idx, packM_sz, packM_fn, packM_md, packM_disp, packM_pred]) (by simp [majors, packM_op])
theorem Coded.pref (p : Pred) (base : BitVec 6) (idx : BitVec 6) (disp : BitVec 24) : Coded.Statement (.pref p base idx disp) :=
  coded_of rfl (by simp [rawDecode, raw20, packM_op, packM_d, packM_base, packM_idx, packM_sz, packM_fn, packM_md, packM_disp, packM_pred]) (by simp [majors, packM_op])
theorem Coded.st (p : Pred) (sz : BitVec 3) (s : BitVec 6) (base : BitVec 6) (idx : BitVec 6) (disp : BitVec 24) : Coded.Statement (.st p sz s base idx disp) :=
  coded_of rfl (by simp [rawDecode, raw21, packM_op, packM_d, packM_base, packM_idx, packM_sz, packM_fn, packM_md, packM_disp, packM_pred]) (by simp [majors, packM_op])
theorem Coded.vst (p : Pred) (s : BitVec 6) (base : BitVec 6) (idx : BitVec 6) (disp : BitVec 24) : Coded.Statement (.vst p s base idx disp) :=
  coded_of rfl (by simp [rawDecode, raw21, packM_op, packM_d, packM_base, packM_idx, packM_sz, packM_fn, packM_md, packM_disp, packM_pred]) (by simp [majors, packM_op])
theorem Coded.vsts (p : Pred) (s : BitVec 6) (base : BitVec 6) (idx : BitVec 6) (disp : BitVec 24) : Coded.Statement (.vsts p s base idx disp) :=
  coded_of rfl (by simp [rawDecode, raw21, packM_op, packM_d, packM_base, packM_idx, packM_sz, packM_fn, packM_md, packM_disp, packM_pred]) (by simp [majors, packM_op])
theorem Coded.aadd (p : Pred) (sz : BitVec 3) (d : BitVec 6) (base : BitVec 6) (idx : BitVec 6) (disp : BitVec 24) : Coded.Statement (.aadd p sz d base idx disp) :=
  coded_of rfl (by simp [rawDecode, raw22, packM_op, packM_d, packM_base, packM_idx, packM_sz, packM_fn, packM_md, packM_disp, packM_pred]) (by simp [majors, packM_op])
theorem Coded.amin (p : Pred) (sz : BitVec 3) (md : BitVec 4) (d : BitVec 6) (base : BitVec 6) (idx : BitVec 6) (disp : BitVec 24) : Coded.Statement (.amin p sz md d base idx disp) :=
  coded_of rfl (by simp [rawDecode, raw22, packM_op, packM_d, packM_base, packM_idx, packM_sz, packM_fn, packM_md, packM_disp, packM_pred]) (by simp [majors, packM_op])
theorem Coded.amax (p : Pred) (sz : BitVec 3) (md : BitVec 4) (d : BitVec 6) (base : BitVec 6) (idx : BitVec 6) (disp : BitVec 24) : Coded.Statement (.amax p sz md d base idx disp) :=
  coded_of rfl (by simp [rawDecode, raw22, packM_op, packM_d, packM_base, packM_idx, packM_sz, packM_fn, packM_md, packM_disp, packM_pred]) (by simp [majors, packM_op])
theorem Coded.aand (p : Pred) (sz : BitVec 3) (d : BitVec 6) (base : BitVec 6) (idx : BitVec 6) (disp : BitVec 24) : Coded.Statement (.aand p sz d base idx disp) :=
  coded_of rfl (by simp [rawDecode, raw22, packM_op, packM_d, packM_base, packM_idx, packM_sz, packM_fn, packM_md, packM_disp, packM_pred]) (by simp [majors, packM_op])
theorem Coded.aor (p : Pred) (sz : BitVec 3) (d : BitVec 6) (base : BitVec 6) (idx : BitVec 6) (disp : BitVec 24) : Coded.Statement (.aor p sz d base idx disp) :=
  coded_of rfl (by simp [rawDecode, raw22, packM_op, packM_d, packM_base, packM_idx, packM_sz, packM_fn, packM_md, packM_disp, packM_pred]) (by simp [majors, packM_op])
theorem Coded.axor (p : Pred) (sz : BitVec 3) (d : BitVec 6) (base : BitVec 6) (idx : BitVec 6) (disp : BitVec 24) : Coded.Statement (.axor p sz d base idx disp) :=
  coded_of rfl (by simp [rawDecode, raw22, packM_op, packM_d, packM_base, packM_idx, packM_sz, packM_fn, packM_md, packM_disp, packM_pred]) (by simp [majors, packM_op])
theorem Coded.axchg (p : Pred) (sz : BitVec 3) (d : BitVec 6) (base : BitVec 6) (idx : BitVec 6) (disp : BitVec 24) : Coded.Statement (.axchg p sz d base idx disp) :=
  coded_of rfl (by simp [rawDecode, raw22, packM_op, packM_d, packM_base, packM_idx, packM_sz, packM_fn, packM_md, packM_disp, packM_pred]) (by simp [majors, packM_op])
theorem Coded.acas (p : Pred) (sz : BitVec 3) (d : BitVec 6) (base : BitVec 6) (idx : BitVec 6) (disp : BitVec 24) : Coded.Statement (.acas p sz d base idx disp) :=
  coded_of rfl (by simp [rawDecode, raw22, packM_op, packM_d, packM_base, packM_idx, packM_sz, packM_fn, packM_md, packM_disp, packM_pred]) (by simp [majors, packM_op])
theorem Coded.vaadd (p : Pred) (d : BitVec 6) (base : BitVec 6) (idx : BitVec 6) (disp : BitVec 24) : Coded.Statement (.vaadd p d base idx disp) :=
  coded_of rfl (by simp [rawDecode, raw23, packM_op, packM_d, packM_base, packM_idx, packM_sz, packM_fn, packM_md, packM_disp, packM_pred]) (by simp [majors, packM_op])
theorem Coded.vamax (p : Pred) (d : BitVec 6) (base : BitVec 6) (idx : BitVec 6) (disp : BitVec 24) : Coded.Statement (.vamax p d base idx disp) :=
  coded_of rfl (by simp [rawDecode, raw23, packM_op, packM_d, packM_base, packM_idx, packM_sz, packM_fn, packM_md, packM_disp, packM_pred]) (by simp [majors, packM_op])
theorem Coded.fence (scope : BitVec 4) (cnt : BitVec 2) (kind : BitVec 2) (form : BitVec 4) (e0 : BitVec 11) (e1 : BitVec 11) (e2 : BitVec 11) (e3 : BitVec 11) : Coded.Statement (.fence scope cnt kind form e0 e1 e2 e3) :=
  coded_of rfl (by simp [rawDecode, raw28, packF_op, packF_scope, packF_cnt, packF_kind, packF_form, packF_e0, packF_e1, packF_e2, packF_e3]) (by simp [majors, packF_op])
theorem Coded.bar (p : Pred) (scope : BitVec 4) (id : BitVec 32) : Coded.Statement (.bar p scope id) :=
  coded_of rfl (by simp [rawDecode, raw29, packI_op, packI_d, packI_a, packI_fn, packI_md, packI_imm, packI_pred]) (by simp [majors, packI_op])
theorem Coded.bara (p : Pred) (scope : BitVec 4) (d : BitVec 6) (id : BitVec 32) : Coded.Statement (.bara p scope d id) :=
  coded_of rfl (by simp [rawDecode, raw29, packI_op, packI_d, packI_a, packI_fn, packI_md, packI_imm, packI_pred]) (by simp [majors, packI_op])
theorem Coded.barw (p : Pred) (scope : BitVec 4) (id : BitVec 32) : Coded.Statement (.barw p scope id) :=
  coded_of rfl (by simp [rawDecode, raw29, packI_op, packI_d, packI_a, packI_fn, packI_md, packI_imm, packI_pred]) (by simp [majors, packI_op])
theorem Coded.barx (p : Pred) (scope : BitVec 4) (a : BitVec 6) (id : BitVec 32) : Coded.Statement (.barx p scope a id) :=
  coded_of rfl (by simp [rawDecode, raw29, packI_op, packI_d, packI_a, packI_fn, packI_md, packI_imm, packI_pred]) (by simp [majors, packI_op])
theorem Coded.barset (p : Pred) (scope : BitVec 4) (a : BitVec 6) (id : BitVec 32) : Coded.Statement (.barset p scope a id) :=
  coded_of rfl (by simp [rawDecode, raw29, packI_op, packI_d, packI_a, packI_fn, packI_md, packI_imm, packI_pred]) (by simp [majors, packI_op])
theorem Coded.lgfence (scope : BitVec 4) (cnt : BitVec 2) (e0 : BitVec 11) (e1 : BitVec 11) (e2 : BitVec 11) (e3 : BitVec 11) : Coded.Statement (.lgfence scope cnt e0 e1 e2 e3) :=
  coded_of rfl (by simp [rawDecode, raw2A, packF_op, packF_scope, packF_cnt, packF_kind, packF_form, packF_e0, packF_e1, packF_e2, packF_e3]) (by simp [majors, packF_op])
theorem Coded.cbind (p : Pred) (h : BitVec 4) (gx : BitVec 6) (ce : BitVec 16) : Coded.Statement (.cbind p h gx ce) :=
  coded_of rfl (by simp [rawDecode, raw30, packH_op, packH_h, packH_gx, packH_gy, packH_n, packH_fn, packH_md, packH_imm, packH_pred]) (by simp [majors, packH_op])
theorem Coded.cwait (p : Pred) (h : BitVec 4) (gx : BitVec 6) (n : BitVec 8) : Coded.Statement (.cwait p h gx n) :=
  coded_of rfl (by simp [rawDecode, raw30, packH_op, packH_h, packH_gx, packH_gy, packH_n, packH_fn, packH_md, packH_imm, packH_pred]) (by simp [majors, packH_op])
theorem Coded.cresv (p : Pred) (h : BitVec 4) (gx : BitVec 6) (n : BitVec 8) : Coded.Statement (.cresv p h gx n) :=
  coded_of rfl (by simp [rawDecode, raw30, packH_op, packH_h, packH_gx, packH_gy, packH_n, packH_fn, packH_md, packH_imm, packH_pred]) (by simp [majors, packH_op])
theorem Coded.cpush (p : Pred) (h : BitVec 4) (gx : BitVec 6) (off : BitVec 16) : Coded.Statement (.cpush p h gx off) :=
  coded_of rfl (by simp [rawDecode, raw30, packH_op, packH_h, packH_gx, packH_gy, packH_n, packH_fn, packH_md, packH_imm, packH_pred]) (by simp [majors, packH_op])
theorem Coded.cpeek (p : Pred) (h : BitVec 4) (gx : BitVec 6) (gy : BitVec 6) (off : BitVec 16) : Coded.Statement (.cpeek p h gx gy off) :=
  coded_of rfl (by simp [rawDecode, raw30, packH_op, packH_h, packH_gx, packH_gy, packH_n, packH_fn, packH_md, packH_imm, packH_pred]) (by simp [majors, packH_op])
theorem Coded.cpadv (p : Pred) (h : BitVec 4) (gx : BitVec 6) (n : BitVec 8) : Coded.Statement (.cpadv p h gx n) :=
  coded_of rfl (by simp [rawDecode, raw30, packH_op, packH_h, packH_gx, packH_gy, packH_n, packH_fn, packH_md, packH_imm, packH_pred]) (by simp [majors, packH_op])
theorem Coded.ccadv (p : Pred) (h : BitVec 4) (gx : BitVec 6) (n : BitVec 8) : Coded.Statement (.ccadv p h gx n) :=
  coded_of rfl (by simp [rawDecode, raw30, packH_op, packH_h, packH_gx, packH_gy, packH_n, packH_fn, packH_md, packH_imm, packH_pred]) (by simp [majors, packH_op])
theorem Coded.cmark (p : Pred) (h : BitVec 4) (gx : BitVec 6) (rank : BitVec 8) (off : BitVec 16) : Coded.Statement (.cmark p h gx rank off) :=
  coded_of rfl (by simp [rawDecode, raw30, packH_op, packH_h, packH_gx, packH_gy, packH_n, packH_fn, packH_md, packH_imm, packH_pred]) (by simp [majors, packH_op])
theorem Coded.cstat (p : Pred) (h : BitVec 4) (gx : BitVec 6) : Coded.Statement (.cstat p h gx) :=
  coded_of rfl (by simp [rawDecode, raw30, packH_op, packH_h, packH_gx, packH_gy, packH_n, packH_fn, packH_md, packH_imm, packH_pred]) (by simp [majors, packH_op])
theorem Coded.ksend (p : Pred) (gx : BitVec 6) (route : BitVec 8) : Coded.Statement (.ksend p gx route) :=
  coded_of rfl (by simp [rawDecode, raw31, packH_op, packH_h, packH_gx, packH_gy, packH_n, packH_fn, packH_md, packH_imm, packH_pred]) (by simp [majors, packH_op])
theorem Coded.kpoll (p : Pred) (port : BitVec 4) (gx : BitVec 6) : Coded.Statement (.kpoll p port gx) :=
  coded_of rfl (by simp [rawDecode, raw31, packH_op, packH_h, packH_gx, packH_gy, packH_n, packH_fn, packH_md, packH_imm, packH_pred]) (by simp [majors, packH_op])
theorem Coded.cpy (a : BitVec 6) (b : BitVec 6) (c : BitVec 6) (bs : BitVec 6) (tid : BitVec 11) (flags : BitVec 13) : Coded.Statement (.cpy a b c bs tid flags) :=
  coded_of rfl (by simp [rawDecode, raw38, packX_op, packX_a, packX_b, packX_c, packX_bs, packX_fn, packX_tid, packX_part, packX_bit, packX_get, low1, low2, low3, bit2, bit2b, abindFn, abindHi]) (by simp [majors, packX_op])
theorem Coded.cpym (a : BitVec 6) (b : BitVec 6) (c : BitVec 6) (bs : BitVec 6) (tid : BitVec 11) (form : BitVec 1) : Coded.Statement (.cpym a b c bs tid form) :=
  coded_of rfl (by simp [rawDecode, raw38, packX_op, packX_a, packX_b, packX_c, packX_bs, packX_fn, packX_tid, packX_part, packX_bit, packX_get, low1, low2, low3, bit2, bit2b, abindFn, abindHi]) (by simp [majors, packX_op])
theorem Coded.cpys (a : BitVec 6) (b : BitVec 6) (c : BitVec 6) (tid : BitVec 11) (acc : BitVec 3) : Coded.Statement (.cpys a b c tid acc) :=
  coded_of rfl (by simp [rawDecode, raw38, packX_op, packX_a, packX_b, packX_c, packX_bs, packX_fn, packX_tid, packX_part, packX_bit, packX_get, low1, low2, low3, bit2, bit2b, abindFn, abindHi]) (by simp [majors, packX_op])
theorem Coded.bfwait (bs : BitVec 6) : Coded.Statement (.bfwait bs) :=
  coded_of rfl (by simp [rawDecode, raw38, packX_op, packX_a, packX_b, packX_c, packX_bs, packX_fn, packX_tid, packX_part, packX_bit, packX_get, low1, low2, low3, bit2, bit2b, abindFn, abindHi]) (by simp [majors, packX_op])
theorem Coded.bfrel (bs : BitVec 6) : Coded.Statement (.bfrel bs) :=
  coded_of rfl (by simp [rawDecode, raw38, packX_op, packX_a, packX_b, packX_c, packX_bs, packX_fn, packX_tid, packX_part, packX_bit, packX_get, low1, low2, low3, bit2, bit2b, abindFn, abindHi]) (by simp [majors, packX_op])
theorem Coded.bfstat (a : BitVec 6) (bs : BitVec 6) : Coded.Statement (.bfstat a bs) :=
  coded_of rfl (by simp [rawDecode, raw38, packX_op, packX_a, packX_b, packX_c, packX_bs, packX_fn, packX_tid, packX_part, packX_bit, packX_get, low1, low2, low3, bit2, bit2b, abindFn, abindHi]) (by simp [majors, packX_op])
theorem Coded.bfarm (a : BitVec 6) (b : BitVec 6) (c : BitVec 6) (bs : BitVec 6) (tid : BitVec 11) (form : BitVec 2) : Coded.Statement (.bfarm a b c bs tid form) :=
  coded_of rfl (by simp [rawDecode, raw38, packX_op, packX_a, packX_b, packX_c, packX_bs, packX_fn, packX_tid, packX_part, packX_bit, packX_get, low1, low2, low3, bit2, bit2b, abindFn, abindHi]) (by simp [majors, packX_op])
theorem Coded.bfarmDisarm (bs : BitVec 6) : Coded.Statement (.bfarmDisarm bs) :=
  coded_of rfl (by simp [rawDecode, raw38, packX_op, packX_a, packX_b, packX_c, packX_bs, packX_fn, packX_tid, packX_part, packX_bit, packX_get, low1, low2, low3, bit2, bit2b, abindFn, abindHi]) (by simp [majors, packX_op])
theorem Coded.mma (acc : BitVec 6) (bs : BitVec 6) (tid : BitVec 11) : Coded.Statement (.mma acc bs tid) :=
  coded_of rfl (by simp [rawDecode, raw39, packX_op, packX_a, packX_b, packX_c, packX_bs, packX_fn, packX_tid, packX_part, packX_bit, packX_get, low1, low2, low3, bit2, bit2b, abindFn, abindHi]) (by simp [majors, packX_op])
theorem Coded.mmaz (acc : BitVec 6) (bs : BitVec 6) (tid : BitVec 11) : Coded.Statement (.mmaz acc bs tid) :=
  coded_of rfl (by simp [rawDecode, raw39, packX_op, packX_a, packX_b, packX_c, packX_bs, packX_fn, packX_tid, packX_part, packX_bit, packX_get, low1, low2, low3, bit2, bit2b, abindFn, abindHi]) (by simp [majors, packX_op])
theorem Coded.mdrain (acc : BitVec 6) (b : BitVec 6) (bs : BitVec 6) (tid : BitVec 11) (flags : BitVec 3) : Coded.Statement (.mdrain acc b bs tid flags) :=
  coded_of rfl (by simp [rawDecode, raw39, packX_op, packX_a, packX_b, packX_c, packX_bs, packX_fn, packX_tid, packX_part, packX_bit, packX_get, low1, low2, low3, bit2, bit2b, abindFn, abindHi]) (by simp [majors, packX_op])
theorem Coded.mldb (bs : BitVec 6) (tid : BitVec 11) : Coded.Statement (.mldb bs tid) :=
  coded_of rfl (by simp [rawDecode, raw39, packX_op, packX_a, packX_b, packX_c, packX_bs, packX_fn, packX_tid, packX_part, packX_bit, packX_get, low1, low2, low3, bit2, bit2b, abindFn, abindHi]) (by simp [majors, packX_op])
theorem Coded.mzero (acc : BitVec 6) : Coded.Statement (.mzero acc) :=
  coded_of rfl (by simp [rawDecode, raw39, packX_op, packX_a, packX_b, packX_c, packX_bs, packX_fn, packX_tid, packX_part, packX_bit, packX_get, low1, low2, low3, bit2, bit2b, abindFn, abindHi]) (by simp [majors, packX_op])
theorem Coded.mstat (a : BitVec 6) : Coded.Statement (.mstat a) :=
  coded_of rfl (by simp [rawDecode, raw39, packX_op, packX_a, packX_b, packX_c, packX_bs, packX_fn, packX_tid, packX_part, packX_bit, packX_get, low1, low2, low3, bit2, bit2b, abindFn, abindHi]) (by simp [majors, packX_op])
theorem Coded.sopen (a : BitVec 6) (b : BitVec 6) (tid : BitVec 11) (dir : BitVec 1) : Coded.Statement (.sopen a b tid dir) :=
  coded_of rfl (by simp [rawDecode, raw3A, packX_op, packX_a, packX_b, packX_c, packX_bs, packX_fn, packX_tid, packX_part, packX_bit, packX_get, low1, low2, low3, bit2, bit2b, abindFn, abindHi]) (by simp [majors, packX_op])
theorem Coded.sclose (a : BitVec 6) : Coded.Statement (.sclose a) :=
  coded_of rfl (by simp [rawDecode, raw3A, packX_op, packX_a, packX_b, packX_c, packX_bs, packX_fn, packX_tid, packX_part, packX_bit, packX_get, low1, low2, low3, bit2, bit2b, abindFn, abindHi]) (by simp [majors, packX_op])
theorem Coded.sstat (a : BitVec 6) (b : BitVec 6) : Coded.Statement (.sstat a b) :=
  coded_of rfl (by simp [rawDecode, raw3A, packX_op, packX_a, packX_b, packX_c, packX_bs, packX_fn, packX_tid, packX_part, packX_bit, packX_get, low1, low2, low3, bit2, bit2b, abindFn, abindHi]) (by simp [majors, packX_op])
theorem Coded.sdrain (a : BitVec 6) (b : BitVec 6) : Coded.Statement (.sdrain a b) :=
  coded_of rfl (by simp [rawDecode, raw3A, packX_op, packX_a, packX_b, packX_c, packX_bs, packX_fn, packX_tid, packX_part, packX_bit, packX_get, low1, low2, low3, bit2, bit2b, abindFn, abindHi]) (by simp [majors, packX_op])
theorem Coded.aload (a : BitVec 6) (tid : BitVec 11) : Coded.Statement (.aload a tid) :=
  coded_of rfl (by simp [rawDecode, raw40, packX_op, packX_a, packX_b, packX_c, packX_bs, packX_fn, packX_tid, packX_part, packX_bit, packX_get, low1, low2, low3, bit2, bit2b, abindFn, abindHi]) (by simp [majors, packX_op])
theorem Coded.abindMaskSink (a : BitVec 6) (tid : BitVec 11) (hi : BitVec 3) : Coded.Statement (.abindMaskSink a tid hi) :=
  coded_of rfl (by simp [rawDecode, raw40, packX_op, packX_a, packX_b, packX_c, packX_bs, packX_fn, packX_tid, packX_part, packX_bit, packX_get, low1, low2, low3, bit2, bit2b, abindFn, abindHi]) (by simp [majors, packX_op])
theorem Coded.abindEventSink (a : BitVec 6) (tid : BitVec 11) (hi : BitVec 3) : Coded.Statement (.abindEventSink a tid hi) :=
  coded_of rfl (by simp [rawDecode, raw40, packX_op, packX_a, packX_b, packX_c, packX_bs, packX_fn, packX_tid, packX_part, packX_bit, packX_get, low1, low2, low3, bit2, bit2b, abindFn, abindHi]) (by simp [majors, packX_op])
theorem Coded.abindTreeSink (a : BitVec 6) (tid : BitVec 11) (hi : BitVec 3) : Coded.Statement (.abindTreeSink a tid hi) :=
  coded_of rfl (by simp [rawDecode, raw40, packX_op, packX_a, packX_b, packX_c, packX_bs, packX_fn, packX_tid, packX_part, packX_bit, packX_get, low1, low2, low3, bit2, bit2b, abindFn, abindHi]) (by simp [majors, packX_op])
theorem Coded.abindSpillArea (a : BitVec 6) (tid : BitVec 11) (hi : BitVec 3) : Coded.Statement (.abindSpillArea a tid hi) :=
  coded_of rfl (by simp [rawDecode, raw40, packX_op, packX_a, packX_b, packX_c, packX_bs, packX_fn, packX_tid, packX_part, packX_bit, packX_get, low1, low2, low3, bit2, bit2b, abindFn, abindHi]) (by simp [majors, packX_op])
theorem Coded.abindLimits (a : BitVec 6) (tid : BitVec 11) (hi : BitVec 3) : Coded.Statement (.abindLimits a tid hi) :=
  coded_of rfl (by simp [rawDecode, raw40, packX_op, packX_a, packX_b, packX_c, packX_bs, packX_fn, packX_tid, packX_part, packX_bit, packX_get, low1, low2, low3, bit2, bit2b, abindFn, abindHi]) (by simp [majors, packX_op])
theorem Coded.abindUnbind (a : BitVec 6) (tid : BitVec 11) (hi : BitVec 3) : Coded.Statement (.abindUnbind a tid hi) :=
  coded_of rfl (by simp [rawDecode, raw40, packX_op, packX_a, packX_b, packX_c, packX_bs, packX_fn, packX_tid, packX_part, packX_bit, packX_get, low1, low2, low3, bit2, bit2b, abindFn, abindHi]) (by simp [majors, packX_op])
theorem Coded.arun (a : BitVec 6) (b : BitVec 6) : Coded.Statement (.arun a b) :=
  coded_of rfl (by simp [rawDecode, raw40, packX_op, packX_a, packX_b, packX_c, packX_bs, packX_fn, packX_tid, packX_part, packX_bit, packX_get, low1, low2, low3, bit2, bit2b, abindFn, abindHi]) (by simp [majors, packX_op])
theorem Coded.astep (a : BitVec 6) (mark : BitVec 1) : Coded.Statement (.astep a mark) :=
  coded_of rfl (by simp [rawDecode, raw40, packX_op, packX_a, packX_b, packX_c, packX_bs, packX_fn, packX_tid, packX_part, packX_bit, packX_get, low1, low2, low3, bit2, bit2b, abindFn, abindHi]) (by simp [majors, packX_op])
theorem Coded.away (tid : BitVec 11) : Coded.Statement (.away tid) :=
  coded_of rfl (by simp [rawDecode, raw40, packX_op, packX_a, packX_b, packX_c, packX_bs, packX_fn, packX_tid, packX_part, packX_bit, packX_get, low1, low2, low3, bit2, bit2b, abindFn, abindHi]) (by simp [majors, packX_op])
theorem Coded.aresume (tid : BitVec 11) : Coded.Statement (.aresume tid) :=
  coded_of rfl (by simp [rawDecode, raw40, packX_op, packX_a, packX_b, packX_c, packX_bs, packX_fn, packX_tid, packX_part, packX_bit, packX_get, low1, low2, low3, bit2, bit2b, abindFn, abindHi]) (by simp [majors, packX_op])
theorem Coded.astat (a : BitVec 6) : Coded.Statement (.astat a) :=
  coded_of rfl (by simp [rawDecode, raw40, packX_op, packX_a, packX_b, packX_c, packX_bs, packX_fn, packX_tid, packX_part, packX_bit, packX_get, low1, low2, low3, bit2, bit2b, abindFn, abindHi]) (by simp [majors, packX_op])
theorem Coded.aclear (unload : BitVec 1) : Coded.Statement (.aclear unload) :=
  coded_of rfl (by simp [rawDecode, raw40, packX_op, packX_a, packX_b, packX_c, packX_bs, packX_fn, packX_tid, packX_part, packX_bit, packX_get, low1, low2, low3, bit2, bit2b, abindFn, abindHi]) (by simp [majors, packX_op])
theorem Coded.glaunch (a : BitVec 6) (b : BitVec 6) (tid : BitVec 11) (flags : BitVec 3) : Coded.Statement (.glaunch a b tid flags) :=
  coded_of rfl (by simp [rawDecode, raw48, packX_op, packX_a, packX_b, packX_c, packX_bs, packX_fn, packX_tid, packX_part, packX_bit, packX_get, low1, low2, low3, bit2, bit2b, abindFn, abindHi]) (by simp [majors, packX_op])
theorem Coded.gdone : Coded.Statement (.gdone) :=
  coded_of rfl (by simp [rawDecode, raw48, packX_op, packX_a, packX_b, packX_c, packX_bs, packX_fn, packX_tid, packX_part, packX_bit, packX_get, low1, low2, low3, bit2, bit2b, abindFn, abindHi]) (by simp [majors, packX_op])
theorem Coded.gparam (a : BitVec 6) (b : BitVec 6) (tid : BitVec 11) : Coded.Statement (.gparam a b tid) :=
  coded_of rfl (by simp [rawDecode, raw48, packX_op, packX_a, packX_b, packX_c, packX_bs, packX_fn, packX_tid, packX_part, packX_bit, packX_get, low1, low2, low3, bit2, bit2b, abindFn, abindHi]) (by simp [majors, packX_op])
theorem Coded.fork (a : BitVec 6) (b : BitVec 6) (c : BitVec 6) (mask : BitVec 3) : Coded.Statement (.fork a b c mask) :=
  coded_of rfl (by simp [rawDecode, raw48, packX_op, packX_a, packX_b, packX_c, packX_bs, packX_fn, packX_tid, packX_part, packX_bit, packX_get, low1, low2, low3, bit2, bit2b, abindFn, abindHi]) (by simp [majors, packX_op])
theorem Coded.join : Coded.Statement (.join) :=
  coded_of rfl (by simp [rawDecode, raw48, packX_op, packX_a, packX_b, packX_c, packX_bs, packX_fn, packX_tid, packX_part, packX_bit, packX_get, low1, low2, low3, bit2, bit2b, abindFn, abindHi]) (by simp [majors, packX_op])
theorem Coded.pqpush (a : BitVec 6) (b : BitVec 6) (c : BitVec 6) : Coded.Statement (.pqpush a b c) :=
  coded_of rfl (by simp [rawDecode, raw48, packX_op, packX_a, packX_b, packX_c, packX_bs, packX_fn, packX_tid, packX_part, packX_bit, packX_get, low1, low2, low3, bit2, bit2b, abindFn, abindHi]) (by simp [majors, packX_op])
theorem Coded.pqpop (a : BitVec 6) (b : BitVec 6) (c : BitVec 6) : Coded.Statement (.pqpop a b c) :=
  coded_of rfl (by simp [rawDecode, raw48, packX_op, packX_a, packX_b, packX_c, packX_bs, packX_fn, packX_tid, packX_part, packX_bit, packX_get, low1, low2, low3, bit2, bit2b, abindFn, abindHi]) (by simp [majors, packX_op])
theorem Coded.trigbindStoreWatch (a : BitVec 6) (b : BitVec 6) (c : BitVec 6) (tid : BitVec 11) : Coded.Statement (.trigbindStoreWatch a b c tid) :=
  coded_of rfl (by simp [rawDecode, raw48, packX_op, packX_a, packX_b, packX_c, packX_bs, packX_fn, packX_tid, packX_part, packX_bit, packX_get, low1, low2, low3, bit2, bit2b, abindFn, abindHi]) (by simp [majors, packX_op])
theorem Coded.trigbindRingWatch (a : BitVec 6) (b : BitVec 6) (c : BitVec 6) (tid : BitVec 11) : Coded.Statement (.trigbindRingWatch a b c tid) :=
  coded_of rfl (by simp [rawDecode, raw48, packX_op, packX_a, packX_b, packX_c, packX_bs, packX_fn, packX_tid, packX_part, packX_bit, packX_get, low1, low2, low3, bit2, bit2b, abindFn, abindHi]) (by simp [majors, packX_op])
theorem Coded.trigbindUnbind (a : BitVec 6) : Coded.Statement (.trigbindUnbind a) :=
  coded_of rfl (by simp [rawDecode, raw48, packX_op, packX_a, packX_b, packX_c, packX_bs, packX_fn, packX_tid, packX_part, packX_bit, packX_get, low1, low2, low3, bit2, bit2b, abindFn, abindHi]) (by simp [majors, packX_op])
theorem Coded.trigfire (a : BitVec 6) : Coded.Statement (.trigfire a) :=
  coded_of rfl (by simp [rawDecode, raw48, packX_op, packX_a, packX_b, packX_c, packX_bs, packX_fn, packX_tid, packX_part, packX_bit, packX_get, low1, low2, low3, bit2, bit2b, abindFn, abindHi]) (by simp [majors, packX_op])
theorem Coded.twbind (a : BitVec 6) (tid : BitVec 11) : Coded.Statement (.twbind a tid) :=
  coded_of rfl (by simp [rawDecode, raw50, packX_op, packX_a, packX_b, packX_c, packX_bs, packX_fn, packX_tid, packX_part, packX_bit, packX_get, low1, low2, low3, bit2, bit2b, abindFn, abindHi]) (by simp [majors, packX_op])
theorem Coded.twbindUnbind (a : BitVec 6) : Coded.Statement (.twbindUnbind a) :=
  coded_of rfl (by simp [rawDecode, raw50, packX_op, packX_a, packX_b, packX_c, packX_bs, packX_fn, packX_tid, packX_part, packX_bit, packX_get, low1, low2, low3, bit2, bit2b, abindFn, abindHi]) (by simp [majors, packX_op])
theorem Coded.twget (a : BitVec 6) (b : BitVec 6) (c : BitVec 6) (nowait : BitVec 1) : Coded.Statement (.twget a b c nowait) :=
  coded_of rfl (by simp [rawDecode, raw50, packX_op, packX_a, packX_b, packX_c, packX_bs, packX_fn, packX_tid, packX_part, packX_bit, packX_get, low1, low2, low3, bit2, bit2b, abindFn, abindHi]) (by simp [majors, packX_op])
theorem Coded.twrel (a : BitVec 6) : Coded.Statement (.twrel a) :=
  coded_of rfl (by simp [rawDecode, raw50, packX_op, packX_a, packX_b, packX_c, packX_bs, packX_fn, packX_tid, packX_part, packX_bit, packX_get, low1, low2, low3, bit2, bit2b, abindFn, abindHi]) (by simp [majors, packX_op])
theorem Coded.twstat (a : BitVec 6) (b : BitVec 6) (sel : BitVec 2) : Coded.Statement (.twstat a b sel) :=
  coded_of rfl (by simp [rawDecode, raw50, packX_op, packX_a, packX_b, packX_c, packX_bs, packX_fn, packX_tid, packX_part, packX_bit, packX_get, low1, low2, low3, bit2, bit2b, abindFn, abindHi]) (by simp [majors, packX_op])
theorem Coded.tickarm (a : BitVec 6) (b : BitVec 6) (tid : BitVec 11) : Coded.Statement (.tickarm a b tid) :=
  coded_of rfl (by simp [rawDecode, raw50, packX_op, packX_a, packX_b, packX_c, packX_bs, packX_fn, packX_tid, packX_part, packX_bit, packX_get, low1, low2, low3, bit2, bit2b, abindFn, abindHi]) (by simp [majors, packX_op])
theorem Coded.tickarmDisarm (a : BitVec 6) : Coded.Statement (.tickarmDisarm a) :=
  coded_of rfl (by simp [rawDecode, raw50, packX_op, packX_a, packX_b, packX_c, packX_bs, packX_fn, packX_tid, packX_part, packX_bit, packX_get, low1, low2, low3, bit2, bit2b, abindFn, abindHi]) (by simp [majors, packX_op])
theorem Coded.tnow (a : BitVec 6) : Coded.Statement (.tnow a) :=
  coded_of rfl (by simp [rawDecode, raw50, packX_op, packX_a, packX_b, packX_c, packX_bs, packX_fn, packX_tid, packX_part, packX_bit, packX_get, low1, low2, low3, bit2, bit2b, abindFn, abindHi]) (by simp [majors, packX_op])
theorem Coded.asyncTrapTaken (k : Nat) : Coded.Statement (.asyncTrapTaken k) := fun _ _ h => nomatch h
theorem Coded.resultLands (k : Nat) (i : Nat) : Coded.Statement (.resultLands k i) := fun _ _ h => nomatch h
theorem Coded.wfeTimeout (k : Nat) : Coded.Statement (.wfeTimeout k) := fun _ _ h => nomatch h
theorem Coded.phaseSelect (team : Nat) : Coded.Statement (.phaseSelect team) := fun _ _ h => nomatch h
theorem Coded.teamStart (team : Nat) : Coded.Statement (.teamStart team) := fun _ _ h => nomatch h
theorem Coded.planeSwap (k : Nat) : Coded.Statement (.planeSwap k) := fun _ _ h => nomatch h
theorem Coded.poolDispatch : Coded.Statement (.poolDispatch) := fun _ _ h => nomatch h
theorem Coded.poolPromote (i : Nat) : Coded.Statement (.poolPromote i) := fun _ _ h => nomatch h
theorem Coded.poolHold (i : Nat) : Coded.Statement (.poolHold i) := fun _ _ h => nomatch h
theorem Coded.teamCompletion (team : Nat) : Coded.Statement (.teamCompletion team) := fun _ _ h => nomatch h
theorem Coded.deadlockSurvey (team : Nat) : Coded.Statement (.deadlockSurvey team) := fun _ _ h => nomatch h
theorem Coded.nodeFinish (launch : Nat) (node : Nat) : Coded.Statement (.nodeFinish launch node) := fun _ _ h => nomatch h
theorem Coded.engineCommandStart (q : Nat) (e : Nat) : Coded.Statement (.engineCommandStart q e) := fun _ _ h => nomatch h
theorem Coded.copyComplete (q : Nat) (seq : Nat) : Coded.Statement (.copyComplete q seq) := fun _ _ h => nomatch h
theorem Coded.followOnStart (q : Nat) : Coded.Statement (.followOnStart q) := fun _ _ h => nomatch h
theorem Coded.matrixCommandComplete (q : Nat) : Coded.Statement (.matrixCommandComplete q) := fun _ _ h => nomatch h
theorem Coded.slotDrained (q : Nat) (slot : Nat) : Coded.Statement (.slotDrained q slot) := fun _ _ h => nomatch h
theorem Coded.armedTileStart (q : Nat) (slot : Nat) : Coded.Statement (.armedTileStart q slot) := fun _ _ h => nomatch h
theorem Coded.pushdownStep (q : Nat) : Coded.Statement (.pushdownStep q) := fun _ _ h => nomatch h
theorem Coded.pushdownMarker (q : Nat) : Coded.Statement (.pushdownMarker q) := fun _ _ h => nomatch h
theorem Coded.streamElementReturn (port : Nat) (elem : Nat) : Coded.Statement (.streamElementReturn port elem) := fun _ _ h => nomatch h
theorem Coded.streamElementFault (port : Nat) (elem : Nat) : Coded.Statement (.streamElementFault port elem) := fun _ _ h => nomatch h
theorem Coded.streamFaultTimeout (port : Nat) : Coded.Statement (.streamFaultTimeout port) := fun _ _ h => nomatch h
theorem Coded.channelFillArrival (ch : Nat) : Coded.Statement (.channelFillArrival ch) := fun _ _ h => nomatch h
theorem Coded.channelCreditArrival (ch : Nat) : Coded.Statement (.channelCreditArrival ch) := fun _ _ h => nomatch h
theorem Coded.beadArrival (route : Nat) : Coded.Statement (.beadArrival route) := fun _ _ h => nomatch h
theorem Coded.barrierComplete (bar : Nat) : Coded.Statement (.barrierComplete bar) := fun _ _ h => nomatch h
theorem Coded.statsTokensLand (i : Nat) : Coded.Statement (.statsTokensLand i) := fun _ _ h => nomatch h
theorem Coded.ingestRecord (win : Nat) : Coded.Statement (.ingestRecord win) := fun _ _ h => nomatch h
theorem Coded.slotClose (win : Nat) : Coded.Statement (.slotClose win) := fun _ _ h => nomatch h
theorem Coded.hostRead (world : Nat) (va : Word) (size : Nat) : Coded.Statement (.hostRead world va size) := fun _ _ h => nomatch h
theorem Coded.hostWrite (world : Nat) (va : Word) (bytes : Bytes) : Coded.Statement (.hostWrite world va bytes) := fun _ _ h => nomatch h
theorem Coded.doorbell (world : Nat) (off : Nat) (value : Nat) : Coded.Statement (.doorbell world off value) := fun _ _ h => nomatch h
theorem Coded.registerWrite (world : Nat) (off : Nat) (value : Word) : Coded.Statement (.registerWrite world off value) := fun _ _ h => nomatch h
theorem Coded.launch (queue : Nat) : Coded.Statement (.launch queue) := fun _ _ h => nomatch h
theorem Coded.replay (queue : Nat) : Coded.Statement (.replay queue) := fun _ _ h => nomatch h
theorem Coded.queueFence (queue : Nat) : Coded.Statement (.queueFence queue) := fun _ _ h => nomatch h
theorem Coded.worldCreate (queue : Nat) : Coded.Statement (.worldCreate queue) := fun _ _ h => nomatch h
theorem Coded.worldDestroy (queue : Nat) : Coded.Statement (.worldDestroy queue) := fun _ _ h => nomatch h
theorem Coded.worldSet (queue : Nat) : Coded.Statement (.worldSet queue) := fun _ _ h => nomatch h
theorem Coded.map (queue : Nat) : Coded.Statement (.map queue) := fun _ _ h => nomatch h
theorem Coded.free (queue : Nat) : Coded.Statement (.free queue) := fun _ _ h => nomatch h
theorem Coded.frameScrubPending (frame : Nat) : Coded.Statement (.frameScrubPending frame) := fun _ _ h => nomatch h
theorem Coded.resolve (queue : Nat) : Coded.Statement (.resolve queue) := fun _ _ h => nomatch h
theorem Coded.barrierReset (queue : Nat) : Coded.Statement (.barrierReset queue) := fun _ _ h => nomatch h
theorem Coded.scrubFirst (queue : Nat) : Coded.Statement (.scrubFirst queue) := fun _ _ h => nomatch h
theorem Coded.timeAdj (queue : Nat) : Coded.Statement (.timeAdj queue) := fun _ _ h => nomatch h
theorem Coded.kill (queue : Nat) : Coded.Statement (.kill queue) := fun _ _ h => nomatch h
theorem Coded.dieSet (queue : Nat) : Coded.Statement (.dieSet queue) := fun _ _ h => nomatch h
theorem Coded.queueSet (queue : Nat) : Coded.Statement (.queueSet queue) := fun _ _ h => nomatch h
theorem Coded.pqSet (queue : Nat) : Coded.Statement (.pqSet queue) := fun _ _ h => nomatch h
theorem Coded.ingestMap (queue : Nat) : Coded.Statement (.ingestMap queue) := fun _ _ h => nomatch h
theorem Coded.power (queue : Nat) : Coded.Statement (.power queue) := fun _ _ h => nomatch h
theorem Coded.powerGateComplete (world : Nat) : Coded.Statement (.powerGateComplete world) := fun _ _ h => nomatch h
theorem Coded.scrubFrameClean (die : Nat) : Coded.Statement (.scrubFrameClean die) := fun _ _ h => nomatch h
theorem Coded.keySlotFreed (slot : Nat) : Coded.Statement (.keySlotFreed slot) := fun _ _ h => nomatch h
theorem Coded.loaderAdmit (world : Nat) (file : Bytes) : Coded.Statement (.loaderAdmit world file) := fun _ _ h => nomatch h
theorem Coded.codeReadmit (world : Nat) (page : Nat) (note : Bytes) : Coded.Statement (.codeReadmit world page note) := fun _ _ h => nomatch h
theorem Coded.meshPacketEnters (row : Nat) (place : Nat) (world : Nat) (gen : Nat) : Coded.Statement (.meshPacketEnters row place world gen) := fun _ _ h => nomatch h
theorem Coded.tunnelPacketExit (tunnel : Nat) (counter : Nat) (tagOk : Bool) : Coded.Statement (.tunnelPacketExit tunnel counter tagOk) := fun _ _ h => nomatch h
theorem Coded.ideIntegrityFailure (world : Nat) : Coded.Statement (.ideIntegrityFailure world) := fun _ _ h => nomatch h
theorem Coded.getVersion (fn : Nat) : Coded.Statement (.getVersion fn) := fun _ _ h => nomatch h
theorem Coded.getCapabilities (fn : Nat) : Coded.Statement (.getCapabilities fn) := fun _ _ h => nomatch h
theorem Coded.negotiateAlgorithms (fn : Nat) : Coded.Statement (.negotiateAlgorithms fn) := fun _ _ h => nomatch h
theorem Coded.getDigests (fn : Nat) : Coded.Statement (.getDigests fn) := fun _ _ h => nomatch h
theorem Coded.getCertificate (fn : Nat) (slot : Nat) : Coded.Statement (.getCertificate fn slot) := fun _ _ h => nomatch h
theorem Coded.challenge (fn : Nat) (slot : Nat) (nonce : Bytes) : Coded.Statement (.challenge fn slot nonce) := fun _ _ h => nomatch h
theorem Coded.getMeasurements (fn : Nat) (index : Nat) (nonce : Bytes) : Coded.Statement (.getMeasurements fn index nonce) := fun _ _ h => nomatch h
theorem Coded.keyExchange (fn : Nat) (pub : Bytes) : Coded.Statement (.keyExchange fn pub) := fun _ _ h => nomatch h
theorem Coded.finish (fn : Nat) (verify : Bytes) : Coded.Statement (.finish fn verify) := fun _ _ h => nomatch h
theorem Coded.endSession (fn : Nat) : Coded.Statement (.endSession fn) := fun _ _ h => nomatch h
theorem Coded.lockInterfaceRequest (fn : Nat) : Coded.Statement (.lockInterfaceRequest fn) := fun _ _ h => nomatch h
theorem Coded.startInterfaceRequest (fn : Nat) : Coded.Statement (.startInterfaceRequest fn) := fun _ _ h => nomatch h
theorem Coded.stopInterfaceRequest (fn : Nat) : Coded.Statement (.stopInterfaceRequest fn) := fun _ _ h => nomatch h
theorem Coded.ptmRefresh (hostTime : Nat) : Coded.Statement (.ptmRefresh hostTime) := fun _ _ h => nomatch h
theorem Coded.podFlitReceive (port : Nat) (crcOk : Bool) : Coded.Statement (.podFlitReceive port crcOk) := fun _ _ h => nomatch h
theorem Coded.startUp (failures : Failures) : Coded.Statement (.startUp failures) := fun _ _ h => nomatch h
theorem Coded.firmwareStage (image : Bytes) (sig : Bytes) : Coded.Statement (.firmwareStage image sig) := fun _ _ h => nomatch h
theorem Coded.uncontainableError (code : Nat) : Coded.Statement (.uncontainableError code) := fun _ _ h => nomatch h
theorem Coded.clockThrottle (lower : Bool) : Coded.Statement (.clockThrottle lower) := fun _ _ h => nomatch h
theorem Coded.leaseExpiry (q : Nat) (line : Nat) : Coded.Statement (.leaseExpiry q line) := fun _ _ h => nomatch h
theorem Coded.pushdownCommandDone (q : Nat) : Coded.Statement (.pushdownCommandDone q) := fun _ _ h => nomatch h

end Sys2Proof.Laws
end

