-- ==== Sys2Proof/Tests/Slice0.lean ====
section
/-! SUPPORT. Tests: ill-formed terms and words that are refused, words of the spec that decode to their instruction, single steps with
results that the spec works out, and for every statement with hypotheses a state and operands that meet them. -/

namespace Sys2Proof.Tests

open Sys2Proof Sys2Proof.Machine

set_option Elab.async false

/-! ## Ill-formed instructions -/

/-- Condition, type, rounding, scope, size, format and part fields outside their sets (R86, R141, R150, R153, R154, R157, R158). -/
theorem test_ill_formed_fields : ∀ i ∈ ([.cmp Pred.all 10 1 2 3, .cmpi Pred.all 15 1 2 3, .bcmp 10 1 2 3, .vcmp Pred.all 0 10 1 2 3,
    .vfcmp Pred.all 0 8 1 2 3, .vadd Pred.all 4 1 2 3, .vabs Pred.all 1 1 2, .vclz Pred.all 4 1 2, .vfadd Pred.all 3 0 1 2 3,
    .vfmin Pred.all 0 1 1 2 3, .vfabs Pred.all 0 8 1 2, .vredadd Pred.all 2 0 1 2, .vredadd Pred.all 8 1 1 2, .vredmax Pred.all 1 1 2,
    .vscan Pred.all 0 4 1 2, .bar Pred.all 7 0, .fence 7 0 1 0 5 0 0 0, .lgfence 15 0 5 0 0 0, .ld Pred.all 4 1 2 3 0, .st Pred.all 7 1 2 3 0,
    .aadd Pred.all 1 1 2 3 0, .acas Pred.all 4 1 2 3 0, .amin Pred.all 2 2 1 2 3 0, .vfcvt Pred.all 10 0 1 2 0 0, .vfcvt Pred.all 0 0 1 2 0 0,
    .vfcvt Pred.all 3 0 5 6 0 4, .vfcvt Pred.all 3 0 5 6 10 0, .tlbi Pred.all 1 0 3, .bstat 4 1 0 0, .bstat 0 1 3 0, .bfarm 0 0 0 5 40 3,
    .cbind Pred.all 0 1 2, .cmark Pred.all 0 1 8 0, .bar Pred.all 0 256, .ksend Pred.all 1 16] : List Instr), wellFormed i = false := by
  decide +kernel

/-- Registers outside their class, reserved operands and entries, and fields of CPY outside Table 15.7 (R76, R85, R193, R224). -/
theorem test_ill_formed_operands : ∀ i ∈ ([.vadd Pred.all 0 32 2 3, .vand Pred.all 1 32 3, .vsel Pred.all 1 2 3 8, .mand Pred.all 8 1 2,
    .mpopc Pred.all 1 8, .vargmax Pred.all 41 6, .vld Pred.all 32 2 3 0, .vldg Pred.all 1 2 32 0, .vst Pred.all 63 2 3 0, .mma 8 6 30, .mzero 8,
    .mdrain 2 30 0 34 0, .bbead 4 0, .kpoll Pred.all 4 1, .tlbi Pred.all 1 2 0, .fence 5 0 1 1 0x141 0 0 0, .fence 5 0 1 1 0x160 0 0 0,
    .fence 5 0 1 2 5 0 0 0, .fence 5 1 1 0 5 6 7 0, .fork 1 2 3 0, .fork 1 2 3 3, .cpy 1 2 3 4 5 3, .cpy 1 2 3 4 5 12, .cpy 1 2 3 4 5 48,
    .cpy 1 2 3 4 5 0x80, .cpy 1 2 3 4 5 0x2C0, .cpy 1 2 3 4 5 0x800, .cpy 1 2 3 4 5 4, .cpy 1 2 3 4 5 1] : List Instr),
    wellFormed i = false := by decide +kernel

/-- Words that the spec says trap ILLEGAL, each at its check of R89. -/
theorem test_refused_words : decode 0 = .error .noMajor ∧ decode 0x0308000000000000 = .error .noMajor ∧
    decode 0x0108000000000000 = .error .noFn ∧ decode 0x082000001B000000 = .error .noFn ∧
    decode 0x0851558000000800 = .error .reservedNonzero ∧ decode 0x0100000000000001 = .error .reservedNonzero ∧
    decode 0x28552000000B0005 = .error .fieldOutside ∧ decode 0x2A20100000000007 = .error .reservedNonzero ∧
    decode 0x1808310000400000 = .error .fieldOutside ∧ decode 0x1930B0000A100000 = .error .reservedNonzero ∧
    decode 0x1914628008300000 = .error .fieldOutside ∧ decode 0x1914600408300000 = .error .fieldOutside ∧
    decode 0x1B50900005200000 = .error .fieldOutside ∧ decode 0x1A24720000162000 = .error .fieldOutside := by decide +kernel

/-! ## Decoding: words of the spec's worked encodings and tables (Tables 5.8, 7.1 to 7.10, 9.7, 13.1 to 13.9, 15.14, 17.8, 19.6), and for the
other instructions words written out by the layouts of R85 and the numbers of Table 5.7 -/

theorem test_decode_system : ∀ p ∈ ([
   (0x0100000000000000, .nop),
   (0x0101000000000000, .halt),
   (0x0102FFFFFFFFFFFF, .brk 0xFFFFFFFFFFFF),
   (0x010300000000002A, .trap 0x2A),
   (0x0104000000000000, .eret),
   (0x01050000FFFFFFFF, .wfe 0xFFFFFFFF),
   (0x0106000000000001, .phase 1),
   (0x0107000000000000, .ncnt),
   (0x0250000000000050, .srd Pred.all 20 0x50),
   (0x0201410000000010, .swr Pred.all 20 0x10),
   (0x02FFE2F000000002, .tlbi ⟨7, true⟩ 63 62 2)] : List (Word × Instr)), decode p.1 = .ok p.2 := by decide +kernel

theorem test_decode_scalar : ∀ p ∈ ([
   (0x0851558000000000, .add Pred.all 20 21 22),
   (0x0851558001000000, .sub Pred.all 20 21 22),
   (0x0851558002000000, .mul Pred.all 20 21 22),
   (0x0851558003000000, .mulh Pred.all 20 21 22),
   (0x0851558004000000, .mulhu Pred.all 20 21 22),
   (0x0851558005000000, .div Pred.all 20 21 22),
   (0x08B9558006000000, .divu Pred.all 46 21 22),
   (0x08BD558007000000, .rem Pred.all 47 21 22),
   (0x08C1558008000000, .remu Pred.all 48 21 22),
   (0x08C5558009000000, .and Pred.all 49 21 22),
   (0x08C955800A000000, .or Pred.all 50 21 22),
   (0x08CD55800B000000, .xor Pred.all 51 21 22),
   (0x08D155800C000000, .andn Pred.all 52 21 22),
   (0x08D555800D000000, .shl Pred.all 53 21 22),
   (0x08D955800E000000, .shr Pred.all 54 21 22),
   (0x08DD55800F000000, .sar Pred.all 55 21 22),
   (0x08E1558010000000, .rol Pred.all 56 21 22),
   (0x08E5558011000000, .min Pred.all 57 21 22),
   (0x08E9558012000000, .max Pred.all 58 21 22),
   (0x08ED558013000000, .minu Pred.all 59 21 22),
   (0x08F1558014000000, .maxu Pred.all 60 21 22),
   (0x0804200015006000, .clz ⟨3, false⟩ 1 2),
   (0x0804200016007000, .popc ⟨3, true⟩ 1 2),
   (0x085153C017000000, .sext Pred.all 20 21 15),
   (0x088607C018000000, .zext Pred.all 33 32 31),
   (0x080420FF19000000, .sel Pred.all 1 2 3 63),
   (0x080420C01A090000, .cmp Pred.all 9 1 2 3)] : List (Word × Instr)), decode p.1 = .ok p.2 := by decide +kernel

theorem test_decode_immediate : ∀ p ∈ ([
   (0x09514000FFFFFFFF, .addi Pred.all 20 20 0xFFFFFFFF),
   (0x0951410000000008, .andi Pred.all 20 20 0x8),
   (0x0951420000000009, .ori Pred.all 20 20 0x9),
   (0x095143000000000A, .xori Pred.all 20 20 0xA),
   (0x095144000000000B, .shli Pred.all 20 20 0xB),
   (0x095145000000000C, .shri Pred.all 20 20 0xC),
   (0x095146000000000D, .sari Pred.all 20 20 0xD),
   (0x0951570200000064, .cmpi Pred.all 2 20 21 100),
   (0x0958080000000000, .movi Pred.all 22 0),
   (0x0975D90039080006, .movhi Pred.all 29 29 0x39080006)] : List (Word × Instr)), decode p.1 = .ok p.2 := by decide +kernel

theorem test_decode_branch : ∀ p ∈ ([
   (0x10000000FFFFFFFD, .br 0xFFFFFFFD),
   (0x1005001000000004, .bz 20 4),
   (0x100FC02000000004, .bnz 63 4),
   (0x10251530FFFFFFFD, .bcmp 2 20 21 0xFFFFFFFD),
   (0x1000004300000004, .bbead 3 4),
   (0x1025405100000005, .bstat 2 21 1 5),
   (0x10054060FFFFFFE9, .loop 21 0xFFFFFFE9),
   (0x1001407000000001, .jmpr 5 1),
   (0x1100000080000000, .call 0x80000000),
   (0x1101401000000002, .callr 5 2),
   (0x1100002000000000, .ret)] : List (Word × Instr)), decode p.1 = .ok p.2 := by decide +kernel

theorem test_decode_lane_integer : ∀ p ∈ ([
   (0x1808310000200000, .vadd Pred.all 2 2 3 4),
   (0x1808310001100000, .vsub Pred.all 1 2 3 4),
   (0x1808310002200000, .vmul Pred.all 2 2 3 4),
   (0x1808310003300000, .vmulh Pred.all 3 2 3 4),
   (0x1808310004000000, .vand Pred.all 2 3 4),
   (0x1808310005000000, .vor Pred.all 2 3 4),
   (0x1808310006000000, .vxor Pred.all 2 3 4),
   (0x1808310007300000, .vshl Pred.all 3 2 3 4),
   (0x1808310008000000, .vshr Pred.all 0 2 3 4),
   (0x1808310009100000, .vsar Pred.all 1 2 3 4),
   (0x180831000A200000, .vmin Pred.all 2 2 3 4),
   (0x180831000B300000, .vmax Pred.all 3 2 3 4),
   (0x187DE0000C300000, .vabs Pred.all 3 31 30),
   (0x180420C40D000000, .vsel Pred.all 1 2 3 4),
   (0x1807F0000E000000, .vsplat Pred.all 1 63),
   (0x1807F0000F000000, .viota Pred.all 1 63),
   (0x1805F00010000000, .vmov Pred.all 1 31),
   (0x1805F00011100000, .vclz Pred.all 1 1 31)] : List (Word × Instr)), decode p.1 = .ok p.2 := by decide +kernel

theorem test_decode_lane_float : ∀ p ∈ ([
   (0x1914110000000000, .vfadd Pred.all 0 0 5 1 4),
   (0x1914110001000000, .vfsub Pred.all 0 0 5 1 4),
   (0x19141100022F0000, .vfmul Pred.all 2 15 5 1 4),
   (0x190C414603015000, .vfma ⟨2, true⟩ 0 1 3 4 5 6),
   (0x1914110004140000, .vfmin Pred.all 1 4 5 1 4),
   (0x1914110005100000, .vfmax Pred.all 1 0 5 1 4),
   (0x1914100006240000, .vfabs Pred.all 2 4 5 1),
   (0x190C300007000000, .vfneg Pred.all 0 0 3 3),
   (0x1914600208300000, .vfcvt Pred.all 3 0 5 6 0 2),
   (0x1930B00009030000, .vexp2 Pred.all 3 12 11),
   (0x1930B0000A000000, .vlog2 Pred.all 0 12 11),
   (0x1930B0000B000000, .vrcp Pred.all 0 12 11),
   (0x1930B0000C000000, .vrsq Pred.all 0 12 11),
   (0x1930B2800D020000, .vfscl Pred.all 0 2 12 11 10)] : List (Word × Instr)), decode p.1 = .ok p.2 := by decide +kernel

theorem test_decode_lane_mask : ∀ p ∈ ([
   (0x1A08720000162000, .vcmp ⟨1, false⟩ 1 6 2 7 8),
   (0x1A0C104001060000, .vfcmp Pred.all 0 6 3 1 1),
   (0x1A1C614002000000, .mand Pred.all 7 6 5),
   (0x1A1C614003000000, .mor Pred.all 7 6 5),
   (0x1A1C614004000000, .mxor Pred.all 7 6 5),
   (0x1A1C600005000000, .mnot Pred.all 7 6),
   (0x1AFC700006000000, .mpopc Pred.all 63 7),
   (0x1AFC700007000000, .mfirst Pred.all 63 7),
   (0x1A05E00008000000, .mfromg Pred.all 1 30),
   (0x1A78100009000000, .mtog Pred.all 30 1)] : List (Word × Instr)), decode p.1 = .ok p.2 := by decide +kernel

theorem test_decode_lane_move : ∀ p ∈ ([
   (0x1B0420C000000000, .vshuf Pred.all 1 2 3),
   (0x1B042FC001000000, .vrot Pred.all 1 2 63),
   (0x1B042FC002000000, .vbcast Pred.all 1 2 63),
   (0x1BFC2F8003000000, .vext Pred.all 63 2 62),
   (0x1B07FF8004000000, .vins Pred.all 1 63 62),
   (0x1B50900005010000, .vredadd Pred.all 0 1 20 9),
   (0x1B50900006800000, .vredmax Pred.all 8 20 9),
   (0x1B50900007900000, .vredmin Pred.all 9 20 9),
   (0x1BA0600008002000, .vargmax ⟨1, false⟩ 40 6),
   (0x1B50900009900000, .vscan Pred.all 9 0 20 9),
   (0x1B1C65000A002000, .vcompact ⟨1, false⟩ 7 6 20),
   (0x1B2945560B000000, .vrng Pred.all 10 20 21 22)] : List (Word × Instr)), decode p.1 = .ok p.2 := by decide +kernel

theorem test_decode_memory : ∀ p ∈ ([
   (0x20A2901000000010, .ld Pred.all 2 40 41 0 16),
   (0x2005872010000000, .vld Pred.all 1 24 28 0),
   (0x205180E020000000, .vldg Pred.all 20 24 3 0),
   (0x200420E030FFFFFF, .vldb Pred.all 1 2 3 0xFFFFFF),
   (0x200020C040800000, .pref Pred.all 2 3 0x800000),
   (0x2159501800000000, .st Pred.all 3 22 21 0 0),
   (0x217C20E010000004, .vst Pred.all 31 2 3 4),
   (0x217C27A020000004, .vsts Pred.all 31 2 30 4),
   (0x225D801800000000, .aadd Pred.all 3 23 24 0 0),
   (0x220420D011000004, .amin Pred.all 2 1 1 2 3 4),
   (0x22B1B01821000000, .amax Pred.all 3 1 44 27 0 0),
   (0x220420D830000004, .aand Pred.all 3 1 2 3 4),
   (0x220420D840000004, .aor Pred.all 3 1 2 3 4),
   (0x220420D850000004, .axor Pred.all 3 1 2 3 4),
   (0x220420D860000004, .axchg Pred.all 3 1 2 3 4),
   (0x2251865870000008, .acas Pred.all 3 20 24 25 8),
   (0x230420E000000004, .vaadd Pred.all 1 2 3 4),
   (0x230420E010000004, .vamax Pred.all 1 2 3 4)] : List (Word × Instr)), decode p.1 = .ok p.2 := by decide +kernel

theorem test_decode_fence_and_barrier : ∀ p ∈ ([
   (0x28552000000A0005, .fence 5 1 1 2 5 0x140 0 0),
   (0x2833000000000000, .fence 3 0 3 0 0 0 0 0),
   (0x2900000100000003, .bar Pred.all 1 3),
   (0x2950010200000003, .bara Pred.all 2 20 3),
   (0x2900020200000003, .barw Pred.all 2 3),
   (0x2901830100000003, .barx Pred.all 1 24 3),
   (0x2901440500000009, .barset Pred.all 5 20 9),
   (0x2A20000000000007, .lgfence 2 0 7 0 0 0)] : List (Word × Instr)), decode p.1 = .ok p.2 := by decide +kernel

theorem test_decode_channel_and_bead : ∀ p ∈ ([
   (0x30FFC00000000001, .cbind Pred.all 15 63 1),
   (0x3010000401000000, .cwait Pred.all 1 0 4),
   (0x3020000302000000, .cresv Pred.all 2 0 3),
   (0x3027C00003000001, .cpush Pred.all 2 31 1),
   (0x3015150004000002, .cpeek Pred.all 1 20 21 2),
   (0x3020000305000000, .cpadv Pred.all 2 0 3),
   (0x3010000306000000, .ccadv Pred.all 1 0 3),
   (0x3020000707000000, .cmark Pred.all 2 0 7 0),
   (0x302FC00008000000, .cstat Pred.all 2 63),
   (0x3105000200000000, .ksend Pred.all 20 2),
   (0x3115000001000000, .kpoll Pred.all 1 20)] : List (Word × Instr)), decode p.1 = .ok p.2 := by decide +kernel

theorem test_decode_engine : ∀ p ∈ ([
   (0x3851560000018000, .cpy 20 21 24 0 12 0),
   (0x380196C400042006, .cpy 0 25 27 4 33 6),
   (0x385155860103C000, .cpym 20 21 22 6 30 0),
   (0x380420C002008001, .cpys 1 2 3 4 1),
   (0x3800000503000000, .bfwait 5),
   (0x3800000504000000, .bfrel 5),
   (0x3850003F05000000, .bfstat 20 63),
   (0x3800000506050001, .bfarm 0 0 0 5 40 1),
   (0x3800000506000004, .bfarmDisarm 5),
   (0x390800060003C000, .mma 2 6 30),
   (0x390800060103C000, .mmaz 2 6 30),
   (0x3909E00002044002, .mdrain 2 30 0 34 2),
   (0x390000040303E000, .mldb 4 31),
   (0x390C000004000000, .mzero 3),
   (0x3954000005000000, .mstat 21)] : List (Word × Instr)), decode p.1 = .ok p.2 := by decide +kernel

theorem test_decode_stream : ∀ p ∈ ([
   (0x3A51500000050000, .sopen 20 21 40 0),
   (0x3A64000001000000, .sclose 25),
   (0x3A51500002000000, .sstat 20 21),
   (0x3A51500003000000, .sdrain 20 21)] : List (Word × Instr)), decode p.1 = .ok p.2 := by decide +kernel

theorem test_decode_pushdown : ∀ p ∈ ([
   (0x4050000000050000, .aload 20 40),
   (0x401C000001052008, .abindMaskSink 7 41 1),
   (0x4054000001000001, .abindEventSink 21 0 0),
   (0x4000000001054002, .abindTreeSink 0 42 0),
   (0x4004000001056003, .abindSpillArea 1 43 0),
   (0x4024000001000024, .abindLimits 9 0 4),
   (0x4024000001000005, .abindUnbind 9 0 0),
   (0x405D800002000000, .arun 23 24),
   (0x4050000003000000, .astep 20 0),
   (0x4000000004054000, .away 42),
   (0x4000000005054000, .aresume 42),
   (0x4064000006000000, .astat 25),
   (0x4000000007000001, .aclear 1)] : List (Word × Instr)), decode p.1 = .ok p.2 := by decide +kernel

theorem test_decode_graph : ∀ p ∈ ([
   (0x4851500000050007, .glaunch 20 21 40 7),
   (0x4800000001000000, .gdone),
   (0x4851500002050000, .gparam 20 21 40),
   (0x4851500003000003, .fork 20 21 0 3),
   (0x4800000004000000, .join),
   (0x4851558005000000, .pqpush 20 21 22),
   (0x4851558006000000, .pqpop 20 21 22),
   (0x4851558007050000, .trigbindStoreWatch 20 21 22 40),
   (0x4851558007050001, .trigbindRingWatch 20 21 22 40),
   (0x4850000007000002, .trigbindUnbind 20),
   (0x4850000008000000, .trigfire 20)] : List (Word × Instr)), decode p.1 = .ok p.2 := by decide +kernel

theorem test_decode_timed : ∀ p ∈ ([
   (0x5050000000064000, .twbind 20 50),
   (0x5058000000000001, .twbindUnbind 22),
   (0x5051558001000000, .twget 20 21 22 0),
   (0x5058000002000000, .twrel 22),
   (0x5055600003000000, .twstat 21 22 0),
   (0x5051500004078000, .tickarm 20 21 60),
   (0x5050000004000001, .tickarmDisarm 20),
   (0x5050000005000000, .tnow 20)] : List (Word × Instr)), decode p.1 = .ok p.2 := by decide +kernel

/-! ## Small states -/

/-- A plane of world 1 whose header has 2,048 code words, two spill windows and its handler at word 9. -/
def plane0 : Plane := { Plane.empty with state := .active, world := 1, store := [(3, 0x0000080000020009)], team := 1, member := true }

/-- A core that runs it at word 8. -/
def core0 : Core := { Core.fresh with planes := [(0, plane0)], active := some 0, started := true, pc := 64 }

/-- A leaf that maps a 64 KiB page to a frame with key slot 1. -/
def leaf0 (pa : Nat) (write exec : Bool) : Word := makeLeaf pa 1 write exec true false

/-- A world with quad 0, key slot 1, and pages at 0x10000 (to 0x30000) and 0x20000 (to 0x40000, read only). -/
def world1 : World := { World.fresh with
  live := true, partition := [0], keySlots := [1], legendBase := 0x50000, ptRoot := some 0,
  tables := [(0, [(leafKeyAt 4 0x10000, leaf0 0x30000 true false), (leafKeyAt 4 0x20000, leaf0 0x40000 false false)])] }

def dev0 : Dev := { Dev.reset with
  up := true, worlds := [(0, World.root), (1, world1)], keySlots := [(1, { state := .assigned, world := 1 })] }

/-- Device `d` with core 0 as `c`, whose turn it is. -/
def onDev (d : Dev) (c : Core) : State := { State.reset with dev := { d with cores := [(0, c)] }, phase := .issue }

def onCore0 (c : Core) : State := onDev dev0 c

def after (i : Instr) (s : State) : State := match exec i s with | .next t => t | _ => s

/-- The machine goes on. -/
def goes : Host.Outcome State Machine.Fault Refusal → Bool
  | .next _ => true
  | _ => false

def stepped (s : State) : State := match step s with | .next t => t | _ => s

/-- Core 0 after an instruction. -/
def ran (i : Instr) (c : Core) : Core := (after i (onCore0 c)).dev.core 0

def putG (xs : List (Reg × Word)) : Core := xs.foldl (fun c x => c.writeG x.1 x.2) core0
def putV (c : Core) (r : Reg) (f : Nat → Lane) : Core := c.writeV r 0xFFFFFFFF f

/-- The value that the latest result in flight brings. -/
def coming (c : Core) : List Word := (c.pend.getLast?.map fun p => p.vals.map Prod.snd).getD []

/-! ## Single steps, with results that the spec works out -/

/-- Table 8.2, the first two rows. -/
theorem test_division_by_zero_and_overflow :
    let c := putG [(1, 7), (2, 0), (3, 0x8000000000000000), (4, 0xFFFFFFFFFFFFFFFF)]
    coming (ran (.div Pred.all 9 1 2) c) = [0xFFFFFFFFFFFFFFFF] ∧ coming (ran (.rem Pred.all 9 1 2) c) = [7] ∧
    coming (ran (.divu Pred.all 9 1 2) c) = [0xFFFFFFFFFFFFFFFF] ∧ coming (ran (.remu Pred.all 9 1 2) c) = [7] ∧
    coming (ran (.div Pred.all 9 3 4) c) = [0x8000000000000000] ∧ coming (ran (.rem Pred.all 9 3 4) c) = [0] ∧
    coming (ran (.divu Pred.all 9 3 4) c) = [0] ∧ coming (ran (.remu Pred.all 9 3 4) c) = [0x8000000000000000] := by decide +kernel

/-- Table 8.2, the last row: −7 and 2. -/
theorem test_division_truncates :
    let c := putG [(1, 0xFFFFFFFFFFFFFFF9), (2, 2)]
    coming (ran (.div Pred.all 9 1 2) c) = [0xFFFFFFFFFFFFFFFD] ∧ coming (ran (.rem Pred.all 9 1 2) c) = [0xFFFFFFFFFFFFFFFF] ∧
    coming (ran (.divu Pred.all 9 1 2) c) = [0x7FFFFFFFFFFFFFFC] ∧ coming (ran (.remu Pred.all 9 1 2) c) = [1] := by decide +kernel

/-- "Division and alignment cases": LD.d at 0x1004 traps ALIGN in the handler, an address with bits 63:56 set halts with ACCESS. -/
theorem test_alignment_before_access :
    let c := putG [(1, 0x1004), (2, 0xFF00000000000003)]
    (let r := ran (.ld Pred.all 3 9 1 0 0) c
     r.trapCause = 3 ∧ r.trapInfo = 0x1004 ∧ r.inHandler = true ∧ r.pc = 72) ∧
    (let r := ran (.ld Pred.all 2 9 2 0 0) c
     r.trapCause = 0x0C ∧ r.trapInfo = 0xFF00000000000003 ∧ r.inHandler = false ∧ r.halted = true) := by decide +kernel

/-- The call example of chapter 8: depth 11 with three spilled windows traps CALL_DEPTH, with TRAP_INFO 0x0003_0008. -/
theorem test_call_depth :
    let c : Core := { core0 with planes := [(0, { plane0 with store := [(3, 0x0000080000030009)] })], resident := 8, spilled := 3 }
    let r := ran (.call 4) c
    r.trapCause = 4 ∧ r.trapInfo = 0x30008 ∧ r.trapPc = 64 ∧ r.resident = 8 ∧ r.spilled = 3 := by decide +kernel

/-- The lanes of chapter 9's example: v6 and m1. -/
def lanes6 : Core := putV (core0.writeM 1 0xFFFFFFFF 0x1E) 6 fun i =>
  [0x3F800000, 0x7FC00001, 0x40400000, 0x40400000, 0x80000000, 0x40A00000].getD i 0

/-- The example's VARGMAX and VREDMAX. -/
theorem test_argmax_and_redmax :
    (let r := ran (.vargmax { m := 1, pn := false } 40 6) lanes6
     r.readG 40 = 2 ∧ r.readG 41 = 0x40400000) ∧
    (let r := ran (.vredmax { m := 1, pn := false } 0 42 6) lanes6
     r.readG 42 = 0x7FC00000 ∧ r.fpstat = 0x10) := by decide +kernel

/-- The example's VCOMPACT, and VARGMAX and VREDMAX with no lane selected. -/
theorem test_compact :
    (let r := ran (.vcompact { m := 1, pn := false } 7 6 20) lanes6
     r.readG 20 = 4 ∧ (List.range 5).map (r.lane 7) = [0x7FC00001, 0x40400000, 0x40400000, 0x80000000, 0]) ∧
    (let r := ran (.vargmax { m := 2, pn := false } 40 6) lanes6
     r.readG 40 = 0xFFFFFFFF ∧ r.readG 41 = 0x7FC00000) ∧
    (ran (.vredmax { m := 2, pn := false } 0 42 6) lanes6).readG 42 = 0xFF800000 := by decide +kernel

/-- R155's VFCVT.e4m3.f32: bytes, flags and counts. -/
theorem test_convert_to_e4m3 :
    let c := putV core0 6 fun i => [0x42114000, 0x44160000, 0x7FC00000, 0x39800000, 0x3F800000].getD i 0
    let r := ran (.vfcvt Pred.all 3 0 5 6 0 2) c
    (List.range 6).map (r.lane 5) = [0x610000, 0x7E0000, 0x7F0000, 0, 0x380000, 0] ∧ r.fpstat = 0x17 ∧
    r.counts = { nanIn := 1, overflow := 1, underflow := 1, inexact := 1, used := true } := by decide +kernel

/-- And back: VFCVT.f32.e4m3 of part 2. -/
theorem test_convert_from_e4m3 :
    let c := putV core0 5 fun i => [0x610000, 0x7E0000, 0x7F0000, 0, 0x380000, 0].getD i 0
    let r := ran (.vfcvt Pred.all 0 0 8 5 3 2) c
    (List.range 6).map (r.lane 8) = [0x42100000, 0x43E00000, 0x7FC00000, 0, 0x3F800000, 0] := by decide +kernel

/-- A ring of 4 slots of 8 bytes at 0x30000, as Table 13.7 has it. -/
def ring20 : Chan :=
  { team := 1, world := 1, tid := 20, prod := 0, prodHandle := 2, cons := 0, consHandle := 1, ring := 0x30000, va := 0x10000,
    span := 32, readOnly := false, slots := 4, slotBytes := 8, head := 0, filled := 0, waited := 0, tail := 0, credits := 4, reserved := 0, tags := [],
    fills := [], backs := [], ltime := 0 }

def ringDev (x : Chan) : Dev := { dev0 with chans := [(7, x)] }

/-- A core with both ends bound: h2 produces, h1 consumes. -/
def ringCore : Core := { putG [(30, 0x11), (31, 0x22)] with
  handles := [(1, { chan := 7, producer := false, lent := false }), (2, { chan := 7, producer := true, lent := false })] }

def ringAfter (i : Instr) (x : Chan) : Chan := Tab.getD (after i (onDev (ringDev x) ringCore)).dev.chans 7 x

/-- Table 13.7, steps 1 to 6. -/
theorem test_channel_producer :
    let x1 := ringAfter (.cresv Pred.all 2 0 3) ring20
    let x4 := ringAfter (.cmark Pred.all 2 0 0 2) x1
    let x5 := ringAfter (.cpadv Pred.all 2 0 3) x4
    let x6 := ringAfter (.channelFillArrival 7) x5
    (x1.tail, x1.credits, x1.reserved) = (0, 4, 3) ∧ (x5.tail, x5.credits, x5.reserved) = (3, 1, 0) ∧ x5.filled = 0 ∧
    x6.filled = 3 ∧ (ran (.cstat Pred.all 2 22) core0).trapCause = 0x0A ∧
    ((after (.cstat Pred.all 2 22) (onDev (ringDev x6) ringCore)).dev.core 0).readG 22 = 0x380000001 := by decide +kernel

/-- Table 13.7, steps 7 to 10. -/
theorem test_channel_consumer :
    let x6 : Chan := { ring20 with tail := 3, credits := 1, filled := 3, tags := [(2, 1)] }
    let x7 := ringAfter (.cwait Pred.all 1 0 3) x6
    let c8 := (after (.cpeek Pred.all 1 20 21 2) (onDev (ringDev x7) ringCore)).dev.core 0
    let x9 := ringAfter (.ccadv Pred.all 1 0 3) x7
    let x10 := ringAfter (.channelCreditArrival 7) x9
    (x7.head, x7.filled, x7.waited) = (0, 3, 3) ∧ c8.readG 20 = 0 ∧ c8.readG 21 = 1 ∧
    ((after (.cpeek Pred.all 1 20 21 3) (onDev (ringDev x7) ringCore)).dev.core 0).trapCause = 1 ∧
    (x9.head, x9.filled, x9.waited, x9.credits) = (3, 0, 0, 1) ∧ x10.credits = 4 ∧
    ((after (.cstat Pred.all 1 22) (onDev (ringDev x7) ringCore)).dev.core 0).readG 22 = 0x30003 ∧
    ((after (.cstat Pred.all 1 22) (onDev (ringDev x10) ringCore)).dev.core 0).readG 22 = 0x300000000 := by decide +kernel

/-- Addition wraps, and an immediate is extended by its sign (Table 7.4). -/
theorem test_add_wraps :
    (ran (.add Pred.all 3 1 2) (putG [(1, 0xFFFFFFFFFFFFFFFF), (2, 2)])).readG 3 = 1 ∧
    (ran (.addi Pred.all 3 1 0xFFFFFFFF) (putG [(1, 5)])).readG 3 = 4 ∧
    (ran (.ori Pred.all 3 1 0x80000000) (putG [(1, 1)])).readG 3 = 0x80000001 := by decide +kernel

/-- BRK and ERET: TRAP_PC is the next instruction, and ERET goes on there (R127, R133). -/
theorem test_break_and_return :
    let c := ran (.brk 0x123456789ABC) core0
    c.trapPc = 72 ∧ c.trapCause = 7 ∧ c.trapInfo = 0x123456789ABC ∧ c.inHandler = true ∧ c.pc = 72 ∧
    (let e := ran .eret { c with trapPc := 0x208 }
     e.pc = 0x208 ∧ e.inHandler = false) := by decide +kernel

/-- A store and its frame: four bytes, lowest first, and not the next one (R139, R190). -/
theorem test_store_word :
    let s := onCore0 (putG [(1, 0x10000), (2, 0x11223344AABBCCDD)])
    let t := after (.st Pred.all 2 2 1 0 8) s
    SMap.getRun t.dev.mem 0x30008 5 = [0xDD, 0xCC, 0xBB, 0xAA, 0] ∧ (t.dev.core 0).pc = 72 := by decide +kernel

/-- A store to the read-only page traps ACCESS; one to an unmapped page is held and reported (R137, R168). -/
theorem test_store_faults :
    let s := onCore0 (putG [(1, 0x20000), (2, 0x90000)])
    (let t := after (.st Pred.all 2 2 1 0 8) s
     (t.dev.core 0).trapCause = 0x0C ∧ t.dev.mem = []) ∧
    (let t := after (.st Pred.all 2 1 2 0 8) s
     (t.dev.core 0).held.length = 1 ∧ (t.dev.core 0).pc = 72 ∧ t.dev.faults.length = 1) := by decide +kernel

/-- A placed word is the next step's: MOVI g22, −1 (0x0958_0800 with its immediate, R116). -/
theorem test_step_runs_a_word :
    let t := stepped (State.reset.withFetchWord 64 0x09580800FFFFFFFF)
    (t.dev.core 0).readG 22 = 0xFFFFFFFFFFFFFFFF ∧ (t.dev.core 0).pc = 72 ∧ t.seq = 1 ∧
    decodeTableWord 64 0x09580800FFFFFFFF = some (.movi Pred.all 22 0xFFFFFFFF) := by decide +kernel

/-! ## Witnesses: for each statement with hypotheses, a state and operands that meet them -/

def s0 : State := onCore0 core0

/-- EncodedInstructionsDecodeBack, DecodedWordsAreCanonical, PredicatedOffDoesNothing, RegisterInstructionsFrame. -/
theorem wit_instructions : wellFormed (.bcmp 9 63 63 0xFFFFFFFF) = true ∧ isEvent (.bcmp 9 63 63 0xFFFFFFFF) = false ∧
    wellFormed (.launch 0) = true ∧ isEvent (.launch 0) = true ∧ decode 0x0101000000000000 = .ok .halt ∧
    s0.actor = .core 0 ∧ core0.blocked = false ∧ wellFormed (.add { m := 1, pn := false } 1 2 3) = true ∧
    predOf (.add { m := 1, pn := false } 1 2 3) = some { m := 1, pn := false } ∧ reduces (.add { m := 1, pn := false } 1 2 3) = false ∧
    core0.mask { m := 1, pn := false } = 0 ∧ regWrites (.add { m := 1, pn := false } 1 2 3) = some [1] ∧
    goes (exec (.add Pred.all 1 2 3) s0) = true ∧ (4 : Reg) ∉ [(1 : Reg)] ∧ (4 : Reg) ∉ lanesWritten (.add Pred.all 1 2 3) ∧
    (4 : Reg) ∉ masksWritten (.add Pred.all 1 2 3) ∧ setsFpstat (.add Pred.all 1 2 3) = false ∧ mayTrap (.add Pred.all 1 2 3) = false ∧
    mayTrap (.shli Pred.all 1 2 63) = false := by decide +kernel

/-- CoresFetchTheirPlane at the first word and the last. -/
theorem wit_CoresFetchTheirPlane :
    let ok (c : Core) (n : Nat) := c.active = some 0 ∧ (c.plane 0).state = .active ∧ c.started = true ∧ c.startAt ≤ s0.now.clock ∧ c.halted = false ∧
      c.pc.toNat % 8 = 0 ∧ c.pc.toNat / 8 = n ∧ 8 ≤ n ∧ n < 2048 ∧ n < (SMap.get (c.plane 0).store 3).toNat / 2 ^ 32 % 2 ^ 16
    ok core0 8 ∧ ok { core0 with pc := 0x3FF8 } 2047 := by decide +kernel

/-- Core 0 with one word of code. -/
def withWord (w : Word) : State :=
  onCore0 { core0 with planes := [(0, { plane0 with store := [(3, 0x0000080000020009), (8, w)] })] }

/-- A program on the copy engine's sequencer at a word of the plane. -/
def prog0 (pc : Word) : Prog := { core := 0, pc := pc, g := [], joined := false, ended := none, opsFault := false, wait := none }

def withProg (w : Word) : State :=
  { withWord w with dev := { (withWord w).dev with quads := [(0, { Quad.fresh with engines := [(0, { Engine.idle with prog := some (prog0 64) })] })] },
                    actor := .engine 0 0 }

/-- StepRunsTheDecodedInstruction and MeaningsLeaveTheTurn: the turn's agent, and a scheduled one. -/
theorem wit_StepRunsTheDecodedInstruction :
    let s := withWord 0x0100000000000000
    let u : State := { s with actor := .core 0, schedule := [.issue (.core 1)],
                              dev := { s.dev with cores := [(0, core0), (1, s.dev.core 0)] } }
    decode 0x0100000000000000 = .ok .nop ∧ s.dev.stopped = false ∧ s.schedule = [] ∧ s.phase = .issue ∧
    s.dev.fetch s.now s.actor = some 0x0100000000000000 ∧ u.dev.stopped = false ∧ u.actor.place < (Actor.core 1).place ∧
    u.dev.fetch u.now (.core 1) = some 0x0100000000000000 ∧ goes (exec .nop s) = true := by decide +kernel

/-- UndecodableWordsTrapIllegal, its three cases. -/
theorem wit_UndecodableWordsTrapIllegal :
    let s := withWord 0
    let t := onCore0 { core0 with pc := 56 }
    let u := withProg 0
    s.dev.stopped = false ∧ s.schedule = [] ∧ s.phase = .issue ∧ s.actor = .core 0 ∧ s.dev.fetch s.now (.core 0) = some 0 ∧
    decode 0 = .error .noMajor ∧ t.dev.coreIssues t.now 0 = true ∧ (t.dev.core 0).cur.inCode (t.dev.core 0).pc = false ∧
    u.schedule = [] ∧ u.phase = .issue ∧ u.actor = .engine 0 0 ∧ u.dev.progIssues 0 0 = some (prog0 64) ∧
    u.dev.fetch u.now (.engine 0 0) = some 0 := by decide +kernel

/-- A start in which every step succeeds. -/
def noFailures : Failures := []

/-- StepsKeepTheInvariant, StepsKeepMemoryCanonical, DeviceTimeNeverDecreases, StartUpBeginsAnew. -/
theorem wit_steps :
    let s := onDev { dev0 with mem := [(0x30000, 5), (0x30001, 7)] } core0
    let h : State := { s with dev := { s.dev with stopped := true } }
    let u : State := { h with schedule := [.event (.startUp noFailures)] }
    600 ≤ s.now.mhz ∧ s.now.mhz ≤ 1100 ∧ s.now.mhz % 100 = 0 ∧ SMap.wf s.dev.mem = true ∧ s.dev.up = true ∧ s.restarts = false ∧
    goes (step s) = true ∧ h.dev.stopped = true ∧ h.restarts = false ∧
    u.schedule = .event (.startUp noFailures) :: [] ∧
    ({ h with schedule := [.event (.firmwareStage [1] [2])] } : State).schedule = .event (.firmwareStage [1] [2]) :: [] := by decide +kernel

/-- RegistersHoldTheirWrites: registers of each block, and lanes at both ends. -/
theorem wit_RegistersHoldTheirWrites : (∀ r ∈ ([1, 15, 16, 31, 32, 47, 48, 63] : List Reg), r ≠ 0) ∧ (2 : Reg) ≠ 1 ∧
    SMap.wf core0.g = true ∧ (0 : Nat) < 32 ∧ 31 < 32 ∧ (1 : Lane) ≠ 0 := by decide +kernel

/-- WindowsChain and CompletionChangesNothingElse: the ends of their ranges. -/
theorem wit_ranges : (0 : Nat) < 16 ∧ 15 < 16 ∧ gPlace 9 3 = gPlace 9 3 ∧ (63 : Nat) < 64 ∧ (1 : Nat) ≠ 0 ∧ (0 : Nat) ≠ core0.world := by
  decide +kernel

/-- Core.issues, decided. -/
theorem issues_of {c : Core} {p : Pred} {gs : List Reg} (h : (c.mask p != 0 && gs.all fun r => !c.pendingG r) = true) : c.issues p gs := by
  simpa [Core.issues] using h

theorem issuesV_of {c : Core} {p : Pred} {gs vs : List Reg}
    (h : (c.mask p != 0 && gs.all (fun r => !c.pendingG r) && vs.all fun r => !c.pendingV r) = true) : c.issuesV p gs vs := by
  simpa [Core.issuesV, Core.issues, and_assoc] using h

/-- ScalarResultsAreTheTables: one of each shape; a shift immediate of 63 and one of 64. -/
theorem wit_ScalarResultsAreTheTables : s0.actor = .core 0 ∧
    (∃ x, scalarSpec core0 (.sel Pred.all 63 1 2 3) = some (Pred.all, 63, [1, 2, 3], x)) ∧ core0.issues Pred.all [1, 2, 3] ∧
    (∃ x, scalarSpec core0 (.shli Pred.all 1 2 63) = some (Pred.all, 1, [2], x)) ∧ scalarSpec core0 (.shli Pred.all 1 2 64) = none ∧
    64 ≤ (64 : BitVec 32).toNat ∧ (∃ x, scalarSpec core0 (.kpoll Pred.all 3 1) = some (Pred.all, 1, [], x)) ∧ core0.issues Pred.all [] :=
  ⟨rfl, ⟨_, rfl⟩, issues_of (by decide +kernel), ⟨_, rfl⟩, rfl, by decide, ⟨_, rfl⟩, issues_of (by decide +kernel)⟩

/-- DivisionsPutTheirResultInFlight. -/
theorem wit_DivisionsPutTheirResultInFlight : s0.actor = .core 0 ∧
    (∃ x, divisionSpec core0 (.div Pred.all 1 2 0) = some (Pred.all, 1, [2, 0], x)) ∧ core0.issues Pred.all [2, 0] :=
  ⟨rfl, ⟨_, rfl⟩, issues_of (by decide +kernel)⟩

/-- A landing of a result for g 5. -/
def landing (timer : Option Nat) (live : Bool) : Landing :=
  { tag := 0, dst := .g 5, vals := [(0, 7)], flags := 0, live := live, ready := true, reply := false, timer := timer }

/-- ResultsInFlightLand: one clock to go and more, and a ready reply, live or discarded. -/
theorem wit_ResultsInFlightLand :
    ({ core0 with pend := [landing (some 1) true] } : Core).pend = [landing (some (0 + 1)) true] ∧
    ({ core0 with pend := [landing (some 34) true] } : Core).pend = [landing (some (33 + 1)) true] ∧ (33 : Nat) ≠ 0 ∧
    (∀ l ∈ [true, false], let s := onCore0 { core0 with pend := [landing none l] }
      (s.dev.core 0).pend[0]? = some (landing none l) ∧ (landing none l).ready = true ∧ (landing none l).timer = none ∧
      (landing none l).live = l ∧ (landing none l).dst = .g 5) := by decide +kernel

/-- ResultsInFlightLand, a vector result: of a function unit in its last clock, and a ready load's. -/
theorem wit_vectorResultsLand : (31 : Nat) < 32 ∧
    (∀ t ∈ [some 1, none], let p : Landing := { landing t true with dst := .v (6 : Reg).toNat, vals := (activeLanes 3).map fun i => (i, 7) }
      ({ core0 with pend := [p] } : Core).pend[0]? = some p ∧ p.ready = true ∧ p.live = true ∧ p.dst = .v (6 : Reg).toNat ∧
      p.vals = (activeLanes 3).map (fun i => (i, 7))) := by decide +kernel

/-! ### System instructions and traps -/

def plane1 : Plane := { plane0 with store := [(3, 0x000008000002FFFF)] }

/-- NopHaltAndEretComplete, TrapsEnterTheHandlerOrHalt: outside and inside the handler, and with no handler. -/
theorem wit_traps : s0.actor = .core 0 ∧ core0.inHandler = false ∧ core0.cur.handler ≠ 0xFFFF ∧ (1 : Nat) ≠ 0x0C ∧
    ({ core0 with inHandler := true } : Core).inHandler = true ∧
    ({ core0 with planes := [(0, plane1)] } : Core).cur.handler = 0xFFFF := by decide +kernel

/-- WfeWaitsForTheLatchOrItsDeadline: the latch set, clear, and waiting before, at and after the deadline. -/
theorem wit_Wfe : (1 : BitVec 32) ≠ 0 ∧ ({ core0 with latch := true } : Core).latch = true ∧ core0.latch = false ∧ core0.stage = .none ∧
    (∀ n ∈ [0, 1], let c : Core := { core0 with stage := .wfe n }
      c.latch = false ∧ c.stage = .wfe n) ∧ 0 ≤ s0.now.clock ∧ s0.now.clock < 1 := by decide +kernel

/-- A team of one core. -/
def team1 : Team :=
  { world := 1, launch := 1, node := 0, left := 0, top := 0, width := 1, height := 1, cores := [(0, 0)], group := [1], started := true,
    votes := [], quietSince := none, surveyed := false, gone := false, finished := false, segs := [] }

/-- PhasesVoteAndRestart: a core that votes, one in its handler, and a team whose members have voted, for contexts 0 and 15. -/
theorem wit_PhasesVoteAndRestart :
    let d : Dev := { dev0 with teams := [(1, team1)] }
    let v : Team := { team1 with votes := [(0, true)] }
    let s := onDev d core0
    let u := onDev { dev0 with teams := [(1, v)] } core0
    s.actor = .core 0 ∧ core0.blocked = false ∧ core0.inHandler = false ∧ core0.pend = [] ∧
    Tab.get? s.dev.teams (s.dev.core 0).cur.team = some team1 ∧ (team1.votes.any fun x => x.1 == 0) = false ∧
    Tab.get? u.dev.teams 1 = some v ∧ u.dev.members v = [0] ∧ v.votes.all (fun x => x.1 == 0) = true ∧
    core0.cur.phaseTable / 16 ^ 3 % 16 = 0 ∧
    ({ core0 with planes := [(0, { plane0 with store := [(1, 0x0000F00000000000), (3, 0x0000080000020009)] })] } : Core).cur.phaseTable / 16 ^ 2 % 16 = 0 := by
  decide +kernel

/-- CountsAreSentAndAwaited: before and after the group is on its way. -/
theorem wit_CountsAreSentAndAwaited : core0.stage = .none ∧ ({ core0 with stage := .counting 4 } : Core).stage = .counting 4 ∧
    ∀ x ∈ s0.dev.tokens, x.tag ≠ 4 := by decide +kernel

/-- SpecialRegistersAreRead: a register of Table 5.2, the ends of PARAM and a number that is not listed. -/
theorem wit_SpecialRegistersAreRead : core0.mask Pred.all ≠ 0 ∧ (0x006, (1 : Word)) ∈ specialSpec s0 0 ∧ (0 : Nat) < 64 ∧ 63 < 64 ∧
    (0x08F : Nat) = 0x050 + 63 ∧ (∀ e ∈ specialSpec s0 0, e.1 ≠ 0x090) ∧ ¬ (0x050 ≤ (0x090 : Nat) ∧ (0x090 : Nat) ≤ 0x08F) ∧
    (∀ e ∈ specialSpec s0 0, e.1 ≠ 0x101) := by decide +kernel

/-- SpecialRegistersAreWritten: each register and value that its clauses tell apart, and numbers at the ends. -/
theorem wit_SpecialRegistersAreWritten : core0.issues Pred.all [1] ∧
    ((0x3FF8 : Word) &&& 0x3FF8 = 0x3FF8 ∧ (0x3FF9 : Word) &&& 0x3FF8 ≠ 0x3FF9 ∧ (3 : Word) &&& 7 = 3 ∧ (3 : Word).getLsbD 2 = false ∧
      (7 : Word) &&& 7 = 7 ∧ (7 : Word).getLsbD 2 = true ∧ (8 : Word) &&& 7 ≠ 8 ∧ (0x1F : Word) &&& 0x1F = 0x1F ∧ (0x20 : Word) &&& 0x1F ≠ 0x20 ∧
      (0x100, (0 : Word)) ∈ specialSpec s0 0 ∧ (∀ e ∈ specialSpec s0 0, e.1 ≠ 0x022)) ∧ ((putG [(1, 7)]).readG 1 = 7) :=
  ⟨issues_of (by decide +kernel), by decide +kernel, by decide +kernel⟩

/-- TranslationsAreInvalidated: in the root world with each kind, and in another world. -/
theorem wit_TranslationsAreInvalidated :
    let c : Core := { core0 with planes := [(0, { plane0 with world := 0 })] }
    core0.world ≠ 0 ∧ c.world = 0 ∧ c.issues Pred.all [1, 2] ∧ c.blocked = false ∧ (0 : BitVec 32).toNat ≤ 2 ∧ (2 : BitVec 32).toNat ≤ 2 :=
  ⟨by decide +kernel, by decide +kernel, issues_of (by decide +kernel), by decide +kernel, by decide, by decide⟩

/-! ### Branches and calls -/

/-- BranchesGoToTheirTarget: a branch of each kind; LOOP on g0 has no entry, and an empty port has none. -/
theorem wit_BranchesGoToTheirTarget :
    let c : Core := { core0 with ports := [(3, true)] }
    (∃ t, branchSpec 0 c (.br 1) = some ([], c, t, 1)) ∧ (∃ x t, branchSpec 0 c (.loop 5 1) = some ([5], x, t, 1)) ∧
    branchSpec 0 c (.loop 0 1) = none ∧ (∃ x t, branchSpec 0 c (.bbead 3 1) = some ([], x, t, 1)) ∧ Tab.get? c.ports 0 = none ∧
    (∃ t, branchSpec 0 c (.bcmp 9 1 2 1) = some ([1, 2], c, t, 1)) ∧ ∀ r ∈ ([1, 2, 5] : List Reg), c.pendingG r = false :=
  ⟨⟨_, rfl⟩, ⟨_, _, rfl⟩, rfl, ⟨_, _, rfl⟩, rfl, ⟨_, rfl⟩, by decide +kernel⟩

/-- BranchesGoToTheirTarget, on an engine: a program with g15 as its last register, a LOOP that ends and one that goes on, a target
inside the code (its own word) and one outside; instructions that end it: a core's, another engine's, one with a predicate or g16. -/
theorem wit_enginePrograms :
    (withProg 0).actor = .engine 0 0 ∧ ((withProg 0).dev.engine 0 0).prog = some (prog0 64) ∧ (15 : Reg) ≠ 0 ∧ (15 : Reg).toNat ≤ 15 ∧
    ((prog0 64).writeG 5 1).readG 5 - 1 = 0 ∧ (prog0 64).readG 5 - 1 ≠ 0 ∧
    ((withProg 0).dev.core 0).cur.inCode ((prog0 64).pc + 8 * (0 : BitVec 32).signExtend 64) = true ∧
    ((withProg 0).dev.core 0).cur.inCode ((prog0 64).pc + 8 * (0xFFFFFFFF : BitVec 32).signExtend 64) = false ∧
    coreAlone .nop = true ∧ engineOf (.mzero 1) = some 1 ∧ 1 ≠ 0 ∧ (⟨1, false⟩ : Pred) ≠ Pred.all ∧ 15 < (16 : Reg).toNat := by
  decide +kernel

/-- A device whose quad 0 has an engine as given. -/
def withEngine (e : Nat) (g : Engine) : Dev := { dev0 with quads := [(0, { Quad.fresh with engines := [(e, g)] })] }

/-- StatusBranchesReadTheWord: an idle engine, one that is done, and one with a fault of this core, for states 0 and 3. -/
theorem wit_StatusBranchesReadTheWord :
    let s := onDev (withEngine 1 { Engine.idle with used := true }) core0
    let u := onDev (withEngine 1 { Engine.idle with used := true, fault := some (1, 4, some 0) }) core0
    ({ core0 with inHandler := true } : Core).inHandler = true ∧ (0 : BitVec 4).toNat < 4 ∧ (3 : BitVec 4).toNat < 4 ∧ core0.inHandler = false ∧ core0.cur.handler ≠ 0xFFFF ∧ (s.dev.engine 0 1).stateCode = 2 ∧
    (s.dev.engine 0 1).faultedBy 0 = false ∧ (u.dev.engine 0 1).faultedBy 0 = true ∧ (u.dev.engine 0 1).stateCode = 3 ∧ (0 : BitVec 4) ≠ 3 := by
  decide +kernel

/-- CallsAndReturnsMoveTheWindow: aligned and not, room at 1 and 7 windows and none at 8; a full store with a window left to spill and
with none; a resident caller, a spilled one, and none. -/
theorem wit_CallsAndReturnsMoveTheWindow :
    let c := putG [(1, 0x40), (2, 0x44)]
    let full (n : Nat) : Core := { c with resident := 8, spilled := n }
    s0.actor = .core 0 ∧ c.pendingG 1 = false ∧ (c.readG 1 + 8 * (0xFFFFFFFF : BitVec 32).signExtend 64).toNat % 8 = 0 ∧
    (c.readG 2 + 8 * (1 : BitVec 32).signExtend 64).toNat % 8 ≠ 0 ∧ 1 ≤ c.resident ∧ c.resident < 8 ∧ c.resident = 1 ∧ c.spilled = 0 ∧
    (full 2).resident = 8 ∧ (full 2).spilled = (full 2).cur.spillWindows ∧ 1 < (full 2).resident ∧ (7 : Nat) < 8 ∧
    (∀ n ∈ [0, 1], (full n).spilled ≠ (full n).cur.spillWindows) ∧ c.held = [] ∧ c.pend = [] ∧
    ({ c with spilled := 1 } : Core).spilled = 0 + 1 := by decide +kernel
/-! ### Lanes -/

/-- LaneResultsAreTheTables: an instruction of each shape. -/
theorem wit_LaneResultsAreTheTables : s0.actor = .core 0 ∧
    (∃ f, laneSpec core0 (.vadd Pred.all 3 31 30 29) = some (Pred.all, 31, [], [30, 29], f)) ∧ core0.issuesV Pred.all [] [30, 29] ∧
    (∃ f, laneSpec core0 (.vrot Pred.all 1 2 5) = some (Pred.all, 1, [5], [2], f)) ∧ core0.issuesV Pred.all [5] [2] ∧
    (∃ x, maskSpec core0 (.mnot Pred.all 7 0) = some (Pred.all, 7, [], [], x)) ∧ core0.issuesV Pred.all [] [] ∧
    (∃ x, maskSpec core0 (.vfcmp Pred.all 0 7 0 1 2) = some (Pred.all, 0, [], [1, 2], x)) ∧ core0.issuesV Pred.all [] [1, 2] :=
  ⟨rfl, ⟨_, rfl⟩, issuesV_of (by decide +kernel), ⟨_, rfl⟩, issuesV_of (by decide +kernel), ⟨_, rfl⟩, issuesV_of (by decide +kernel),
    ⟨_, rfl⟩, issuesV_of (by decide +kernel)⟩

/-- LaneFloatResultsAndFlags: an element instruction and a function unit. -/
theorem wit_LaneFloatResultsAndFlags :
    (∃ f, floatSpec core0 (.vfma Pred.all 2 7 0 1 2 3) = some (Pred.all, 0, [1, 2, 3], 16, f)) ∧ core0.issuesV Pred.all [] [1, 2, 3] ∧
    (∃ f, unitSpec core0 (.vrsq Pred.all 0 1 2) = some (Pred.all, 1, 2, f)) ∧ core0.issuesV Pred.all [] [2] :=
  ⟨⟨_, rfl⟩, issuesV_of (by decide +kernel), ⟨_, rfl⟩, issuesV_of (by decide +kernel)⟩

/-- LaneFloatResultsAndFlags, the rounding: the largest and the smallest finite number of each format, an exact zero sum, a quotient and
the smallest NaN. -/
theorem wit_rounding :
    (∀ f ∈ [f32, bf16, f16], f.maxBits < 2 ^ f.w ∧ f.maxBits % 2 ^ (f.w - 1) ≤ f.maxBits ∧ 1 < 2 ^ f.w ∧ 1 % 2 ^ (f.w - 1) ≤ f.maxBits ∧
      f.maxBits + 2 < 2 ^ f.w ∧ f.maxBits + 1 < (f.maxBits + 2) % 2 ^ (f.w - 1)) ∧
    f32.read false 0x3F800000 + f32.read false 0xBF800000 = 0 ∧ f32.read false 1 ≠ 0 ∧ f32.read true 1 = 0 ∧
    (0x3F800000 / 2 ^ 31 ≠ 0xBF800000 / 2 ^ 31) ∧ field (2 : BitVec 4) 0 2 = 2 := by decide +kernel

/-- The same, a result that overflows and one that does not. -/
theorem wit_overflow : f32.overflows 0 1 (2 * f32.units f32.maxBits) ∧ ¬ f32.overflows 0 1 (f32.units f32.maxBits) := by
  constructor
  · left; decide +kernel
  · intro h; rcases h with h | h <;> revert h <;> decide +kernel

/-- ConversionsFillTheirPart: to a narrower format at its last part, and to a wider one. -/
theorem wit_ConversionsFillTheirPart :
    (wellFormed (.vfcvt Pred.all 3 0 5 6 0 3) = true ∧ (numFmt 0).isSome = true ∧ (numFmt 3).isSome = true ∧
      wellFormed (.vfcvt Pred.all 0 0 8 5 3 3) = true) ∧ core0.issuesV Pred.all [] [6] ∧ (31 : Nat) < 32 ∧
    (activeLanes (core0.mask Pred.all)).contains 31 = true ∧ (3 : Nat) < 32 / 8 :=
  ⟨by decide +kernel, issuesV_of (by decide +kernel), by decide, by decide +kernel, by decide⟩

/-- ConversionsFillTheirPart, the values: a format and a width of each kind, and integers at the ends of a range. -/
theorem wit_conversions : e4m3 ∈ [bf16, f16, e5m2, e4m3] ∧ f32.maxBits < 2 ^ 32 ∧ f32.maxBits % 2 ^ 31 ≤ f32.maxBits ∧
    (64 : Nat) ∈ [8, 16, 32, 64] ∧ f16 ∈ [f32, bf16, f16] ∧ (255 : Nat) < 2 ^ 8 ∧ 2 ^ (8 - 1) ≤ (128 : Nat) ∧
    field (0 : BitVec 4) 0 2 = 0 := by decide +kernel

/-- ReductionsAreTheTables: a reducing one with no lane selected, and VSCAN; IntegerReductionsAddUp. -/
theorem wit_ReductionsAreTheTables :
    (∃ c, reduceSpec core0 (.vargmax { m := 1, pn := false } 62 6) = some ({ m := 1, pn := false }, [], [6], c)) ∧
    (∀ r ∈ ([6] : List Reg), core0.pendingV r = false) ∧ reduces (.vargmax { m := 1, pn := false } 62 6) = true ∧
    ¬ ((1 : BitVec 3) = 0 ∧ false = true) ∧ (∃ c, reduceSpec core0 (.vscan Pred.all 0 0 1 2) = some (Pred.all, [], [2], c)) ∧
    core0.mask Pred.all ≠ 0 ∧ (1 : BitVec 4) ≠ 0 :=
  ⟨⟨_, rfl⟩, by decide +kernel, rfl, by decide, ⟨_, rfl⟩, by decide +kernel, by decide⟩

/-! ### Memory -/

/-- The physical address of each element, where it translates. -/
def paOf (s : State) (k : Nat) (x : Accesses) (e : Elem) : Nat :=
  match s.dev.translate s.seq (s.dev.reqOf k x.kind) e.va.toNat with | .mem pa => pa | _ => 0

theorem reach_of {s : State} {k : Nat} {x : Accesses} (hs : s.dev.stale = []) (h : (x.elems.all fun e => decide (e.va.toNat < 2 ^ 56) && decide (e.va.toNat % x.bytes = 0) &&
    (match s.dev.translate s.seq (s.dev.reqOf k x.kind) e.va.toNat with | .mem _ => true | _ => false)) = true) : s.reach k x (paOf s k x) := by
  refine ⟨.inl hs, ?_⟩
  intro e he
  have := List.all_eq_true.mp h e he
  simp only [Bool.and_eq_true, decide_eq_true_eq] at this
  refine ⟨this.1.1, this.1.2, ?_⟩
  unfold paOf
  split at this <;> simp_all

/-- A core that points at the last double word of the writable page, and with lane offsets 0, 4, 8 … in v2. -/
def memCore : Core := putV (putG [(1, 0x1FFF8), (3, 0x10000), (4, 0x90000), (5, 0x20000), (6, 0xFF00000000000000)]) 2 fun i => BitVec.ofNat 32 (4 * i)

def accessOf (i : Instr) : Accesses := ((memSpec memCore i).map fun x => x.2.2.2).getD (one .load 1 0 0 0 .none)

/-- LoadsPutTheirResultInFlight: at the end of a page, a gather, and a broadcast. -/
theorem wit_LoadsPutTheirResultInFlight :
    let s := onCore0 memCore
    let ld := Instr.ld Pred.all 3 9 1 0 0
    let g := Instr.vldg Pred.all 7 3 2 0
    let b := Instr.vldb Pred.all 7 3 0 0
    s.actor = .core 0 ∧ memCore.blocked = false ∧ memSpec memCore ld = some (Pred.all, [1, 0], [], accessOf ld) ∧ (accessOf ld).kind = .load ∧
    memCore.issuesV Pred.all [1, 0] [] ∧ s.reach 0 (accessOf ld) (paOf s 0 (accessOf ld)) ∧ (accessOf ld).spread = 0 ∧
    memSpec memCore g = some (Pred.all, [3], [2], accessOf g) ∧ s.reach 0 (accessOf g) (paOf s 0 (accessOf g)) ∧ memCore.issuesV Pred.all [3] [2] ∧
    memSpec memCore b = some (Pred.all, [3, 0], [], accessOf b) ∧ s.reach 0 (accessOf b) (paOf s 0 (accessOf b)) ∧ (accessOf b).spread ≠ 0 ∧
    memCore.issues Pred.all [3, 0] :=
  ⟨rfl, by decide +kernel, rfl, rfl, issuesV_of (by decide +kernel), reach_of rfl (by decide +kernel), rfl, rfl, reach_of rfl (by decide +kernel),
    issuesV_of (by decide +kernel), rfl, reach_of rfl (by decide +kernel), by decide +kernel, issues_of (by decide +kernel)⟩

/-- StoresWriteTheirElementsAlone: a store at the end of a page, and a lane store. -/
theorem wit_StoresWriteTheirElementsAlone :
    let s := onCore0 memCore
    let st := Instr.st Pred.all 3 9 1 0 0
    let v := Instr.vst Pred.all 2 3 0 0x80
    memSpec memCore st = some (Pred.all, [9, 1, 0], [], accessOf st) ∧ (accessOf st).kind = .store ∧ memCore.issuesV Pred.all [9, 1, 0] [] ∧
    s.reach 0 (accessOf st) (paOf s 0 (accessOf st)) ∧ memSpec memCore v = some (Pred.all, [3, 0], [2], accessOf v) ∧
    s.reach 0 (accessOf v) (paOf s 0 (accessOf v)) ∧ memCore.issuesV Pred.all [3, 0] [2] ∧ memCore.blocked = false :=
  ⟨rfl, rfl, issuesV_of (by decide +kernel), reach_of rfl (by decide +kernel), rfl, reach_of rfl (by decide +kernel), issuesV_of (by decide +kernel),
    by decide +kernel⟩

/-- AtomicsReadModifyAndWrite: ACAS, and a lane atomic. -/
theorem wit_AtomicsReadModifyAndWrite :
    let s := onCore0 memCore
    let a := Instr.acas Pred.all 3 9 1 7 0
    let v := Instr.vaadd Pred.all 7 3 2 0
    memSpec memCore a = some (Pred.all, [9, 1, 7], [], accessOf a) ∧ (accessOf a).kind = .atomic .cas ∧ memCore.issuesV Pred.all [9, 1, 7] [] ∧
    s.reach 0 (accessOf a) (paOf s 0 (accessOf a)) ∧ memSpec memCore v = some (Pred.all, [3], [7, 2], accessOf v) ∧
    (accessOf v).kind = .atomic .add ∧ s.reach 0 (accessOf v) (paOf s 0 (accessOf v)) ∧ memCore.issuesV Pred.all [3] [7, 2] :=
  ⟨rfl, rfl, issuesV_of (by decide +kernel), reach_of rfl (by decide +kernel), rfl, rfl, reach_of rfl (by decide +kernel), issuesV_of (by decide +kernel)⟩

/-- AccessesAreChecked: bit 56 set, misaligned by one, no page, and a page that denies the store. -/
theorem wit_AccessesAreChecked :
    let s := onCore0 memCore
    let e (i : Instr) := (accessOf i).elems.headD { lane := 0, va := 0, data := 0, cmp := 0 }
    let hi := Instr.ld Pred.all 2 9 6 0 0
    let odd := Instr.ld Pred.all 2 9 3 0 1
    let gone := Instr.st Pred.all 2 9 4 0 0
    let held := Instr.st Pred.all 2 9 5 0 0
    ((accessOf hi).elems.find? (fun e => decide (2 ^ 56 ≤ e.va.toNat)) = some (e hi) ∧ (∀ x ∈ (accessOf odd).elems, x.va.toNat < 2 ^ 56) ∧
      (accessOf odd).elems.find? (fun x => decide (x.va.toNat % (accessOf odd).bytes ≠ 0)) = some (e odd) ∧ (accessOf gone).elems = [e gone] ∧
      (e gone).va.toNat < 2 ^ 56 ∧ (e gone).va.toNat % (accessOf gone).bytes = 0 ∧
      s.dev.translate s.seq (s.dev.reqOf 0 .store) (e gone).va.toNat = .miss 2 ∧ (accessOf held).elems = [e held] ∧
      s.dev.translate s.seq (s.dev.reqOf 0 .store) (e held).va.toNat = .deny true) ∧ memCore.issuesV Pred.all [6, 0] [] ∧
    memCore.issuesV Pred.all [9, 5, 0] [] :=
  ⟨by decide +kernel, issuesV_of (by decide +kernel), issuesV_of (by decide +kernel)⟩

/-- AccessesAreChecked, further: behind a held access; lane 0 on the writable page and lane 1 on the one that denies, and on one that
is absent; a quad of another world. -/
theorem wit_AccessesStop :
    let s := onCore0 memCore
    let at_ (va : Word) : Elem := { lane := 0, va := va, data := 0, cmp := 0 }
    let deny := (accessOf (Instr.vst { m := 1, pn := false } 2 1 0 4)).elems
    let a : Access := { pc := 64, kind := .store, bytes := 4, elems := [at_ 0x90000], dst := .none, spread := 0, tag := 0 }
    ({ memCore with held := [.access a] } : Core).held ≠ [] ∧ s.dev.stale = [] ∧
    (memCore.writeM 1 0xFFFFFFFF 3).mask { m := 1, pn := false } = 3 ∧ deny = [] ∧
    s.dev.translate s.seq (s.dev.reqOf 0 .store) 0x1FFFC = .mem 0x3FFFC ∧ s.dev.translate s.seq (s.dev.reqOf 0 .store) 0x20000 = .deny true ∧
    s.dev.translate s.seq (s.dev.reqOf 0 .store) 0x30000 = .miss 2 ∧
    s.dev.translate s.seq (s.dev.reqOf 0 .store) (vaWindow + 0x200000) = .drop 0 1 := by decide +kernel

/-- The same: a lane store whose elements are as there, lane 0 before lane 1. -/
theorem wit_AccessesStop_lanes :
    let c := (putV (putG [(1, 0x1FFFC)]) 2 fun _ => 5).writeM 1 0xFFFFFFFF 3
    let i := Instr.vst { m := 1, pn := false } 2 1 0 0
    c.issuesV { m := 1, pn := false } [1, 0] [2] ∧ ((memSpec c i).map fun x => x.2.2.2.elems.map Elem.va) = some [0x1FFFC, 0x20000] :=
  ⟨issuesV_of (by decide +kernel), by decide +kernel⟩

/-- AccessesAreChecked, translation: pages that are not present, of a freed frame, writable and read-only, under another slot than the
record's and under one that the world has not; and the first and the last bytes of the apertures. -/
theorem wit_translation :
    let d : Dev := { dev0 with
      frames := [(4, { Frame.clean with state := .scrubPending })],
      worlds := [(0, World.root), (1, { world1 with tables := [(0, [(leafKeyAt 4 0x10000, leaf0 0x30000 true false),
        (leafKeyAt 4 0x20000, leaf0 0x40000 false false), (leafKeyAt 4 0x30000, makeLeaf 0x50000 1 true false false false),
        (leafKeyAt 4 0x40000, makeLeaf 0x60000 2 true false true false), (leafKeyAt 4 0x50000, leaf0 0x70000 false false)])] })] }
    let w := d.world 1
    let r : Req := { world := 1, gen := 0, die := 0, quad := some 0, write := true, slot := some 1 }
    d.stale = [] ∧ (1 : Nat) ≠ 0 ∧ w.leafOf 0x1FFFF = some (4, leaf0 0x30000 true false) ∧ w.leafOf 0x60000 = none ∧
    (d.frame 3).state = .clean ∧ leafSlot (leaf0 0x30000 true false) ∈ w.keySlots ∧ (d.keySlot 1).state = .assigned ∧
    leafValid (leaf0 0x30000 true false) = true ∧ leafPort (leaf0 0x30000 true false) = false ∧ leafWrite (leaf0 0x30000 true false) = true ∧
    leafExec (leaf0 0x30000 true false) = false ∧ d.execAt 1 0x3FFFF = false ∧ d.paOk 1 0x3FFFF = true ∧
    d.translate 0 r 0x1FFFF = .mem 0x3FFFF ∧ d.translate 0 r 0x20000 = .miss 2 ∧ d.translate 0 r 0x30000 = .miss 1 ∧
    d.translate 0 { r with slot := none } 0x40000 = .drop 0 256 ∧ d.translate 0 r 0x40000 = .deny true ∧ d.translate 0 r 0x50000 = .deny true ∧
    d.translate 0 { r with write := false } 0x50000 = .mem 0x70000 ∧
    d.translate 0 r 0xFF000000000000 = .mem 0x010000000000 ∧ d.translate 0 r (0xFF00007FFFFFFF) = .drop 3 255 ∧
    d.translate 0 r 0xFF000080000000 = .deny false ∧ d.translate 0 r 0xFFF000001FFFFF = .mem 0x0100001FFFFF ∧
    d.translate 0 r 0xFFF00000200000 = .deny false ∧ d.translate 0 r 0xFFEFFFFFFFFFFF = .deny false := by decide +kernel

/-! ### Records, fences and barriers -/

/-- A legend record of world 1 and key slot 1 (Table 3.8), with its check. -/
def recBytes (kind format rank flags base : Nat) (extents strides : List Nat) (span : Nat) (data : Bytes) : Bytes :=
  let body := [kind, format, rank, flags].flatMap (bytesOfNat 1) ++ bytesOfNat 2 1 ++ bytesOfNat 2 1 ++ bytesOfNat 8 base ++
    ((List.range 6).map fun i => extents.getD i 1).flatMap (bytesOfNat 4) ++ ((List.range 6).map fun i => strides.getD i 0).flatMap (bytesOfNat 8) ++
    bytesOfNat 24 0 ++ bytesOfNat 8 span ++ sliceB data 0 64 ++ bytesOfNat 4 0
  body ++ bytesOfNat 4 (crc32c body)

/-- Records in die 0's legend cache; the legend's own page is not mapped. -/
def withRecs (rs : List (Nat × Bytes)) : Dev := { dev0 with dies := [(0, { Die.fresh with legend := rs.map fun r => (1, r.1, r.2) })] }

/-- A tensor of 64 FP32 elements at the writable page. -/
def tensor : Bytes := recBytes 0 0 1 0 0x10000 [64] [4] 0x1000 []

def recDev : Dev := withRecs [(5, tensor)]

/-- FencesWaitForTheirCounters: no valid record; nothing to wait for; a counter that a release waits for; an access that waits for a
page; a fence that goes on with what it has read; and a world limited to tenant scope, whose header takes the trap and not. -/
theorem wit_FencesWaitForTheirCounters :
    let c : Core := { core0 with ranges := [(0, { lo := 0x10FF8, hi := 0x11000, count := 8 })] }
    let s := onDev recDev c
    let t : Dev := { recDev with worlds := [(0, World.root), (1, { world1 with tenantScope := true })] }
    let trapping : Core := { core0 with planes := [(0, { plane0 with store := [(1, 1), (3, 0x0000080000020009)] })] }
    (s.dev.fenceRanges s.ctx 0 [(false, 6)]).2 = .inl 6 ∧ (s.dev.fenceRanges s.ctx 0 [(false, 5)]).2 = .inr [(0x10000, 0x11000)] ∧
    (∃ r, Tab.get? c.ranges 0 = some r ∧ r.count ≠ 0 ∧ r.lo < 0x11000 ∧ 0x10000 < r.hi ∧ r.lo < r.hi) ∧ (0x10000 : Nat) < 0x11000 ∧ (0 : Nat) < 8 ∧
    (∀ n, n < 8 → Tab.get? core0.ranges n = none) ∧ c.pendingG 5 = false ∧ c.pendingG 6 = false ∧ (2 : BitVec 2) ≠ 0 ∧
    ((t.world 1).tenantScope = true ∧ core0.cur.clampTraps = false ∧ trapping.cur.clampTraps = true ∧ trapping.inHandler = false ∧
      trapping.cur.handler ≠ 0xFFFF) ∧ core0.stage = .none ∧ ({ c with stage := .fencing [(0x10000, 0x11000)] [0] } : Core).stage = .fencing [(0x10000, 0x11000)] [0] ∧
    ({ c with held := [.fill 7 1] } : Core).held ≠ [] :=
  ⟨by decide +kernel, by decide +kernel, ⟨_, rfl, by decide⟩, by decide, by decide, by decide +kernel, by decide +kernel, by decide +kernel,
    by decide, by decide +kernel, rfl, rfl, by decide⟩

/-- The same: dies inside and outside a scope, and a mapped address of a range whose line the quad may hold a copy of. -/
theorem wit_FencesAcquire :
    recDev.scopeDies 0 2 = [0] ∧ 1 ∉ recDev.scopeDies 0 2 ∧ 0 < 2 ^ 56 ∧
    ((recDev.world 1).leafOf 0x10080).map (fun e => (e.1, (leafBase e.2 + 0x10080 % 2 ^ pageBits e.1) / 128)) = some (4, 0x30080 / 128) := by
  decide +kernel

/-- A device with a barrier of world 1 in core 0's quad (scope 1). -/
def withBarrier (b : Barrier) : Dev := { dev0 with barriers := [(barKey 1 1 (barPlace 1 0) 255, b)] }

/-- BarriersCountArrivals: not arrived, arrived and waiting, open again, within and beyond the limit, complete and not, and a clamp. -/
theorem wit_BarriersCountArrivals :
    let key := barKey 1 1 (barPlace 1 0) 255
    let b : Barrier := { Barrier.zero with declared := 2, arrived := 1, who := [0] }
    let full : Barrier := { Barrier.zero with declared := 2, arrived := 2, who := [0, 1], epoch := 0xFFFFFFFF }
    let c : Core := { putG [(1, 4), (2, 5)] with arrivals := [(key, 0)], stage := .arrived key 7 false }
    let d := withBarrier b
    c.stage = .arrived key 7 false ∧ (d.barrier key).epoch.toNat ≠ 7 ∧ 0 ∈ (d.barrier key).who ∧ 0 ∉ (dev0.barrier key).who ∧
    Tab.get? c.arrivals key = some (d.barrier key).epoch.toNat ∧ Tab.get? core0.arrivals key = none ∧
    (onDev d c).dev.barLimit 0 (barScope key) = 4 ∧ (c.readG 1).toNat % 2 ^ 32 ≤ 4 ∧ 4 < (c.readG 2).toNat % 2 ^ 32 ∧ (1 : BitVec 4) ≠ 0 ∧
    (d.barrier key).pending + (c.readG 1).toNat % 2 ^ 32 < 2 ^ 32 ∧ barScope key ≠ 0 ∧ ((withBarrier full).barrier key).declared ≠ 0 ∧
    ((withBarrier full).barrier key).declared ≤ ((withBarrier full).barrier key).arrived ∧ ((withBarrier full).barrier key).pending = 0 ∧
    ¬ (d.declared key ≠ 0 ∧ d.declared key ≤ (d.barrier key).arrived ∧ (d.barrier key).pending = 0) ∧ core0.stage = .none := by
  decide +kernel

/-- BarriersCountArrivals: a sys barrier of a world limited to tenant scope, under a header that traps and one that does not. -/
theorem wit_BarriersClamp :
    let t : Dev := { dev0 with worlds := [(0, World.root), (1, { world1 with tenantScope := true })] }
    let trapping : Core := { core0 with planes := [(0, { plane0 with store := [(1, 1), (3, 0x0000080000020009)] })] }
    (t.world 1).tenantScope = true ∧ (t.barrier (barKey 1 5 (barPlace 5 0) 255)).pending + (core0.readG 1).toNat % 2 ^ 32 < 2 ^ 32 ∧
    core0.cur.clampTraps = false ∧ trapping.cur.clampTraps = true ∧ trapping.inHandler = false ∧ trapping.cur.handler ≠ 0xFFFF := by decide +kernel

/-! ### Channels and beads -/

/-- A ring record over the vault window, and the channel on it. -/
def ringRec : Bytes := recBytes 1 4 1 0 vaWindow [32] [1] 32 (bytesOfNat 2 4 ++ bytesOfNat 2 8)

/-- ChannelsMoveTheirPointers: each end, with enough slots and without, at the last slot that may be used and the first that may not,
an arrival of each kind, and a handle to bind. -/
theorem wit_ChannelsMoveTheirPointers :
    let x : Chan := { ring20 with filled := 3, waited := 3, credits := 2, reserved := 2, fills := [1], backs := [1] }
    let s := onDev (ringDev x) ringCore
    let e : Chan := { ring20 with ring := vaultPa 0 0 0, va := BitVec.ofNat 64 vaWindow }
    let u := onDev { withRecs [(20, ringRec)] with chans := [(7, e)] } (putG [(1, 20)])
    let r := (u.dev.useKind 0 0 1 20 [1]).2
    (s.actor = .core 0 ∧ ringCore.blocked = false ∧ Tab.get? ringCore.handles 1 = some { chan := 7, producer := false, lent := false } ∧
      Tab.get? ringCore.handles 2 = some { chan := 7, producer := true, lent := false } ∧ Tab.get? s.dev.chans 7 = some x ∧ (2 : Nat) < x.waited ∧
      ¬ (3 : Nat) < x.waited ∧ (1 : Nat) < x.reserved ∧ ¬ (2 : Nat) < x.reserved ∧ (0 : Nat) < x.slotBytes / 8 ∧ x.fills = 1 :: [] ∧ x.backs = 1 :: [] ∧
      (2 : Nat) ≤ x.credits ∧ (2 : Nat) ≤ x.slots ∧ x.credits < 3 ∧ 3 ≤ x.slots ∧ 3 ≤ x.filled ∧ x.filled < 4 ∧ 4 ≤ x.slots ∧ (2 : Nat) ≤ x.reserved ∧
      ringCore.pendingG 0 = false) ∧ ringCore.issues Pred.all [] ∧
    (r.any (fun r => ringOk r e) = true ∧ e.team = (u.dev.core 0).cur.team ∧ e.world = (u.dev.core 0).world ∧ e.tid = 20 ∧ e.prod = 0 ∧
      ((Tab.get? (u.dev.core 0).handles 2).any Handle.lent = false) ∧ ((u.dev.core 0).readG 1).toNat = 20 ∧ (20 : Nat) < 2048 ∧
      u.dev.chans = [(7, e)] ∧ dev0.chans = []) :=
  ⟨by decide +kernel, issues_of (by decide +kernel), by decide +kernel⟩

/-- ChannelsMoveTheirPointers, further: counts above the ring, a read-only ring, a handle that is unbound or lent, and no channel that
fits a CBIND. -/
theorem wit_ChannelsRefuse :
    let ro : Chan := { ring20 with reserved := 2, readOnly := true }
    let lent : Core := { ringCore with handles := [(1, { chan := 7, producer := false, lent := true })] }
    (ro.readOnly = true ∧ 1 < ro.reserved ∧ ro.slots < 5 ∧ Tab.get? ringCore.handles 0 = none ∧
      Tab.get? lent.handles 1 = some { chan := 7, producer := false, lent := true }) ∧ lent.issues Pred.all [0] ∧
    (recDev.useKind 0 0 1 5 [1]).2 = none ∧ recDev.chans = [] := by
  exact ⟨by decide +kernel, issues_of (by decide +kernel), by decide +kernel, by decide +kernel⟩

/-- BeadsTravelToTheirPort: no route; an idle one with an empty port, one whose port is full, with and without another bead before it;
a bead on its way to a port that is empty, full, and emptied in this clock; and to a plane that no longer runs the team. -/
theorem wit_BeadsTravelToTheirPort :
    let r : BeadRoute := { team := 1, src := 0, number := 3, dst := 0, port := 2, fly := none, flyTime := 0 }
    let f : BeadRoute := { r with fly := some true }
    let full : Core := { core0 with ports := [(2, true)] }
    let s := onDev { dev0 with beads := [(9, r)] } core0
    let u := onDev { dev0 with beads := [(9, f), (10, { f with number := 4 })] } full
    s.dev.beadRoute 0 3 = some 9 ∧ s.dev.beadRoute 0 4 = none ∧ Tab.get? s.dev.beads 9 = some r ∧ r.fly = none ∧
    Tab.get? (s.dev.core r.dst).ports r.port = none ∧ Tab.get? u.dev.beads 9 = some f ∧ f.fly = some true ∧
    (Tab.get? (u.dev.core 0).ports 2).isSome = true ∧ (10, { f with number := 4 }) ∈ u.dev.beads ∧ (∀ e ∈ s.dev.beads, ¬ e.1 ≠ 9) ∧
    (u.dev.core 0).active.isSome = true ∧ (u.dev.core 0).cur.team = r.team ∧ (u.dev.core 0).cur.state = .active ∧
    (u.dev.world (u.dev.core 0).world).owns (quadOfCore 0) = true ∧ Tab.get? core0.portAt 2 ≠ some s.now.clock ∧
    Tab.get? ({ core0 with portAt := [(2, 0)] } : Core).portAt 2 = some s.now.clock ∧ core0.cur.team ≠ ({ r with team := 2 } : BeadRoute).team ∧
    core0.mask Pred.all ≠ 0 ∧ core0.pendingG 1 = false := by decide +kernel

/-! ### Engines -/

/-- A command of core 0. -/
def cmd0 (seq : Nat) (i : Instr) (a b c : Word) : Cmd :=
  { seq := seq, instr := i, a := a, b := b, c := c,
    issuer := { core := some 0, program := false, node := none, plane := 0, pc := 64, world := 1, gen := 0, team := 1 }, charged := [],
    bar := none, follow := none, after := none, tile := none, ready := true, record := none, fault := none, waiting := false, taken := [], given := 0,
    landed := [], counts := Counts.zero, ltime := 0, lines := [] }

/-- A record of FP32, an A tile's worth of E4M3, and both in die 0's legend cache. -/
def tileRec : Bytes := recBytes 0 3 2 0 0x10000 [64, 128] [1, 64] 0x2000 []
def engDev : Dev := withRecs [(5, tensor), (6, tileRec)]

/-- EngineCommandsEnterTheirQueue: commands of each engine, an invalid record, one of a wrong kind, seven commands queued and eight, a
follower, behind an access that waits, and CPYM with an MMA and without. -/
theorem wit_EngineCommandsEnterTheirQueue :
    let s := onDev engDev (putG [(1, 0x10080), (2, 0x10000), (3, 64), (4, (encode (.mma 7 62 6)).getD 0), (5, 0)])
    let q (n : Nat) : Engine := { Engine.idle with queue := List.replicate n (cmd0 1 (.mzero 0) 0 0 0) }
    let cpy := orderSpec s 0 (.cpy 1 2 3 0 5 0)
    let load := orderSpec s 0 (.aload 1 5)
    (s.actor = .core 0 ∧ (s.dev.core 0).held = [] ∧ ({ core0 with held := [.fill 7 1] } : Core).held ≠ [] ∧
      cpy.any (fun o => o.reads.all (fun r => !(s.dev.core 0).pendingG r) && (s.namedRecord 0 o).isSome &&
        decide (((o.operands (s.namedRecord 0 o)).map Operand.bytes).sum < 2 ^ 32)) = true ∧
      load.any (fun o => o.named.isSome && (s.namedRecord 0 o).isNone && o.engine == 2) = true ∧
      (orderSpec s 0 (.mzero 7)).any (fun o => o.named.isNone && o.engine == 1) = true ∧ (orderSpec s 0 (.arun 1 2)).isSome = true ∧
      (q 7).queue.length < 8 ∧ 8 ≤ (q 8).queue.length ∧ ({ Quad.fresh with lead := some 3 } : Quad).lead = some 3 ∧ (s.dev.quad 0).lead = none ∧
      (∀ n, n < 8 → ((s.dev.core 0).range n).count = 0)) ∧
    ((s.dev.useRecord 0 0 1 6).2.any (fun r => decide (tileBytes r false 0 0 < 2 ^ 32)) = true ∧
      decode ((s.dev.core 0).readG 4) = .ok (.mma 7 62 6) ∧ ((s.dev.useRecord 0 0 1 6).1.useKind 0 0 1 6 [0]).2.isSome = true ∧
      decode ((s.dev.core 0).readG 5) = .error .noMajor ∧ (s.dev.engine 0 0).queue.length < 8 ∧ (s.dev.engine 0 1).queue.length < 8) := by
  decide +kernel

def slotIn (st : SlotState) : Slot := { Slot.empty with state := st }

/-- SlotsAreFilledAndReleased: a slot in each state, one with a faulted fill of core 0 and one that core 0 armed, an armed one with its
notice, with a count and without, a slot with a reader and without, commands whose slots let them start and one whose slot does not, and
a slot whose row 6 has come in this clock. -/
theorem wit_SlotsAreFilledAndReleased :
    let bad : Slot := { slotIn .full with faulted := true, filler := some (0, some 0) }
    let arm : Armed := { cmd := cmd0 0 (.bfarm 1 2 3 0 63 0) 0 0 0, count := 1 }
    let armed : Slot := { slotIn .free with armed := some arm }
    let theirs : Slot := { slotIn .full with faulted := true, filler := some (1, some 5), armed := some arm }
    let q : Quad := { Quad.fresh with slots := [(0, slotIn .full), (1, slotIn .filling), (2, slotIn .draining), (61, theirs), (62, bad), (63, armed)],
                                      notices := [63] }
    let d : Dev := { engDev with quads := [(0, q)] }
    let tile := cmd0 1 (.cpym 1 2 3 5 6 0) 0 0 0
    let mma := cmd0 1 (.mma 0 0 6) 0 0 0
    let after := { mma with after := some 1 }
    let late : Slot := { slotIn .full with last := (0, 6) }
    (q.slot 0).state = .full ∧ (q.slot 0).faulted = false ∧ (q.slot 1).state = .filling ∧ (q.slot 1).state ≠ .full ∧ (q.slot 5).state ≠ .filling ∧
    (q.slot 62).state = .full ∧ (q.slot 62).faulted = true ∧ (q.slot 62).filler = some (0, some 0) ∧ core0.inHandler = false ∧
    core0.cur.handler ≠ 0xFFFF ∧ q.lead = none ∧ (onDev d core0).dev.useRecord 0 0 1 7 = ((onDev d core0).dev, none) ∧
    (d.useRecord 0 0 1 6).2.isSome = true ∧ core0.readG 3 = 0 ∧ (q.slot 2).state = .draining ∧ q.hasReader 2 = false ∧
    (q.slot 63).armed = some arm ∧ q.notice = some 63 ∧ (q.slot 63).state = .free ∧ (q.slot 63).tiles < arm.count ∧
    arm.cmd.issuer.core = some 0 ∧ (q.slot 61).filler = some (1, some 5) ∧ (q.slot 61).faulted = true ∧ (q.slot 61).armed = some arm ∧
    (∀ row ∈ [1, 5, 6, 7], (q.slot 2).allows 0 row = true) ∧ late.allows 0 5 = false ∧ late.allows 0 1 = false ∧ late.allows 1 1 = true ∧
    core0.held = [] ∧ ({ core0 with held := [.fill 7 1] } : Core).held ≠ [] ∧ Quad.fresh.notice = none ∧ (q.slot 2).state ≠ .free ∧
    fillsSlot (.bfarm 1 2 3 63 6 0) = some 63 ∧ (q.engine 0).running.length < 8 ∧ (0 : Nat) < 2 ∧ 1 < 2 ∧ tile.ready = true ∧ tile.fault = none ∧
    fillsSlot tile.instr = some 5 ∧ (q.slot 5).state = .free ∧ readsSlot tile.instr = none ∧ readsSlot mma.instr = some 0 ∧ mma.after = none ∧
    after.after.isSome = true ∧ (7 : Nat) < 8 ∧ (0 : Nat) < 1 := by decide +kernel

def isMem : Xlate → Bool
  | .mem _ => true
  | _ => false

/-- A network of one state that reads any class and stays. -/
def net0 : Network :=
  { blocks := [0], world := 1, gen := 0, team := 1, start := 0, netId := 7, classHash := [], classMap := [], masks := [(0, 0xFF)],
    cells := [(0, { header := 0, trans := [0] })], frontier := [{ state := 0, top := none }], nodes := [], nextNode := 0, pos := 0xFFFFFFFF,
    dead := false, depthDrop := false, accept := false, paused := false, spillFull := false, events := 0, cursor := 0, maskSink := none,
    eventSink := none, treeSink := none, spill := none, limit := 1, mode := 0, deadEvents := false, binder := none, consumed := 0,
    staged := none, stamp := 0 }

def running (e : Nat) (cmd : Cmd) : Dev := { engDev with quads := [(0, { Quad.fresh with engines := [(e, { Engine.idle with running := [cmd] })] })] }

/-- EngineOperationsEnd: a faulted copy and matrix command, a drain that the host's answer ended, a copy of a whole line and of one byte,
each matrix command, a drain to a slot of 8, 16 and 32 bits, ACLEAR, and a group of tokens in a world with no statistics record and with one. -/
theorem wit_EngineOperationsEnd :
    let bad := { cmd0 4 (.cpys 1 2 3 5 0) 0 0 0 with fault := some 1 }
    let drain := { cmd0 4 (.mdrain 7 0 62 6 0) 0 0 0 with fault := some 0x0C }
    let line := cmd0 4 (.cpy 1 2 3 0 5 0) 0x10080 0x10000 128
    let one := cmd0 4 (.cpy 1 2 3 0 5 0) 0x1007F 0x1FFFF 1
    let b : Stationary := { format := 3, bytes := [] }
    let req (write : Bool) : Req := { world := 1, gen := 0, die := 0, quad := some 0, write := write, slot := if write then some 1 else none }
    (bad.fault = some 1 ∧ bad.waiting = false ∧ ((running 0 bad).engine 0 0).find 4 = some bad ∧ bad.tile = none ∧
      ((running 1 bad).engine 0 1).running = bad :: [] ∧ bad.converted = none ∧ drain.converted = some Counts.zero ∧ drain.fault = some 0x0C) ∧
    (∀ c ∈ [line, one], c.fault = none ∧ c.waiting = false ∧ c.tile = none ∧ c.landed = [] ∧ c.counts = Counts.zero ∧ c.c.toNat ≠ 0 ∧
      c.b.toNat % 128 + c.c.toNat ≤ 128 ∧ c.a.toNat % 128 + c.c.toNat ≤ 128 ∧ ((running 0 c).engine 0 0).find 4 = some c ∧
      isMem ((running 0 c).translate 0 (req false) c.b.toNat) = true ∧ isMem ((running 0 c).translate 0 (req true) c.a.toNat) = true) ∧
    engDev.stale = [] ∧ ((engDev.cmdRecord s0.ctx 0 line 5).2.any (fun r => !r.readOnly && r.keySlot == 1) = true) ∧
    ((engDev.cmdRecord s0.ctx 0 line 6).2.any (fun r => r.format == 3 && (tileK r.format).isSome && paired r.format b.format) = true) ∧
    ((running 1 (cmd0 4 (.mzero 7) 0 0 0)).engine 0 1).running = [cmd0 4 (.mzero 7) 0 0 0] ∧
    (∀ f ∈ [3, 2, 0], f ≠ 5 ∧ f ≠ 12 ∧ (numFmt f).any (fun y => decide (y.width ≤ 16) || y.width == 32) = true) ∧
    (0 : BitVec 3).getLsbD 1 = false ∧ (0 : BitVec 3).getLsbD 0 = false ∧
    ((running 2 (cmd0 4 (.aclear 0) 0 0 0)).engine 0 2).running = [cmd0 4 (.aclear 0) 0 0 0] ∧
    ({ Quad.fresh with net := some net0, statB := some b } : Quad).net = some net0 ∧ (engDev.useKind 0 0 1 (engDev.world 1).statsTid [5]).2 = none ∧
    [({ tag := 1, world := 1, counts := Counts.zero } : Tokens)][0]? = some { tag := 1, world := 1, counts := Counts.zero } := by decide +kernel

/-- A statistics record of 64 bytes at the writable page's end (Table 3.11). -/
def statsRec : Bytes := recBytes 5 4 1 0 0x1FFC0 [64] [1] 64 []

/-- EngineOperationsEnd, a valid statistics record whose forty bytes lie in one line, and their addresses. -/
theorem wit_countsLand :
    let d := { withRecs [(0, statsRec)] with stale := [] }
    ((d.useKind 0 0 1 (d.world 1).statsTid [5]).2.any fun r => decide (r.base % 128 ≤ 88)) = true ∧
    (∀ o, o < 40 → d.translate 0 { world := 1, gen := 0, die := 0, quad := none, write := true, slot := some 1 } (0x1FFC0 + o) =
      .mem (0x3FFC0 + o)) := by decide +kernel

/-- NetworksStep: a symbol and a marker at a network whose frontier is at its limit. -/
theorem wit_NetworksStep :
    let c := cmd0 4 (.astep 1 0) 3 0 0
    (c.waiting = false ∧ ((running 2 c).engine 0 2).running = c :: [] ∧ net0.staged = none ∧ net0.eventSink = none ∧ net0.treeSink = none ∧
      net0.maskSink = none ∧ net0.spill = none ∧ net0.limit ≤ 4096 ∧ net0.nodes.length ≤ 16384 ∧
      net0.frontier.all (fun x => (net0.stateTrans x.state).all fun t => tPush t == 0) = true) := by decide +kernel

theorem wit_NetworksStep_depth (m : Option Nat) : depthOf net0.nodes m ≤ 0xFFFFFF := by cases m <;> exact Nat.zero_le _

/-! ### Streams -/

def stream0 (toMemory : Bool) : Stream :=
  { core := 0, number := 0, plane := 0, world := 1, gen := 0, tid := 5, toMemory := toMemory, base := 0x1FFFC, span := 0x1000,
    extents := [2, 1, 1, 1], strides := [4, 0, 0, 0], esize := 4, report := [], waits := false, lines := [], commutative := false, pinned := false, readOnly := false, keySlot := 1,
    state := .streaming, code := 0, next := 2, inFlight := [(0, [1, 2, 3, 4]), (1, [5, 6, 7, 8])], held := [], spill := [], returned := [],
    accepted := 2, elements := 0, frozen := false, frozenAt := 0, raised := false, record := 0, joined := false, ltime := 0 }

/-- StreamsDeliverTheirElements: a port with a free context and one with none, a bound number and an unbound one, a stream in each
state, an element with a page and the next one with none, a frozen stream at its time limit, and one with an element held. -/
theorem wit_StreamsDeliverTheirElements :
    let c : Core := { putG [(1, 95), (2, 0), (3, 16)] with streams := [(0, 380)] }
    let four : Tab Stream := [(380, stream0 true), (381, stream0 true), (382, stream0 true), (383, stream0 true)]
    let limited : Core := { core0 with planes := [(0, { plane0 with store := [(3, 0x0000080000020009), (4, 5)] })] }
    let r := (recDev.useKind 0 0 1 5 [0]).2
    let x := stream0 true
    let y : Stream := { stream0 false with extents := [1, 1, 1, 1] }
    let f : Stream := { x with frozen := true, frozenAt := 7 }
    (r.any patternOk = true ∧ (c.readG 1).toNat ≤ 95 ∧ c.pendingG 1 = false ∧ Tab.get? (four.take 3) 383 = none ∧
      (∀ i, i < 3 → (Tab.get? four (380 + i)).isSome = true) ∧ (Tab.get? four 383).isSome = true ∧ Tab.get? c.streams 1 = none ∧
      (Tab.get? c.streams 0).isSome = true ∧ Tab.get? c.streams (c.readG 3).toNat = none ∧ (c.readG 2).toNat < 16 ∧ Tab.get? c.streams 0 = some 380 ∧
      Tab.get? four 380 = some x ∧ x.state = .streaming ∧ x.owes = true ∧ y.owes = false ∧ ({ x with state := .done } : Stream).state ≠ .streaming) ∧
    (x.inFlightData 0 = some [1, 2, 3, 4] ∧ x.waits = false ∧ recDev.streamEnds 0 380 x 0 = false ∧
      isMem (recDev.translate 0 (x.req 380) (x.addr 0)) = true ∧ x.frozen = false ∧
      (y.held = [] ∧ 0 = y.elements ∧ y.toMemory = false ∧ y.total = 0 + 1 ∧ y.total ≤ y.elements + 1) ∧ recDev.streamEnds 0 380 x 1 = false ∧
      recDev.streamFaults 0 380 x 1 = some 3) ∧
    (f.frozen = true ∧ f.raised = false ∧ f.commutative = false ∧ limited.active = some f.plane ∧ (limited.plane f.plane).faultTimeout = 5 ∧
      f.frozenAt + 1000 * 5 ≤ 5007 ∧ (5 : Nat) ≠ 0 ∧ f.spill.isEmpty = true ∧ ({ f with held := [(2, [])] } : Stream).held.isEmpty = false) := by
  decide +kernel
/-! ### Graphs and triggers -/

def oneNode (kind body : Nat) (command : Word) : Bytes :=
  [kind, body, 0, 0].flatMap (bytesOfNat 1) ++ bytesOfNat 2 0xFFFF ++ bytesOfNat 2 0 ++ bytesOf 8 command ++ bytesOfNat 48 0

/-- A graph image of three matrix nodes that run MZERO, of kinds 2, 4 and 5, and no edge (Tables 1.8 and 1.9). -/
def graphBytes : Bytes :=
  let mzero := (encode (.mzero 0)).getD 0
  let h := bytesOfNat 4 0x48505247 ++ bytesOfNat 2 1 ++ bytesOfNat 2 3 ++ bytesOfNat 4 0 ++ bytesOfNat 4 64 ++ bytesOfNat 4 256 ++ bytesOfNat 40 0
  h ++ bytesOfNat 4 (crc32c h) ++ oneNode 2 2 mzero ++ oneNode 4 2 mzero ++ oneNode 5 2 mzero

def graphRec : Bytes := recBytes 6 8 1 0 0x10000 [256] [1] 256 []

/-- A timed window of four slots of two records, one microsecond apart (Table 19.1). -/
def windowRec : Bytes := recBytes 2 12 2 2 0x10000 [2, 4] [32, 64] 256
  (bytesOfNat 2 4 ++ bytesOfNat 1 2 ++ bytesOfNat 5 0 ++ bytesOfNat 8 1000)

def graphDev : Dev := { withRecs [(11, graphRec), (12, windowRec)] with mem := SMap.setRun [] 0x30000 graphBytes }

/-- ForksJoin: a free rendezvous and an open one; entries at the first word of the code and before it; operations that run, have ended and
are none, well and in fault; a program that has joined, in fault too, and one whose command runs; GDONE in a team, with bytes on a counter, and
behind an access that waits. -/
theorem wit_ForksJoin :
    let c := putG [(1, 8), (2, 7)]
    let busy : Engine := { Engine.idle with queue := [{ cmd0 1 (.mzero 0) 0 0 0 with issuer := { (cmd0 0 .nop 0 0 0).issuer with program := true } }],
                                            prog := some (prog0 64) }
    let open_ : Quad := { Quad.fresh with rendezvous := some (0, [0]), engines := [(0, { Engine.idle with prog := some { prog0 64 with joined := true } })] }
    let u := onDev { dev0 with quads := [(0, open_)] } c
    let o : OpRef := { eng := 1, seq := 1, done := false, fault := none, bar := none }
    let g := onDev { dev0 with teams := [(1, team1)] } core0
    s0.actor = .core 0 ∧ (∀ r ∈ ([0, 1, 2, 15] : List Reg), c.pendingG r = false) ∧ (s0.dev.quad 0).rendezvous = none ∧
    open_.rendezvous.isSome = true ∧ (1 : BitVec 3).getLsbD 0 = true ∧ (1 : BitVec 3).getLsbD 1 = false ∧ 8 ≤ (c.readG 1).toNat ∧
    (c.readG 1).toNat < c.cur.codeWords ∧ ¬ 8 ≤ (c.readG 2).toNat ∧ o.done = false ∧ ({ o with done := true } : OpRef).done = true ∧ o.fault = none ∧
    o.eng < 3 ∧ u.dev.forked 0 = [0] ∧ (u.dev.engine 0 0).progBusy = false ∧ (u.dev.engine 0 0).prog = some { prog0 64 with joined := true } ∧
    busy.progBusy = true ∧ (withProg 0).actor = .engine 0 0 ∧ ((withProg 0).dev.engine 0 0).progBusy = false ∧
    ((withProg 0).dev.engine 0 0).prog = some (prog0 64) ∧ core0.held = [] ∧ (∀ n, n < 8 → (core0.range n).count = 0) ∧
    Tab.get? g.dev.teams core0.cur.team = some team1 ∧ ({ core0 with held := [.fill 7 1] } : Core).held ≠ [] ∧
    (({ core0 with ranges := [(7, { lo := 0, hi := 8, count := 8 })] } : Core).range 7).count ≠ 0 ∧
    ({ o with done := true, fault := some 1 } : OpRef).fault.isSome = true ∧ ({ prog0 64 with ended := some 1 } : Prog).ended.isSome = true ∧
    ({ prog0 64 with opsFault := true } : Prog).opsFault = true ∧ core0.inHandler = false ∧ core0.cur.handler ≠ 0xFFFF := by decide +kernel

def isDone : AccessRes → Bool
  | .done _ _ => true
  | _ => false

/-- GraphsAreLaunched: a graph that passes its checks, with a parameter table and without, at its last legal address and misaligned; one
that does not pass; parameter 63 and 64; a trigger node and another; a bound and an unbound slot; no record. -/
theorem wit_GraphsAreLaunched :
    let s := onDev graphDev (putG [(1, 0), (2, 0xFFF00000000000), (3, 0x10201), (4, 63), (5, 64), (6, 0x200), (7, 0x100)])
    let c := s.dev.core 0
    let x := s.dev.useKind 0 0 1 11 [6]
    let t : Trigger := { fresh := 0, pending := false, count := 0xFFFF, watch := none, handler := some (11, 2) }
    (c.readG 1 = 0 ∧ (c.readG 2).toNat % 8 = 0 ∧ (c.readG 2).toNat + 512 ≤ 2 ^ 56 ∧ c.readG 2 ≠ 0 ∧
      isDone (s.dev.access s.ctx 0 (paramAccess c (c.readG 2))) = true ∧ (c.readG 3).toNat < 2 ^ 56 - 512 ∧ (c.readG 3).toNat % 8 ≠ 0) ∧
    x.2.isSome = true ∧ (x.1.checkGraph 0 1 3 true x.2).any (fun g => g.2.isNone && g.1.nodes.length == 3) = true ∧
    (x.1.checkGraph 0 1 0 false ((withRecs [(11, tensor)]).useRecord 0 0 1 11).2).isNone = true ∧ (c.readG 4).toNat ≤ 63 ∧ 63 < (c.readG 5).toNat ∧
    x.1.nodeOfKind 0 1 x.2 ((c.readG 6).toNat / 256 % 65536) 5 = true ∧ x.1.nodeOfKind 0 1 x.2 ((c.readG 7).toNat / 256 % 65536) 5 = false ∧
    (c.readG 6).toNat < 2 ^ 24 ∧ s0.dev.useKind 0 0 1 11 [6] = (s0.dev, none) ∧ t.handler = some (11, 2) ∧ ({ t with fresh := 2 } : Trigger).fresh ≠ 0 ∧
    c.held = [] ∧ ({ c with held := [.fill 7 1] } : Core).held ≠ [] := by
  decide +kernel

def node0 (kind preds : Nat) (state : NodeState) (runs : Nat) : Node :=
  { kind := kind, body := 2, valueSel := 0, place := 0xFFFF, program := 0, command := 0, va := 0, vb := 0, vc := 0, operands := [],
    preds := preds, state := state, runs := runs }

/-- A launch of the graph, with the nodes and edges given. -/
def launch1 (nodes : Tab Node) (edges : List (Nat × Nat)) : Launch :=
  { world := 1, graph := 11, queue := 4096, level := 1, coreside := false, noRecord := false, doneAddr := 0x100, tag := 5, params := [],
    nodes := nodes, edges := edges, raced := false, failed := none, failSettled := false, ended := false, ltime := 0 }

/-- NodesReadyTheirSuccessors: two edges to one successor that they ready, another instance still to end, another node that runs, a fault, a
killed one, and the last instance of all. -/
theorem wit_NodesReadyTheirSuccessors :
    let y := node0 2 0 .placed 1
    let g := launch1 [(0, y), (1, node0 2 2 .waiting 0)] [(0, 1), (0, 1)]
    let h := launch1 [(0, y)] []
    g.node 0 = some y ∧ y.kind < 4 ∧ y.state = .placed ∧ g.node 1 = some (node0 2 2 .waiting 0) ∧ (g.edges.filter fun e => e.1 == 0 && e.2 == 1).length = 2 ∧
    (node0 2 2 .waiting 0).preds = 2 ∧ g.coreside = false ∧ (∃ e ∈ [((1 : Nat), (1 : Nat), (0 : Nat), (0 : Nat))], e.1 = 1) ∧ h.node 0 = some y ∧ y.runs = 1 ∧
    h.edges = [] ∧ h.failed = none ∧ h.ended = false ∧ h.nodes = [] ++ (0, y) :: [] ∧ dev0.windows = [] ∧ dev0.triggers = [] ∧
    (dev0.world 1).tdisp ≠ .error ∧ (dev0.world 1).evSize = 0 ∧ h.noRecord = false ∧ (1 : Nat) ≠ 0 ∧ (node0 2 0 .placed 1).runs ≠ 0 ∧
    1 < (node0 2 0 .placed 2).runs ∧ (node0 2 2 .waiting 0).kind < 4 := by decide +kernel

/-! ### Timed windows and priority queues -/

def win0 : TWin :=
  { world := 1, tid := 12, base := 0x10000, keySlot := 1, readOnly := false, n := 4, k := 2, policy := 0, expected := 0, period := 1000, t0 := 0,
    delay := 0, grace := 0, ingest := 0, o := 1, g := 2, c := 3, counts := [(0, 2), (3, 1)], lateDropped := 0, lateMoved := 0, ahead := 0, full := 0,
    overrun := 0, malformed := 0, lateSeen := false, aheadSeen := false, overrunSeen := false, sinkFault := false, pending := 0, armed := none,
    inbox := [], openAt := 0, closedAt := none, placedAt := none, ltime := 0 }

def record32 (timestamp : Nat) : Bytes := bytesOfNat 8 timestamp ++ bytesOfNat 24 0

/-- WindowsAndQueuesMove: a free window and none; slots to hand out, none, to give back, none; armed and not; queues empty, with one entry
and full; a slot that is due, one that is not, and one whose window closed in this clock; a record moved and not, that is late, has room, meets a full slot, and is ahead. -/
theorem wit_WindowsAndQueuesMove :
    let r := (graphDev.useKind 0 0 1 12 [2]).2
    let all : Tab TWin := (List.range 64).map fun i => (i, win0)
    let even : TWin := { win0 with g := 3 }
    let back : TWin := { win0 with o := 2 }
    let early : TWin := { win0 with inbox := [record32 2999, record32 3000] }
    let x := graphDev.useKind 0 0 1 11 [6]
    (r.bind (windowOf 1)).isSome = true ∧ Tab.get? dev0.windows 0 = none ∧ (∀ i, i < 64 → (Tab.get? all i).isSome = true) ∧ win0.g < win0.c ∧
    even.c ≤ even.g ∧ win0.o < win0.g ∧ back.g ≤ back.o ∧ win0.armed = none ∧ x.1.nodeOfKind 0 1 x.2 1 4 = true ∧ (65535 : Nat) ≤ 65535 ∧
    ({ win0 with armed := some (11, 1) } : TWin).armed.isSome = true ∧ win0.world = core0.world ∧ (255 : Nat) < 256 ∧
    Tab.get? dev0.windows 5 = none ∧ (63 : Nat) < 64 ∧ win0.closes 2999 = false ∧ win0.closes 3000 = true ∧ early.slotFor 2999 < Int.ofNat win0.c ∧
    win0.policy ≠ 1 ∧ early.slotFor 3000 = Int.ofNat 3 ∧ win0.c ≤ 3 ∧ 3 < win0.o + win0.n ∧ win0.count 3 < win0.k ∧ win0.readOnly = false ∧
    (record32 3000).length = 32 ∧ win0.slotFor 4999 = Int.ofNat 4 ∧ win0.k ≤ win0.count 4 ∧ win0.slotFor 5000 = Int.ofNat 5 ∧ win0.o + win0.n ≤ 5 ∧
    (let va := win0.base.toNat + 32 * win0.k * (3 % win0.n) + 32 * win0.count 3
     va % 128 ≤ 96 ∧ isMem (dev0.translate 0 { world := 1, gen := 0, die := 0, quad := none, write := true, slot := some 1 } va) = true) ∧
    win0.closedAt ≠ some 0 ∧ win0.placedAt ≠ some 0 ∧ ({ win0 with closedAt := some 0 } : TWin).closedAt = some 0 ∧
    ({ win0 with policy := 1 } : TWin).policy = 1 ∧ core0.held = [] ∧ ({ core0 with held := [.fill 7 1] } : Core).held ≠ [] := by decide +kernel

/-- A priority queue with no entry, one, and all that it can hold. -/
theorem wit_queues : ([] : List (Lane × Lane)).length < 65536 ∧ [((1, 2) : Lane × Lane)] ≠ [] ∧
    65536 ≤ (List.replicate 65536 ((1, 2) : Lane × Lane)).length :=
  ⟨by decide, by decide, by rw [List.length_replicate]⟩

/-! ### Teams, planes and the ready pool -/

/-- TeamsStartSwapAndComplete: a team that is ready and one that is not, one that is done and one that is not, one that is stuck, with a
buffer for its records and without; a core with a loaded plane, an idle one, a busy one, and a drained one; pending causes outside
and inside the handler, and at a halted core. -/
theorem wit_TeamsStartSwapAndComplete :
    let t0 : Team := { team1 with started := false }
    let c0 : Core := { core0 with started := false }
    let halted : Core := { core0 with halted := true }
    let stuck : Core := { core0 with wait := some ⟨1, 1, 1, 0, 0⟩ }
    let drained : Core := { core0 with planes := [(0, { plane0 with state := .draining })] }
    let quiet : Team := { team1 with quietSince := some 0 }
    let d (t : Team) : Dev := { dev0 with teams := [(1, t)] }
    let a : AsyncCause := { cause := 8, info := 1 }
    let b : AsyncCause := { cause := 0x0D, info := 2 }
    ((onDev (d t0) c0).dev.teamReady 1 = true ∧ (onDev (d team1) core0).dev.teamReady 1 = false ∧
      (onDev (d team1) halted).dev.teamDone 1 team1 = true ∧ (onDev (d team1) core0).dev.teamDone 1 team1 = false ∧
      (onDev (d quiet) stuck).dev.stuck 1 quiet = true ∧ quiet.surveyed = false ∧ 0 + 4096 ≤ 4096 ∧ (onDev (d quiet) stuck).dev.undispatched quiet = false ∧
      ((onDev (d quiet) stuck).dev.waiting 1 quiet).all (fun p => p.die == 0) = true ∧ ((d quiet).die 0).survey = none ∧
      ({ Die.fresh with survey := some (0x40000, 1) } : Die).survey = some (0x40000, 1)) ∧
    (let l : Core := { core0 with active := none, planes := [(2, { plane0 with state := .loaded, order := 1 }), (3, { plane0 with state := .loaded, order := 2 })] }
     l.active = none ∧ (l.plane 2).state = .loaded ∧ (l.plane 2).order < (l.plane 3).order) ∧
    halted.active = some 0 ∧ plane0.state = .active ∧ halted.started = true ∧ (onDev (d team1) halted).dev.idle 0 = true ∧
    (onDev (d team1) core0).dev.idle 0 = false ∧ drained.cur.state = .draining ∧ drained.stage = .none ∧
    (let p : Core := { core0 with async := [b, a] }
     p.async ≠ [] ∧ a ∈ p.async ∧ (∀ x ∈ p.async, a.cause ≤ x.cause) ∧ p.halted = false ∧ p.started = true ∧ p.inHandler = false ∧
     p.cur.handler ≠ 0xFFFF ∧ a.cause ≠ 0x0C ∧ ({ p with halted := true } : Core).halted = true ∧ ({ p with inHandler := true } : Core).inHandler = true) := by
  decide +kernel

/-- A kernel of one quad whose one core runs one word, and a world that has it. -/
def program1 : Program :=
  { width := 1, height := 1, roles := [{ words := [(3, 0x000000090000FFFF), (8, 0x0101000000000000)], count := 9, pages := [], places := [(0, 0, 0)] }],
    routes := [] }

def poolDev (body : Nat) (command : Word) (place : Nat) : Dev :=
  { dev0 with
    worlds := [(0, World.root), (1, { world1 with programs := [program1] })],
    launches := [(1, launch1 [(0, { node0 0 0 .ready 1 with kind := body, body := body, place := place, command := command })] [])],
    pool := [{ launch := 1, nodes := [0], level := 1, entryLevel := 1, queue := 4096, readyAt := 0, since := 0, held := false }] }

/-- ThePoolPlacesReadyNodes: a program without routes has no ring astray, on any device. -/
theorem wit_noRings (d : Dev) : d.strayRing 0 1 (0 % 32) (0 / 32) program1 = none := rfl

/-- ThePoolPlacesReadyNodes: an item just before its time and at it, above level 0 and at it; a team node and an engine node. -/
theorem wit_ThePoolPlacesReadyNodes :
    let it : PoolItem := { launch := 1, nodes := [0], level := 1, entryLevel := 1, queue := 4096, readyAt := 0, since := 0, held := false }
    let d := poolDev 0 0 0x0101
    let e := poolDev 2 ((encode (.mzero 0)).getD 0) 0
    (it.level ≠ 0 ∧ it.since + 50000 ≤ 50000 ∧ 49999 < it.since + 50000 ∧ it.held = false ∧ ({ it with level := 0 } : PoolItem).level = 0) ∧
    (d.pool = it :: [] ∧ (d.world 1).programs[0]? = some program1 ∧
      (Tab.get? d.launches 1).any (fun g => placeAll (d.freeQuads (d.world 1) 1) [d.shapeOf g 0] == some [0]) = true ∧
      (d.world 1).loadable 0 program1 = true ∧ program1.routes = []) ∧
    (decode ((encode (.mzero 0)).getD 0) = .ok (.mzero 0) ∧ isCpym (.mzero 0) = false ∧ (0 : Nat) ≠ 0xFFFF ∧ (e.world 1).off = false ∧
      0 ∈ (e.world 1).usable 1 ∧ e.inTeam (quadOfIndex 0) = false ∧ (e.engine (quadOfIndex 0) 1).queue.length < 8) := by decide +kernel

/-- ThePoolPlacesReadyNodes: an item behind one that cannot be placed, and one behind a held one of its world and kind. -/
theorem wit_scan :
    let it : PoolItem := { launch := 1, nodes := [0], level := 1, entryLevel := 1, queue := 4096, readyAt := 0, since := 0, held := false }
    let stuck : PoolItem := { it with launch := 2, held := true }
    let wide : Node := { node0 0 0 .ready 1 with kind := 0, body := 0, place := 0x2020 }
    let d := poolDev 0 0 0x0101
    let two (kind : Nat) : State := { s0 with dev := { d with
      launches := d.launches ++ [(2, { launch1 [(0, { wide with body := kind, command := (encode (.mzero 0)).getD 0, place := if kind = 0 then 0x2020 else 5 })] [] with graph := 2 })],
      pool := [stuck, it] } }
    ((two 2).dev.placeItem (two 2).ctx stuck = none ∧ (two 2).dev.itemKind stuck ≠ (two 2).dev.itemKind it ∧
      ((two 2).dev.placeItem (two 2).ctx it).isSome = true) ∧
    ((two 0).dev.placeItem (two 0).ctx stuck = none ∧ (two 0).dev.itemKind stuck = (two 0).dev.itemKind it ∧ stuck.held = true ∧
      ((two 0).dev.placeItem (two 0).ctx it).isSome = true) := by decide +kernel
/-! ### The host and the management controller -/

def queue0 (w : Nat) : WorkQueue :=
  { world := some w, base := 0x1000, logSize := 4, vector := 0, ceiling := 0, producer := 1, consumer := 0, error := false, unended := [],
    fences := [] }

/-- An entry of 64 bytes (Tables 23.2 and 23.8). -/
def entryBytes (op w a0 a1 a2 a3 : Nat) : Bytes :=
  bytesOfNat 4 op ++ bytesOfNat 2 w ++ bytesOfNat 2 0 ++ bytesOfNat 8 a0 ++ bytesOfNat 8 0x4000 ++ bytesOfNat 8 7 ++ bytesOfNat 8 a1 ++
    bytesOfNat 8 a2 ++ bytesOfNat 8 a3 ++ bytesOfNat 8 0

/-- Queue 9 of a world with one entry. -/
def queueDev (d : Dev) (w : Nat) (e : Bytes) : Dev := { d with queues := [(9, queue0 w)], hostMem := SMap.setRun [] 0x1000 e }

/-- TheHostReadsWritesAndLaunches: a whole line, an address with a page and one without, the last byte of the BAR and one past it, BAR 0 and
the root world's view of a page, a ring of each size, a doorbell that leads by the queue's size and by one more; a launch and a replay that
pass their checks, one that does not, one with a wrong form, and a fence that waits and one that waits for nothing. -/
theorem wit_TheHostReadsWritesAndLaunches :
    let q : WorkQueue := { queue0 1 with consumer := 5 }
    let launch := queueDev graphDev 1 (entryBytes 1 11 0 0 0 0)
    let replay := queueDev graphDev 1 (entryBytes 2 11 0 0 0 0)
    let other := queueDev graphDev 1 (entryBytes 1 12 0 0 0 0)
    let fence := queueDev graphDev 1 (entryBytes 3 0 0 0 0 0)
    let wrong := entryBytes (1 + 4 * 256) 11 0 0 0 0
    let ok (d : Dev) (op : Nat) := d.entry 9 = some (queue0 1, 1, entryBytes op (if op = 3 then 0 else 11) 0 0 0 0)
    let x (d : Dev) := (d.setQueue 9 { queue0 1 with consumer := 1 }).useKind 0 (d.world 1).walkerDie 1 11 [6]
    let f : QueueFence := { waits := [], doneAddr := 0, tag := 0, noRecord := false, world := 1 }
    ((dev0.world 1).tdisp ≠ .error ∧ 0x10000 % 128 + 128 ≤ 128 ∧ isMem (dev0.translate 0 (hostReq 1 false) 0x10000) = true ∧
      isMem (dev0.translate 0 (hostReq 1 true) 0x1FFFF) = true ∧ (0x1FFFF : Nat) % 128 + 1 ≤ 128 ∧ dev0.translate 0 (hostReq 1 false) 0x90000 = .miss 2 ∧
      (2 ^ 48 - 1) + 1 ≤ 2 ^ 48 ∧ 2 ^ 48 < (2 ^ 48 - 1) + 2 ∧ (0x1000000001000 : Word).toNat = 2 ^ 48 + 0x1000 ∧
      dev0.translate 0 (hostReq 0 false) (0x020000000000 + 255 * 0x10000 + 0x1014) = .regs 255 0x1014 ∧
      (0x020000000000 + 255 * 0x10000 + 0x1014) % 128 = 0x1014 % 128 ∧ (65536 : Nat) = 64 * 2 ^ 10 ∧ (64 : Nat) = 64 * 2 ^ 0 ∧
      ({ dev0 with queues := [(9, q)] } : Dev).queuesOf 1 = [9] ∧ q.error = false ∧ (BitVec.ofNat 32 21 - q.consumer).toNat = 2 ^ q.logSize ∧
      (BitVec.ofNat 32 22 - q.consumer).toNat = 2 ^ q.logSize + 1) ∧
    (ok launch 1 ∧ ok replay 2 ∧ ok fence 3 ∧ launchOk (queue0 1) (entryBytes 1 11 0 0 0 0) = true ∧
      launchOk (queue0 1) (entryBytes 2 11 0 0 0 0) = true ∧ entryOk (queue0 1) (entryBytes 3 0 0 0 0 0) = true ∧ launchOk (queue0 1) wrong = false ∧
      ((x launch).1.checkGraph 0 1 0 false (x launch).2).any (fun g => g.2.isNone) = true ∧
      (let y := (other.setQueue 9 { queue0 1 with consumer := 1 }).useKind 0 (other.world 1).walkerDie 1 12 [6]
       y.1.checkGraph 0 1 0 false y.2 = none) ∧ (queue0 1).fences = [] ∧ f.waits = [] ∧ ({ f with waits := [1] } : QueueFence).waits ≠ []) := by
  decide +kernel

/-- ManagementCommandsComplete: an entry of each command at the head of a queue of world 0. -/
theorem wit_management_entries : ∀ op ∈ [0x10, 0x11, 0x12, 0x13, 0x14, 0x15, 0x16, 0x17, 0x18, 0x19, 0x1A, 0x1B, 0x1C, 0x1D, 0x1E],
    let e := entryBytes op 1 0x10000 0 0 0
    (queueDev dev0 0 e).mgmtEntry 9 op = some (queue0 0, e) ∧ mgmtOk (queue0 0) e = true ∧ u16At e 4 = 1 ∧ u64At e 8 = 0x10000 ∧ u64At e 0x20 = 0 ∧
    u64At e 0x28 = 0 ∧ u64At e 0x30 = 0 := by decide +kernel

/-- A world image with quad 5 and key slot 3 (Table 23.9). -/
def worldImage : Bytes := bytesOfNat 128 (2 ^ 5) ++ bytesOfNat 2 0 ++ bytesOfNat 1 1 ++ bytesOfNat 1 0 ++ bytesOfNat 2 0xFFFF ++ bytesOfNat 42 0 ++
  bytesOfNat 2 3 ++ bytesOfNat 400 0

def someFault : PageFault := { party := .core 0, world := 1, va := 0x1FFF8, write := true, invalid := false }
def someAccess : Access :=
  { pc := 64, kind := .store, bytes := 8, elems := [{ lane := 0, va := 0x1FFF8, data := 1, cmp := 0 }], dst := .none, spread := 0, tag := 0 }

def isDenied : AccessRes → Bool
  | .deny _ _ => true
  | _ => false

/-- Its clauses on worlds, pages and faults, each where it starts to hold. -/
theorem wit_ManagementCommandsComplete_worlds :
    let x := dev0.world 1
    (x.live = true ∧ (dev0.world 2).live = false ∧ dev0.keySlots.all (fun k => !(k.2.state == .retiring)) = true ∧
      (dev0.worldOf 2 worldImage).any (fun y => y.live && y.partition.all dev0.quadFree) = true ∧ ({ x with tdisp := .run } : World).locked = true ∧
      x.locked = false ∧ (1 : Nat) ≤ x.partition.length ∧ (0x40 : Nat) % 64 = 0) ∧
    (x.ptRoot.isSome = true ∧ sizeLevel 0 = some 4 ∧ (0x10000 : Nat) % 2 ^ pageBits 4 = 0 ∧ 0x90000 % 2 ^ pageBits 4 = 0 ∧ 0x1000 % 2 ^ pageBits 4 ≠ 0 ∧
      isHbm 0x70000 = true ∧ x.clash 4 0x90000 = false ∧ 1 ∈ x.keySlots ∧ 2 ∉ x.keySlots ∧ (dev0.frame 7).state = .clean ∧ framesOf 4 0x70000 = [7] ∧
      (({ dev0 with frames := [(7, { state := .inUse, world := 2, slots := [3], notify := false, askedAt := none })] } : Dev).frame 7).world ≠ 1 ∧
      Tab.get? x.leaves (leafKeyAt 4 0x90000) = none ∧ Tab.get? x.leaves (leafKeyAt 4 0x10000) = some (leaf0 0x30000 true false) ∧
      leafPort (leaf0 0x30000 true false) = false ∧ leafPort (makeLeaf 0 0 true false true true) = true) ∧
    (dev0.faults = [] ∧ dev0.streams = [] ∧
      (let d := (onDev { dev0 with mem := [] } { core0 with held := [.access someAccess] }).dev
       (d.core 0).held = [.access someAccess] ∧ isDone (d.access s0.ctx 0 someAccess) = true ∧ isDenied (d.access s0.ctx 0 { someAccess with
         elems := [{ lane := 0, va := 0x20000, data := 1, cmp := 0 }] }) = true ∧ (d.core 0).inHandler = false ∧ (d.core 0).cur.handler ≠ 0xFFFF) ∧
      someFault.party = .core 0 ∧ someFault.invalid = false ∧ someFault.va.toNat = 0x1FFF8) := by decide +kernel

/-- Its clauses on barriers, frames, time, teams, dies, queues and power. -/
theorem wit_ManagementCommandsComplete_rest :
    let key := barKey 1 1 (barPlace 1 0) 255
    let w : Core := { core0 with stage := .arrived key 0 false, wait := some ⟨4, 255, 2, 1, 0⟩ }
    let pend : Dev := { dev0 with frames := [(7, { state := .scrubPending, world := 1, slots := [1], notify := false, askedAt := none })], scrubQueue := [7] }
    (instanceOf 0 1 0 = some 0 ∧ core0.world = 1 ∧ (onCore0 w).dev.waitsOn 0 key = true ∧ s0.dev.waitsOn 0 key = false) ∧
    ((pend.frame 7).state = .scrubPending ∧ (dev0.frame 7).state ≠ .scrubPending ∧ pend.scrubQueue.find? (fun f => frameDie f == 0) = some 7 ∧ (pend.frame 7).askedAt ≠ some 0 ∧
      ({ Frame.clean with state := .scrubPending, askedAt := some 0 } : Frame).askedAt = some 0 ∧
      (({ dev0 with frames := [(7, { state := .freeing, world := 1, slots := [1], notify := false, askedAt := none })] } : Dev).frame 7).state = .freeing) ∧
    (toSigned 64 1000001 = 1000001 ∧ (1000000 : Int) < 1000001 ∧ toSigned 64 1000000 ≤ 1000000 ∧ toSigned 64 (2 ^ 64 - 1) = -1) ∧
    (Tab.get? dev0.teams 1 = none ∧ team1.world = 1 ∧ team1.finished = false ∧ core0.active = some 0 ∧ (core0.plane 0).state = .active ∧
      (core0.plane 0).team = 1) ∧
    ((65536 : Nat) ≤ 65536 ∧ (12 : Nat) ≤ 12 ∧ (16 : Nat) = 16 + 16 / 2 ^ 8 % 256 * 2 ^ 8 + 16 / 2 ^ 16 % 4 * 2 ^ 16 ∧
      Tab.get? dev0.queues 4095 = none ∧ ((dev0.setQueue 9 (queue0 0).consume).queuesOf 1).length < 512 ∧ (queue0 1).world = some 1 ∧ (queue0 2).world ≠ some 1) ∧
    ((dev0.pqueue 63).world = none ∧ (dev0.world 1).partition.all dev0.quadFree = true ∧
      (dev0.world 1).partition.all (onDev dev0 core0).dev.quadFree = false ∧
      (({ dev0 with keySlots := [(3, { state := .retiring, world := 2 })] } : Dev).keySlot 3).state = .retiring ∧ 0 + 200000 ≤ 200000) := by
  decide +kernel

/-! ### Tenancy, the loader and the device -/

/-- TenantsAreSeparatedAndAttested: a packet that passes each row and one that fails; tunnel counters one above the last and equal to it; each
TDISP state, with a change in this clock and in none; and an SPDM connection at each point. -/
theorem wit_TenantsAreSeparatedAndAttested :
    let t : Tunnel := { team := 1, world := 1, sent := 6, counter := some 5, die := 0, isOpen := true }
    let d : Dev := (onDev { dev0 with tunnels := [(4, t)] } core0).dev
    ((d.world 1).owns 0 = true ∧ (d.world 1).owns 1 = false ∧ Tab.get? d.tunnels 4 = some t ∧ t.isOpen = true ∧ t.world = 1 ∧ 4 / 2 ^ 32 = t.die ∧
      (4 : Nat) % 2 ^ 32 = 4 ∧ d.portOpen 1 1 = true ∧ d.portOpen 1 2 = false ∧ ((d.core 0).plane 0).world = 1 ∧
      ((d.core 0).plane 0).gen = BitVec.ofNat 16 0 ∧ ((d.core 0).plane 1).world ≠ 1 ∧
      (5 : Word) < BitVec.ofNat 64 6 ∧ ¬ (5 : Word) < BitVec.ofNat 64 5) ∧
    ((d.world 1).tdisp = .configUnlocked ∧ ({ d.world 1 with tdisp := .configLocked } : World).tdisp = .configLocked ∧ (1 : Nat) ≤ 255 ∧ (255 : Nat) < 256 ∧
      (d.world 1).tdisp ≠ .configLocked ∧ (d.world 1).changedAt ≠ some 0 ∧ ({ d.world 1 with changedAt := some 0 } : World).changedAt = some 0 ∧
      ({ d.world 1 with tdisp := .run } : World).tdisp = .run ∧ ({ d.world 1 with tdisp := .error } : World).tdisp = .error) ∧
    ((d.spdmOf 255).version = false ∧ ({ Spdm.none with version := true } : Spdm).version = true ∧ ({ Spdm.none with algorithms := true } : Spdm).algorithms = true ∧
      (4 : Nat) < 5 ∧ 5 ≤ 5 ∧ (d.block 1 0x20).isSome = true ∧ (d.block 1 0xF0).isSome = true) := by decide +kernel

def segment (kind flags off va size memSize : Nat) : Bytes :=
  bytesOfNat 4 kind ++ bytesOfNat 4 flags ++ [off, va, va, size, memSize, 1].flatMap (bytesOfNat 8)

/-- An ELF file of one loaded segment of 64 zero bytes at the world's page, and an empty kernel table (R100, R102). -/
def elfFile (flags : Nat) : Bytes :=
  [0x7F, 0x45, 0x4C, 0x46, 2, 1, 1] ++ bytesOfNat 9 0 ++ bytesOfNat 2 2 ++ bytesOfNat 2 0x9C41 ++ bytesOfNat 4 1 ++ bytesOfNat 8 0 ++ bytesOfNat 8 64 ++
    bytesOfNat 8 0 ++ bytesOfNat 4 1 ++ bytesOfNat 2 64 ++ bytesOfNat 2 56 ++ bytesOfNat 2 2 ++ bytesOfNat 6 0 ++ segment 1 flags 176 0x10000 64 64 ++
    segment 0x70000003 0 240 0 8 8 ++ bytesOfNat 72 0

def codePage0 (st : CodeState) : CodePage :=
  { va := 0x10000, state := st, segVa := 0x10000, segLen := 64, segIndex := 0, measurement := [], signer := [], signature := [], program := 0, role := 0 }

def parsed (f : Bytes) (g : Parsed → Bool) : Bool :=
  match parseFile f 1 (pick 0 301 0 (dev0.world 1).keySlots) with | .ok p => g p | .error _ => false

/-- FilesAreAdmittedAndTheDeviceIsManaged: a file that is admitted, one whose form is wrong and one whose code has no note. -/
theorem wit_FilesAreAdmitted : (dev0.world 1).live = true ∧ parsed [] (fun _ => true) = false ∧
    parsed (elfFile 6) (fun p => (dev0.refuses 0 1 (elfFile 6) p).isNone && (dev0.ensurePages 0 1 1 ((dev0.world 1).filePages p) 0).isSome) = true ∧
    parsed (elfFile 5) (fun p => (dev0.refuses 0 1 (elfFile 5) p).isSome) = true := by decide +kernel

/-- And a code page in each state; PTM's offsets at its limit; a port at its sixteenth failure and before. -/
theorem wit_TheDeviceIsManaged : ({ world1 with code := [codePage0 .exec] } : World).code[0]? = some (codePage0 .exec) ∧
    (dev0.image 0 1 none 0x10000 64).isSome = true ∧
    (world1.noteOk { index := 0, measurement := [], signer := [], signature := [] } (bytesOfNat 64 0) = false) ∧ dev0.ptm = false ∧
    ({ dev0 with ptm := true } : Dev).ptm = true ∧ (1000000 : Nat) ≤ State.reset.now.ns + 1000000 ∧ State.reset.now.ns + 1000000 < 1000001 ∧
    (let p : PodPort := { up := true, peer := 0, retries := 15 }
     p.up = true ∧ p.retries < 16 ∧ 16 ≤ ({ p with retries := 16 } : PodPort).retries) := by decide +kernel

/-- The 64 bytes of a little-endian number, and a key. -/
def sigBytes (n : Nat) : Bytes := bytesOfNat 64 n
def keyBytes (n : Nat) : Bytes := bytesOfNat 32 n

/-- RFC 8032, 7.1, test 1: the empty message; with one bit changed the signature does not hold. -/
theorem test_ed25519 :
    let key := (keyBytes 0xd75a980182b10ab7d54bfed3c964073a0ee172f3daa62325af021a68f707511a).reverse
    let sig := (sigBytes 0xe5564300c360ac729086e2cc806e828a84877f1eb8e5d974d873e065224901555fb8821590a33bacc61e39701cf9b46bd25bf5f0595bbe24655141438e7a100b).reverse
    ed25519Verify key [] sig = true ∧ ed25519Verify key [1] sig = false := by decide +kernel

/-- FilesAreAdmittedAndTheDeviceIsManaged: a note of an empty segment with its measurement, signed by an admitted signer, holds. -/
theorem wit_signed_notes :
    let key := keyBytes 0x1a5107f7681a02af2523a6daf372e10e3a0764c9d3fe4bd5b70ab18201985ad7
    ({ world1 with signers := [key] } : World).noteOk { index := 0, measurement := sha512 [], signer := key, signature := sigBytes 0x711a38f9735e23a85b08b11bea363f5aa7006edd09d2459e846e855d80870411877b8d4e8592422f6fd275a3021cac073c741b353d8bd5f7311b1317b3a9769 } [] = true := by
  decide +kernel

/-- The refresh that comes by itself, just before 10 ms and at it. -/
theorem wit_refresh : 10000000 * 2 ^ 32 - 1 < 0 + 10000000 * 2 ^ 32 ∧ 0 + 10000000 * 2 ^ 32 ≤ 10000000 * 2 ^ 32 := by decide

/-- TheHostReadsWritesAndLaunches: a ring with room for one more event, and a full one. -/
theorem wit_events :
    let w : World := { world1 with evSize := 64, evTail := 0x3F, evHead := 0 }
    w.tdisp ≠ .error ∧ (w.evTail - w.evHead).toNat < w.evSize.toNat ∧
    ({ w with evTail := 0x40 } : World).evSize.toNat ≤ (({ w with evTail := 0x40 } : World).evTail - w.evHead).toNat ∧
    (items [1, 2, 3, 4, 5, 6]).length ≤ 112 ∧ (bytesOfNat 112 0).length ≤ 112 := by decide +kernel

/-- FilesAreAdmittedAndTheDeviceIsManaged: a clock at 1,100 MHz, with no correction, and with one to come and one to lose. -/
theorem wit_clocks :
    let n := Now.reset
    let full := (2 ^ 32 + n.rate).toNat * 1000 / n.mhz
    n.slew = 0 ∧ n.tick.time = 3904515723 ∧ Int.ofNat (full / 1000) ≤ ({ n with slew := 2 ^ 32 } : Now).slew ∧
    ({ n with slew := 2 ^ 32 } : Now).tick.time = 3904515723 + 3904515 ∧
    ({ n with slew := -(2 ^ 32) } : Now).slew ≤ -Int.ofNat (full / 1000) ∧
    ({ n with slew := -(2 ^ 32) } : Now).tick.time = 3904515723 - 3904515 := by decide +kernel
end Sys2Proof.Tests
end

section
/-! PROOFS. Fetching, landing results and phases. -/

namespace Sys2Proof.Proofs

open Sys2Proof Sys2Proof.Machine Sys2Proof.Laws

/-! ## Fetching -/

/-- The header's code_words lies in bits 47:32 of word 3 (R98). -/
theorem codeWords_eq (p : Plane) : p.codeWords = (SMap.get p.store 3).toNat / 2 ^ 32 % 2 ^ 16 := rfl

/-- A fetch at an offset inside the code gives the word there (R84). -/
theorem fetch_of_inCode {p : Plane} {pc : Word} (h : p.inCode pc = true) : p.fetch pc = some (SMap.get p.store (pc.toNat / 8)) := by
  rw [Plane.fetch, if_pos h]
  rfl

theorem cur_of_active {c : Core} {n : Nat} (h : c.active = some n) : c.cur = c.plane n := by
  simp [Core.cur, h]

/-- Settles O4: the core issues, and its fetch is inside the code. -/
theorem coresFetchTheirPlane : Obligations.CoresFetchTheirPlane := by
  unfold Obligations.CoresFetchTheirPlane
  intro d now k n hact hst hstarted hat hhalt halign hlo hmax hhi
  have hcur := cur_of_active hact
  have hissues : d.coreIssues now k = true := by
    simp [Dev.coreIssues, hact, hcur, hst, hstarted, hat, hhalt]
  have hin : ((d.core k).plane n).inCode (d.core k).pc = true := by
    simp only [Plane.inCode, Bool.and_eq_true, decide_eq_true_eq]
    exact ⟨⟨⟨hlo, codeWords_eq _ ▸ hhi⟩, hmax⟩, halign⟩
  rw [Dev.fetch, if_pos hissues, hcur, fetch_of_inCode hin]

/-! ## Results in flight -/

/-- Writing a list of values into a register file leaves the other keys. -/
theorem get_setLanes_other (xs : List (Nat × Lane)) (v : SMap 32) (r j : Nat) (h : ∀ x ∈ xs, j ≠ 32 * r + x.1) :
    SMap.get (setLanes v r xs) j = SMap.get v j := by
  induction xs generalizing v with
  | nil => rfl
  | cons x xs ih =>
    have hx := h x List.mem_cons_self
    rw [setLanes, List.foldl_cons]
    exact (ih _ fun y hy => h y (List.mem_cons_of_mem _ hy)).trans (get_set_other _ hx)

/-- A value that the list gives a lane, and no other value for that lane, is read back. -/
theorem get_setLanes_mem (is : List Nat) (f : Nat → Lane) (v : SMap 32) (r i : Nat) (h : i ∈ is) :
    SMap.get (setLanes v r (is.map fun i => (i, f i))) (32 * r + i) = f i := by
  induction is generalizing v with
  | nil => simp at h
  | cons a is ih =>
    rw [List.map_cons, setLanes, List.foldl_cons]
    by_cases hi : i ∈ is
    · exact ih _ hi
    · have ha : i = a := by simpa [hi] using h
      subst ha
      refine (get_setLanes_other _ _ r _ ?_).trans (get_set_same _ _)
      intro x hx
      obtain ⟨j, hj, rfl⟩ := List.mem_map.1 hx
      have : j ≠ i := fun e => hi (e ▸ hj)
      simp only
      omega

theorem mem_activeLanes (mask : Lane) (i : Nat) : i ∈ activeLanes mask ↔ i < 32 ∧ mask.getLsbD i = true := by
  simp [activeLanes]

/-- What a register file reads after the lanes of a mask have been written. -/
theorem get_setLanes_active (v : SMap 32) (r q : Reg) (mask : Lane) (f : Nat → Lane) (i : Nat) (hi : i < 32) :
    SMap.get (setLanes v r.toNat ((activeLanes mask).map fun i => (i, f i))) (32 * q.toNat + i) =
      if q = r ∧ mask.getLsbD i = true then f i else SMap.get v (32 * q.toNat + i) := by
  split
  · next h =>
    obtain ⟨rfl, hm⟩ := h
    exact get_setLanes_mem _ f v _ i ((mem_activeLanes mask i).2 ⟨hi, hm⟩)
  · next h =>
    refine get_setLanes_other _ v _ _ ?_
    intro x hx e
    obtain ⟨j, hj, rfl⟩ := List.mem_map.1 hx
    obtain ⟨hj32, hjm⟩ := (mem_activeLanes mask j).1 hj
    simp only at e
    have hij : i = j := by omega
    have hqr : q.toNat = r.toNat := by omega
    exact h ⟨BitVec.eq_of_toNat_eq hqr, hij ▸ hjm⟩

/-! What a landing result writes (R33, R147). -/

@[simp] theorem take_fpstat (c : Core) (p : Landing) : (c.take p).fpstat = c.fpstat ||| p.flags := by
  unfold Core.take
  dsimp only
  split
  · rfl
  · split <;> rfl

@[simp] theorem take_pend (c : Core) (p : Landing) : (c.take p).pend = c.pend := by
  unfold Core.take
  dsimp only
  split
  · rfl
  · split <;> rfl

theorem take_dead {c : Core} {p : Landing} (h : p.live = false) : (c.take p).g = c.g ∧ (c.take p).v = c.v := by
  simp [Core.take, h]

theorem take_g {c : Core} {p : Landing} {phys : Nat} (h : p.live = true) (hd : p.dst = .g phys) :
    (c.take p).g = SMap.set c.g phys (p.vals.headD (0, 0)).2 ∧ (c.take p).v = c.v := by
  simp [Core.take, h, hd]

theorem take_v {c : Core} {p : Landing} {r : Nat} (h : p.live = true) (hd : p.dst = .v r) :
    (c.take p).g = c.g ∧ (c.take p).v = setLanes c.v r (p.vals.map fun v => (v.1, v.2.truncate 32)) := by
  simp [Core.take, h, hd]

/-- A live result for a vector register writes the lanes that it holds. -/
theorem take_lane {c : Core} {p : Landing} {r : Reg} {mask : Lane} {y : Nat → Word} (h : p.live = true) (hd : p.dst = .v r.toNat)
    (hv : p.vals = (activeLanes mask).map fun i => (i, y i)) (q : Reg) {i : Nat} (hi : i < 32) :
    (c.take p).lane q i = if q = r ∧ mask.getLsbD i = true then (y i).truncate 32 else c.lane q i := by
  have hvals : (p.vals.map fun v => (v.1, v.2.truncate 32)) = (activeLanes mask).map fun i => (i, (y i).truncate 32) := by
    rw [hv, List.map_map]; rfl
  rw [Core.lane, (take_v h hd).2, hvals, get_setLanes_active _ _ _ _ (fun i => (y i).truncate 32) _ hi]
  rfl

/-- One result of fixed latency that is not in its last clock comes nearer. -/
theorem clock_nearer {c : Core} {p : Landing} {n : Nat} (h : c.pend = [p]) (ht : p.timer = some (n + 2)) :
    c.clock = { c with newFlags := 0, pend := [{ p with timer := some (n + 1) }] } := by
  simp [Core.clock, h, ht]

/-- One result of fixed latency lands in its last clock. -/
theorem clock_lands {c : Core} {p : Landing} (h : c.pend = [p]) (ht : p.timer = some 1) :
    c.clock = ({ c with newFlags := 0, pend := [] } : Core).take { p with timer := some 0 } := by
  simp [Core.clock, h, ht]

/-- A ready reply leaves the results in flight and writes what it holds. -/
theorem land_ready {c : Core} {j : Nat} {p : Landing} (hp : c.pend[j]? = some p) (hr : p.ready = true) (ht : p.timer = none) :
    c.land j = ({ c with pend := dropAt c.pend j } : Core).take p := by
  simp [Core.land, hp, hr, ht]

/-- Settles O19: what a clock does to one result of fixed latency, and what a reply that lands writes. -/
theorem resultsInFlightLand : Obligations.ResultsInFlightLand := by
  unfold Obligations.ResultsInFlightLand
  refine ⟨?_, ?_, ?_⟩
  · intro c n tag phys x flags p hp
    refine ⟨fun hn => ?_, fun hn => ?_⟩
    · obtain ⟨m, rfl⟩ := Nat.exists_eq_succ_of_ne_zero hn
      rw [clock_nearer hp rfl]
      exact ⟨rfl, rfl, rfl⟩
    · subst hn
      rw [clock_lands hp rfl]
      refine ⟨by simp, ?_, by simp [p]⟩
      rw [(take_g rfl rfl).1]
      exact get_set_same _ _
  · intro c r q tag i mask y flags hi hp
    rw [clock_lands hp rfl]
    refine ⟨by simp, by simp, (take_v rfl rfl).1, ?_⟩
    exact take_lane rfl rfl rfl q hi
  · intro s k j p hp hready htimer
    refine ⟨{ s with dev := s.dev.setCore k ((s.dev.core k).land j) }, rfl, ?_⟩
    simp only [core_setCore, land_ready hp hready htimer, take_pend, setCore_mem, true_and]
    refine ⟨fun i hi => core_setCore_other _ _ hi, fun hl => take_dead hl, fun hl phys hd => take_g hl hd, ?_⟩
    intro hl r q mask y i hi hd hv
    exact ⟨(take_v hl hd).1, take_lane hl hd hv q hi⟩

end Sys2Proof.Proofs
end

section
/-! PROOFS. Phases: the vote of a core, and the restart of the members of a team (R35, R36, R109). -/

namespace Sys2Proof.Proofs

open Sys2Proof Sys2Proof.Machine Sys2Proof.Laws

/-! ## Folds over the device -/

/-- A part that no step of a fold changes is as before the fold. -/
theorem foldl_keeps {α β γ : Type} {f : β → α → β} (part : β → γ) {l : List α}
    (h : ∀ b, ∀ a ∈ l, part (f b a) = part b) (b : β) :
    part (l.foldl f b) = part b := by
  induction l generalizing b with
  | nil => rfl
  | cons a l ih =>
    rw [List.foldl_cons, ih fun b x hx => h b x (List.mem_cons_of_mem a hx)]
    exact h b a List.mem_cons_self

/-- What relates a value to what each step makes of it relates it to what a fold makes of it. -/
theorem foldl_related {α β : Type} {R : β → β → Prop} (refl : ∀ b, R b b) (trans : ∀ {a b c}, R a b → R b c → R a c)
    {f : β → α → β} (h : ∀ b a, R b (f b a)) (l : List α) (b : β) : R b (l.foldl f b) := by
  induction l generalizing b with
  | nil => exact refl b
  | cons a l ih => exact trans (h b a) (ih (f b a))

/-- A fold of a step that does the same to each core that it names, once or more often, and leaves the others. -/
theorem core_foldl {f : Dev → Nat → Dev} {F : Core → Core} (self : ∀ d k, (f d k).core k = F (d.core k))
    (other : ∀ d k j, j ≠ k → (f d k).core j = d.core j) (idem : ∀ c, F (F c) = F c) (ks : List Nat) (d : Dev) (j : Nat) :
    (ks.foldl f d).core j = if j ∈ ks then F (d.core j) else d.core j := by
  induction ks generalizing d with
  | nil => simp
  | cons k ks ih =>
    rw [List.foldl_cons, ih]
    by_cases hj : j = k
    · subst hj
      simp [self, idem]
    · simp [other d k j hj, hj]

/-! ## Voting -/

/-- The word of PHASE (R85). -/
theorem wordOfInstr_phase (v : BitVec 1) : wordOfInstr (.phase v) = 0x0106000000000000 + v.zeroExtend 64 := by
  revert v
  decide

theorem phase_in_handler {s : State} {k : Nat} (v : BitVec 1) (ha : s.actor = .core k) (hh : (s.dev.core k).inHandler = true) :
    exec (.phase v) s = .next (s.trapped k 0x01 (0x0106000000000000 + v.zeroExtend 64)) := by
  rw [show exec (.phase v) s = execPhase v s from rfl, execPhase, onCore_core _ ha, ← wordOfInstr_phase]
  simp [hh, State.trapped, Cause.illegal]

theorem phase_votes {s : State} {k : Nat} (v : BitVec 1) {t : Team} (ha : s.actor = .core k)
    (hh : (s.dev.core k).inHandler = false) (hp : (s.dev.core k).pend = [])
    (ht : Tab.get? s.dev.teams (s.dev.core k).cur.team = some t) (hv : (t.votes.any fun x => x.1 == k) = false) :
    let voted : Team := { t with votes := t.votes ++ [(k, decide (v = 1))] }
    ∃ w, exec (.phase v) s = .next { s with
      dev := (s.dev.setTeam (s.dev.core k).cur.team voted).setCore k { s.dev.core k with stage := .voted, wait := w } } := by
  intro voted
  rw [show exec (.phase v) s = execPhase v s from rfl, execPhase, onCore_core _ ha]
  dsimp only
  rw [if_neg (by simp [hh]), if_neg (by simp [hp])]
  simp only [ht]
  rw [if_neg (by simp [hv])]
  exact ⟨_, rfl⟩

/-! ## Restarting -/

/-- What the selection of entry `i` of the phase table makes of a member, from clock `at_` on (R36). -/
def restarted (at_ i : Nat) (c : Core) : Core :=
  if c.cur.phaseEntry i = 15 then c.stop
  else { c with resident := 1, spilled := 0, rets := [], startAt := at_, pc := BitVec.ofNat 64 (8 * c.cur.entry (c.cur.phaseEntry i)),
                wait := none, stage := .none }

theorem restarted_restarted (at_ i : Nat) (c : Core) : restarted at_ i (restarted at_ i c) = restarted at_ i c := by
  by_cases h : c.cur.phaseEntry i = 15
  · have h1 : restarted at_ i c = c.stop := if_pos h
    rw [h1]
    exact if_pos h
  · have h1 : restarted at_ i c = _ := if_neg h
    rw [h1]
    exact if_neg h

/-- A restart changes its core and the counters of worlds alone. -/
theorem restart_eq (d : Dev) (at_ k i : Nat) :
    ∃ ws, d.restart at_ k i = { d.setCore k (restarted at_ i (d.core k)) with worlds := ws } := by
  unfold Dev.restart restarted
  dsimp only
  split
  · exact ⟨d.worlds, rfl⟩
  · obtain ⟨ws, h⟩ := retire_eq (d.setCore k { d.core k with resident := 1, spilled := 0, rets := [], startAt := at_ }) k
      (BitVec.ofNat 64 (8 * (d.core k).cur.entry ((d.core k).cur.phaseEntry i)))
    refine ⟨ws, h.trans ?_⟩
    simp

theorem core_restart (d : Dev) (at_ k i : Nat) : (d.restart at_ k i).core k = restarted at_ i (d.core k) := by
  obtain ⟨ws, h⟩ := restart_eq d at_ k i
  rw [h]
  exact core_setCore _ _ _

theorem core_restart_other (d : Dev) (at_ k i j : Nat) (hj : j ≠ k) : (d.restart at_ k i).core j = d.core j := by
  obtain ⟨ws, h⟩ := restart_eq d at_ k i
  rw [h]
  exact core_setCore_other d _ hj

theorem teams_restart (d : Dev) (at_ k i : Nat) : (d.restart at_ k i).teams = d.teams := by
  obtain ⟨ws, h⟩ := restart_eq d at_ k i
  rw [h]
  rfl

theorem mem_restart (d : Dev) (at_ k i : Nat) : (d.restart at_ k i).mem = d.mem := by
  obtain ⟨ws, h⟩ := restart_eq d at_ k i
  rw [h]
  rfl

@[simp] theorem core_setTeam (d : Dev) (n : Nat) (t : Team) (k : Nat) : (d.setTeam n t).core k = d.core k := rfl
@[simp] theorem mem_setTeam (d : Dev) (n : Nat) (t : Team) : (d.setTeam n t).mem = d.mem := rfl

/-- PHASE_SELECT, once every member has voted. -/
theorem phaseSelect_eq {s : State} {team : Nat} {t : Team} (ht : Tab.get? s.dev.teams team = some t) (hm : s.dev.members t ≠ [])
    (hv : ∀ k ∈ s.dev.members t, ∃ x ∈ t.votes, x.1 = k) :
    let i := 2 * b2n (t.votes.all Prod.snd) + b2n (t.votes.any Prod.snd)
    exec (.phaseSelect team) s = .next { s with
      dev := (s.dev.members t).foldl (fun d k => d.restart (s.now.clock + 1) k i) (s.dev.setTeam team { t with votes := [] }) } := by
  have hall : ((s.dev.members t).all fun k => t.votes.any fun v => v.1 == k) = true := by
    simpa using hv
  rw [show exec (.phaseSelect team) s = execPhaseSelect team s from rfl, execPhaseSelect, run_next]
  simp [ht, hm, hall, State.ctx, Dev.setTeam]

theorem two_b2n (b : Bool) : 2 * b2n b = if b = true then 2 else 0 := by cases b <;> rfl

/-- The entry that the phase table holds at an index, as the base-16 digit of that place. -/
theorem phaseEntry_eq (p : Plane) (i : Nat) : p.phaseEntry i = p.phaseTable / 16 ^ i % 16 := by
  rw [Plane.phaseEntry, Nat.pow_mul]

/-- Settles O25: what PHASE does by `phase_in_handler` and `phase_votes`, and what the selection does to each member. -/
theorem phasesVoteAndRestart : Obligations.PhasesVoteAndRestart := by
  unfold Obligations.PhasesVoteAndRestart
  refine ⟨?_, ?_⟩
  · intro s k v t ha _
    exact ⟨phase_in_handler v ha, fun hh hp ht hv => phase_votes v ha hh hp ht hv⟩
  · intro s team t ht hm hv
    refine ⟨_, phaseSelect_eq ht hm hv, ?_⟩
    generalize hi : 2 * b2n (t.votes.all Prod.snd) + b2n (t.votes.any Prod.snd) = i
    have hi' : (if t.votes.all Prod.snd then 2 else 0) + (if t.votes.any Prod.snd then 1 else 0) = i := by
      rw [← hi, two_b2n, b2n]
    have hcore := core_foldl (f := fun d k => d.restart (s.now.clock + 1) k i) (fun d k => core_restart d _ k i)
      (fun d k j hj => core_restart_other d _ k i j hj) (restarted_restarted _ i) (s.dev.members t)
      (s.dev.setTeam team { t with votes := [] })
    simp only [core_setTeam] at hcore
    refine ⟨?_, ?_, ?_, ?_⟩
    · rw [foldl_keeps Dev.teams fun d k _ => teams_restart d _ k i]
      exact tab_get_put _ _ _
    · exact foldl_keeps Dev.mem (fun d k _ => mem_restart d _ k i) _
    · intro j hj
      rw [hcore j, if_neg hj]
    · intro k hk
      simp only [hi', ← phaseEntry_eq]
      rw [hcore k, if_pos hk]
      by_cases he : (s.dev.core k).cur.phaseEntry i = 15
      · rw [show restarted (s.now.clock + 1) i _ = _ from if_pos he]
        simp [Core.stop, he]
      · rw [show restarted (s.now.clock + 1) i _ = _ from if_neg he]
        simp [he]

end Sys2Proof.Proofs
end

section
/-! PROOFS. Readying nodes: what it leaves of the device, and what it does to the launch (R24, R27, R240, R283). -/

namespace Sys2Proof.Proofs

open Sys2Proof Sys2Proof.Machine Sys2Proof.Laws

/-! ## Tables -/

theorem tab_mem_of_get {α : Type} {t : Tab α} {k : Nat} {x : α} (h : Tab.get? t k = some x) : (k, x) ∈ t := by
  induction t with
  | nil => simp [Tab.get?] at h
  | cons e t ih =>
    obtain ⟨k', y⟩ := e
    by_cases hk : k' = k
    · subst hk
      simp only [Tab.get?, if_true, Option.some.injEq] at h
      simp [h]
    · rw [Tab.get?, if_neg hk] at h
      exact List.mem_cons_of_mem _ (ih h)

theorem tab_get_map {α : Type} (f : Nat → α → α) (t : Tab α) (k : Nat) : Tab.get? (Tab.map f t) k = (Tab.get? t k).map (f k) := by
  induction t with
  | nil => rfl
  | cons e t ih =>
    obtain ⟨k', y⟩ := e
    by_cases hk : k' = k
    · subst hk; simp [Tab.map, Tab.get?]
    · simpa [Tab.map, Tab.get?, hk] using ih

theorem tab_isSome_put {α : Type} {t : Tab α} {k : Nat} {x y : α} (h : Tab.get? t k = some y) (j : Nat) :
    (Tab.get? (Tab.put t k x) j).isSome = (Tab.get? t j).isSome := by
  by_cases hj : j = k
  · subst hj; rw [tab_get_put, h]; rfl
  · rw [tab_get_put_other _ _ hj]

theorem mem_insertBy {α : Type} (before : α → α → Bool) (x y : α) (l : List α) : y ∈ insertBy before x l ↔ y = x ∨ y ∈ l := by
  induction l with
  | nil => simp [insertBy]
  | cons z l ih =>
    unfold insertBy
    split
    · simp only [List.mem_cons, ih]; tauto
    · simp

/-! ## Nodes and launches that go on -/

/-- Instances of a node have become ready: its count has risen or it is as it was, and a failure stays recorded. -/
def NodeGoes (y y' : Node) : Prop :=
  ∃ st r, y' = { y with state := st, runs := r } ∧ y.runs ≤ r ∧ (r = y.runs → st = y.state) ∧
    (y.state = .faulted ∨ y.state = .killed → st = y.state)

/-- Nodes of a launch have become ready, and nothing else of it has changed. -/
def LaunchGoes (x x' : Launch) : Prop :=
  ∃ ns, x' = { x with nodes := ns } ∧ (∀ n, (Tab.get? ns n).isSome = (Tab.get? x.nodes n).isSome) ∧
    ∀ n y, Tab.get? x.nodes n = some y → ∃ y', Tab.get? ns n = some y' ∧ NodeGoes y y'

/-- Nodes have become ready: launches go on, the pool has grown, windows and triggers have given up what waited in them, and
nothing else of the device has changed. -/
def Readies (d d' : Dev) : Prop :=
  ∃ ls ws ts ps, d' = { d with launches := ls, windows := ws, triggers := ts, pool := ps } ∧ (∀ o ∈ d.pool, o ∈ ps) ∧
    ∀ l x, Tab.get? d.launches l = some x → ∃ x', Tab.get? ls l = some x' ∧ LaunchGoes x x'

theorem NodeGoes.refl (y : Node) : NodeGoes y y := ⟨y.state, y.runs, rfl, le_refl _, fun _ => rfl, fun _ => rfl⟩

theorem NodeGoes.trans {x y z : Node} (h : NodeGoes x y) (h' : NodeGoes y z) : NodeGoes x z := by
  obtain ⟨st, r, rfl, hr, hsame, hfail⟩ := h
  obtain ⟨st', r', rfl, hr', hsame', hfail'⟩ := h'
  refine ⟨st', r', rfl, hr.trans hr', fun e => ?_, fun hx => ?_⟩
  · subst e
    have : r = x.runs := le_antisymm hr' hr
    exact (hsame' this.symm).trans (hsame this)
  · have hst := hfail hx
    rw [← hst] at hx
    exact (hfail' hx).trans hst

theorem LaunchGoes.refl (x : Launch) : LaunchGoes x x := ⟨x.nodes, rfl, fun _ => rfl, fun _ y h => ⟨y, h, NodeGoes.refl y⟩⟩

theorem LaunchGoes.trans {x y z : Launch} (h : LaunchGoes x y) (h' : LaunchGoes y z) : LaunchGoes x z := by
  obtain ⟨ns, rfl, hsome, hgoes⟩ := h
  obtain ⟨ns', rfl, hsome', hgoes'⟩ := h'
  refine ⟨ns', rfl, fun n => (hsome' n).trans (hsome n), fun n y hy => ?_⟩
  obtain ⟨y1, hy1, g1⟩ := hgoes n y hy
  obtain ⟨y2, hy2, g2⟩ := hgoes' n y1 hy1
  exact ⟨y2, hy2, g1.trans g2⟩

theorem Readies.refl (d : Dev) : Readies d d :=
  ⟨d.launches, d.windows, d.triggers, d.pool, rfl, fun _ h => h, fun _ x h => ⟨x, h, LaunchGoes.refl x⟩⟩

theorem Readies.trans {a b c : Dev} (h : Readies a b) (h' : Readies b c) : Readies a c := by
  obtain ⟨ls, ws, ts, ps, rfl, hp, hl⟩ := h
  obtain ⟨ls', ws', ts', ps', rfl, hp', hl'⟩ := h'
  refine ⟨ls', ws', ts', ps', rfl, fun o ho => hp' o (hp o ho), fun l x hx => ?_⟩
  obtain ⟨x1, hx1, g1⟩ := hl l x hx
  obtain ⟨x2, hx2, g2⟩ := hl' l x1 hx1
  exact ⟨x2, hx2, g1.trans g2⟩

theorem readies_foldl {α : Type} {f : Dev → α → Dev} (h : ∀ d a, Readies d (f d a)) (l : List α) (d : Dev) : Readies d (l.foldl f d) :=
  foldl_related Readies.refl Readies.trans h l d

theorem readies_repeat {f : Dev → Dev} (h : ∀ d, Readies d (f d)) (n : Nat) (d : Dev) : Readies d (n.repeat f d) := by
  induction n with
  | zero => exact Readies.refl d
  | succ n ih => exact ih.trans (h _)

theorem readies_ite {d a b : Dev} (c : Prop) [Decidable c] (ha : Readies d a) (hb : Readies d b) : Readies d (if c then a else b) := by
  split
  · exact ha
  · exact hb

/-- A change of windows, triggers and no others. -/
theorem readies_of_windows (d : Dev) (ws : Tab TWin) (ts : Tab Trigger) : Readies d { d with windows := ws, triggers := ts } :=
  ⟨d.launches, ws, ts, d.pool, rfl, fun _ h => h, fun _ x h => ⟨x, h, LaunchGoes.refl x⟩⟩

/-! What readying leaves. -/

theorem Readies.mem_eq {d d' : Dev} (h : Readies d d') : d'.mem = d.mem := by
  obtain ⟨ls, ws, ts, ps, rfl, -, -⟩ := h; rfl
theorem Readies.cores_eq {d d' : Dev} (h : Readies d d') : d'.cores = d.cores := by
  obtain ⟨ls, ws, ts, ps, rfl, -, -⟩ := h; rfl
theorem Readies.core_eq {d d' : Dev} (h : Readies d d') (k : Nat) : d'.core k = d.core k := by
  rw [Dev.core, h.cores_eq]; rfl
theorem Readies.ended_eq {d d' : Dev} (h : Readies d d') : d'.ended = d.ended := by
  obtain ⟨ls, ws, ts, ps, rfl, -, -⟩ := h; rfl
theorem Readies.nextLaunch_eq {d d' : Dev} (h : Readies d d') : d'.nextLaunch = d.nextLaunch := by
  obtain ⟨ls, ws, ts, ps, rfl, -, -⟩ := h; rfl
theorem Readies.pool_sub {d d' : Dev} (h : Readies d d') : ∀ o ∈ d.pool, o ∈ d'.pool := by
  obtain ⟨ls, ws, ts, ps, rfl, hp, -⟩ := h; exact hp
theorem Readies.launch {d d' : Dev} (h : Readies d d') {l : Nat} {x : Launch} (hx : Tab.get? d.launches l = some x) :
    ∃ x', Tab.get? d'.launches l = some x' ∧ LaunchGoes x x' := by
  obtain ⟨ls, ws, ts, ps, rfl, -, hl⟩ := h; exact hl l x hx

/-! ## One node becomes ready -/

/-- A node of which one more run is ready. -/
def readied (y : Node) : Node :=
  { y with state := if y.state = .faulted ∨ y.state = .killed then y.state else .ready, runs := y.runs + 1 }

/-- The launch in which one more run of node `n` is ready. -/
def oneMore (x : Launch) (n : Nat) (y : Node) : Launch := { x with nodes := Tab.put x.nodes n (readied y) }

theorem readied_goes (y : Node) : NodeGoes y (readied y) :=
  ⟨_, _, rfl, Nat.le_succ _, fun e => absurd e (Nat.succ_ne_self _), fun hf => if_pos hf⟩

theorem oneMore_goes {x : Launch} {n : Nat} {y : Node} (h : x.node n = some y) : LaunchGoes x (oneMore x n y) := by
  refine ⟨_, rfl, fun j => tab_isSome_put h j, fun j z hz => ?_⟩
  by_cases hj : j = n
  · subst hj
    obtain rfl : y = z := Option.some.inj (h.symm.trans hz)
    exact ⟨_, tab_get_put _ _ _, readied_goes y⟩
  · exact ⟨z, (tab_get_put_other _ _ hj).trans hz, NodeGoes.refl z⟩

/-- What enters the pool when node `n` of launch `x` has become ready: the node, or the co-resident set with its last member (R32). -/
def readyIn (d : Dev) (x : Launch) (now : Now) (l n : Nat) : Dev :=
  if x.inSet n then
    if x.members.all fun m => (x.node m).any fun y => y.state == .ready then
      { d with pool := insertBy PoolItem.before (poolItem x l x.members now.ns) d.pool }
    else d
  else { d with pool := insertBy PoolItem.before (poolItem x l [n] now.ns) d.pool }

/-- A node that becomes ready: its launch, and what enters the pool. -/
theorem ready_eq {d : Dev} (now : Now) {l n : Nat} {x : Launch} {y : Node} (hx : Tab.get? d.launches l = some x)
    (hy : x.node n = some y) :
    ∃ ps, d.ready now l n = { d.setLaunch l (oneMore x n y) with pool := ps } ∧ (∀ o ∈ d.pool, o ∈ ps) ∧
      (x.coreside = false → poolItem x l [n] now.ns ∈ ps) := by
  have he : d.ready now l n = readyIn (d.setLaunch l (oneMore x n y)) (oneMore x n y) now l n := by
    unfold Dev.ready
    simp only [hx, hy]
    rfl
  have hset : (oneMore x n y).inSet n = true → x.coreside = true := fun h => (Bool.and_eq_true_iff.1 h).1
  rw [he, readyIn]
  split
  · next h =>
    have hc : x.coreside ≠ false := by simp [hset h]
    split
    · exact ⟨_, rfl, fun o ho => (mem_insertBy _ _ _ _).2 (.inr ho), fun e => absurd e hc⟩
    · exact ⟨d.pool, rfl, fun _ ho => ho, fun e => absurd e hc⟩
  · exact ⟨_, rfl, fun o ho => (mem_insertBy _ _ _ _).2 (.inr ho), fun _ => (mem_insertBy _ _ _ _).2 (.inl rfl)⟩

theorem ready_readies (d : Dev) (now : Now) (l n : Nat) : Readies d (d.ready now l n) := by
  cases hx : Tab.get? d.launches l with
  | none => rw [show d.ready now l n = d by simp [Dev.ready, hx]]; exact Readies.refl d
  | some x =>
    cases hy : x.node n with
    | none => rw [show d.ready now l n = d by simp [Dev.ready, hx, hy]]; exact Readies.refl d
    | some y =>
      obtain ⟨ps, he, hp, -⟩ := ready_eq now hx hy
      rw [he]
      refine ⟨_, _, _, ps, rfl, hp, fun j z hz => ?_⟩
      by_cases hj : j = l
      · subst hj
        obtain rfl : x = z := Option.some.inj (hx.symm.trans hz)
        exact ⟨_, tab_get_put _ _ _, oneMore_goes hy⟩
      · exact ⟨z, (tab_get_put_other _ _ hj).trans hz, LaunchGoes.refl z⟩

theorem drainTrigger_readies (d : Dev) (now : Now) (key : Nat) : Readies d (d.drainTrigger now key) := by
  unfold Dev.drainTrigger
  split
  · exact Readies.refl d
  · split
    · exact Readies.refl d
    · split
      · exact Readies.refl d
      · next l _ =>
        refine readies_ite _ (Readies.refl d) ?_
        exact (readies_of_windows d d.windows _).trans (readies_repeat (fun d => ready_readies d now l _) _ _)

theorem drainTick_readies (d : Dev) (now : Now) (h : Nat) : Readies d (d.drainTick now h) := by
  unfold Dev.drainTick
  split
  · exact Readies.refl d
  · split
    · split
      · exact (readies_of_windows d _ d.triggers).trans (ready_readies _ now _ _)
      · exact Readies.refl d
    · exact Readies.refl d

theorem drainFirings_readies (d : Dev) (now : Now) (world : Nat) : Readies d (d.drainFirings now world) :=
  (readies_foldl (fun d h => drainTick_readies d now h) _ d).trans (readies_foldl (fun d key => drainTrigger_readies d now key) _ _)

/-- With no window and no trigger there is nothing to ready. -/
theorem drainFirings_none {d : Dev} (now : Now) (world : Nat) (hw : d.windows = []) (ht : d.triggers = []) : d.drainFirings now world = d := by
  simp [Dev.drainFirings, hw, ht, Tab.keys]

end Sys2Proof.Proofs
end

section
/-! PROOFS. The finish of nodes and graphs (R24, R25, R319). -/

namespace Sys2Proof.Proofs

open Sys2Proof Sys2Proof.Machine Sys2Proof.Laws

/-! ## Setting a node -/

/-- A launch with one node set. -/
def withNode (g : Launch) (n : Nat) (y : Node) : Launch := { g with nodes := Tab.put g.nodes n y }

@[simp] theorem node_withNode (g : Launch) (n : Nat) (y : Node) : (withNode g n y).node n = some y := tab_get_put _ _ _

theorem node_withNode_other (g : Launch) {n m : Nat} (y : Node) (h : m ≠ n) : (withNode g n y).node m = g.node m :=
  tab_get_put_other _ _ h

@[simp] theorem withNode_withNode (g : Launch) (n : Nat) (y z : Node) : withNode (withNode g n y) n z = withNode g n z := by
  simp [withNode, tab_put_put]

@[simp] theorem get_setLaunch (d : Dev) (l : Nat) (x : Launch) : Tab.get? (d.setLaunch l x).launches l = some x := tab_get_put _ _ _

@[simp] theorem setLaunch_setLaunch (d : Dev) (l : Nat) (x y : Launch) : (d.setLaunch l x).setLaunch l y = d.setLaunch l y := by
  simp [Dev.setLaunch, tab_put_put]

theorem setNode_eq {d : Dev} {l n : Nat} {g : Launch} {y : Node} (f : Node → Node) (hg : Tab.get? d.launches l = some g)
    (hy : g.node n = some y) : d.setNode l n f = d.setLaunch l (withNode g n (f y)) := by
  simp only [Dev.setNode, hg, hy]
  rfl

/-! ## Releasing the successors of a node (R24) -/

/-- The edges from node `n` to node `m`. -/
def fallOf (g : Launch) (n m : Nat) : Nat := (g.edges.filter fun e => e.1 == n && e.2 == m).length

/-- The launch once the successors' counts have fallen. -/
def fallen (g : Launch) (n : Nat) : Launch :=
  { g with nodes := Tab.map (fun m (y : Node) => { y with preds := y.preds - fallOf g n m }) g.nodes }

/-- The nodes whose count reaches zero. -/
def freed (g : Launch) (n : Nat) : List Nat := Tab.keys (fun m (y : Node) => fallOf g n m != 0 && y.preds == fallOf g n m) g.nodes

/-- One freed node: a compute node becomes ready. -/
def readyFreed (g : Launch) (n : Nat) (now : Now) (l : Nat) (d : Dev) (m : Nat) : Dev :=
  match (fallen g n).node m with
  | some y => if y.kind < 4 then d.ready now l m else d
  | none => d

theorem releaseNode_eq {d : Dev} (now : Now) {l : Nat} (n : Nat) {g : Launch} (hg : Tab.get? d.launches l = some g) :
    d.releaseNode now l n =
      ((freed g n).foldl (readyFreed g n now l) (d.setLaunch l (fallen g n))).drainFirings now g.world := by
  simp only [Dev.releaseNode, hg]
  rfl

theorem node_fallen {g : Launch} (n : Nat) {m : Nat} {z : Node} (hz : g.node m = some z) :
    (fallen g n).node m = some { z with preds := z.preds - fallOf g n m } := by
  have hz' : Tab.get? g.nodes m = some z := hz
  simp [fallen, Launch.node, tab_get_map, hz']

theorem mem_freed {g : Launch} {n m : Nat} {z : Node} (hz : g.node m = some z) (hf : fallOf g n m ≠ 0) (hp : z.preds = fallOf g n m) :
    m ∈ freed g n := by
  refine List.mem_map.2 ⟨(m, z), List.mem_filter.2 ⟨tab_mem_of_get hz, ?_⟩, rfl⟩
  simp [hf, hp]

theorem readyFreed_readies (g : Launch) (n : Nat) (now : Now) (l : Nat) (d : Dev) (m : Nat) : Readies d (readyFreed g n now l d m) := by
  unfold readyFreed
  split
  · exact readies_ite _ (ready_readies d now l m) (Readies.refl d)
  · exact Readies.refl d

theorem LaunchGoes.node {x x' : Launch} (h : LaunchGoes x x') {n : Nat} {y : Node} (hy : x.node n = some y) :
    ∃ y', x'.node n = some y' ∧ NodeGoes y y' := by
  obtain ⟨ns, rfl, -, hn⟩ := h
  exact hn n y hy
theorem LaunchGoes.ended_eq {x x' : Launch} (h : LaunchGoes x x') : x'.ended = x.ended := by
  obtain ⟨ns, rfl, -, -⟩ := h; rfl
theorem LaunchGoes.coreside_eq {x x' : Launch} (h : LaunchGoes x x') : x'.coreside = x.coreside := by
  obtain ⟨ns, rfl, -, -⟩ := h; rfl
theorem LaunchGoes.level_eq {x x' : Launch} (h : LaunchGoes x x') : x'.level = x.level := by
  obtain ⟨ns, rfl, -, -⟩ := h; rfl
theorem NodeGoes.runs_le {y y' : Node} (h : NodeGoes y y') : y.runs ≤ y'.runs := by
  obtain ⟨st, r, rfl, hr, -, -⟩ := h; exact hr
theorem NodeGoes.preds_eq {y y' : Node} (h : NodeGoes y y') : y'.preds = y.preds := by
  obtain ⟨st, r, rfl, -, -, -⟩ := h; rfl

/-- An item of the pool is one run of a node alone. -/
def Entered (d : Dev) (l m level : Nat) : Prop := ∃ it ∈ d.pool, it.launch = l ∧ it.nodes = [m] ∧ it.level = level

/-- After a release the counts have fallen, and nodes have become ready; a compute node whose count reached zero among them. -/
theorem releaseNode_spec {d : Dev} (now : Now) {l : Nat} (n : Nat) {g : Launch} (hg : Tab.get? d.launches l = some g) :
    Readies (d.setLaunch l (fallen g n)) (d.releaseNode now l n) ∧
    ∀ m z, g.node m = some z → z.kind < 4 → fallOf g n m ≠ 0 → z.preds = fallOf g n m →
      ∃ x z', Tab.get? (d.releaseNode now l n).launches l = some x ∧ x.node m = some z' ∧ z.runs < z'.runs ∧
        (g.coreside = false → Entered (d.releaseNode now l n) l m g.level) := by
  rw [releaseNode_eq now n hg]
  have hfold := fun ms d => readies_foldl (readyFreed_readies g n now l) ms d
  refine ⟨(hfold _ _).trans (drainFirings_readies _ now _), fun m z hz hk hf hp => ?_⟩
  obtain ⟨pre, post, hsplit⟩ := List.append_of_mem (mem_freed hz hf hp)
  rw [hsplit, List.foldl_append, List.foldl_cons]
  obtain ⟨x2, hx2, hgo⟩ := (hfold pre (d.setLaunch l (fallen g n))).launch (get_setLaunch _ _ _)
  obtain ⟨z2, hz2, hzgo⟩ := hgo.node (node_fallen n hz)
  set d2 := pre.foldl (readyFreed g n now l) (d.setLaunch l (fallen g n))
  have hstep : readyFreed g n now l d2 m = d2.ready now l m := by
    simp only [readyFreed, node_fallen n hz, hk, if_true]
  obtain ⟨ps, he, -, hin⟩ := ready_eq now hx2 hz2
  have hrest := (hfold post (readyFreed g n now l d2 m)).trans (drainFirings_readies _ now g.world)
  have hx3 : Tab.get? (readyFreed g n now l d2 m).launches l = some (oneMore x2 m z2) := by
    rw [hstep, he]
    exact get_setLaunch _ _ _
  obtain ⟨x, hx, hxgo⟩ := hrest.launch hx3
  obtain ⟨z', hz', hzgo'⟩ := hxgo.node (show (oneMore x2 m z2).node m = some (readied z2) from tab_get_put _ _ _)
  refine ⟨x, z', hx, hz', ?_, fun hc => ?_⟩
  · exact (Nat.lt_succ_of_le hzgo.runs_le).trans_le hzgo'.runs_le
  · have hmem := hin (hgo.coreside_eq.trans hc)
    refine ⟨poolItem x2 l [m] now.ns, hrest.pool_sub _ ?_, rfl, rfl, hgo.level_eq⟩
    rw [hstep, he]
    exact hmem

/-! ## The end of a run (R25) -/

/-- A run of a placed compute node has ended well: the node has finished, and its successors are released. -/
theorem finishNode_done {d : Dev} (now : Now) {l n : Nat} {g : Launch} {y : Node} (cause : Nat) (hg : Tab.get? d.launches l = some g)
    (hy : g.node n = some y) (hk : y.kind < 4) (hs : y.state = .placed) :
    d.finishNode now l n 0 cause =
      (d.setLaunch l (withNode g n { y with runs := y.runs - 1, state := .finished })).releaseNode now l n := by
  have hk4 : y.kind ≠ 4 := by omega
  unfold Dev.finishNode
  rw [if_neg (by decide), setNode_eq _ hg hy]
  simp only [get_setLaunch, node_withNode]
  rw [if_neg (by decide), if_neg (by simp [hs]), if_neg fun h => hk4 h.1, setNode_eq _ (get_setLaunch _ _ _) (node_withNode _ _ _),
    setLaunch_setLaunch, withNode_withNode]

/-- A run has ended in fault or was killed: so is its node, and the host is told. -/
theorem finishNode_failed {d : Dev} (now : Now) {l n status : Nat} {g : Launch} {y : Node} (cause : Nat)
    (hst : status = 1 ∨ status = 2) (hg : Tab.get? d.launches l = some g) (hy : g.node n = some y) :
    d.finishNode now l n status cause =
      ((d.setLaunch l (withNode g n { y with runs := y.runs - 1, state := if status = 1 then .faulted else .killed })).event now 8
        g.world 0 (items [25, n, cause])).drainFirings now g.world := by
  unfold Dev.finishNode
  rw [if_neg (by omega), setNode_eq _ hg hy]
  simp only [get_setLaunch, node_withNode]
  rw [if_pos hst, setNode_eq _ (get_setLaunch _ _ _) (node_withNode _ _ _), setLaunch_setLaunch, withNode_withNode]
  rfl

/-- A graph with an ending run still to come, or a run ready or running, is not over. -/
theorem graphOver_false {d : Dev} {l : Nat} {x : Launch} (h : (∃ e ∈ d.ended, e.1 = l) ∨ ∃ m z, x.node m = some z ∧ z.runs ≠ 0) :
    d.graphOver l x = false := by
  rcases h with ⟨e, he, hl⟩ | ⟨m, z, hz, hr⟩
  · have h1 : (d.ended.any fun e => e.1 == l) = true := List.any_eq_true.2 ⟨e, he, by simp [hl]⟩
    simp [Dev.graphOver, h1]
  · have h1 : (x.nodes.all fun e => e.2.runs == 0) = false := by
      refine List.all_eq_false.2 ⟨(m, z), tab_mem_of_get hz, ?_⟩
      simp [hr]
    have h2 : (x.nodes.all fun (_, y) => y.runs == 0) = false := h1
    simp [Dev.graphOver, h2]

/-- NODE_FINISH of the run that ended first. -/
theorem nodeFinish_eq {s : State} {l n status cause : Nat} {rest : List (Nat × Nat × Nat × Nat)} {x : Launch}
    (he : s.dev.ended = (l, n, status, cause) :: rest)
    (hx : Tab.get? (({ s.dev with ended := rest } : Dev).finishNode s.now l n status cause).launches l = some x) :
    exec (.nodeFinish l n) s = .next { s with
      dev := if (({ s.dev with ended := rest } : Dev).finishNode s.now l n status cause).graphOver l x then
        (({ s.dev with ended := rest } : Dev).finishNode s.now l n status cause).endGraph s.now l x
      else ({ s.dev with ended := rest } : Dev).finishNode s.now l n status cause } := by
  rw [show exec (.nodeFinish l n) s = execNodeFinish l n s from rfl, execNodeFinish, run_next]
  simp only [he, findAt, beq_self_eq_true, Bool.and_self, if_true, dropAt, State.ctx, hx]

end Sys2Proof.Proofs
end

section
/-! PROOFS. NODE_FINISH (R24, R25, R319). -/

namespace Sys2Proof.Proofs

open Sys2Proof Sys2Proof.Machine Sys2Proof.Laws

theorem NodeGoes.state_eq {y y' : Node} (h : NodeGoes y y') (hr : y'.runs = y.runs) : y'.state = y.state := by
  obtain ⟨st, r, rfl, -, hs, -⟩ := h; exact hs hr
theorem NodeGoes.failed_state {y y' : Node} (h : NodeGoes y y') (hf : y.state = .faulted ∨ y.state = .killed) : y'.state = y.state := by
  obtain ⟨st, r, rfl, -, -, hs⟩ := h; exact hs hf

@[simp] theorem launches_event (d : Dev) (now : Now) (kind world die : Nat) (payload : Bytes) :
    (d.event now kind world die payload).launches = d.launches := by
  obtain ⟨ws, hm, h⟩ := event_eq d now kind world die payload
  rw [h]
@[simp] theorem ended_event (d : Dev) (now : Now) (kind world die : Nat) (payload : Bytes) :
    (d.event now kind world die payload).ended = d.ended := by
  obtain ⟨ws, hm, h⟩ := event_eq d now kind world die payload
  rw [h]

/-- The launch goes on after node `n` has lost a run: another is still to end, or one is ready or running. -/
theorem still_runs {rest : List (Nat × Nat × Nat × Nat)} {l n : Nat} {g x : Launch} {y : Node} (hy : g.node n = some y)
    (h : (∃ e ∈ rest, e.1 = l) ∨ 1 < y.runs ∨ ∃ m z, m ≠ n ∧ g.node m = some z ∧ z.runs ≠ 0)
    (hx : ∀ m z, g.node m = some z → ∃ z', x.node m = some z' ∧ z.runs - 1 ≤ z'.runs ∧ (m ≠ n → z.runs ≤ z'.runs)) :
    (∃ e ∈ rest, e.1 = l) ∨ ∃ m z, x.node m = some z ∧ z.runs ≠ 0 := by
  rcases h with h | h | ⟨m, z, hm, hz, hr⟩
  · exact .inl h
  · obtain ⟨z', hz', hle, -⟩ := hx n y hy
    exact .inr ⟨n, z', hz', by omega⟩
  · obtain ⟨z', hz', -, hle⟩ := hx m z hz
    have := hle hm
    exact .inr ⟨m, z', hz', by omega⟩

/-! ## A run that ended well -/

section WellEnded

variable {d : Dev} {l n : Nat} {g : Launch} {y : Node} (now : Now) (cause : Nat) (hg : Tab.get? d.launches l = some g)
  (hy : g.node n = some y) (hk : y.kind < 4) (hs : y.state = .placed)

/-- A node of a launch after node `n` has finished and before any has become ready. -/
theorem node_finished {m : Nat} {z : Node} (hy : g.node n = some y) (hz : g.node m = some z) :
    ∃ z1, (withNode g n { y with runs := y.runs - 1, state := .finished }).node m = some z1 ∧ z1.preds = z.preds ∧ z1.kind = z.kind ∧
      z.runs - 1 ≤ z1.runs ∧ (m ≠ n → z1 = z) ∧ (m = n → z1.state = .finished) := by
  by_cases hm : m = n
  · subst hm
    obtain rfl : y = z := Option.some.inj (hy.symm.trans hz)
    exact ⟨_, node_withNode _ _ _, rfl, rfl, le_refl _, fun h => absurd rfl h, fun _ => rfl⟩
  · exact ⟨z, (node_withNode_other g _ hm).trans hz, rfl, rfl, Nat.sub_le _ _, fun _ => rfl, fun h => absurd h hm⟩

include hg hy hk hs in
/-- What is left of the device, and what becomes of the launch. -/
theorem finishNode_done_spec :
    (d.finishNode now l n 0 cause).mem = d.mem ∧ (d.finishNode now l n 0 cause).ended = d.ended ∧
    ∃ x, Tab.get? (d.finishNode now l n 0 cause).launches l = some x ∧ x.ended = g.ended ∧
      (∀ z, x.node n = some z → z.runs = 0 → z.state = .finished) ∧
      ∀ m z, g.node m = some z → ∃ z', x.node m = some z' ∧ z'.preds = z.preds - fallOf g n m ∧ z.runs - 1 ≤ z'.runs ∧
        (m ≠ n → z.runs ≤ z'.runs) ∧
        (z.kind < 4 → m ≠ n → fallOf g n m ≠ 0 → z.preds = fallOf g n m →
          z.runs < z'.runs ∧ (g.coreside = false → Entered (d.finishNode now l n 0 cause) l m g.level)) := by
  rw [finishNode_done now cause hg hy hk hs]
  set g1 := withNode g n { y with runs := y.runs - 1, state := .finished } with hg1
  obtain ⟨hready, hfree⟩ := releaseNode_spec now n (get_setLaunch d l g1)
  rw [setLaunch_setLaunch] at hready
  obtain ⟨x, hx, hgo⟩ := hready.launch (get_setLaunch _ _ _)
  refine ⟨hready.mem_eq, hready.ended_eq, x, hx, hgo.ended_eq, fun z hz hr => ?_, fun m z hz => ?_⟩
  · obtain ⟨z', hz', hzgo⟩ := hgo.node (node_fallen n (node_withNode g n _))
    obtain rfl : z' = z := Option.some.inj (hz'.symm.trans hz)
    exact hzgo.state_eq (le_antisymm (hr.trans_le (Nat.zero_le _)) hzgo.runs_le)
  · obtain ⟨z1, hz1, hp1, hk1, hr1, hne, -⟩ := node_finished hy hz
    obtain ⟨z', hz', hzgo⟩ := hgo.node (node_fallen n hz1)
    refine ⟨z', hz', ?_, hr1.trans hzgo.runs_le, fun hm => ?_, fun hkz hm hf hp => ?_⟩
    · rw [hzgo.preds_eq, ← hp1]
      rfl
    · rw [← hne hm]
      exact hzgo.runs_le
    · obtain rfl := hne hm
      obtain ⟨x', z'', hx', hz'', hlt, hin⟩ := hfree m z1 hz1 hkz hf hp
      obtain rfl : x' = x := Option.some.inj (hx'.symm.trans hx)
      obtain rfl : z'' = z' := Option.some.inj (hz''.symm.trans hz')
      exact ⟨hlt, hin⟩

end WellEnded

/-! ## A run that failed -/

/-- What is left of the device, and what becomes of the launch, where a run ended in fault or was killed. -/
theorem finishNode_failed_spec {d : Dev} (now : Now) {l n status : Nat} {g : Launch} {y : Node} (cause : Nat)
    (hst : status = 1 ∨ status = 2) (hg : Tab.get? d.launches l = some g) (hy : g.node n = some y) :
    (d.finishNode now l n status cause).mem = d.mem ∧ (d.finishNode now l n status cause).ended = d.ended ∧
    ∃ x, Tab.get? (d.finishNode now l n status cause).launches l = some x ∧
      (∃ z, x.node n = some z ∧ z.state = if status = 1 then .faulted else .killed) ∧
      ∀ m z, g.node m = some z → ∃ z', x.node m = some z' ∧ z'.preds = z.preds ∧ z.runs - 1 ≤ z'.runs ∧ (m ≠ n → z.runs ≤ z'.runs) := by
  rw [finishNode_failed now cause hst hg hy]
  set y1 : Node := { y with runs := y.runs - 1, state := if status = 1 then .faulted else .killed } with hy1
  have hready := drainFirings_readies ((d.setLaunch l (withNode g n y1)).event now 8 g.world 0 (items [25, n, cause])) now g.world
  obtain ⟨x, hx, hgo⟩ := hready.launch (l := l) (x := withNode g n y1) (by rw [launches_event]; exact get_setLaunch _ _ _)
  refine ⟨?_, ?_, x, hx, ?_, fun m z hz => ?_⟩
  · rw [hready.mem_eq, mem_event]
    rfl
  · rw [hready.ended_eq, ended_event]
    rfl
  · obtain ⟨z, hz, hzgo⟩ := hgo.node (node_withNode g n y1)
    refine ⟨z, hz, hzgo.failed_state ?_⟩
    show (if status = 1 then NodeState.faulted else .killed) = .faulted ∨ (if status = 1 then NodeState.faulted else .killed) = .killed
    split <;> simp
  · by_cases hm : m = n
    · subst hm
      obtain rfl : y = z := Option.some.inj (hy.symm.trans hz)
      obtain ⟨z', hz', hzgo⟩ := hgo.node (node_withNode g m y1)
      exact ⟨z', hz', hzgo.preds_eq, hzgo.runs_le, fun h => absurd rfl h⟩
    · obtain ⟨z', hz', hzgo⟩ := hgo.node ((node_withNode_other g y1 hm).trans hz)
      exact ⟨z', hz', hzgo.preds_eq, (Nat.sub_le _ _).trans hzgo.runs_le, fun _ => hzgo.runs_le⟩

/-! ## The last run -/

theorem tab_put_middle {α : Type} (pre post : Tab α) (n : Nat) (y y' : α) (h : ∀ e ∈ pre, e.1 < n) :
    Tab.put (pre ++ (n, y) :: post) n y' = pre ++ (n, y') :: post := by
  induction pre with
  | nil => simp [Tab.put]
  | cons e pre ih =>
    obtain ⟨k, z⟩ := e
    have hk : k < n := h (k, z) List.mem_cons_self
    rw [List.cons_append, Tab.put, if_pos hk, ih fun e he => h e (List.mem_cons_of_mem _ he)]
    rfl

/-- A graph of compute nodes of which nothing is ready or running, or has still to end, is over. -/
theorem graphOver_true {d : Dev} {l : Nat} {x : Launch} (he : x.ended = false) (hd : d.ended = [])
    (hn : ∀ e ∈ x.nodes, e.2.runs = 0 ∧ e.2.kind < 4) : d.graphOver l x = true := by
  have h1 : ∀ e ∈ x.nodes, e.2.kind ≠ 4 := fun e h => by have := (hn e h).2; omega
  simp only [Dev.graphOver, he, hd, List.any_nil, Bool.not_false, Bool.true_and, Bool.and_true, Bool.and_eq_true, Bool.or_eq_true,
    List.all_eq_true]
  refine ⟨⟨fun e h => by simp [(hn e h).1], fun e h => by simp [h1 e h]⟩, .inr fun e h => by simp [h1 e h]⟩

/-- Where the successors of a node are none, its finish readies none. -/
theorem releaseNode_last {d : Dev} (now : Now) {l n : Nat} {g : Launch} (hg : Tab.get? d.launches l = some g) (he : g.edges = [])
    (hw : d.windows = []) (ht : d.triggers = []) : d.releaseNode now l n = d.setLaunch l (fallen g n) := by
  have hf : freed g n = [] := by simp [freed, fallOf, he, Tab.keys]
  rw [releaseNode_eq now n hg, hf, List.foldl_nil]
  exact drainFirings_none now _ hw ht

/-- Without an event ring an event is lost, and nothing but the world's count of lost events changes. -/
theorem event_ringless {d : Dev} (now : Now) (kind : Nat) {w : Nat} (die : Nat) (payload : Bytes) (h : (d.world w).evSize = 0) :
    ∃ ws, d.event now kind w die payload = { d with worlds := ws } := by
  have h0 : (d.world w).evSize.toNat ≤ ((d.world w).evTail - (d.world w).evHead).toNat := by simp [h]
  unfold Dev.event
  dsimp only
  split
  · exact ⟨d.worlds, rfl⟩
  · exact ⟨_, rfl⟩

/-- A completion record stands at the host's address; with no event ring the event is lost. -/
theorem complete_ringless {d : Dev} (now : Now) {w : Nat} (queue doneAddr : Nat) (r : Bytes) (ht : (d.world w).tdisp ≠ .error)
    (hs : (d.world w).evSize = 0) :
    ∃ ws, d.complete now w queue doneAddr false r = { d with worlds := ws, hostMem := SMap.setRun d.hostMem doneAddr r } := by
  have hs' : (({ d with hostMem := SMap.setRun d.hostMem doneAddr r } : Dev).world w).evSize = 0 := hs
  obtain ⟨ws, h⟩ := event_ringless now 1 0 (r ++ bytesOfNat 8 queue) hs'
  refine ⟨ws, ?_⟩
  rw [Dev.complete, if_neg ht]
  exact h

/-- An ended graph of a world without an event ring leaves its record at the host's address. -/
theorem endGraph_ringless {d : Dev} (now : Now) (l : Nat) {g : Launch} (ht : (d.world g.world).tdisp ≠ .error)
    (hs : (d.world g.world).evSize = 0) (hr : g.noRecord = false) (hf : g.failed = none) :
    (d.endGraph now l g).mem = d.mem ∧ Tab.get? (d.endGraph now l g).launches l = some { g with ended := true } ∧
      (d.endGraph now l g).hostMem = SMap.setRun d.hostMem g.doneAddr (completionRecord g.tag 0 0xFFFF l) := by
  cases g
  dsimp only at ht hs hr hf
  subst hr hf
  obtain ⟨ws, h⟩ := complete_ringless (d := d.setLaunch l _) now _ _ (completionRecord _ 0 0xFFFF l) ht hs
  simp only [Dev.endGraph]
  rw [h]
  exact ⟨rfl, tab_get_put _ _ _, rfl⟩

/-- A graph without edges whose last run ends well: its launch is over, and no byte of memory has changed. -/
theorem finishNode_last {d : Dev} (now : Now) {l n : Nat} {g : Launch} {y : Node} (cause : Nat) {pre post : List (Nat × Node)}
    (hg : Tab.get? d.launches l = some g) (hy : g.node n = some y) (hk : y.kind < 4) (hs : y.state = .placed) (hruns : y.runs = 1)
    (he : g.edges = []) (hn : g.nodes = pre ++ (n, y) :: post) (hpre : ∀ e ∈ pre, e.1 < n)
    (hidle : ∀ e ∈ pre ++ post, e.2.runs = 0 ∧ e.2.kind < 4) (hw : d.windows = []) (ht : d.triggers = []) :
    ∃ x, d.finishNode now l n 0 cause = d.setLaunch l x ∧ (∃ ns, x = { g with nodes := ns }) ∧
      ∀ e ∈ x.nodes, e.2.runs = 0 ∧ e.2.kind < 4 := by
  set g1 := withNode g n { y with runs := y.runs - 1, state := .finished } with hg1
  have he1 : g1.edges = [] := he
  refine ⟨fallen g1 n, ?_, ⟨_, rfl⟩, ?_⟩
  · rw [finishNode_done now cause hg hy hk hs, releaseNode_last now (get_setLaunch d l g1) he1 hw ht, setLaunch_setLaunch]
  · intro e hmem
    obtain ⟨e', he', rfl⟩ := List.mem_map.1 hmem
    have hnodes : g1.nodes = pre ++ (n, { y with runs := y.runs - 1, state := .finished }) :: post := by
      rw [← tab_put_middle pre post n y _ hpre, ← hn]
      rfl
    rw [hnodes, List.mem_append, List.mem_cons] at he'
    rcases he' with h | rfl | h
    · exact hidle e' (List.mem_append_left _ h)
    · exact ⟨by simp [hruns], hk⟩
    · exact hidle e' (List.mem_append_right _ h)

/-- Settles O53: a run that ended well by `finishNode_done_spec`, one that failed by `finishNode_failed_spec`, and the last
one of a graph by `finishNode_last` and `endGraph_ringless`. -/
theorem nodesReadyTheirSuccessors : Obligations.NodesReadyTheirSuccessors := by
  unfold Obligations.NodesReadyTheirSuccessors
  intro s l n status cause rest g y hend hg hy fall goesOn readies
  refine ⟨?_, ?_, ?_⟩
  · intro h0 hk hs hgo
    subst h0
    obtain ⟨hmem, hended, x, hx, hxe, hfin, hnodes⟩ :=
      finishNode_done_spec (d := { s.dev with ended := rest }) s.now cause hg hy hk hs
    have hover : (({ s.dev with ended := rest } : Dev).finishNode s.now l n 0 cause).graphOver l x = false := by
      refine graphOver_false ?_
      rw [hended]
      rcases hgo with h | ⟨m, z, hm, hz, hkz, hf, hp⟩
      · refine still_runs hy h fun m z hz => ?_
        obtain ⟨z', hz', -, h1, h2, -⟩ := hnodes m z hz
        exact ⟨z', hz', h1, h2⟩
      · obtain ⟨z', hz', -, -, -, h3⟩ := hnodes m z hz
        have hlt := (h3 hkz hm hf hp).1
        exact .inr ⟨m, z', hz', by omega⟩
    refine ⟨_, x, nodeFinish_eq hend hx, ?_⟩
    rw [hover]
    refine ⟨hended, hmem, hx, hxe, hfin, fun m z hz => ?_⟩
    obtain ⟨z', hz', hp, -, hle, hfree⟩ := hnodes m z hz
    refine ⟨z', hz', hp, hle, fun hkz hm hf hpz hc => ?_⟩
    obtain ⟨hlt, hin⟩ := hfree hkz hm hf hpz
    exact ⟨hlt, hin hc⟩
  · intro hst hgo
    obtain ⟨hmem, hended, x, hx, hfail, hnodes⟩ := finishNode_failed_spec (d := { s.dev with ended := rest }) s.now cause hst hg hy
    have hover : (({ s.dev with ended := rest } : Dev).finishNode s.now l n status cause).graphOver l x = false := by
      refine graphOver_false ?_
      rw [hended]
      refine still_runs hy hgo fun m z hz => ?_
      obtain ⟨z', hz', -, h1, h2⟩ := hnodes m z hz
      exact ⟨z', hz', h1, h2⟩
    refine ⟨_, x, nodeFinish_eq hend hx, ?_⟩
    rw [hover]
    refine ⟨hended, hmem, hx, hfail, fun m z hz => ?_⟩
    obtain ⟨z', hz', hp, -⟩ := hnodes m z hz
    exact ⟨z', hz', hp⟩
  · intro pre post h0 hk hs hruns hrest hedges hfailed hnot hn hpre hidle hw ht hterr hring hrec
    subst h0 hrest
    obtain ⟨x, hd, ⟨ns, rfl⟩, hover⟩ := finishNode_last (d := { s.dev with ended := [] }) s.now cause hg hy hk hs hruns hedges hn hpre
      hidle hw ht
    have hx : Tab.get? (({ s.dev with ended := [] } : Dev).finishNode s.now l n 0 cause).launches l = some { g with nodes := ns } := by
      rw [hd]
      exact get_setLaunch _ _ _
    rw [hd] at hx
    refine ⟨_, { g with nodes := ns, ended := true }, nodeFinish_eq hend (by rw [hd]; exact hx), ?_⟩
    have hends : (({ s.dev with ended := [] } : Dev).setLaunch l { g with nodes := ns }).graphOver l { g with nodes := ns } = true :=
      graphOver_true (x := { g with nodes := ns }) hnot rfl hover
    rw [hd, hends, if_pos rfl]
    obtain ⟨hmem, hl, hhost⟩ := endGraph_ringless (d := ({ s.dev with ended := [] } : Dev).setLaunch l { g with nodes := ns }) s.now l
      (g := { g with nodes := ns }) hterr hring hrec hfailed
    exact ⟨hl, rfl, hmem, hhost⟩

end Sys2Proof.Proofs
end

section
/-! PROOFS. The ready pool: ageing, the scan, and the placing of team and engine nodes (R23, R26 to R32). -/

namespace Sys2Proof.Proofs

open Sys2Proof Sys2Proof.Machine Sys2Proof.Laws

/-! ## Ageing (R26, R28) -/

theorem dropAt_eq {α : Type} (l : List α) (i : Nat) : dropAt l i = l.take i ++ l.drop (i + 1) := by
  induction l generalizing i with
  | nil => simp [dropAt]
  | cons x l ih =>
    cases i with
    | zero => rfl
    | succ i => simp [dropAt, ih]

/-- An item that has waited its time at a level above 0 rises. -/
theorem poolPromote_due {s : State} {i : Nat} {it : PoolItem} (h : s.dev.pool[i]? = some it) (hl : it.level ≠ 0)
    (ha : it.since + 50000 ≤ s.now.ns) :
    exec (.poolPromote i) s = .next { s with dev := { s.dev with
      pool := insertBy PoolItem.before { it with level := it.level - 1, since := it.since + 50000 } (dropAt s.dev.pool i) } } := by
  rw [show exec (.poolPromote i) s = execPoolPromote i s from rfl, execPoolPromote, run_next]
  simp [h, hl, PoolItem.aged, State.ctx, ha]

/-- An item that has waited its time at level 0 is held. -/
theorem poolHold_due {s : State} {i : Nat} {it : PoolItem} (h : s.dev.pool[i]? = some it) (hl : it.level = 0) (hh : it.held = false)
    (ha : it.since + 50000 ≤ s.now.ns) :
    exec (.poolHold i) s = .next { s with dev := { s.dev with
      pool := s.dev.pool.map fun o => if o = it then { it with held := true } else o } } := by
  rw [show exec (.poolHold i) s = execPoolHold i s from rfl, execPoolHold, run_next]
  simp [h, hl, hh, PoolItem.aged, State.ctx, ha]

/-- An item that has not waited its time stays as it is. -/
theorem pool_not_due {s : State} {i : Nat} {it : PoolItem} (h : s.dev.pool[i]? = some it) (ha : s.now.ns < it.since + 50000) :
    exec (.poolPromote i) s = .next s ∧ exec (.poolHold i) s = .next s := by
  have hn : it.aged s.ctx.now.ns = false := decide_eq_false (Nat.not_le.2 ha)
  rw [show exec (.poolPromote i) s = execPoolPromote i s from rfl, show exec (.poolHold i) s = execPoolHold i s from rfl,
    execPoolPromote, execPoolHold, run_next, run_next]
  simp [h, hn]

theorem mem_map_replace {α : Type} [DecidableEq α] {l : List α} {x y : α} (hx : x ∈ l) (o : α) :
    o ∈ l.map (fun o => if o = x then y else o) ↔ o = y ∨ (o ∈ l ∧ o ≠ x) := by
  rw [List.mem_map]
  constructor
  · rintro ⟨a, ha, rfl⟩
    by_cases hax : a = x
    · exact .inl (if_pos hax)
    · rw [if_neg hax]
      exact .inr ⟨ha, hax⟩
  · rintro (rfl | ⟨ho, hne⟩)
    · exact ⟨x, hx, if_pos rfl⟩
    · exact ⟨o, ho, if_neg hne⟩

/-! ## The scan (R27, R28) -/

/-- The scan takes an item that can be placed where each before it cannot be, and none of those is held and of its kind. -/
theorem scanPool_takes {d d' : Dev} {x : Ctx} {pre post : List PoolItem} {it : PoolItem}
    (hpre : ∀ o ∈ pre, d.placeItem x o = none ∧ (o.held = true → d.itemKind o ≠ d.itemKind it)) (hit : d.placeItem x it = some d')
    (held : List (Nat × Nat)) (hheld : d.itemKind it ∉ held) : d.scanPool x (pre ++ it :: post) held = some (it, d') := by
  induction pre generalizing held with
  | nil =>
    rw [List.nil_append, Dev.scanPool]
    simp [hheld, hit]
  | cons o pre ih =>
    obtain ⟨hnone, hkind⟩ := hpre o List.mem_cons_self
    have ih := ih fun a ha => hpre a (List.mem_cons_of_mem _ ha)
    rw [List.cons_append, Dev.scanPool]
    split
    · exact ih held hheld
    · rw [hnone]
      dsimp only
      split
      · next ho => exact ih _ (List.not_mem_cons_of_ne_of_not_mem (hkind ho).symm hheld)
      · exact ih held hheld

/-- The scan takes nothing where each item cannot be placed or stands behind a held one of its kind that cannot. -/
theorem scanPool_none {d : Dev} {x : Ctx} (items : List PoolItem) (held : List (Nat × Nat))
    (h : ∀ pre o post, items = pre ++ o :: post → d.placeItem x o = none ∨ d.itemKind o ∈ held ∨
      ∃ p ∈ pre, p.held = true ∧ d.placeItem x p = none ∧ d.itemKind p = d.itemKind o) : d.scanPool x items held = none := by
  induction items generalizing held with
  | nil => rfl
  | cons it rest ih =>
    rw [Dev.scanPool]
    split
    · next hk =>
      refine ih held fun pre o post he => ?_
      rcases h (it :: pre) o post (by rw [he]; rfl) with h1 | h1 | ⟨p, hp, hph, hpn, hpk⟩
      · exact .inl h1
      · exact .inr (.inl h1)
      · rcases List.mem_cons.1 hp with rfl | hp
        · exact .inr (.inl (hpk ▸ List.contains_iff_mem.1 hk))
        · exact .inr (.inr ⟨p, hp, hph, hpn, hpk⟩)
    · next hk =>
      have hnone : d.placeItem x it = none := by
        rcases h [] it rest rfl with h1 | h1 | ⟨p, hp, -⟩
        · exact h1
        · exact absurd (List.contains_iff_mem.2 h1) hk
        · simp at hp
      rw [hnone]
      dsimp only
      refine ih _ fun pre o post he => ?_
      rcases h (it :: pre) o post (by rw [he]; rfl) with h1 | h1 | ⟨p, hp, hph, hpn, hpk⟩
      · exact .inl h1
      · refine .inr (.inl ?_)
        split
        · exact List.mem_cons_of_mem _ h1
        · exact h1
      · rcases List.mem_cons.1 hp with rfl | hp
        · refine .inr (.inl ?_)
          rw [if_pos hph, hpk]
          exact List.mem_cons_self
        · exact .inr (.inr ⟨p, hp, hph, hpn, hpk⟩)

theorem poolDispatch_none {s : State} (h : s.dev.scanPool s.ctx s.dev.pool [] = none) : exec .poolDispatch s = .next s := by
  rw [show exec .poolDispatch s = execPoolDispatch s from rfl, execPoolDispatch, run_next, h]

theorem poolDispatch_takes {s : State} {it : PoolItem} {d : Dev} (h : s.dev.scanPool s.ctx s.dev.pool [] = some (it, d)) :
    exec .poolDispatch s = .next { s with dev := { d with pool := s.dev.pool.erase it } } := by
  rw [show exec .poolDispatch s = execPoolDispatch s from rfl, execPoolDispatch, run_next, h]

/-- A dispatch takes the first item that can be placed out of the pool. -/
theorem poolDispatch_first {s : State} {pre post : List PoolItem} {it : PoolItem} {d : Dev} (hp : s.dev.pool = pre ++ it :: post)
    (hpre : ∀ o ∈ pre, s.dev.placeItem s.ctx o = none ∧ (o.held = true → s.dev.itemKind o ≠ s.dev.itemKind it))
    (hit : s.dev.placeItem s.ctx it = some d) : exec .poolDispatch s = .next { s with dev := { d with pool := pre ++ post } } := by
  have hnot : it ∉ pre := fun hm => by
    have := (hpre it hm).1
    rw [hit] at this
    exact absurd this (by simp)
  have hscan := scanPool_takes (post := post) hpre hit [] List.not_mem_nil
  rw [← hp] at hscan
  rw [poolDispatch_takes hscan, hp, List.erase_append_right _ hnot, List.erase_cons_head]

/-! ## Loading a team (R97, R103, R204) -/

/-- Two devices that differ in what loading a team writes, teams apart. -/
def LoadedAs (d d' : Dev) : Prop := ∃ cs ts bs chs, d' = { d with cores := cs, tunnels := ts, beads := bs, chans := chs }

theorem LoadedAs.refl (d : Dev) : LoadedAs d d := ⟨_, _, _, _, rfl⟩
theorem LoadedAs.trans {a b c : Dev} (h : LoadedAs a b) (h' : LoadedAs b c) : LoadedAs a c := by
  obtain ⟨cs, ts, bs, chs, rfl⟩ := h
  obtain ⟨cs', ts', bs', chs', rfl⟩ := h'
  exact ⟨cs', ts', bs', chs', rfl⟩

theorem LoadedAs.mem_eq {a b : Dev} (h : LoadedAs a b) : b.mem = a.mem := by
  obtain ⟨cs, ts, bs, chs, rfl⟩ := h; rfl

theorem loadedAs_foldl {α : Type} {f : Dev → α → Dev} (h : ∀ d a, LoadedAs d (f d a)) (l : List α) (d : Dev) : LoadedAs d (l.foldl f d) :=
  foldl_related LoadedAs.refl LoadedAs.trans h l d

theorem loadCore_loads (d : Dev) (world team k : Nat) (params : SMap 64) (img : Option RoleImage) :
    LoadedAs d (d.loadCore world team k params img).1 := ⟨_, _, _, _, rfl⟩

theorem loadRoute_loads (d : Dev) (seq world team left top : Nat) (p : Program) (r : Route) :
    LoadedAs d (d.loadRoute seq world team left top p r) := by
  have htun : ∀ (dies : List Nat) (d : Dev), LoadedAs d (dies.foldl (fun (d : Dev) die =>
      let tunnel : Tunnel := { team := team, world := world, sent := 0, counter := none, die := die, isOpen := true }
      { d with tunnels := Tab.put d.tunnels (freshKey d.tunnels) tunnel }) d) :=
    loadedAs_foldl fun d _ => ⟨d.cores, _, d.beads, d.chans, rfl⟩
  unfold Dev.loadRoute
  dsimp only
  split
  · exact (htun _ d).trans ⟨_, _, _, _, rfl⟩
  · split
    · exact htun _ d
    · exact (htun _ d).trans ⟨_, _, _, _, rfl⟩

/-- The places of a region, four cores to a quad. -/
def regionPlaces (p : Program) : List (Nat × Nat × Nat) :=
  (List.range p.height).flatMap fun y => (List.range p.width).flatMap fun x => (List.range 4).map fun c => (x, y, c)

theorem regionPlaces_length (p : Program) : (regionPlaces p).length = 4 * p.width * p.height := by
  simp [regionPlaces, List.length_flatMap]
  ring

/-- The cores at some places of a region are loaded one after another, and named with their planes. -/
def loadCores (world team left top : Nat) (params : SMap 64) (p : Program) (places : List (Nat × Nat × Nat))
    (acc : Dev × List (Nat × Nat)) : Dev × List (Nat × Nat) :=
  places.foldl (fun (d, cores) pl =>
    let img := p.roles.find? fun (r : RoleImage) => r.places.contains pl
    let (d, kn) := Dev.loadCore d world team (coreAt left top pl) params img
    (d, cores ++ [kn])) acc

theorem loadCores_spec (world team left top : Nat) (params : SMap 64) (p : Program) (places : List (Nat × Nat × Nat))
    (acc : Dev × List (Nat × Nat)) :
    LoadedAs acc.1 (loadCores world team left top params p places acc).1 ∧
    (loadCores world team left top params p places acc).2.length = acc.2.length + places.length := by
  induction places generalizing acc with
  | nil => exact ⟨LoadedAs.refl _, rfl⟩
  | cons pl places ih =>
    obtain ⟨h1, h2⟩ := ih (loadCores world team left top params p [pl] acc)
    refine ⟨(loadCore_loads acc.1 world team _ params _).trans h1, h2.trans ?_⟩
    simp only [loadCores, List.foldl_cons, List.foldl_nil, List.length_append, List.length_cons, List.length_nil]
    omega

/-- The team that is loaded on a region, with its cores. -/
def loadedTeam (l n : Nat) (x : Launch) (p : Program) (left top team : Nat) (cores : List (Nat × Nat)) : Team :=
  { world := x.world, launch := l, node := n, left := left, top := top, width := p.width, height := p.height, cores := cores,
    group := [team], started := false, votes := [], quietSince := none, surveyed := false, gone := false, finished := false,
    segs := p.segs left top }

theorem loadTeam_eq (d : Dev) (seq l n : Nat) (x : Launch) (p : Program) (left top : Nat) :
    let f := loadCores x.world d.nextTeam left top x.params p (regionPlaces p) (d, [])
    d.loadTeam seq l n x p left top =
      (p.routes.foldl (fun d' r => d'.loadRoute seq x.world d.nextTeam left top p r)
        (({ f.1 with nextTeam := d.nextTeam % 65535 + 1 } : Dev).setTeam d.nextTeam (loadedTeam l n x p left top d.nextTeam f.2)),
      d.nextTeam) := rfl

/-- A team that is loaded takes the next number, on all the cores of its region. -/
theorem loadTeam_spec (d : Dev) (seq l n : Nat) (x : Launch) (p : Program) (left top : Nat) :
    (d.loadTeam seq l n x p left top).2 = d.nextTeam ∧ (d.loadTeam seq l n x p left top).1.mem = d.mem ∧
    ∃ cores, cores.length = 4 * p.width * p.height ∧
      Tab.get? (d.loadTeam seq l n x p left top).1.teams d.nextTeam = some (loadedTeam l n x p left top d.nextTeam cores) := by
  obtain ⟨hload, hlen⟩ := loadCores_spec x.world d.nextTeam left top x.params p (regionPlaces p) (d, [])
  rw [loadTeam_eq]
  generalize loadCores x.world d.nextTeam left top x.params p (regionPlaces p) (d, []) = f at hload hlen ⊢
  obtain ⟨F, cores⟩ := f
  rw [List.length_nil, Nat.zero_add, regionPlaces_length] at hlen
  have hroutes := loadedAs_foldl (fun d' r => loadRoute_loads d' seq x.world d.nextTeam left top p r) p.routes
    (({ F with nextTeam := d.nextTeam % 65535 + 1 } : Dev).setTeam d.nextTeam (loadedTeam l n x p left top d.nextTeam cores))
  refine ⟨rfl, ?_, cores, hlen, ?_⟩
  · exact hroutes.mem_eq.trans hload.mem_eq
  · obtain ⟨cs, ts, bs, chs, hR⟩ := hroutes
    rw [hR]
    exact tab_get_put _ _ _

/-! ## Placing a team node (R29, R31, R308) -/

theorem setNode_eq_launches (d : Dev) (l n : Nat) (f : Node → Node) : ∃ ls, d.setNode l n f = { d with launches := ls } := by
  unfold Dev.setNode
  split
  · exact ⟨d.launches, rfl⟩
  · split
    · exact ⟨d.launches, rfl⟩
    · exact ⟨_, rfl⟩

/-- A team node whose rings lie with their consumers and whose pages may be run is loaded. -/
theorem loadNode_loads {d : Dev} {x : Ctx} {l n i : Nat} {g : Launch} {y : Node} {p : Program} (hy : g.node n = some y)
    (hp : (d.world g.world).programs[y.program]? = some p)
    (hring : ∀ d' : Dev, d'.worlds = d.worlds → d'.mem = d.mem → d'.dies = d.dies → d'.strayRing x.seq g.world (i % 32) (i / 32) p = none)
    (hload : (d.world g.world).loadable y.program p = true) :
    ∃ ls, d.loadNode x l n g i = ((({ d with launches := ls } : Dev).loadTeam x.seq l n g p (i % 32) (i / 32)).1, some d.nextTeam) := by
  obtain ⟨ls, hls⟩ := setNode_eq_launches d l n Node.place_
  refine ⟨ls, ?_⟩
  have hp' : (({ d with launches := ls } : Dev).world g.world).programs[y.program]? = some p := hp
  have hload' : (({ d with launches := ls } : Dev).world g.world).loadable y.program p = true := hload
  unfold Dev.loadNode
  simp only [hls, hy, hp', hring { d with launches := ls } rfl rfl rfl, hload', Bool.not_true, Bool.false_eq_true, if_false]
  rfl

/-- A team node whose region the search has found is placed: its team is loaded alone, to start by itself. -/
theorem placeTeams_one {d : Dev} {x : Ctx} {it : PoolItem} {n i : Nat} {g : Launch} {y : Node} {p : Program} (hn : it.nodes = [n])
    (hy : g.node n = some y) (hp : (d.world g.world).programs[y.program]? = some p)
    (hplace : placeAll (d.freeQuads (d.world g.world) it.entryLevel) [d.shapeOf g n] = some [i])
    (hring : ∀ d' : Dev, d'.worlds = d.worlds → d'.mem = d.mem → d'.dies = d.dies → d'.strayRing x.seq g.world (i % 32) (i / 32) p = none)
    (hload : (d.world g.world).loadable y.program p = true) :
    ∃ d' cores, d.placeTeams x it g = some d' ∧ d'.mem = d.mem ∧ cores.length = 4 * p.width * p.height ∧
      Tab.get? d'.teams d.nextTeam = some (loadedTeam it.launch n g p (i % 32) (i / 32) d.nextTeam cores) := by
  obtain ⟨ls, hnode⟩ := loadNode_loads (l := it.launch) hy hp hring hload
  obtain ⟨-, hmem, cores, hlen, hteam⟩ := loadTeam_spec { d with launches := ls } x.seq it.launch n g p (i % 32) (i / 32)
  set d1 := (({ d with launches := ls } : Dev).loadTeam x.seq it.launch n g p (i % 32) (i / 32)).1
  refine ⟨d1.groupTeams [d.nextTeam], cores, ?_, ?_, hlen, ?_⟩
  · simp [Dev.placeTeams, hn, hplace, hnode]
  · rw [Dev.groupTeams, List.foldl_cons, List.foldl_nil, hteam]
    exact hmem
  · rw [Dev.groupTeams, List.foldl_cons, List.foldl_nil, hteam]
    exact tab_get_put _ _ _

/-! ## Placing an engine node (R23, R30) -/

theorem latchQuad_eq (d : Dev) (q : Nat) : ∃ cs, d.latchQuad q = { d with cores := cs } := by
  have h : ∀ (is : List Nat) (d : Dev), ∃ cs, is.foldl (fun d i => d.setLatch (4 * q + i)) d = { d with cores := cs } := by
    intro is
    induction is with
    | nil => exact fun d => ⟨d.cores, rfl⟩
    | cons i is ih =>
      intro d
      obtain ⟨cs, h⟩ := ih (d.setLatch (4 * q + i))
      exact ⟨cs, h⟩
  exact h _ d

@[simp] theorem quad_latchQuad (d : Dev) (q r : Nat) : (d.latchQuad q).quad r = d.quad r := by
  obtain ⟨cs, h⟩ := latchQuad_eq d q
  rw [h]; rfl
@[simp] theorem engine_latchQuad (d : Dev) (q r e : Nat) : (d.latchQuad q).engine r e = d.engine r e := by
  rw [Dev.engine, quad_latchQuad]; rfl
@[simp] theorem mem_latchQuad (d : Dev) (q : Nat) : (d.latchQuad q).mem = d.mem := by
  obtain ⟨cs, h⟩ := latchQuad_eq d q
  rw [h]

/-- A command that enters an engine's queue stands last in it. -/
theorem queueCmd_spec (d : Dev) (q e : Nat) (cmd : Cmd) :
    (d.queueCmd q e cmd).mem = d.mem ∧
      ((d.queueCmd q e cmd).engine q e).queue = (d.engine q e).queue ++ [{ cmd with seq := (d.engine q e).nextSeq }] := by
  unfold Dev.queueCmd
  refine ⟨by rw [mem_latchQuad]; rfl, ?_⟩
  rw [engine_latchQuad, dev_engine_setEngine]

/-- A command operand is a literal, or the parameter that bits 5:0 name (R23). -/
theorem value_eq (g : Launch) (sel : Nat) (v : Word) : g.value sel v = if sel % 4 = 1 then SMap.get g.params (v.toNat % 64) else v := by
  simp [Launch.value, field]

/-- The quad that a node with a place of its own goes to (R30). -/
theorem engineQuad_at {d : Dev} {w : World} {level e : Nat} {y : Node} {i : Instr} (he : y.body = e + 1) (hc : isCpym i = false)
    (hp : y.place ≠ 0xFFFF) (hoff : w.off = false) (hu : y.place ∈ w.usable level) (ht : d.inTeam (quadOfIndex y.place) = false)
    (hq : (d.engine (quadOfIndex y.place) e).queue.length < 8) : d.engineQuad w level y i = some (quadOfIndex y.place) := by
  have hfull : (d.engine (quadOfIndex y.place) e).full = false := decide_eq_false (Nat.not_le.2 hq)
  simp [Dev.engineQuad, he, hc, hp, hoff, hu, ht, hfull]

/-- Settles O56: the ageing of an item, the scan by `scanPool_takes` and `scanPool_none`, and the placing of a node. -/
theorem thePoolPlacesReadyNodes : Obligations.ThePoolPlacesReadyNodes := by
  unfold Obligations.ThePoolPlacesReadyNodes
  refine ⟨?_, ?_, ?_, ?_⟩
  · intro s i it hit
    refine ⟨fun hl ha => ?_, fun hl hh ha => ?_, pool_not_due hit⟩
    · refine ⟨_, poolPromote_due hit hl ha, rfl, fun o => ?_⟩
      rw [← dropAt_eq]
      exact mem_insertBy _ _ _ _
    · exact ⟨_, poolHold_due hit hl hh ha, rfl, mem_map_replace (List.mem_of_getElem? hit)⟩
  · intro s pre post it d hp hpre hit
    exact poolDispatch_first hp hpre hit
  · intro s h
    refine poolDispatch_none (scanPool_none _ _ fun pre o post he => ?_)
    rcases h pre o post he with h1 | h1
    · exact .inl h1
    · exact .inr (.inr h1)
  · intro s it rest n g y hpool hnodes hg hy _
    have hfirst : ∀ d, s.dev.placeItem s.ctx it = some d → exec .poolDispatch s = .next { s with dev := { d with pool := rest } } :=
      fun d hd => poolDispatch_first (pre := []) hpool (by simp) hd
    refine ⟨fun i p hb hp hplace hring hload => ?_, fun e i hb _ hdec hc hplace hoff hu ht hq => ?_⟩
    · obtain ⟨d, cores, hd, hmem, hlen, hteam⟩ := placeTeams_one (x := s.ctx) hnodes hy hp hplace hring hload
      have hitem : s.dev.placeItem s.ctx it = some d := by
        simp only [Dev.placeItem, hg, hnodes, List.headD_cons, hy, hb, if_true]
        exact hd
      exact ⟨_, _, hfirst d hitem, rfl, hmem, hteam, rfl, rfl, rfl, rfl, rfl, rfl, rfl, rfl, rfl, rfl, hlen⟩
    · set q := quadOfIndex y.place
      obtain ⟨ls, hls⟩ := setNode_eq_launches s.dev it.launch n Node.place_
      have hitem : s.dev.placeItem s.ctx it = some (({ s.dev with launches := ls } : Dev).queueCmd q e (nodeCmd g it.launch n y i)) := by
        have hc' : isCpym (nodeCmd g it.launch n y i).instr = false := hc
        simp only [Dev.placeItem, hg, hnodes, List.headD_cons, hy, Dev.placeEngine, hdec,
          engineQuad_at hb hc hplace hoff hu ht hq, hls, Dev.sendNode, hc', Bool.false_eq_true, if_false, hb, Nat.add_sub_cancel]
        rfl
      obtain ⟨hmem, hqueue⟩ := queueCmd_spec { s.dev with launches := ls } q e (nodeCmd g it.launch n y i)
      exact ⟨_, _, hfirst _ hitem, rfl, hmem, hqueue, rfl, value_eq _ _ _, value_eq _ _ _, value_eq _ _ _, rfl, rfl, rfl, rfl, rfl⟩

end Sys2Proof.Proofs
end

section
/-! PROOFS. Teams: their start, completion and survey (R19, R25, R38 to R41). -/

namespace Sys2Proof.Proofs

open Sys2Proof Sys2Proof.Machine Sys2Proof.Laws

/-- A fold keeps what each step keeps, and leaves of each element what its step brings about and no step undoes. -/
theorem foldl_brings {α β : Type} {f : β → α → β} {P : β → Prop} {Q : α → β → Prop} {l : List α}
    (keep : ∀ b, ∀ a ∈ l, P b → P (f b a)) (bring : ∀ b, ∀ a ∈ l, P b → Q a (f b a))
    (hold : ∀ b a, ∀ a' ∈ l, P b → Q a b → Q a (f b a')) {b : β} (hb : P b) :
    P (l.foldl f b) ∧ (∀ a, Q a b → Q a (l.foldl f b)) ∧ ∀ a ∈ l, Q a (l.foldl f b) := by
  induction l generalizing b with
  | nil => exact ⟨hb, fun _ h => h, by simp⟩
  | cons x l ih =>
    have hx := List.mem_cons_self (a := x) (l := l)
    obtain ⟨h1, h2, h3⟩ := ih (fun b a ha => keep b a (List.mem_cons_of_mem _ ha)) (fun b a ha => bring b a (List.mem_cons_of_mem _ ha))
      (fun b a a' ha => hold b a a' (List.mem_cons_of_mem _ ha)) (keep b x hx hb)
    refine ⟨h1, fun a ha => h2 a (hold b a x hx hb ha), fun a ha => ?_⟩
    rcases List.mem_cons.1 ha with rfl | ha
    · exact h2 a (bring b a hx hb)
    · exact h3 a ha

/-! ## Start (R19, R32, R75) -/

/-- A core keeps its planes and its scalar registers. -/
def CoreKept (c c' : Core) : Prop := c'.planes = c.planes ∧ c'.active = c.active ∧ c'.g = c.g

/-- Memory, the runs that have ended, planes and scalar registers are kept. -/
structure Kept (d d' : Dev) : Prop where
  mem : d'.mem = d.mem
  ended : d'.ended = d.ended
  core : ∀ j, CoreKept (d.core j) (d'.core j)

theorem CoreKept.refl (c : Core) : CoreKept c c := ⟨rfl, rfl, rfl⟩
theorem CoreKept.trans {a b c : Core} (h : CoreKept a b) (h' : CoreKept b c) : CoreKept a c := by
  obtain ⟨hp, ha, hg⟩ := h
  obtain ⟨hp', ha', hg'⟩ := h'
  exact ⟨hp'.trans hp, ha'.trans ha, hg'.trans hg⟩

theorem Kept.refl (d : Dev) : Kept d d := ⟨rfl, rfl, fun _ => CoreKept.refl _⟩
theorem Kept.trans {a b c : Dev} (h : Kept a b) (h' : Kept b c) : Kept a c :=
  ⟨h'.mem.trans h.mem, h'.ended.trans h.ended, fun j => (h.core j).trans (h'.core j)⟩

theorem kept_foldl {α : Type} {f : Dev → α → Dev} (h : ∀ d a, Kept d (f d a)) (l : List α) (d : Dev) : Kept d (l.foldl f d) :=
  foldl_related Kept.refl Kept.trans h l d

/-- A core that is set with its planes and its scalar registers kept. -/
theorem kept_setCore (d : Dev) {k : Nat} {c : Core} (h : CoreKept (d.core k) c) : Kept d (d.setCore k c) := by
  refine ⟨rfl, rfl, fun j => ?_⟩
  by_cases hj : j = k
  · subst hj
    rw [core_setCore]
    exact h
  · rw [core_setCore_other _ _ hj]
    exact CoreKept.refl _

theorem CoreKept.cur_eq {c c' : Core} (h : CoreKept c c') : c'.cur = c.cur := by
  obtain ⟨hp, ha, -⟩ := h
  simp [Core.cur, Core.plane, hp, ha]

/-- A core has been started, as `c` had it, to issue from clock `at_` (R19). -/
def StartedAt (at_ : Nat) (c c' : Core) : Prop :=
  c'.started = true ∧ c'.startAt = at_ ∧ c'.pc = BitVec.ofNat 64 (8 * c.cur.entry 0)

theorem startCore_kept (d : Dev) (at_ k lt : Nat) : Kept d (d.startCore at_ k lt) := kept_setCore d ⟨rfl, rfl, rfl⟩

/-- A started core is started, and no start of another core changes that. -/
theorem startCore_started {d0 d : Dev} (at_ k lt : Nat) (hd : Kept d0 d) (j : Nat)
    (h : j = k ∨ StartedAt at_ (d0.core j) (d.core j)) : StartedAt at_ (d0.core j) ((d.startCore at_ k lt).core j) := by
  by_cases hj : j = k
  · subst hj
    rw [Dev.startCore, core_setCore]
    exact ⟨rfl, rfl, by rw [(hd.core j).cur_eq]⟩
  · rw [Dev.startCore, core_setCore_other _ _ hj]
    exact h.resolve_left hj

/-- The quads of a region as a team finds them at its start. -/
def restartQuads (d : Dev) (qs : List Nat) : Dev :=
  qs.foldl (fun d q => (d.setQuad q (d.quad q).restart).dropLeases fun l => l.quad == q) d

theorem restartQuads_eq (d : Dev) (qs : List Nat) : ∃ xs ls, restartQuads d qs = { d with quads := xs, leases := ls } := by
  induction qs generalizing d with
  | nil => exact ⟨_, _, rfl⟩
  | cons q qs ih =>
    obtain ⟨xs, ls, h⟩ := ih ((d.setQuad q (d.quad q).restart).dropLeases fun l => l.quad == q)
    exact ⟨xs, ls, h⟩

theorem startTeam_eq {d : Dev} (at_ g : Nat) {t : Team} (ht : Tab.get? d.teams g = some t) :
    ∃ lt, d.startTeam at_ g =
      (t.cores.foldl (fun d e => d.startCore at_ e.1 lt) (restartQuads d t.quads)).setTeam g { t with started := true } := by
  unfold Dev.startTeam
  simp only [ht]
  exact ⟨_, rfl⟩

@[simp] theorem teams_setTeam (d : Dev) (n : Nat) (t : Team) : (d.setTeam n t).teams = Tab.put d.teams n t := rfl

/-- A team that starts is marked so, its cores are started, and no other core is. -/
theorem startTeam_spec {d0 d : Dev} (at_ g : Nat) {t : Team} (ht : Tab.get? d.teams g = some t) (hd : Kept d0 d) :
    Kept d0 (d.startTeam at_ g) ∧ (d.startTeam at_ g).teams = Tab.put d.teams g { t with started := true } ∧
    (∀ e ∈ t.cores, StartedAt at_ (d0.core e.1) ((d.startTeam at_ g).core e.1)) ∧
    ∀ e : Nat × Nat, StartedAt at_ (d0.core e.1) (d.core e.1) → StartedAt at_ (d0.core e.1) ((d.startTeam at_ g).core e.1) := by
  obtain ⟨lt, h⟩ := startTeam_eq at_ g ht
  obtain ⟨xs, ls, hq⟩ := restartQuads_eq d t.quads
  rw [h, hq]
  obtain ⟨⟨hkept, hteams⟩, hhold, hbring⟩ := foldl_brings (f := fun d (e : Nat × Nat) => d.startCore at_ e.1 lt) (l := t.cores)
    (P := fun d' => Kept d0 d' ∧ d'.teams = d.teams) (Q := fun e d' => StartedAt at_ (d0.core e.1) (d'.core e.1))
    (fun b e _ h => ⟨h.1.trans (startCore_kept b at_ e.1 lt), h.2⟩) (fun b e _ h => startCore_started at_ e.1 lt h.1 e.1 (.inl rfl))
    (fun b e e' _ h hs => startCore_started at_ e'.1 lt h.1 e.1 (.inr hs)) (b := { d with quads := xs, leases := ls })
    ⟨⟨hd.mem, hd.ended, hd.core⟩, rfl⟩
  exact ⟨⟨hkept.mem, hkept.ended, hkept.core⟩, (teams_setTeam _ _ _).trans (by rw [hteams]), hbring, hhold⟩

/-- A team is as it was, or started. -/
def TeamStartedOr (d0 d : Dev) : Prop :=
  ∀ g t, Tab.get? d0.teams g = some t → Tab.get? d.teams g = some t ∨ Tab.get? d.teams g = some { t with started := true }

/-- A team has started with all its cores. -/
def TeamStarted (d0 : Dev) (at_ g : Nat) (d : Dev) : Prop :=
  ∀ t, Tab.get? d0.teams g = some t → Tab.get? d.teams g = some { t with started := true } ∧
    ∀ e ∈ t.cores, StartedAt at_ (d0.core e.1) (d.core e.1)

/-- Starting a team that is as it was, or started before, starts it, and unstarts no other. -/
theorem startTeam_starts {d0 d : Dev} (at_ g : Nat) {t : Team} (ht : Tab.get? d0.teams g = some t) (hk : Kept d0 d) (hs : TeamStartedOr d0 d) :
    (Kept d0 (d.startTeam at_ g) ∧ TeamStartedOr d0 (d.startTeam at_ g)) ∧ TeamStarted d0 at_ g (d.startTeam at_ g) ∧
    ∀ g', TeamStarted d0 at_ g' d → TeamStarted d0 at_ g' (d.startTeam at_ g) := by
  obtain ⟨t', ht', htt'⟩ : ∃ t', Tab.get? d.teams g = some t' ∧ (t' = t ∨ t' = { t with started := true }) := by
    rcases hs g t ht with h | h
    · exact ⟨_, h, .inl rfl⟩
    · exact ⟨_, h, .inr rfl⟩
  have hstart : ({ t' with started := true } : Team) = { t with started := true } := by rcases htt' with rfl | rfl <;> rfl
  have hcores : t'.cores = t.cores := by rcases htt' with rfl | rfl <;> rfl
  obtain ⟨hkept, hteams, hbring, hhold⟩ := startTeam_spec at_ g ht' hk
  rw [hstart] at hteams
  refine ⟨⟨hkept, fun j u hu => ?_⟩, fun u hu => ?_, fun g' h u hu => ?_⟩
  · by_cases hj : j = g
    · subst hj
      obtain rfl : t = u := Option.some.inj (ht.symm.trans hu)
      exact .inr (by rw [hteams]; exact tab_get_put _ _ _)
    · rw [hteams, tab_get_put_other _ _ hj]
      exact hs j u hu
  · obtain rfl : t = u := Option.some.inj (ht.symm.trans hu)
    exact ⟨by rw [hteams]; exact tab_get_put _ _ _, hcores ▸ hbring⟩
  · obtain ⟨h1, h2⟩ := h u hu
    refine ⟨?_, fun e he => hhold e (h2 e he)⟩
    by_cases hj : g' = g
    · subst hj
      obtain rfl : t = u := Option.some.inj (ht.symm.trans hu)
      rw [hteams]
      exact tab_get_put _ _ _
    · rw [hteams, tab_get_put_other _ _ hj]
      exact h1

theorem teamReady_some {d : Dev} {g : Nat} (h : d.teamReady g = true) : ∃ t, Tab.get? d.teams g = some t := by
  cases ht : Tab.get? d.teams g with
  | none => simp [Dev.teamReady, ht] at h
  | some t => exact ⟨t, rfl⟩

/-- TEAM_START where every team of the set is ready. -/
theorem teamStart_ready {s : State} {team : Nat} {t : Team} (ht : Tab.get? s.dev.teams team = some t)
    (h : ∀ g ∈ t.group, s.dev.teamReady g = true) :
    exec (.teamStart team) s = .next { s with dev := t.group.foldl (fun d g => d.startTeam (s.now.clock + 1) g) s.dev } := by
  rw [show exec (.teamStart team) s = execTeamStart team s from rfl, execTeamStart, run_next]
  simp only [ht, State.ctx]
  rw [if_pos (List.all_eq_true.2 h)]

theorem teamStart_waits {s : State} {team : Nat} {t : Team} (ht : Tab.get? s.dev.teams team = some t)
    (h : ∃ g ∈ t.group, s.dev.teamReady g = false) : exec (.teamStart team) s = .next s := by
  have hnot : ¬ t.group.all s.dev.teamReady = true := by
    obtain ⟨g, hg, hr⟩ := h
    exact fun hall => by simp [List.all_eq_true.1 hall g hg] at hr
  rw [show exec (.teamStart team) s = execTeamStart team s from rfl, execTeamStart, run_next]
  simp only [ht]
  rw [if_neg hnot]

/-- A set whose teams are all ready starts. -/
theorem startTeams_spec (d : Dev) (at_ : Nat) (group : List Nat) (h : ∀ g ∈ group, d.teamReady g = true) :
    Kept d (group.foldl (fun d g => d.startTeam at_ g) d) ∧
    ∀ g ∈ group, TeamStarted d at_ g (group.foldl (fun d g => d.startTeam at_ g) d) := by
  have hstep : ∀ b, ∀ g ∈ group, Kept d b ∧ TeamStartedOr d b → _ := fun b g hg hb =>
    startTeam_starts at_ g (teamReady_some (h g hg)).choose_spec hb.1 hb.2
  obtain ⟨⟨hkept, -⟩, -, hbring⟩ := foldl_brings (f := fun d g => d.startTeam at_ g) (l := group)
    (P := fun d' => Kept d d' ∧ TeamStartedOr d d') (Q := fun g d' => TeamStarted d at_ g d')
    (fun b g hg hb => (hstep b g hg hb).1) (fun b g hg hb => (hstep b g hg hb).2.1)
    (fun b g' g hg hb => (hstep b g hg hb).2.2 g') (b := d) ⟨Kept.refl d, fun _ _ ht => .inl ht⟩
  exact ⟨hkept, hbring⟩

end Sys2Proof.Proofs
end

section
/-! PROOFS. The swap of planes, the completion of a team, and asynchronous causes (R18, R25, R43, R130). -/

namespace Sys2Proof.Proofs

open Sys2Proof Sys2Proof.Machine Sys2Proof.Laws

/-! ## A team retires -/

theorem setLent_kept (d : Dev) (k h chan : Nat) (lent : Bool) : Kept d (d.setLent k h chan lent) := by
  unfold Dev.setLent
  dsimp only
  split
  · exact Kept.refl d
  · split
    · exact kept_setCore d ⟨rfl, rfl, rfl⟩
    · exact Kept.refl d

theorem setQuad_kept (d : Dev) (q : Nat) (x : Quad) : Kept d (d.setQuad q x) := ⟨rfl, rfl, fun _ => CoreKept.refl _⟩

theorem returnEvent_kept (d : Dev) (n : Network) : Kept d (d.returnEvent n) := by
  unfold Dev.returnEvent
  split
  · exact setLent_kept _ _ _ _ _
  · exact Kept.refl d

theorem unload_kept (d : Dev) (q : Nat) : Kept d (d.unload q) := by
  unfold Dev.unload
  split
  · exact Kept.refl d
  · next n _ =>
    refine ((returnEvent_kept d n).trans (kept_foldl (fun d b => ?_) n.blocks _)).trans (setQuad_kept _ _ _)
    split
    · exact setQuad_kept _ _ _
    · exact Kept.refl d

theorem retireTeam_kept (d : Dev) (team : Nat) : Kept d (d.retireTeam team) := by
  unfold Dev.retireTeam
  split
  · exact Kept.refl d
  · next t _ =>
    dsimp only
    split
    · exact Kept.refl d
    · have h := kept_foldl (f := fun (d : Dev) q => if ((d.quad q).net).any fun (n : Network) => n.team == team then d.unload q else d)
        (fun d q => by
          split
          · exact unload_kept d q
          · exact Kept.refl d) t.quads d
      exact ⟨h.mem, h.ended, h.core⟩

/-- TEAM_COMPLETION of a team that is done. -/
theorem teamCompletion_done {s : State} {team : Nat} {t : Team} (ht : Tab.get? s.dev.teams team = some t) (h : s.dev.teamDone team t = true) :
    exec (.teamCompletion team) s = .next { s with
      dev := ((s.dev.setTeam team { t with finished := true }).endNode t.launch t.node 0 0).retireTeam team } := by
  rw [show exec (.teamCompletion team) s = execTeamCompletion team s from rfl, execTeamCompletion, run_next]
  simp only [ht, h, if_true]

theorem teamCompletion_waits {s : State} {team : Nat} {t : Team} (ht : Tab.get? s.dev.teams team = some t)
    (h : s.dev.teamDone team t = false) : exec (.teamCompletion team) s = .next s := by
  rw [show exec (.teamCompletion team) s = execTeamCompletion team s from rfl, execTeamCompletion, run_next]
  simp only [ht, h]
  rfl

/-- A run that has ended well is the last of those that NODE_FINISH has still to treat. -/
theorem endNode_well (d : Dev) (l n cause : Nat) : d.endNode l n 0 cause = { d with ended := d.ended ++ [(l, n, 0, cause)] } := by
  unfold Dev.endNode
  cases Tab.get? d.launches l with
  | none => rfl
  | some x => rfl

/-! ## Planes swap -/

theorem mem_sortBy {α : Type} (before : α → α → Bool) (y : α) (l : List α) : y ∈ sortBy before l ↔ y ∈ l := by
  induction l with
  | nil => rfl
  | cons x l ih => rw [sortBy, mem_insertBy, ih, List.mem_cons]

/-- The element that comes before every other one is sorted first. -/
theorem sortBy_first {α : Type} {before : α → α → Bool} {x : α} {l : List α} (hx : x ∈ l)
    (hlt : ∀ e ∈ l, e ≠ x → before x e = true)
    (hge : ∀ e ∈ l, before e x = false) : ∃ r, sortBy before l = x :: r := by
  induction l with
  | nil => simp at hx
  | cons y l ih =>
    rw [sortBy]
    by_cases hl : x ∈ l
    · obtain ⟨r, hr⟩ := ih hl (fun e he => hlt e (List.mem_cons_of_mem _ he)) fun e he => hge e (List.mem_cons_of_mem _ he)
      rw [hr, insertBy]
      by_cases hy : y = x
      · subst hy
        exact ⟨_, if_neg (by simp [hge])⟩
      · exact ⟨_, if_pos (hlt y List.mem_cons_self hy)⟩
    · obtain rfl : x = y := by simpa [hl] using hx
      cases hs : sortBy before l with
      | nil => exact ⟨[], rfl⟩
      | cons z r =>
        have hz : z ∈ l := (mem_sortBy before z l).1 (hs ▸ List.mem_cons_self)
        exact ⟨z :: r, by rw [insertBy, if_neg (by simp [hge z (List.mem_cons_of_mem _ hz)])]⟩

theorem mem_put {α : Type} {t : Tab α} {k : Nat} {x : α} {e : Nat × α} (h : e ∈ Tab.put t k x) : e = (k, x) ∨ e ∈ t := by
  induction t with
  | nil => exact .inl (by simpa [Tab.put] using h)
  | cons f t ih =>
    obtain ⟨k', y⟩ := f
    unfold Tab.put at h
    split at h
    · rcases List.mem_cons.1 h with rfl | h
      · exact .inr List.mem_cons_self
      · exact (ih h).imp id (List.mem_cons_of_mem _)
    · split at h
      · exact (List.mem_cons.1 h).imp id (List.mem_cons_of_mem _)
      · exact List.mem_cons.1 h

/-- The ACTIVE plane of a core whose plane has just been set. -/
theorem cur_of_put {c : Core} {ps : Tab Plane} {n : Nat} {p : Plane} (ha : c.active = some n) (hp : c.planes = Tab.put ps n p) : c.cur = p := by
  rw [cur_of_active ha, Core.plane, hp]
  exact tab_getD_put _ _ _ _

/-- A core with no plane ACTIVE, its registers as R75 has them. -/
def cleared (c : Core) : Core := { Core.fresh with planes := c.planes, nextTag := c.nextTag, ltime := c.ltime }

/-- A core with a loaded plane made ACTIVE. -/
def activated (c : Core) (n : Nat) (p : Plane) (now : Now) : Core :=
  { (cleared c).setPlane n { p with state := .active } with active := some n, activeSince := now.clock }

/-- The loaded planes of a core, the oldest first. -/
def loadedPlanes (c : Core) : Tab Plane :=
  sortBy (fun (a b : Nat × Plane) => decide (a.2.order < b.2.order)) (c.planes.filter fun e => e.2.state == .loaded)

theorem selectPlane_none {d : Dev} (now : Now) {k : Nat} (h : loadedPlanes (d.core k) = []) :
    d.selectPlane now k = d.setCore k (cleared (d.core k)) := by
  unfold loadedPlanes at h
  simp only [Dev.selectPlane, h]
  rfl

theorem selectPlane_some {d : Dev} (now : Now) {k n : Nat} {p : Plane} {r : Tab Plane} (h : loadedPlanes (d.core k) = (n, p) :: r) :
    d.selectPlane now k = d.setCore k (activated (d.core k) n p now) := by
  unfold loadedPlanes at h
  simp only [Dev.selectPlane, h]
  rfl

theorem mem_loadedPlanes {c : Core} {e : Nat × Plane} (h : e ∈ loadedPlanes c) : e ∈ c.planes ∧ e.2.state = .loaded := by
  simpa using List.mem_filter.1 ((mem_sortBy _ _ _).1 h)

/-- The loaded plane that is older than every other is the first. -/
theorem loadedPlanes_oldest {c : Core} {n : Nat} {p : Plane} (hp : (n, p) ∈ c.planes) (hst : p.state = .loaded)
    (h : ∀ e ∈ c.planes, e ≠ (n, p) → e.2.state = .loaded → p.order < e.2.order) : ∃ r, loadedPlanes c = (n, p) :: r := by
  refine sortBy_first (List.mem_filter.2 ⟨hp, by simp [hst]⟩) (fun e he hne => ?_) fun e he => ?_
  · obtain ⟨hmem, hl⟩ := List.mem_filter.1 he
    exact decide_eq_true (h e hmem hne (by simpa using hl))
  · obtain ⟨hmem, hl⟩ := List.mem_filter.1 he
    refine decide_eq_false ?_
    by_cases hne : e = (n, p)
    · simp [hne]
    · exact Nat.not_lt.2 (h e hmem hne (by simpa using hl)).le

theorem cur_activated (c : Core) (n : Nat) (p : Plane) (now : Now) : (activated c n p now).cur = { p with state := .active } :=
  cur_of_put rfl rfl

/-- PLANE_SWAP of a core with no plane ACTIVE: the oldest loaded one becomes so. -/
theorem planeSwap_selects {s : State} {k n : Nat} {p : Plane} (hact : (s.dev.core k).active = none) (hp : (n, p) ∈ (s.dev.core k).planes)
    (hst : p.state = .loaded) (hold : ∀ e ∈ (s.dev.core k).planes, e ≠ (n, p) → e.2.state = .loaded → p.order < e.2.order) :
    exec (.planeSwap k) s = .next { s with dev := s.dev.setCore k (activated (s.dev.core k) n p s.now) } := by
  obtain ⟨r, hr⟩ := loadedPlanes_oldest hp hst hold
  have hany : ((s.dev.core k).planes.any fun e => e.2.state == .loaded) = true := List.any_eq_true.2 ⟨(n, p), hp, by simp [hst]⟩
  have hdue : s.dev.swapDue k = true := by simp [Dev.swapDue, hact, hany]
  rw [show exec (.planeSwap k) s = execPlaneSwap k s from rfl, execPlaneSwap, run_next]
  simp only [hdue, hact]
  rw [if_neg (by decide), selectPlane_some _ hr]
  rfl

/-! A plane drains. -/

theorem emit_kept (d : Dev) (world : Nat) (counts : Counts) : Kept d (d.emit world counts) := ⟨rfl, rfl, fun _ => CoreKept.refl _⟩

theorem count_kept (d : Dev) (w i n : Nat) : Kept d (d.count w i n) := by
  obtain ⟨ws, h⟩ := count_eq d w i n
  rw [h]
  exact ⟨rfl, rfl, fun _ => CoreKept.refl _⟩

theorem closeStreams_kept (d : Dev) (k : Nat) : Kept d (d.closeStreams k) := ⟨rfl, rfl, fun _ => CoreKept.refl _⟩

theorem closeRendezvous_kept (d : Dev) (k : Nat) : Kept d (d.closeRendezvous k) :=
  (kept_foldl (fun d _ => setQuad_kept d _ _) _ d).trans (setQuad_kept _ _ _)

/-- A plane that leaves ACTIVE is DRAINING, with its next generation, and its core issues no more. -/
theorem drainPlane_spec {d : Dev} (now : Now) {k n : Nat} (hact : (d.core k).active = some n) :
    (d.drainPlane now k n).mem = d.mem ∧ ((d.drainPlane now k n).core k).started = false ∧
    ((d.drainPlane now k n).core k).cur = { (d.core k).plane n with state := .draining, gen := ((d.core k).plane n).gen + 1 } := by
  unfold Dev.drainPlane
  dsimp only
  have h1 : Kept d (if (d.core k).counts.used then d.emit ((d.core k).plane n).world (d.core k).counts else d) := by
    split
    · exact emit_kept d _ _
    · exact Kept.refl d
  have h2 := (h1.trans (count_kept _ ((d.core k).plane n).world 0 (now.clock - (d.core k).activeSince))).trans (closeStreams_kept _ k)
  generalize Dev.closeStreams _ k = d2 at h2 ⊢
  have h3 : Kept d2 (if ((d2.quad (quadOfCore k)).rendezvous).any fun r => r.1 == k then d2.closeRendezvous k else d2) := by
    split
    · exact closeRendezvous_kept d2 k
    · exact Kept.refl d2
  have h4 := h2.trans h3
  generalize (if ((d2.quad (quadOfCore k)).rendezvous).any fun r => r.1 == k then d2.closeRendezvous k else d2) = d3 at h4 ⊢
  refine ⟨h4.mem, by rw [core_setCore], ?_⟩
  rw [core_setCore]
  exact cur_of_put ((h4.core k).2.1.trans hact) rfl

theorem planeSwap_drains {s : State} {k n : Nat} {p : Plane} (hact : (s.dev.core k).active = some n) (hp : (s.dev.core k).plane n = p)
    (hst : p.state = .active) (hstarted : (s.dev.core k).started = true) (hidle : s.dev.idle k = true) :
    exec (.planeSwap k) s = .next { s with dev := s.dev.drainPlane s.now k n } := by
  have hdue : s.dev.swapDue k = true := by simp [Dev.swapDue, hact, hp, hst, hstarted, hidle]
  rw [show exec (.planeSwap k) s = execPlaneSwap k s from rfl, execPlaneSwap, run_next]
  simp only [hdue, hact, hp, hst]
  rfl

theorem planeSwap_busy {s : State} {k n : Nat} (hact : (s.dev.core k).active = some n) (hst : ((s.dev.core k).plane n).state = .active)
    (hidle : s.dev.idle k = false) : exec (.planeSwap k) s = .next s := by
  have hdue : s.dev.swapDue k = false := by simp [Dev.swapDue, hact, hst, hidle]
  rw [show exec (.planeSwap k) s = execPlaneSwap k s from rfl, execPlaneSwap, run_next]
  simp only [hdue]
  rfl

/-! A drained plane is freed. -/

theorem setLatch_kept (d : Dev) (k : Nat) : Kept d (d.setLatch k) := kept_setCore d ⟨rfl, rfl, rfl⟩

theorem latchOf_kept (d : Dev) (k team : Nat) : Kept d (d.latchOf k team) := by
  unfold Dev.latchOf
  split
  · exact setLatch_kept d k
  · exact Kept.refl d

theorem fireRing_kept (d : Dev) (world tid was is : Nat) : Kept d (d.fireRing world tid was is) :=
  kept_foldl (f := Dev.fire) (fun _ _ => ⟨rfl, rfl, fun _ => CoreKept.refl _⟩) _ d

theorem setChan_kept (d : Dev) (i : Nat) (ch : Chan) : Kept d (d.setChan i ch) := ⟨rfl, rfl, fun _ => CoreKept.refl _⟩

/-- Counts that land at the two ends of a channel set latches and fire triggers. -/
theorem landCounts_kept (d : Dev) (ch : Chan) (team up back : Nat) :
    let d' := if up = 0 then d else (d.latchOf ch.cons team).fireRing ch.world ch.tid ch.filled (ch.filled + up)
    Kept d (if back = 0 then d' else d'.latchOf ch.prod team) := by
  have hup : Kept d (if up = 0 then d else (d.latchOf ch.cons team).fireRing ch.world ch.tid ch.filled (ch.filled + up)) := by
    split
    · exact Kept.refl d
    · exact (latchOf_kept d _ _).trans (fireRing_kept _ _ _ _ _)
  refine hup.trans ?_
  generalize (if up = 0 then d else (d.latchOf ch.cons team).fireRing ch.world ch.tid ch.filled (ch.filled + up)) = d'
  split
  · exact Kept.refl _
  · exact latchOf_kept _ _ _

theorem drainRoutes_kept (d : Dev) (k team : Nat) : Kept d (d.drainRoutes k team) := by
  refine kept_foldl (fun d e => ?_) d.chans d
  obtain ⟨i, ch⟩ := e
  dsimp only
  split
  · exact Kept.refl d
  · exact (setChan_kept d i _).trans (landCounts_kept _ ch team _ _)

/-- The core whose plane `n` is FREE again, its generation kept. -/
def freedPlane (c : Core) (n : Nat) : Core := c.setPlane n { Plane.empty with gen := (c.plane n).gen }

/-- The next plane of a core whose plane `n` has just become free is another one. -/
theorem selectPlane_freed {d : Dev} (now : Now) {k n : Nat} {c : Core} (hd : d.core k = freedPlane c n)
    (hn : ∀ e ∈ c.planes, e.1 = n → e.2.state ≠ .loaded) :
    ((d.selectPlane now k).core k).plane n = { Plane.empty with gen := (c.plane n).gen } ∧
      ((d.selectPlane now k).core k).active ≠ some n ∧ (d.selectPlane now k).mem = d.mem := by
  have hfree : (d.core k).plane n = { Plane.empty with gen := (c.plane n).gen } := by
    rw [hd]
    exact tab_getD_put _ _ _ _
  cases hl : loadedPlanes (d.core k) with
  | nil =>
    rw [selectPlane_none now hl, core_setCore]
    exact ⟨hfree, by simp [cleared, Core.fresh], rfl⟩
  | cons e r =>
    obtain ⟨m, p⟩ := e
    obtain ⟨hmem, hst⟩ := mem_loadedPlanes (hl ▸ List.mem_cons_self)
    have hm : m ≠ n := by
      rintro rfl
      rw [hd] at hmem
      rcases mem_put hmem with h | h
      · rw [(Prod.mk.inj h).2] at hst
        exact absurd hst (by simp [Plane.empty])
      · exact hn _ h rfl hst
    rw [selectPlane_some now hl, core_setCore]
    refine ⟨?_, fun h => hm (Option.some.inj h), rfl⟩
    rw [← hfree]
    exact congrArg (Option.getD · Plane.empty) (tab_get_put_other (d.core k).planes { p with state := .active } (Ne.symm hm))

/-- PLANE_SWAP of a core whose plane has drained. -/
theorem planeSwap_frees {s : State} {k n : Nat} {p : Plane} (hact : (s.dev.core k).active = some n) (hp : (s.dev.core k).plane n = p)
    (hst : p.state = .draining) (hstage : (s.dev.core k).stage = .none) :
    let d := s.dev.drainRoutes k p.team
    exec (.planeSwap k) s = .next { s with
      dev := ((d.setCore k ((d.core k).setPlane n { Plane.empty with gen := p.gen })).selectPlane s.now k).retireTeam p.team } := by
  have hdue : s.dev.swapDue k = true := by simp [Dev.swapDue, hact, hp, hst, hstage]
  rw [show exec (.planeSwap k) s = execPlaneSwap k s from rfl, execPlaneSwap, run_next]
  simp only [hdue, hact, hp, hst]
  rfl

/-! ## Asynchronous causes (R130) -/

/-- The cause that is taken first is of the lowest code, and leaves the list. -/
theorem firstCause_spec {as : List AsyncCause} (h : as ≠ []) :
    ∃ a rest, firstCause as = some (a, rest) ∧ a ∈ as ∧ (∀ b ∈ as, a.cause ≤ b.cause) ∧ rest.length + 1 = as.length := by
  induction as with
  | nil => exact absurd rfl h
  | cons x as ih =>
    by_cases has : as = []
    · subst has
      exact ⟨x, [], rfl, List.mem_cons_self, by simp, rfl⟩
    · obtain ⟨b, rest, hb, hmem, hmin, -⟩ := ih has
      by_cases hlt : b.cause < x.cause
      · refine ⟨b, x :: as.erase b, by simp [firstCause, hb, hlt], List.mem_cons_of_mem _ hmem, fun e he => ?_, ?_⟩
        · rcases List.mem_cons.1 he with rfl | he
          · exact hlt.le
          · exact hmin e he
        · have := List.length_erase_of_mem hmem
          have := List.length_pos_of_mem hmem
          simp only [List.length_cons]
          omega
      · refine ⟨x, as, by simp [firstCause, hb, hlt], List.mem_cons_self, fun e he => ?_, rfl⟩
        rcases List.mem_cons.1 he with rfl | he
        · exact le_refl _
        · exact (Nat.not_lt.1 hlt).trans (hmin e he)

/-- A stall that is given up takes back what the core has sent, and leaves the rest of the core. -/
theorem abandon_spec (d : Dev) (k : Nat) :
    (d.abandon k).mem = d.mem ∧
      ∃ ar bx ct, (d.abandon k).core k = { d.core k with arrivals := ar, barx := bx, counts := ct } := by
  unfold Dev.abandon
  dsimp only
  split
  · split
    · exact ⟨rfl, _, _, _, core_setCore _ _ _⟩
    · exact ⟨rfl, _, _, _, rfl⟩
  · split
    · exact ⟨rfl, _, _, _, rfl⟩
    · exact ⟨rfl, _, _, _, rfl⟩
  · split
    · exact ⟨rfl, _, _, _, core_setCore _ _ _⟩
    · exact ⟨rfl, _, _, _, rfl⟩
  · exact ⟨rfl, _, _, _, rfl⟩

/-- The core's device with the pending causes of a core set. -/
def withAsync (d : Dev) (k : Nat) (rest : List AsyncCause) : Dev := d.setCore k { d.core k with async := rest }

/-- What a pending cause does: a halted core tells the host, one in its handler waits, and another takes a trap. -/
def asyncTaken (d : Dev) (now : Now) (k : Nat) (a : AsyncCause) (rest : List AsyncCause) : Dev :=
  if (d.core k).halted = true then (withAsync d k rest).trapEvent now k a.cause a.info (d.core k).trapPc
  else if (!(d.core k).started || (d.core k).inHandler) = true then d
  else (withAsync (d.abandon k) k rest).takeTrap now k a.cause a.info (d.core k).pc

theorem asyncTrap_eq {s : State} {k : Nat} {a : AsyncCause} {rest : List AsyncCause} (h : firstCause (s.dev.core k).async = some (a, rest)) :
    exec (.asyncTrapTaken k) s = .next { s with dev := asyncTaken s.dev s.now k a rest } := by
  rw [show exec (.asyncTrapTaken k) s = execAsyncTrapTaken k s from rfl, execAsyncTrapTaken, run_next]
  simp only [h]
  rfl

/-- A core that enters its handler (R131). -/
def handling (c : Core) (cause : Nat) (info pc : Word) : Core :=
  { c.setTrap cause info pc with inHandler := true, pc := BitVec.ofNat 64 (8 * c.cur.handler) }

/-- A trap that the handler takes (R131). -/
theorem takeTrapAt_handled {d : Dev} (now : Now) {k cause : Nat} (info pc this : Word) (hh : (d.core k).inHandler = false)
    (hc : cause ≠ Cause.access) (hx : (d.core k).cur.handler ≠ 0xFFFF) :
    d.takeTrapAt now k cause info pc this =
      d.setCore k (handling (d.core k) cause info pc) := by
  unfold Dev.takeTrapAt
  dsimp only
  rw [if_neg (by simp [hh]), if_neg (by simp [hc, hx]), handling]

/-- A pending cause enters the handler. -/
theorem asyncTaken_enters {d : Dev} (now : Now) {k : Nat} {a : AsyncCause} (rest : List AsyncCause) (hhalt : (d.core k).halted = false)
    (hstart : (d.core k).started = true) (hh : (d.core k).inHandler = false) (hc : a.cause ≠ 0x0C) (hx : (d.core k).cur.handler ≠ 0xFFFF) :
    (asyncTaken d now k a rest).mem = d.mem ∧ ∃ ar bx ct, (asyncTaken d now k a rest).core k =
      handling { d.core k with arrivals := ar, barx := bx, counts := ct, async := rest } a.cause a.info (d.core k).pc := by
  obtain ⟨hmem, ar, bx, ct, hcore⟩ := abandon_spec d k
  have hcore' : (withAsync (d.abandon k) k rest).core k = { d.core k with arrivals := ar, barx := bx, counts := ct, async := rest } := by
    rw [withAsync, core_setCore, hcore]
  have htaken : asyncTaken d now k a rest = (withAsync (d.abandon k) k rest).setCore k
      (handling ((withAsync (d.abandon k) k rest).core k) a.cause a.info (d.core k).pc) := by
    rw [asyncTaken, if_neg (by simp [hhalt]), if_neg (by simp [hstart, hh])]
    exact takeTrapAt_handled _ _ _ _ (by rw [hcore']; exact hh) hc (by rw [hcore']; exact hx)
  rw [htaken]
  exact ⟨hmem, ar, bx, ct, by rw [core_setCore, hcore']⟩

@[simp] theorem mem_trapEvent (d : Dev) (now : Now) (k cause : Nat) (info pc : Word) : (d.trapEvent now k cause info pc).mem = d.mem := by
  rw [Dev.trapEvent, mem_event]

end Sys2Proof.Proofs
end

section
/-! PROOFS. The deadlock survey, and what O55 says of teams (R38 to R41). -/

namespace Sys2Proof.Proofs

open Sys2Proof Sys2Proof.Machine Sys2Proof.Laws

/-! ## The survey -/

/-- Bit 0 of the flags of record `i`: open where the party's release may depend on a node that is not dispatched. -/
def surveyFlag (undispatched : Bool) (seq i : Nat) : Nat := if undispatched then b2n (freeBit seq (100 + i)) else 0

/-- The records of a survey, each with the die that writes it. -/
def surveyRecs (pkg clock : Nat) (flag : Nat → Nat) (ps : List WaitingParty) : List (Nat × Bytes) :=
  ps.zipIdx.map fun (p, i) => (p.die, surveyRecord pkg clock i ps.length (flag i) p)

/-- One die writes its records to its buffer. -/
def writeSurvey (recs : List (Nat × Bytes)) (d : Dev) (i : Nat) : Dev :=
  match (d.die i).survey with
  | none => d
  | some (pa, size) => { d with mem := SMap.setRun d.mem pa (((recs.filter fun r => r.1 == i).take size).flatMap Prod.snd) }

theorem surveyFlag_le (u : Bool) (seq i : Nat) : surveyFlag u seq i ≤ 1 := by
  unfold surveyFlag b2n
  split
  · split <;> omega
  · omega

/-- DEADLOCK_SURVEY where one is due. -/
theorem deadlockSurvey_eq {s : State} {team : Nat} {t : Team} {c : Nat} (ht : Tab.get? s.dev.teams team = some t)
    (hstuck : s.dev.stuck team t = true) (hnew : t.surveyed = false) (hc : t.quietSince = some c) (hdue : c + 4096 ≤ s.now.clock) :
    let ps := s.dev.waiting team t
    let recs := surveyRecs s.dev.pkgId s.now.clock (surveyFlag (s.dev.undispatched t) s.seq) ps
    ∃ die payload, exec (.deadlockSurvey team) s = .next { s with
      dev := ((((ps.map WaitingParty.die).eraseDups).foldl (writeSurvey recs) s.dev).setTeam team { t with surveyed := true }).event s.now 3
        t.world die payload } := by
  have hd : surveyDue s.now.clock t = true := by simp [surveyDue, hnew, hc, hdue]
  rw [show exec (.deadlockSurvey team) s = execDeadlockSurvey team s from rfl, execDeadlockSurvey, run_next]
  simp only [ht, State.ctx, hd, hstuck, Bool.and_self, Bool.not_true, Bool.false_eq_true, if_false]
  exact ⟨_, _, rfl⟩

theorem writeSurvey_none {d : Dev} (recs : List (Nat × Bytes)) {i : Nat} (h : (d.die i).survey = none) : writeSurvey recs d i = d := by
  simp only [writeSurvey, h]

/-- Dies without a buffer write nothing. -/
theorem writeSurvey_nowhere {recs : List (Nat × Bytes)} {d : Dev} {dies : List Nat} (h : ∀ i ∈ dies, (d.die i).survey = none) :
    dies.foldl (writeSurvey recs) d = d := by
  induction dies with
  | nil => rfl
  | cons i dies ih =>
    rw [List.foldl_cons, writeSurvey_none recs (h i List.mem_cons_self)]
    exact ih fun j hj => h j (List.mem_cons_of_mem _ hj)

/-- Equal elements leave one. -/
theorem eraseDups_same {x : Nat} {l : List Nat} (hne : l ≠ []) (h : ∀ y ∈ l, y = x) : l.eraseDups = [x] := by
  obtain ⟨y, l, rfl⟩ := List.exists_cons_of_ne_nil hne
  obtain rfl := h y List.mem_cons_self
  have hrest : (l.filter fun b => !b == y) = [] := by
    refine List.filter_eq_nil_iff.2 fun b hb => ?_
    simp [h b (List.mem_cons_of_mem _ hb)]
  rw [List.eraseDups_cons, hrest]
  rfl

/-- One die that writes the whole survey writes its records in order, as many as its buffer holds. -/
theorem writeSurvey_oneDie {d : Dev} {pkg clock : Nat} {flag : Nat → Nat} {ps : List WaitingParty} {die pa size : Nat}
    (hdie : ∀ p ∈ ps, p.die = die) (hbuf : (d.die die).survey = some (pa, size)) :
    (writeSurvey (surveyRecs pkg clock flag ps) d die).mem =
      SMap.setRun d.mem pa (((ps.zipIdx.map fun (p, i) => surveyRecord pkg clock i ps.length (flag i) p).take size).flatten) := by
  have hall : ((surveyRecs pkg clock flag ps).filter fun r => r.1 == die) = surveyRecs pkg clock flag ps := by
    refine List.filter_eq_self.2 fun r hr => ?_
    obtain ⟨⟨p, i⟩, hp, rfl⟩ := List.mem_map.1 hr
    simp [hdie p (List.fst_mem_of_mem_zipIdx hp)]
  have hmap : (surveyRecs pkg clock flag ps).map Prod.snd = ps.zipIdx.map fun (p, i) => surveyRecord pkg clock i ps.length (flag i) p := by
    rw [surveyRecs, List.map_map]
    rfl
  simp only [writeSurvey, hbuf, hall]
  rw [List.flatMap, List.map_take, hmap]

/-- A team that is stuck has a party that waits. -/
theorem waiting_of_stuck {d : Dev} {team : Nat} {t : Team} (h : d.stuck team t = true) : d.waiting team t ≠ [] := by
  simp only [Dev.stuck, Bool.and_eq_true, Bool.not_eq_true', List.isEmpty_eq_false_iff] at h
  exact h.2

@[simp] theorem teams_event (d : Dev) (now : Now) (kind world die : Nat) (payload : Bytes) :
    (d.event now kind world die payload).teams = d.teams := by
  obtain ⟨ws, hm, h⟩ := event_eq d now kind world die payload
  rw [h]

/-- Settles O55, part by part: the start by `startTeams_spec`, the survey by `deadlockSurvey_eq`, the swap by the lemmas about
`planeSwap`, and a pending cause by `asyncTaken_enters`. -/
theorem teamsStartSwapAndComplete : Obligations.TeamsStartSwapAndComplete := by
  unfold Obligations.TeamsStartSwapAndComplete
  refine ⟨fun s team t ht => ⟨fun hready => ?_, teamStart_waits ht, fun hdone => ?_, teamCompletion_waits ht,
    fun hstuck hnew c hc hdue => ?_⟩, fun s k n p hp => ?_, fun s k hne => ?_, fun s q line => rfl⟩
  · obtain ⟨hkept, hteams⟩ := startTeams_spec s.dev (s.now.clock + 1) t.group hready
    refine ⟨_, teamStart_ready ht hready, hkept.mem, fun g hg tg htg => ?_⟩
    obtain ⟨hteam, hcores⟩ := hteams g hg tg htg
    refine ⟨hteam, fun e he => ?_⟩
    obtain ⟨hstarted, hat, hpc⟩ := hcores e he
    exact ⟨hstarted, hat, hpc, (hkept.core e.1).2.2⟩
  · have hkept := retireTeam_kept ((s.dev.setTeam team { t with finished := true }).endNode t.launch t.node 0 0) team
    rw [endNode_well] at hkept
    refine ⟨_, teamCompletion_done ht hdone, ?_, ?_⟩
    · rw [endNode_well]; exact hkept.mem
    · rw [endNode_well]; exact hkept.ended
  · obtain ⟨die, payload, he⟩ := deadlockSurvey_eq ht hstuck hnew hc hdue
    refine ⟨_, surveyFlag (s.dev.undispatched t) s.seq, he, ?_, fun i => ⟨surveyFlag_le _ _ _, fun h => by simp [surveyFlag, h]⟩, ?_, ?_⟩
    · simp only [teams_event, teams_setTeam]
      exact tab_get_put _ _ _
    · intro die pa size hdie hbuf
      have hdies := eraseDups_same (l := (s.dev.waiting team t).map WaitingParty.die) (x := die)
        (fun h => waiting_of_stuck hstuck (List.map_eq_nil_iff.1 h)) (by simpa using hdie)
      simp only [mem_event, mem_setTeam, hdies, List.foldl_cons, List.foldl_nil]
      exact writeSurvey_oneDie hdie hbuf
    · intro hnone
      simp only [mem_event, mem_setTeam]
      rw [writeSurvey_nowhere]
      intro i hi
      obtain ⟨p, hp, rfl⟩ := List.mem_map.1 (List.mem_eraseDups.1 hi)
      exact hnone p hp
  · have hplane : (s.dev.core k).plane n = p := by rw [Core.plane, Tab.getD, hp]; rfl
    refine ⟨fun hact hst hold => ?_, fun hact hst hstarted hidle => ?_, fun hact hst hidle => ?_, fun hact hst hstage hn => ?_⟩
    · refine ⟨_, planeSwap_selects hact (tab_mem_of_get hp) hst hold, ?_⟩
      simp only [core_setCore]
      exact ⟨rfl, cur_activated _ _ _ _, rfl, rfl, rfl, rfl, rfl⟩
    · obtain ⟨hmem, hstop, hcur⟩ := drainPlane_spec s.now hact
      exact ⟨_, planeSwap_drains hact hplane hst hstarted hidle, hplane ▸ hcur, hstop, hmem⟩
    · exact planeSwap_busy hact (hplane ▸ hst) hidle
    · refine ⟨_, planeSwap_frees hact hplane hst hstage, ?_⟩
      have hroutes := drainRoutes_kept s.dev k p.team
      set d := s.dev.drainRoutes k p.team
      have hpl : (d.core k).planes = (s.dev.core k).planes := (hroutes.core k).1
      have hplane' : (d.core k).plane n = p := by rw [Core.plane, hpl]; exact hplane
      obtain ⟨hfree, hactive, hmem⟩ := selectPlane_freed (d := d.setCore k ((d.core k).setPlane n { Plane.empty with gen := p.gen }))
        s.now (c := d.core k) (n := n) (by rw [core_setCore, freedPlane, hplane']) (by rw [hpl]; exact hn)
      have hretire := retireTeam_kept ((d.setCore k ((d.core k).setPlane n { Plane.empty with gen := p.gen })).selectPlane s.now k) p.team
      obtain ⟨hps, hac, -⟩ := hretire.core k
      refine ⟨hretire.mem.trans (hmem.trans hroutes.mem), ?_, fun h => hactive (hac.symm.trans h)⟩
      rw [hplane'] at hfree
      rw [Core.plane, hps]
      exact hfree
  · obtain ⟨a, rest, hfirst, hmem, hmin, hlen⟩ := firstCause_spec hne
    refine ⟨a, hmem, hmin, fun hhalt hstart hh hx hc => ?_, fun hhalt => ?_, fun hhalt hh => ?_⟩
    · obtain ⟨hm, ar, bx, ct, hcore⟩ := asyncTaken_enters s.now rest hhalt hstart hh hc hx
      refine ⟨_, asyncTrap_eq hfirst, ?_⟩
      simp only [hcore]
      exact ⟨rfl, rfl, rfl, rfl, rfl, rfl, hlen, hm⟩
    · refine ⟨_, asyncTrap_eq hfirst, ?_⟩
      simp only [asyncTaken, hhalt, if_true, core_trapEvent, mem_trapEvent, withAsync, core_setCore]
      exact ⟨trivial, trivial, hlen, rfl⟩
    · rw [asyncTrap_eq hfirst, asyncTaken, if_neg (by simp [hhalt]), if_pos (by simp [hh])]

end Sys2Proof.Proofs
end

section
/-! PROOFS. FORK: the programs of a quad's engines start (R34, R233). -/

namespace Sys2Proof.Proofs

open Sys2Proof Sys2Proof.Machine Sys2Proof.Laws

/-! ## Latches -/

/-- Memory is kept, and of each core all but its latch. -/
def Latched (d d' : Dev) : Prop := d'.mem = d.mem ∧ ∀ j, ∃ l, d'.core j = { d.core j with latch := l }

theorem Latched.refl (d : Dev) : Latched d d := ⟨rfl, fun _ => ⟨_, rfl⟩⟩
theorem Latched.trans {a b c : Dev} (h : Latched a b) (h' : Latched b c) : Latched a c := by
  refine ⟨h'.1.trans h.1, fun j => ?_⟩
  obtain ⟨l, hl⟩ := h.2 j
  obtain ⟨l', hl'⟩ := h'.2 j
  exact ⟨l', by rw [hl', hl]⟩

theorem setLatch_latched (d : Dev) (k : Nat) : Latched d (d.setLatch k) := by
  refine ⟨rfl, fun j => ?_⟩
  by_cases hj : j = k
  · subst hj
    exact ⟨true, core_setCore _ _ _⟩
  · exact ⟨_, core_setCore_other _ _ hj⟩

theorem latchQuad_latched (d : Dev) (q : Nat) : Latched d (d.latchQuad q) :=
  foldl_related Latched.refl Latched.trans (fun d i => setLatch_latched d (4 * q + i)) _ d

theorem engine_setEngine_ne (d : Dev) (q : Nat) {e j : Nat} (g : Engine) (h : j ≠ e) : (d.setEngine q e g).engine q j = d.engine q j := by
  rw [Dev.engine, Dev.setEngine, quad_setQuad]
  exact engine_setEngine_other _ _ h

/-! ## The globals that a program starts with -/

theorem get_filter_below {w : Nat} (m : SMap w) {r n : Nat} (h : r < n) : SMap.get (m.filter fun e => decide (e.1 < n)) r = SMap.get m r := by
  induction m with
  | nil => rfl
  | cons e m ih =>
    obtain ⟨k, x⟩ := e
    by_cases hk : k < n
    · rw [List.filter_cons_of_pos (by simpa using hk)]
      simp only [SMap.get, ih]
    · rw [List.filter_cons_of_neg (by simpa using hk), ih, SMap.get, if_neg (by omega)]

theorem window_below {w : Nat} {m : SMap w} {n : Nat} (h : ∀ e ∈ m, e.1 < n) : SMap.window m 0 n = m := by
  induction m with
  | nil => rfl
  | cons e m ih =>
    obtain ⟨k, x⟩ := e
    have hk : k < n := h (k, x) List.mem_cons_self
    rw [SMap.window, if_neg (Nat.not_lt_zero k), if_pos hk, ih fun e he => h e (List.mem_cons_of_mem _ he)]
    rfl

/-- A program starts with the core's globals g1 to g15. -/
theorem get_globals (c : Core) {r : Nat} (h1 : 1 ≤ r) (h2 : r < 16) : SMap.get c.globals r = c.readG (BitVec.ofNat 6 r) := by
  have hr : (BitVec.ofNat 6 r).toNat = r := by
    rw [BitVec.toNat_ofNat]
    exact Nat.mod_eq_of_lt (by omega)
  have h0 : BitVec.ofNat 6 r ≠ 0 := fun h => by
    rw [h] at hr
    simp at hr
    omega
  have hat : c.gAt (BitVec.ofNat 6 r) = r := by
    rw [Core.gAt, hr, gPlace, if_pos h2]
  have hbelow : ∀ e ∈ c.g.filter fun e => decide (e.1 < 16), e.1 < 16 := fun e he => by simpa using (List.mem_filter.1 he).2
  rw [Core.globals, window_below hbelow, get_filter_below _ h2, Core.readG, if_neg h0, hat]

/-! ## Starting programs -/

/-- The program that core `k` starts at word `entry` of its plane. -/
def freshProg (c : Core) (k : Nat) (entry : Word) : Prog :=
  { core := k, pc := BitVec.ofNat 64 (8 * entry.toNat), g := c.globals, joined := false, ended := none, opsFault := false, wait := none }

/-- The engine on which core `k` has started a program; one whose entry lies outside the code has ended in fault. -/
def progStarted (c : Core) (k : Nat) (entry : Word) (g : Engine) : Engine :=
  if 8 ≤ entry.toNat ∧ entry.toNat < c.cur.codeWords then { g with prog := some (freshProg c k entry) }
  else { g with prog := some { freshProg c k entry with ended := some 0x01, joined := true }, fault := some (0x01, g.seq, some k) }

theorem progStarted_progStarted (c : Core) (k : Nat) (entry : Word) (g : Engine) :
    progStarted c k entry (progStarted c k entry g) = progStarted c k entry g := by
  unfold progStarted
  split <;> rfl

theorem progFault_eq {d : Dev} {q e : Nat} (code : Nat) {p : Prog} (hp : (d.engine q e).prog = some p) :
    d.progFault q e code = (d.setEngine q e { d.engine q e with
      prog := some { p with ended := some code, joined := true, wait := none },
      fault := some (code, (d.engine q e).seq, some p.core) }).latchQuad q := by
  simp only [Dev.progFault, hp]

/-- Starting one program changes its engine and the latches of the quad's cores alone. -/
theorem startProg_spec {d0 d : Dev} (k e : Nat) (entry : Word) (hd : Latched d0 d) :
    Latched d0 (d.startProg k e entry) ∧
    ∀ j, (d.startProg k e entry).engine (quadOfCore k) j =
      if j = e then progStarted (d0.core k) k entry (d.engine (quadOfCore k) e) else d.engine (quadOfCore k) j := by
  obtain ⟨l, hl⟩ := hd.2 k
  set q := quadOfCore k with hq
  have hglob : (d.core k).globals = (d0.core k).globals := by rw [hl]; rfl
  have hcode : (d.core k).cur.codeWords = (d0.core k).cur.codeWords := by rw [hl]; rfl
  have hprog : freshProg (d.core k) k entry = freshProg (d0.core k) k entry := by rw [freshProg, hglob]; rfl
  set d1 := d.setEngine q e { d.engine q e with prog := some (freshProg (d0.core k) k entry) } with hd1
  have hstart : d.startProg k e entry =
      if 8 ≤ entry.toNat ∧ entry.toNat < (d0.core k).cur.codeWords then d1 else d1.progFault q e 0x01 := by
    rw [hd1, ← hprog, ← hcode]
    rfl
  have heng : d1.engine q e = { d.engine q e with prog := some (freshProg (d0.core k) k entry) } := dev_engine_setEngine _ _ _ _
  have hd1' : Latched d0 d1 := ⟨hd.1, hd.2⟩
  rw [hstart]
  by_cases hin : 8 ≤ entry.toNat ∧ entry.toNat < (d0.core k).cur.codeWords
  · rw [if_pos hin]
    refine ⟨hd1', fun j => ?_⟩
    by_cases hj : j = e
    · subst hj
      rw [if_pos rfl, progStarted, if_pos hin, heng]
    · rw [if_neg hj, hd1, engine_setEngine_ne _ _ _ hj]
  · rw [if_neg hin, progFault_eq 0x01 (by rw [heng]), heng]
    refine ⟨hd1'.trans (Latched.trans ⟨rfl, fun _ => ⟨_, rfl⟩⟩ (latchQuad_latched _ q)), fun j => ?_⟩
    rw [engine_latchQuad]
    by_cases hj : j = e
    · subst hj
      rw [if_pos rfl, dev_engine_setEngine, progStarted, if_neg hin]
      rfl
    · rw [if_neg hj, engine_setEngine_ne _ _ _ hj, hd1, engine_setEngine_ne _ _ _ hj]

/-- Starting a list of programs. -/
theorem startProgs_spec {d0 : Dev} (k : Nat) (entry : Nat → Word) (es : List Nat) {d : Dev} (hd : Latched d0 d) :
    Latched d0 (es.foldl (fun d i => d.startProg k i (entry i)) d) ∧
    ∀ j, (es.foldl (fun d i => d.startProg k i (entry i)) d).engine (quadOfCore k) j =
      if j ∈ es then progStarted (d0.core k) k (entry j) (d.engine (quadOfCore k) j) else d.engine (quadOfCore k) j := by
  induction es generalizing d with
  | nil => exact ⟨hd, fun j => by simp⟩
  | cons i es ih =>
    obtain ⟨h1, h2⟩ := startProg_spec k i (entry i) hd
    obtain ⟨h3, h4⟩ := ih h1
    refine ⟨h3, fun j => ?_⟩
    rw [List.foldl_cons, h4, h2]
    by_cases hj : j = i
    · subst hj
      simp [progStarted_progStarted]
    · simp [hj]

/-! ## FORK -/

/-- The engines that a mask names. -/
def forkEngines (mask : BitVec 3) : List Nat := (List.range 3).filter fun e => mask.getLsbD e

theorem mem_forkEngines {mask : BitVec 3} {e : Nat} : e ∈ forkEngines mask ↔ e < 3 ∧ mask.getLsbD e = true := by
  simp [forkEngines]

section Fork

variable {s : State} {k : Nat} {a b rc : Reg} (mask : BitVec 3) (ha : s.actor = .core k)
  (hg : ∀ r : Reg, r.toNat < 16 → (s.dev.core k).pendingG r = false) (hr : ∀ r ∈ [a, b, rc], (s.dev.core k).pendingG r = false)

include hg hr in
/-- No register that FORK reads has a result in flight. -/
theorem fork_reads : ¬ ((((forkEngines mask).map fun i => [a, b, rc].getD i 0).any (s.dev.core k).pendingG ||
    (List.range 16).any fun i => (s.dev.core k).pendingG (BitVec.ofNat 6 i)) = true) := by
  have h1 : (((forkEngines mask).map fun i => [a, b, rc].getD i 0).any (s.dev.core k).pendingG) = false := by
    refine List.any_eq_false.2 fun r hr' => ?_
    obtain ⟨e, he, rfl⟩ := List.mem_map.1 hr'
    have he3 : e < [a, b, rc].length := (mem_forkEngines.1 he).1
    rw [List.getD_eq_getElem _ _ he3, hr _ (List.getElem_mem he3)]
    exact Bool.false_ne_true
  have h2 : ((List.range 16).any fun i => (s.dev.core k).pendingG (BitVec.ofNat 6 i)) = false := by
    refine List.any_eq_false.2 fun i hi => ?_
    rw [hg]
    · exact Bool.false_ne_true
    · rw [BitVec.toNat_ofNat]
      exact (Nat.mod_le _ _).trans_lt (List.mem_range.1 hi)
  rw [h1, h2]
  exact Bool.false_ne_true

include ha hg hr in
theorem fork_waits (hopen : (s.dev.quad (quadOfCore k)).rendezvous.isSome = true) :
    ∃ w, exec (.fork a b rc mask) s = .next (s.stalled k w) ∧ w.kind = 6 ∧ w.handle = 0 := by
  rw [show exec (.fork a b rc mask) s = execFork a b rc mask s from rfl, execFork, onCore_core _ ha]
  dsimp only
  rw [show ((List.range 3).filter fun i => bit mask i) = forkEngines mask from rfl, if_neg (fork_reads mask hg hr), if_pos hopen]
  exact ⟨_, rfl, rfl, rfl⟩

/-- The device once FORK has started its programs. -/
def forkedDev (d : Dev) (k : Nat) (a b rc : Reg) (mask : BitVec 3) : Dev :=
  (forkEngines mask).foldl (fun d' i => d'.startProg k i ((d.core k).readG ([a, b, rc].getD i 0))) d

include ha hg hr in
theorem fork_starts (hopen : (s.dev.quad (quadOfCore k)).rendezvous = none) :
    let d := forkedDev s.dev k a b rc mask
    exec (.fork a b rc mask) s = .next { s with
      dev := (d.setQuad (quadOfCore k) { d.quad (quadOfCore k) with rendezvous := some (k, forkEngines mask) }).retire k
        ((s.dev.core k).pc + 8) } := by
  rw [show exec (.fork a b rc mask) s = execFork a b rc mask s from rfl, execFork, onCore_core _ ha]
  dsimp only
  rw [show ((List.range 3).filter fun i => bit mask i) = forkEngines mask from rfl, if_neg (fork_reads mask hg hr), if_neg (by simp [hopen])]
  rfl

end Fork

end Sys2Proof.Proofs
end

section
/-! PROOFS. JOIN and GDONE, and what O51 says (R34, R41, R234, R236). -/

namespace Sys2Proof.Proofs

open Sys2Proof Sys2Proof.Machine Sys2Proof.Laws

/-! ## JOIN waits -/

/-- An engine of the rendezvous whose program still runs, or has operations of its own. -/
def Unjoined (g : Engine) : Prop := g.progBusy = true ∨ ∃ p, g.prog = some p ∧ p.joined = false

/-- Whether the program of an engine has reached its JOIN, if it has one. -/
def joinedHere (g : Engine) : Bool := match g.prog with | some p => p.joined | none => true

/-- Whether JOIN on core `k` has to wait. -/
def joinWaits (d : Dev) (k : Nat) : Bool :=
  decide (((d.forked k).filter fun e => joinedHere (d.engine (quadOfCore k) e)).length < (d.forked k).length) ||
    (d.forked k).any (fun e => (d.engine (quadOfCore k) e).progBusy) || (d.core k).ops.any fun (o : OpRef) => !o.done

/-- JOIN on core `k` joins an engine that is of its rendezvous `es`, or that has an operation of the core. -/
def joinOne (es : List Nat) (k : Nat) (d : Dev) (e : Nat) : Dev :=
  if es.contains e || (d.core k).ops.any (fun (o : OpRef) => o.eng == e) then (d.observeFault k e).joinEngine k e else d

/-- The device once JOIN on core `k` has joined every engine. -/
def joinedDev (d : Dev) (k : Nat) : Dev := (List.range 3).foldl (joinOne (d.forked k) k) d

/-- The rendezvous is closed, where there is one. -/
def joinedClosed (d : Dev) (k : Nat) : Dev := if (d.forked k).isEmpty then joinedDev d k else (joinedDev d k).closeRendezvous k

theorem joinCore_waits {d : Dev} {k : Nat} (h : joinWaits d k = true) :
    d.joinCore k = .stall (if (d.forked k).isEmpty then waitFor 6 0 1 1 else d.memberWait (quadOfCore k) (some k)) := if_pos h

theorem joinCore_done {d : Dev} {k : Nat} (h : joinWaits d k = false) (hf : d.joinFaults k = []) :
    d.joinCore k = .done (joinedClosed d k) := by
  have hif : d.joinCore k = _ := if_neg (by exact ne_true_of_eq_false h)
  rw [hif, hf]
  rfl

theorem joinCore_fault {d : Dev} {k e : Nat} {es : List Nat} (h : joinWaits d k = false) (hf : d.joinFaults k = e :: es) :
    d.joinCore k = .trapNext (joinedClosed d k) Cause.engineFault (d.engine (quadOfCore k) e).status := by
  have hif : d.joinCore k = _ := if_neg (by exact ne_true_of_eq_false h)
  rw [hif, hf]
  rfl

theorem joinedHere_false {g : Engine} : joinedHere g = false ↔ ∃ p, g.prog = some p ∧ p.joined = false := by
  unfold joinedHere
  cases g.prog <;> simp

theorem joinWaits_of {d : Dev} {k : Nat}
    (h : (∃ o ∈ (d.core k).ops, o.done = false) ∨ ∃ e ∈ d.forked k, Unjoined (d.engine (quadOfCore k) e)) :
    joinWaits d k = true := by
  simp only [joinWaits, Bool.or_eq_true]
  rcases h with ⟨o, ho, hd⟩ | ⟨e, he, hbusy | hp⟩
  · exact .inr (List.any_eq_true.2 ⟨o, ho, by simp [hd]⟩)
  · exact .inl (.inr (List.any_eq_true.2 ⟨e, he, hbusy⟩))
  · refine .inl (.inl (decide_eq_true (List.length_filter_lt_length_iff_exists.2 ⟨e, he, ?_⟩)))
    rw [joinedHere_false.2 hp]
    exact Bool.false_ne_true

theorem joinWaits_false {d : Dev} {k : Nat} (hops : ∀ o ∈ (d.core k).ops, o.done = true)
    (hes : ∀ e ∈ d.forked k, (d.engine (quadOfCore k) e).progBusy = false ∧
      ∀ p, (d.engine (quadOfCore k) e).prog = some p → p.joined = true) :
    joinWaits d k = false := by
  have h1 : ((d.forked k).filter fun e => joinedHere (d.engine (quadOfCore k) e)) = d.forked k := by
    refine List.filter_eq_self.2 fun e he => ?_
    by_contra hne
    obtain ⟨p, hp, hj⟩ := joinedHere_false.1 (Bool.eq_false_iff.2 hne)
    rw [(hes e he).2 p hp] at hj
    exact absurd hj (by decide)
  have h2 : ((d.forked k).any fun e => (d.engine (quadOfCore k) e).progBusy) = false :=
    List.any_eq_false.2 fun e he => by simp [(hes e he).1]
  have h3 : ((d.core k).ops.any fun (o : OpRef) => !o.done) = false := List.any_eq_false.2 fun o ho => by simp [hops o ho]
  rw [joinWaits, h1, h2, h3]
  simp

/-- What a core waits on at its JOIN: the members of its rendezvous. -/
theorem joinWait_spec (d : Dev) (k : Nat) :
    ∃ w, (if (d.forked k).isEmpty then waitFor 6 0 1 1 else d.memberWait (quadOfCore k) (some k)) = some w ∧ w.kind = 6 ∧ w.handle = 0 ∧
      w.needed = 1 + bitMask ((d.forked k).map (· + 1)) := by
  by_cases hes : d.forked k = []
  · rw [hes]
    exact ⟨_, rfl, rfl, rfl, rfl⟩
  · have hne : ¬ (d.forked k).isEmpty = true := by simp [hes]
    rw [if_neg hne]
    refine ⟨_, rfl, rfl, rfl, ?_⟩
    unfold Dev.forked at hes
    unfold Dev.memberMasks Dev.forked
    split at hes
    · next k' es hr =>
      have hk : k' = k := by
        by_contra hk
        exact hes (if_neg hk)
      simp only [hr, hk, if_true]
    · exact absurd rfl hes

theorem join_core {s : State} {k : Nat} (ha : s.actor = .core k) :
    exec .join s = .next { s with dev := s.dev.finish s.now k (s.dev.joinCore k) } := by
  rw [show exec .join s = execJoin s from rfl, execJoin, run_next]
  simp [State.ctx, ha]

theorem join_waits {s : State} {k : Nat} (ha : s.actor = .core k) (h : joinWaits s.dev k = true) :
    ∃ w, exec .join s = .next (s.stalled k w) ∧ w.kind = 6 ∧ w.handle = 0 ∧ w.needed = 1 + bitMask ((s.dev.forked k).map (· + 1)) := by
  obtain ⟨w, hw, hkind, hhandle, hneeded⟩ := joinWait_spec s.dev k
  refine ⟨w, ?_, hkind, hhandle, hneeded⟩
  rw [join_core ha, joinCore_waits h, hw]
  rfl

/-! ## JOIN joins -/

/-- What joining an engine leaves: memory, the rendezvous, and of the core all but its latch, its time and its operations. -/
def JoinKept (k : Nat) (d d' : Dev) : Prop :=
  d'.mem = d.mem ∧ (d'.quad (quadOfCore k)).rendezvous = (d.quad (quadOfCore k)).rendezvous ∧
    ∃ l t os, d'.core k = { d.core k with latch := l, ltime := t, ops := os } ∧ ∀ o ∈ os, o ∈ (d.core k).ops

theorem JoinKept.refl (k : Nat) (d : Dev) : JoinKept k d d := ⟨rfl, rfl, _, _, _, rfl, fun _ h => h⟩
theorem JoinKept.trans {k : Nat} {a b c : Dev} (h : JoinKept k a b) (h' : JoinKept k b c) : JoinKept k a c := by
  obtain ⟨hm, hr, l, t, os, hc, ho⟩ := h
  obtain ⟨hm', hr', l', t', os', hc', ho'⟩ := h'
  rw [hc] at hc' ho'
  exact ⟨hm'.trans hm, hr'.trans hr, l', t', os', hc', fun o h => ho o (ho' o h)⟩

/-- Some of the core's operations leave it. -/
theorem joinKept_filter (d : Dev) (k : Nat) (keep : OpRef → Bool) :
    JoinKept k d (d.setCore k { d.core k with ops := (d.core k).ops.filter keep }) :=
  ⟨rfl, rfl, _, _, _, core_setCore _ _ _, fun _ h => (List.mem_filter.1 h).1⟩

theorem joinKept_setEngine (d : Dev) (k e : Nat) (g : Engine) : JoinKept k d (d.setEngine (quadOfCore k) e g) :=
  ⟨rfl, by rw [Dev.setEngine, quad_setQuad]; rfl, _, _, _, rfl, fun _ h => h⟩

theorem joinKept_latchQuad (d : Dev) (k : Nat) : JoinKept k d (d.latchQuad (quadOfCore k)) := by
  obtain ⟨hm, hc⟩ := latchQuad_latched d (quadOfCore k)
  obtain ⟨l, hl⟩ := hc k
  exact ⟨hm, by rw [quad_latchQuad], l, _, _, hl, fun _ h => h⟩

theorem dropLines_eq (d : Dev) (q : Nat) (lines : List Nat) : ∃ ls, d.dropLines q lines = { d with leases := ls } := by
  unfold Dev.dropLines
  split
  · exact ⟨_, rfl⟩
  · exact ⟨_, rfl⟩

theorem joinKept_joinAt (d : Dev) (k t : Nat) (lines : List Nat) : JoinKept k d (d.joinAt k t lines) := by
  obtain ⟨ls, h⟩ := dropLines_eq (d.setCore k { d.core k with ltime := Nat.max (d.core k).ltime t }) (quadOfCore k) lines
  rw [show d.joinAt k t lines = _ from h]
  exact ⟨rfl, rfl, _, _, _, core_setCore _ _ _, fun _ h => h⟩

theorem observeFault_kept (d : Dev) (k e : Nat) : JoinKept k d (d.observeFault k e) := by
  unfold Dev.observeFault
  dsimp only
  refine JoinKept.trans ?_ (joinKept_filter _ k _)
  split
  · exact (joinKept_setEngine d k e _).trans (joinKept_latchQuad _ k)
  · exact JoinKept.refl k d

/-- Joining an engine ends the core's operations there that are done. -/
theorem joinEngine_spec (d : Dev) (k e : Nat) :
    JoinKept k d (d.joinEngine k e) ∧ ∀ o ∈ ((d.joinEngine k e).core k).ops, o.done = true → o.eng ≠ e := by
  unfold Dev.joinEngine
  dsimp only
  refine ⟨((joinKept_joinAt d k _ _).trans (joinKept_setEngine _ k e _)).trans (joinKept_filter _ k _), fun o ho hd he => ?_⟩
  rw [core_setCore] at ho
  have h := (List.mem_filter.1 ho).2
  simp [he, hd] at h

/-- Once JOIN has joined every engine, none of the core's operations is left. -/
theorem joinedDev_spec {d : Dev} {k : Nat} (hops : ∀ o ∈ (d.core k).ops, o.done = true ∧ o.eng < 3) :
    JoinKept k d (joinedDev d k) ∧ ((joinedDev d k).core k).ops = [] := by
  have hstep : ∀ (b : Dev) (e : Nat), JoinKept k b (joinOne (d.forked k) k b e) := by
    intro b e
    unfold joinOne
    split
    · exact (observeFault_kept b k e).trans (joinEngine_spec _ k e).1
    · exact JoinKept.refl k b
  have hdone : ∀ b : Dev, JoinKept k d b → ∀ o ∈ (b.core k).ops, o ∈ (d.core k).ops := by
    rintro b ⟨-, -, l, t, os, hc, hos⟩ o ho
    rw [hc] at ho
    exact hos o ho
  obtain ⟨hkept, -, hgone⟩ := foldl_brings (f := joinOne (d.forked k) k) (l := List.range 3)
    (P := JoinKept k d) (Q := fun e d' => ∀ o ∈ (d'.core k).ops, o.eng ≠ e)
    (fun b e _ hb => hb.trans (hstep b e))
    (fun b e _ hb o ho => by
      have hin := hdone _ (hb.trans (hstep b e)) o ho
      unfold joinOne at ho
      split at ho
      · exact (joinEngine_spec _ k e).2 o ho (hops o hin).1
      · next hj =>
        intro he
        exact hj (Bool.or_eq_true _ _ ▸ .inr (List.any_eq_true.2 ⟨o, ho, by simp [he]⟩)))
    (fun b e e' _ hb hq o ho => by
      obtain ⟨-, -, l, t, os, hc, hos⟩ := hstep b e'
      rw [hc] at ho
      exact hq o (hos o ho)) (JoinKept.refl k d)
  refine ⟨hkept, List.eq_nil_iff_forall_not_mem.2 fun o ho => ?_⟩
  exact hgone o.eng (List.mem_range.2 (hops o (hdone _ hkept o ho)).2) o ho rfl

theorem forked_of_rendezvous {d d' : Dev} {k : Nat} (h : (d'.quad (quadOfCore k)).rendezvous = (d.quad (quadOfCore k)).rendezvous) :
    d'.forked k = d.forked k := by
  unfold Dev.forked
  rw [h]

theorem closeRendezvous_spec (d : Dev) (k : Nat) :
    (d.closeRendezvous k).mem = d.mem ∧ (d.closeRendezvous k).core k = d.core k ∧ (d.closeRendezvous k).forked k = [] := by
  unfold Dev.closeRendezvous
  dsimp only
  have hcore := foldl_keeps (fun d => d.core k) (l := d.forked k)
    (f := fun d e => d.setEngine (quadOfCore k) e { d.engine (quadOfCore k) e with prog := none }) (fun _ _ _ => rfl) d
  have hmem := foldl_keeps Dev.mem (l := d.forked k)
    (f := fun d e => d.setEngine (quadOfCore k) e { d.engine (quadOfCore k) e with prog := none }) (fun _ _ _ => rfl) d
  refine ⟨hmem, hcore, ?_⟩
  rw [Dev.forked, quad_setQuad]

/-- JOIN leaves memory and of the core all but its latch, its time and its operations; it has no operation and no rendezvous left. -/
theorem joinedClosed_spec {d : Dev} {k : Nat} (hops : ∀ o ∈ (d.core k).ops, o.done = true ∧ o.eng < 3) :
    (joinedClosed d k).mem = d.mem ∧ (joinedClosed d k).forked k = [] ∧
      ∃ l t, (joinedClosed d k).core k = { d.core k with latch := l, ltime := t, ops := [] } := by
  obtain ⟨⟨hm, hr, l, t, os, hc, -⟩, hnil⟩ := joinedDev_spec hops
  obtain rfl : os = [] := by rw [hc] at hnil; exact hnil
  unfold joinedClosed
  split
  · next he => exact ⟨hm, (forked_of_rendezvous hr).trans (List.isEmpty_iff.1 he), l, t, hc⟩
  · obtain ⟨hm', hc', hf'⟩ := closeRendezvous_spec (joinedDev d k) k
    exact ⟨hm'.trans hm, hf', l, t, hc'.trans hc⟩

/-- Engine `e` has an operation of the core, or its program, ended in fault. -/
def JoinFails (d : Dev) (k e : Nat) : Prop :=
  (∃ o ∈ (d.core k).ops, o.eng = e ∧ o.fault.isSome = true) ∨
    e ∈ d.forked k ∧ ∃ p, (d.engine (quadOfCore k) e).prog = some p ∧ (p.ended.isSome = true ∨ p.opsFault = true)

/-- The model's test of the same. -/
def joinFails (d : Dev) (k e : Nat) : Bool :=
  (d.core k).ops.any (fun (o : OpRef) => o.eng == e && o.fault.isSome) ||
    ((d.forked k).contains e && match (d.engine (quadOfCore k) e).prog with | some p => p.ended.isSome || p.opsFault | none => false)

theorem joinFails_iff (d : Dev) (k e : Nat) : joinFails d k e = true ↔ JoinFails d k e := by
  unfold joinFails JoinFails
  cases (d.engine (quadOfCore k) e).prog <;> simp

theorem joinFaults_eq (d : Dev) (k : Nat) : d.joinFaults k = (List.range 3).filter (joinFails d k) := rfl

theorem joinFaults_none {d : Dev} {k : Nat} (h : ∀ e, e < 3 → ¬ JoinFails d k e) : d.joinFaults k = [] := by
  rw [joinFaults_eq]
  exact List.filter_eq_nil_iff.2 fun e he => fun hf => h e (List.mem_range.1 he) ((joinFails_iff d k e).1 hf)

/-- The engine of the lowest number comes first. -/
theorem joinFaults_first {d : Dev} {k e : Nat} (he : e < 3) (hf : JoinFails d k e) (hlow : ∀ e', e' < e → ¬ JoinFails d k e') :
    ∃ es, d.joinFaults k = e :: es := by
  have hsplit : List.range 3 = List.range e ++ e :: (List.range (2 - e)).map (e + 1 + ·) := by
    interval_cases e <;> rfl
  have hnil : (List.range e).filter (joinFails d k) = [] :=
    List.filter_eq_nil_iff.2 fun e' he' => fun h => hlow e' (List.mem_range.1 he') ((joinFails_iff d k e').1 h)
  rw [joinFaults_eq, hsplit, List.filter_append, hnil, List.nil_append, List.filter_cons_of_pos ((joinFails_iff d k e).2 hf)]
  exact ⟨_, rfl⟩

theorem forked_setCore (d : Dev) (k : Nat) (c : Core) : (d.setCore k c).forked k = d.forked k := rfl

theorem forked_retire (d : Dev) (k : Nat) (pc : Word) : (d.retire k pc).forked k = d.forked k := forked_of_rendezvous (by rw [quad_retire])

theorem join_done {s : State} {k : Nat} (ha : s.actor = .core k) (hwait : joinWaits s.dev k = false) (hf : s.dev.joinFaults k = []) :
    exec .join s = .next { s with dev := (joinedClosed s.dev k).retire k ((s.dev.core k).pc + 8) } := by
  rw [join_core ha, joinCore_done hwait hf, finish_done]

/-- The device in which the core has gone past its JOIN, and the trap of the lowest engine is next. -/
def pastJoin (d : Dev) (k : Nat) : Dev := (joinedClosed d k).retire k ((d.core k).pc + 8)

theorem join_fault {s : State} {k e : Nat} {es : List Nat} (ha : s.actor = .core k) (hwait : joinWaits s.dev k = false)
    (hf : s.dev.joinFaults k = e :: es) (hh : ((pastJoin s.dev k).core k).inHandler = false)
    (hx : ((pastJoin s.dev k).core k).cur.handler ≠ 0xFFFF) :
    exec .join s = .next { s with
      dev := (pastJoin s.dev k).setCore k
        (handling ((pastJoin s.dev k).core k) 8 (s.dev.engine (quadOfCore k) e).status ((s.dev.core k).pc + 8)) } := by
  rw [join_core ha, joinCore_fault hwait hf,
    ← takeTrapAt_handled s.now (s.dev.engine (quadOfCore k) e).status _ (s.dev.core k).pc hh (by decide) hx]
  rfl

/-! ## JOIN on an engine -/

theorem mapProg_eq {d : Dev} {q e : Nat} {p : Prog} (f : Prog → Prog) (hp : (d.engine q e).prog = some p) :
    d.mapProg q e f = d.setEngine q e { d.engine q e with prog := some (f p) } := by
  simp only [Dev.mapProg, hp]

theorem prog_mapProg {d : Dev} {q e : Nat} {p : Prog} (f : Prog → Prog) (hp : (d.engine q e).prog = some p) :
    ((d.mapProg q e f).engine q e).prog = some (f p) := by
  rw [mapProg_eq f hp, dev_engine_setEngine]

theorem mem_mapProg (d : Dev) (q e : Nat) (f : Prog → Prog) : (d.mapProg q e f).mem = d.mem := by
  unfold Dev.mapProg
  dsimp only
  split <;> rfl

theorem mem_issuedBy (d : Dev) (q e : Nat) : (d.issuedBy q e).mem = d.mem := by
  obtain ⟨ws, h⟩ := issuedBy_eq d q e
  rw [h]

theorem join_engine_ends {s : State} {q e : Nat} {p : Prog} (ha : s.actor = .engine q e) (hp : (s.dev.engine q e).prog = some p)
    (hb : (s.dev.engine q e).progBusy = false) :
    ∃ t, exec .join s = .next t ∧ t.dev.mem = s.dev.mem ∧ (t.dev.engine q e).prog = some { p with joined := true, wait := none } := by
  rw [show exec .join s = execJoin s from rfl, execJoin, run_next]
  simp only [State.ctx, ha, hb]
  refine ⟨_, rfl, ?_, ?_⟩
  · simp only [Bool.false_eq_true, if_false, mem_latchQuad, mem_mapProg, mem_issuedBy]
  · simp only [Bool.false_eq_true, if_false, engine_latchQuad]
    exact prog_mapProg _ (by rw [engine_issuedBy]; exact hp)

theorem join_engine_waits {s : State} {q e : Nat} {p : Prog} (ha : s.actor = .engine q e) (hp : (s.dev.engine q e).prog = some p)
    (hb : (s.dev.engine q e).progBusy = true) :
    ∃ t w, exec .join s = .next t ∧ t.dev.mem = s.dev.mem ∧ (t.dev.engine q e).prog = some { p with wait := some w } ∧ w.kind = 6 := by
  rw [show exec .join s = execJoin s from rfl, execJoin, run_next]
  simp only [State.ctx, ha, hb, if_true]
  have hprog := prog_mapProg (fun p => { p with wait := waitFor 6 0 1 1 }) hp
  have hmem := mem_mapProg s.dev q e fun p => { p with wait := waitFor 6 0 1 1 }
  generalize s.dev.mapProg q e (fun p => { p with wait := waitFor 6 0 1 1 }) = d at hprog hmem ⊢
  refine ⟨_, ⟨6, 0, (d.memberMasks q none).1, (d.memberMasks q none).2, 0⟩, rfl, ?_, ?_, rfl⟩
  · exact (mem_mapProg _ _ _ _).trans hmem
  · exact (prog_mapProg (fun p => { p with wait := d.memberWait q none }) hprog).trans rfl

/-! ## GDONE -/

theorem counterZero_eq (c : Core) (i : Nat) : c.counterZero i = ((c.range i).count == 0) := by
  unfold Core.counterZero Core.range Tab.getD
  cases Tab.get? c.ranges i <;> rfl

/-- A counter still holds bytes for a fence of all. -/
theorem fenceCounters_all (c : Core) : c.fenceCounters true [] = (List.range 8).filter fun n => !((c.range n).count == 0) := by
  unfold Core.fenceCounters Core.range Tab.getD
  refine List.filter_congr fun n _ => ?_
  cases Tab.get? c.ranges n <;> simp [RangeCtr.zero, bne]

theorem gdone_waits {s : State} {k : Nat} (ha : s.actor = .core k)
    (h : (s.dev.core k).held ≠ [] ∨ ∃ n, n < 8 ∧ ((s.dev.core k).range n).count ≠ 0) :
    exec .gdone s = .next (s.stalled k ⟨6, 1, 0xFF, bitMask ((List.range 8).filter fun n => ((s.dev.core k).range n).count == 0), 0⟩) := by
  have hopen : ((s.dev.core k).blocked || !((s.dev.core k).fenceCounters true []).isEmpty) = true := by
    rw [Bool.or_eq_true]
    rcases h with h | ⟨n, hn, hc⟩
    · exact .inl (by simp [Core.blocked, h])
    · refine .inr ?_
      have hmem : n ∈ (s.dev.core k).fenceCounters true [] := by
        rw [fenceCounters_all]
        exact List.mem_filter.2 ⟨List.mem_range.2 hn, by simp [hc]⟩
      simp [List.ne_nil_of_mem hmem]
  have hzero : ((List.range 8).filter (s.dev.core k).counterZero) = (List.range 8).filter fun n => ((s.dev.core k).range n).count == 0 :=
    List.filter_congr fun n _ => counterZero_eq _ n
  rw [show exec .gdone s = execGdone s from rfl, execGdone, onCore_core _ ha]
  dsimp only
  rw [if_pos hopen, Core.fenceWait, hzero]
  rfl

/-- What a fence leaves: all but leases, and of the cores their planes and scalar registers. -/
def FenceKept (d d' : Dev) : Prop := (∃ cs ls, d' = { d with cores := cs, leases := ls }) ∧ ∀ j, CoreKept (d.core j) (d'.core j)

theorem FenceKept.trans {a b c : Dev} (h : FenceKept a b) (h' : FenceKept b c) : FenceKept a c := by
  obtain ⟨⟨cs, ls, rfl⟩, hc⟩ := h
  obtain ⟨⟨cs', ls', rfl⟩, hc'⟩ := h'
  exact ⟨⟨cs', ls', rfl⟩, fun j => (hc j).trans (hc' j)⟩

theorem fenceKept_setCore (d : Dev) {k : Nat} {c : Core} (h : CoreKept (d.core k) c) : FenceKept d (d.setCore k c) :=
  ⟨⟨_, _, rfl⟩, (kept_setCore d h).core⟩

theorem fenceKept_joinAt (d : Dev) (k t : Nat) (lines : List Nat) : FenceKept d (d.joinAt k t lines) := by
  refine (fenceKept_setCore d (k := k) (c := { d.core k with ltime := Nat.max (d.core k).ltime t }) ⟨rfl, rfl, rfl⟩).trans ?_
  obtain ⟨ls, h⟩ := dropLines_eq (d.setCore k { d.core k with ltime := Nat.max (d.core k).ltime t }) (quadOfCore k) lines
  rw [show d.joinAt k t lines = _ from h]
  exact ⟨⟨_, _, rfl⟩, fun _ => CoreKept.refl _⟩

theorem fenceKept_actFence (d : Dev) (k scope : Nat) : FenceKept d (d.actFence k 3 scope []) := by
  have hjoin : FenceKept d (d.joinEnded k true []) :=
    (fenceKept_setCore d (k := k) (c := { d.core k with ended := (d.core k).ended.filter fun _ => !true }) ⟨rfl, rfl, rfl⟩).trans
      (fenceKept_joinAt _ k _ _)
  have hacquire : ∀ d : Dev, FenceKept d (d.acquire k true []) := fun d =>
    (fenceKept_setCore d (k := k) (c := { d.core k with ltime := (d.core k).orderTime, floors := [] }) ⟨rfl, rfl, rfl⟩).trans
      ⟨⟨_, _, rfl⟩, fun _ => CoreKept.refl _⟩
  exact (hjoin.trans (hacquire _)).trans (fenceKept_setCore _ (k := k) ⟨rfl, rfl, rfl⟩)

/-- A core of a team that is done: it issues no more, and its operations that are done leave it. -/
def teamStopped (c : Core) : Core := { c.stop with ops := c.ops.filter fun (o : OpRef) => !o.done }

theorem teamStopped_teamStopped (c : Core) : teamStopped (teamStopped c) = teamStopped c := by
  simp [teamStopped, Core.stop, List.filter_filter]

/-- The cores of a team stop, one after another. -/
def stopCores (d : Dev) (ks : List Nat) : Dev := ks.foldl (fun d k => d.setCore k (teamStopped (d.core k))) d

theorem stopCores_eq (d : Dev) (ks : List Nat) : ∃ cs, stopCores d ks = { d with cores := cs } := by
  induction ks generalizing d with
  | nil => exact ⟨_, rfl⟩
  | cons k ks ih =>
    obtain ⟨cs, h⟩ := ih (d.setCore k (teamStopped (d.core k)))
    exact ⟨cs, h⟩

theorem core_stopCores (d : Dev) (ks : List Nat) (j : Nat) : (stopCores d ks).core j = if j ∈ ks then teamStopped (d.core j) else d.core j :=
  core_foldl (fun _ _ => core_setCore _ _ _) (fun d _ _ hj => core_setCore_other d _ hj) teamStopped_teamStopped ks d j

theorem gdone_eq (d : Dev) (team : Nat) (t : Team) :
    d.gdone team t = ((stopCores d (d.liveCores t)).setTeam team { t with gone := true }).flushChans team := rfl

/-- A channel of a team that is flushed. -/
def flushedFor (team : Nat) (ch : Chan) : Chan :=
  if ch.team = team then { ch with head := ch.tail, filled := 0, credits := ch.slots, reserved := 0, fills := [], backs := [] } else ch

theorem get_flushChans (d : Dev) (team n : Nat) : Tab.get? (d.flushChans team).chans n = (Tab.get? d.chans n).map (flushedFor team) :=
  tab_get_map (fun _ => flushedFor team) _ _

theorem gdone_ends {s : State} {k : Nat} {t : Team} (ha : s.actor = .core k) (hheld : (s.dev.core k).held = [])
    (hzero : ∀ n, n < 8 → ((s.dev.core k).range n).count = 0) (ht : Tab.get? s.dev.teams (s.dev.core k).cur.team = some t) :
    exec .gdone s = .next { s with
      dev := ((s.dev.actFence k 3 5 []).gdone (s.dev.core k).cur.team t).retire k ((s.dev.core k).pc + 8) } := by
  have hnone : (s.dev.core k).fenceCounters true [] = [] := by
    rw [fenceCounters_all]
    exact List.filter_eq_nil_iff.2 fun n hn => by simp [hzero n (List.mem_range.1 hn)]
  have hopen : ¬ ((s.dev.core k).blocked || !((s.dev.core k).fenceCounters true []).isEmpty) = true := by
    rw [hnone]
    simp [Core.blocked, hheld]
  obtain ⟨⟨cs, ls, hfence⟩, -⟩ := fenceKept_actFence s.dev k 5
  have hteams : Tab.get? (s.dev.actFence k 3 5 []).teams (s.dev.core k).cur.team = some t := by
    rw [hfence]
    exact ht
  rw [show exec .gdone s = execGdone s from rfl, execGdone, onCore_core _ ha]
  dsimp only
  rw [if_neg hopen, hteams]
  rfl

theorem mem_liveCores {d : Dev} {t : Team} {e : Nat × Nat} (he : e ∈ t.cores) (ha : (d.core e.1).active = some e.2) :
    e.1 ∈ d.liveCores t :=
  List.mem_map.2 ⟨e, List.mem_filter.2 ⟨he, by simp [ha]⟩, rfl⟩

/-- What the end of a team leaves of its cores and its channels. -/
theorem gdone_spec (d : Dev) (team : Nat) (t : Team) :
    (d.gdone team t).mem = d.mem ∧ Tab.get? (d.gdone team t).teams team = some { t with gone := true } ∧
    (∀ e ∈ t.cores, (d.core e.1).active = some e.2 → (d.gdone team t).core e.1 = teamStopped (d.core e.1)) ∧
    ∀ n ch, Tab.get? d.chans n = some ch → ch.team = team → Tab.get? (d.gdone team t).chans n = some { ch with
      head := ch.tail, filled := 0, credits := ch.slots, reserved := 0, fills := [], backs := [] } := by
  obtain ⟨cs, h⟩ := stopCores_eq d (d.liveCores t)
  rw [gdone_eq]
  refine ⟨?_, tab_get_put _ _ _, fun e he ha => ?_, fun n ch hch hteam => ?_⟩
  · rw [h]; rfl
  · refine (core_stopCores d _ e.1).trans (if_pos (mem_liveCores he ha))
  · have hchans : ((stopCores d (d.liveCores t)).setTeam team { t with gone := true }).chans = d.chans := by rw [h]; rfl
    rw [get_flushChans, hchans, hch, Option.map_some, flushedFor, if_pos hteam]

/-! ## O51 -/

/-- What FORK leaves of its core, and what it makes of the quad. -/
theorem fork_went {s : State} {k : Nat} {a b rc : Reg} (mask : BitVec 3) (ha : s.actor = .core k)
    (hg : ∀ r : Reg, r.toNat < 16 → (s.dev.core k).pendingG r = false) (hr : ∀ r ∈ [a, b, rc], (s.dev.core k).pendingG r = false)
    (hopen : (s.dev.quad (quadOfCore k)).rendezvous = none) :
    ∃ t, exec (.fork a b rc mask) s = .next t ∧ Went s t k (s.dev.core k).g ∧
      (t.dev.quad (quadOfCore k)).rendezvous = some (k, forkEngines mask) ∧
      ∀ e, t.dev.engine (quadOfCore k) e = if e ∈ forkEngines mask then
        progStarted (s.dev.core k) k ((s.dev.core k).readG ([a, b, rc].getD e 0)) (s.dev.engine (quadOfCore k) e)
        else s.dev.engine (quadOfCore k) e := by
  obtain ⟨⟨hmem, hcores⟩, heng⟩ := startProgs_spec k (fun e => (s.dev.core k).readG ([a, b, rc].getD e 0)) (forkEngines mask)
    (Latched.refl s.dev)
  obtain ⟨l, hl⟩ := hcores k
  refine ⟨_, fork_starts mask ha hg hr hopen, ?_, ?_, fun e => ?_⟩
  · simp only [Went, core_retire, core_setQuad, mem_retire]
    rw [forkedDev, hl]
    exact ⟨trivial, rfl, trivial, rfl, hmem⟩
  · rw [quad_retire, quad_setQuad]
  · rw [Dev.engine, quad_retire, quad_setQuad]
    exact heng e

/-- Settles O51: FORK by `fork_went`, JOIN by what `joinedClosed_spec` leaves of the core, and GDONE by `gdone_spec`. -/
theorem forksJoin : Obligations.ForksJoin := by
  unfold Obligations.ForksJoin
  intro s k ha
  refine ⟨fun a b rc mask hg hr => ⟨fork_waits mask ha hg hr, fun hopen => ?_⟩, fun h => join_waits ha (joinWaits_of h),
    fun hops hes => ?_, gdone_waits ha, fun hheld hzero t ht => ?_,
    fun s' e p ha' hp => ⟨join_engine_ends ha' hp, join_engine_waits ha' hp⟩⟩
  · obtain ⟨t, hexec, hwent, hrend, heng⟩ := fork_went mask ha hg hr hopen
    refine ⟨t, hexec, hwent, hrend, fun e _ hm => ?_, fun e he hm h8 hcode => ?_, fun e he hm hout => ?_⟩
    · rw [heng, if_neg fun h => by simp [(mem_forkEngines.1 h).2] at hm]
    · rw [heng, if_pos (mem_forkEngines.2 ⟨he, hm⟩), progStarted, if_pos ⟨h8, hcode⟩]
      exact ⟨_, rfl, rfl, rfl, rfl, rfl, rfl, fun r h1 h2 => get_globals _ h1 h2⟩
    · rw [heng, if_pos (mem_forkEngines.2 ⟨he, hm⟩), progStarted, if_neg hout]
  · have hwait := joinWaits_false (fun o ho => (hops o ho).1) hes
    obtain ⟨hmem, hforked, l, lt, hcore⟩ := joinedClosed_spec hops
    refine ⟨fun hgood => ?_, fun e he hf hlow hh hx => ?_⟩
    · refine ⟨_, join_done ha hwait (joinFaults_none hgood), ?_, ?_, ?_⟩
      · simp only [Went, core_retire, mem_retire, hcore]
        exact ⟨trivial, trivial, trivial, trivial, hmem⟩
      · rw [core_retire, hcore]
      · rw [forked_retire, hforked]
    · obtain ⟨es, hfirst⟩ := joinFaults_first he hf hlow
      have hpast : (pastJoin s.dev k).core k = _ := core_retire _ _ _
      rw [hcore] at hpast
      refine ⟨_, join_fault ha hwait hfirst (by rw [hpast]; exact hh) (by rw [hpast]; exact hx), ?_⟩
      simp only [core_setCore, forked_setCore, hpast]
      refine ⟨rfl, rfl, rfl, rfl, ?_, rfl, ?_⟩
      · exact (mem_retire (joinedClosed s.dev k) k ((s.dev.core k).pc + 8)).trans hmem
      · exact (forked_retire (joinedClosed s.dev k) k ((s.dev.core k).pc + 8)).trans hforked
  · obtain ⟨⟨cs, ls, hfence⟩, hkept⟩ := fenceKept_actFence s.dev k 5
    obtain ⟨hmem, hteam, hcores, hchans⟩ := gdone_spec (s.dev.actFence k 3 5 []) (s.dev.core k).cur.team t
    obtain ⟨ws, hretire⟩ := retire_eq ((s.dev.actFence k 3 5 []).gdone (s.dev.core k).cur.team t) k ((s.dev.core k).pc + 8)
    refine ⟨_, gdone_ends ha hheld hzero ht, ?_, ?_, fun e he hact => ?_, fun n ch hch hown => ?_⟩
    · rw [mem_retire, hmem, hfence]
    · rw [hretire]; exact hteam
    · obtain ⟨-, hactive, hg⟩ := hkept e.1
      have hstopped := hcores e he (hactive.trans hact)
      by_cases hj : e.1 = k
      · subst hj
        simp only [core_retire, hstopped]
        exact ⟨rfl, hg⟩
      · rw [core_retire_other _ _ hj, hstopped]
        exact ⟨rfl, hg⟩
    · rw [hretire]
      refine hchans n ch ?_ hown
      rw [hfence]
      exact hch

end Sys2Proof.Proofs
end

section
/-! PROOFS. Launching graphs: what the loads of parameters, the use of a record and the acceptance leave (R23, R235). -/

namespace Sys2Proof.Proofs

open Sys2Proof Sys2Proof.Machine Sys2Proof.Laws

/-! ## Instructions that wait for earlier accesses -/

theorem syncOp_held {s : State} {k : Nat} (regs : List Reg) (f : Ctx → Nat → Dev → Res) (ha : s.actor = .core k)
    (hh : (s.dev.core k).held ≠ []) : syncOp regs f s = .next (s.stalled k Wait.stalled) := by
  have hb : (s.dev.core k).blocked = true := by simp [Core.blocked, hh]
  rw [syncOp, onCoreSync, onCore_core _ ha, if_pos hb]
  rfl

theorem syncOp_core {s : State} {k : Nat} {regs : List Reg} (f : Ctx → Nat → Dev → Res) (ha : s.actor = .core k)
    (hh : (s.dev.core k).held = []) (hr : ∀ r ∈ regs, (s.dev.core k).pendingG r = false) :
    syncOp regs f s = .next { s with dev := s.dev.finish s.now k (f s.ctx k s.dev) } := by
  have hb : (s.dev.core k).blocked = false := by simp [Core.blocked, hh]
  have hany : regs.any (s.dev.core k).pendingG = false := List.any_eq_false.2 fun r hr' => by simp [hr r hr']
  rw [syncOp, onCoreSync_core _ ha hb, if_neg (by simp [hany])]

/-! ## Reading -/

/-- What loads leave of the device: all but caches, lines, counters and the time of the loading core. -/
def ReadKept (k : Nat) (d d' : Dev) : Prop :=
  (∃ cs ds ws st l2 ln ls, d' = { d with cores := cs, dies := ds, worlds := ws, stale := st, l2 := l2, lines := ln, leases := ls }) ∧
    ∃ t, d'.core k = { d.core k with ltime := t }

theorem ReadKept.refl (k : Nat) (d : Dev) : ReadKept k d d := ⟨⟨_, _, _, _, _, _, _, rfl⟩, _, rfl⟩
theorem ReadKept.trans {k : Nat} {a b c : Dev} (h : ReadKept k a b) (h' : ReadKept k b c) : ReadKept k a c := by
  obtain ⟨⟨_, _, _, _, _, _, _, he⟩, t, ht⟩ := h
  obtain ⟨⟨_, _, _, _, _, _, _, he'⟩, t', ht'⟩ := h'
  refine ⟨⟨_, _, _, _, _, _, _, he'.trans (by rw [he])⟩, t', by rw [ht', ht]⟩

theorem ReadKept.mem_eq {k : Nat} {d d' : Dev} (h : ReadKept k d d') : d'.mem = d.mem := by
  obtain ⟨⟨_, _, _, _, _, _, _, rfl⟩, -⟩ := h; rfl
theorem ReadKept.launches_eq {k : Nat} {d d' : Dev} (h : ReadKept k d d') : d'.launches = d.launches := by
  obtain ⟨⟨_, _, _, _, _, _, _, rfl⟩, -⟩ := h; rfl
theorem ReadKept.nextLaunch_eq {k : Nat} {d d' : Dev} (h : ReadKept k d d') : d'.nextLaunch = d.nextLaunch := by
  obtain ⟨⟨_, _, _, _, _, _, _, rfl⟩, -⟩ := h; rfl

theorem count_read (k : Nat) (d : Dev) (w i n : Nat) : ReadKept k d (d.count w i n) := by
  obtain ⟨ws, h⟩ := count_eq d w i n
  rw [h]
  exact ⟨⟨_, _, _, _, _, _, _, rfl⟩, _, rfl⟩

theorem traffic_read (k : Nat) (d : Dev) (seq world pa n : Nat) (write : Bool) : ReadKept k d (d.traffic seq world pa n write) := by
  unfold Dev.traffic
  dsimp only
  split
  · exact ReadKept.refl k d
  · refine (count_read k d world (if write then 7 else 6) n).trans ?_
    generalize d.count world (if write then 7 else 6) n = d1
    split
    · split
      · exact (count_read k d1 _ _ _).trans (count_read k _ _ _ _)
      · exact (count_read k d1 _ _ _).trans (count_read k _ _ _ _)
    · split
      · exact count_read k d1 _ _ _
      · exact ReadKept.trans ⟨⟨_, _, _, _, _, _, _, rfl⟩, _, rfl⟩ (count_read k _ _ _ _)

theorem loadPa_read (k : Nat) (d : Dev) (seq : Nat) (lease : Option Nat) (t pa n : Nat) : ReadKept k d (d.loadPa seq lease t pa n).1 := by
  have hfresh : ∀ ln ls, ReadKept k d { d with lines := ln, leases := ls } := fun _ _ => ⟨⟨_, _, _, _, _, _, _, rfl⟩, _, rfl⟩
  unfold Dev.loadPa
  dsimp only
  split
  · exact hfresh _ d.leases
  · split
    · exact hfresh _ d.leases
    · split
      · split
        · exact ReadKept.refl k d
        · exact hfresh _ d.leases
      · split
        · exact hfresh _ _
        · exact hfresh _ d.leases

theorem walked_read (k : Nat) (d : Dev) (seq die world va : Nat) : ReadKept k d (d.walked seq die world va) := by
  unfold Dev.walked
  split
  · exact ReadKept.refl k d
  · exact ⟨⟨_, _, _, _, _, _, _, rfl⟩, _, rfl⟩

/-- An element of a load. -/
theorem element_read (k : Nat) (d : Dev) (x : Ctx) {a : Access} (ha : a.kind = .load) (e : Elem) (t : Xlate) :
    ReadKept k d (d.element x k a e t).1 := by
  unfold Dev.element
  split
  · next pa =>
    simp only [ha, Access.new]
    have h1 := traffic_read k d x.seq (d.core k).world pa a.bytes false
    have h2 := h1.trans (loadPa_read k _ x.seq (some (quadOfCore k)) ((d.core k).loadTime e.va.toNat pa a.bytes) pa a.bytes)
    exact h2.trans ⟨⟨_, _, _, _, _, _, _, rfl⟩, _, core_setCore _ _ _⟩
  · simp only [ha, if_true]
    exact ReadKept.refl k d
  · simp only [ha, Access.new]
    exact ReadKept.refl k d
  · exact ReadKept.refl k d

/-- A load that completes. -/
theorem elements_read {k : Nat} {x : Ctx} {a : Access} (ha : a.kind = .load) (es : List Elem) {d d' : Dev} {vals out : List (Nat × Word)}
    (h : d.elements x k a es vals = .done d' out) : ReadKept k d d' := by
  induction es generalizing d vals with
  | nil =>
    obtain ⟨rfl, -⟩ := AccessRes.done.inj h
    exact ReadKept.refl k d
  | cons e es ih =>
    rw [Dev.elements] at h
    dsimp only at h
    split at h
    · cases h
    · cases h
    · cases h
    · exact ((walked_read k d _ _ _ _).trans (element_read k _ x ha e _)).trans (ih h)

theorem access_read {k : Nat} {x : Ctx} {a : Access} (ha : a.kind = .load) {d d' : Dev} {out : List (Nat × Word)}
    (h : d.access x k a = .done d' out) : ReadKept k d d' := by
  unfold Dev.access at h
  dsimp only at h
  split at h
  · cases h
  · exact elements_read ha _ h

/-- The use of a record fills its die's cache. -/
theorem useRecord_eq (d : Dev) (seq die world tid : Nat) : ∃ ds, (d.useRecord seq die world tid).1 = { d with dies := ds } := by
  have hfill : ∀ (o : Option Bytes) (x : Die), ∃ ds, (match o with
      | some bs => if x.legend.contains (world, tid, bs) then d else d.setDie die { x with legend := (world, tid, bs) :: x.legend }
      | none => d) = { d with dies := ds } := by
    intro o x
    split
    · split
      · exact ⟨d.dies, rfl⟩
      · exact ⟨_, rfl⟩
    · exact ⟨d.dies, rfl⟩
  obtain ⟨ds, h⟩ := hfill (d.recordBytes seq die world tid) (d.die die)
  refine ⟨ds, ?_⟩
  rw [← h]
  unfold Dev.useRecord
  dsimp only
  split <;> rfl

theorem useKind_eq {d d' : Dev} {seq die world tid : Nat} {kinds : List Nat} {r : Option Rec}
    (h : d.useKind seq die world tid kinds = (d', r)) : ∃ ds, d' = { d with dies := ds } := by
  obtain ⟨ds, hd⟩ := useRecord_eq d seq die world tid
  exact ⟨ds, (congrArg Prod.fst h).symm.trans hd⟩

/-! ## The checks of GLAUNCH's loads (R136, R235) -/

theorem paramElem_toNat {a : Word} {i : Nat} (h : a.toNat + 512 ≤ 2 ^ 56) (hi : i < 64) :
    (a + BitVec.ofNat 64 (8 * i)).toNat = a.toNat + 8 * i := by
  rw [BitVec.toNat_add, BitVec.toNat_ofNat]
  omega

theorem mem_paramElems {c : Core} {a : Word} {e : Elem} (h : e ∈ (paramAccess c a).elems) :
    ∃ i, i < 64 ∧ e.va = a + BitVec.ofNat 64 (8 * i) := by
  obtain ⟨i, hi, rfl⟩ := List.mem_map.1 h
  exact ⟨i, List.mem_range.1 hi, rfl⟩

theorem paramElems_form {c : Core} {a : Word} (h : a.toNat + 512 ≤ 2 ^ 56) : ((paramAccess c a).elems.find? fun e => badForm e.va) = none := by
  refine List.find?_eq_none.2 fun e he => ?_
  obtain ⟨i, hi, hva⟩ := mem_paramElems he
  rw [hva, badForm, paramElem_toNat h hi]
  simp only [decide_eq_true_eq]
  omega

theorem paramCheck_ok {c : Core} {a : Word} (h8 : a.toNat % 8 = 0) (h : a.toNat + 512 ≤ 2 ^ 56) : elemCheck 8 (paramAccess c a).elems = none := by
  have halign : ((paramAccess c a).elems.find? fun e => misaligned 8 e.va) = none := by
    refine List.find?_eq_none.2 fun e he => ?_
    obtain ⟨i, hi, hva⟩ := mem_paramElems he
    rw [hva, misaligned, paramElem_toNat h hi]
    simp only [bne_iff_ne, ne_eq, not_not]
    omega
  rw [elemCheck, paramElems_form h, halign]
  rfl

theorem paramCheck_misaligned {c : Core} {a : Word} (h8 : a.toNat % 8 ≠ 0) (h : a.toNat + 512 ≤ 2 ^ 56) :
    elemCheck 8 (paramAccess c a).elems = some (Cause.align, a) := by
  have h0 : a + BitVec.ofNat 64 (8 * 0) = a := by simp
  have hfirst : (paramAccess c a).elems = { lane := 0, va := a + BitVec.ofNat 64 (8 * 0), data := 0, cmp := 0 } ::
      (List.range 63).map fun i => { lane := i + 1, va := a + BitVec.ofNat 64 (8 * (i + 1)), data := 0, cmp := 0 } := by
    have hrange : List.range 64 = 0 :: (List.range 63).map Nat.succ := List.range_succ_eq_map
    rw [paramAccess, hrange, List.map_cons, List.map_map]
    rfl
  rw [elemCheck, paramElems_form h, hfirst, List.find?_cons_of_pos]
  · rw [h0]; rfl
  · rw [h0, misaligned]
    simpa using h8

/-! ## Acceptance (R24) -/

/-- The launch that is accepted, as the model makes it of a graph without a racing pair. -/
def acceptedLaunch (g : Image) (world tid queue level : Nat) (coreside noRecord : Bool) (doneAddr : Nat) (tag : Word) (params : SMap 64)
    (ltime : Nat) : Launch :=
  { world := world, graph := tid, queue := queue, level := level, coreside := coreside, noRecord := noRecord, doneAddr := doneAddr,
    tag := tag, params := params, nodes := g.newNodes, edges := g.edges, raced := false, failed := none, failSettled := false,
    ended := false, ltime := ltime }

/-- The graph keeps the parameter set that it is launched with (R235). -/
def keepParams (d : Dev) (world tid : Nat) (params : SMap 64) : Dev :=
  d.setWorld world { d.world world with params := Tab.put (d.world world).params tid params }

theorem launchGraph_accepts {d : Dev} {x : Ctx} {world tid queue level : Nat} {coreside noRecord : Bool} {doneAddr : Nat} {tag : Word}
    {params : SMap 64} {r : Option Rec} {ltime : Nat} {g : Image} (h : d.checkGraph x.seq world level coreside r = some (g, none)) :
    d.launchGraph x world tid queue level coreside noRecord doneAddr tag params r ltime =
      (((keepParams d world tid params).acceptLaunch x.now
        (acceptedLaunch g world tid queue level coreside noRecord doneAddr tag params ltime)).1, some d.nextLaunch) := by
  simp only [Dev.launchGraph, h]
  rfl

theorem launchGraph_refuses {d : Dev} {x : Ctx} {world tid queue level : Nat} {coreside noRecord : Bool} {doneAddr : Nat} {tag : Word}
    {params : SMap 64} {r : Option Rec} {ltime : Nat} (h : d.checkGraph x.seq world level coreside r = none) :
    d.launchGraph x world tid queue level coreside noRecord doneAddr tag params r ltime = (d, none) := by
  simp only [Dev.launchGraph, h]

theorem acceptLaunch_readies (d : Dev) (now : Now) (x : Launch) :
    Readies (({ d with nextLaunch := d.nextLaunch + 1 } : Dev).setLaunch d.nextLaunch x) (d.acceptLaunch now x).1 :=
  (readies_foldl (fun d n => ready_readies d now _ n) _ _).trans (drainFirings_readies _ now _)

/-- Nodes that are numbered in order. -/
theorem get_numbered {α β : Type} (f : α → Nat → β) (l : List α) (k n : Nat) :
    (Tab.get? ((l.zipIdx k).map fun (y, i) => (i, f y i)) n).isSome = decide (k ≤ n ∧ n < k + l.length) := by
  induction l generalizing k with
  | nil => simp [Tab.get?]
  | cons y l ih =>
    rw [List.zipIdx_cons, List.map_cons, Tab.get?]
    split
    · next h =>
      subst h
      simp
    · next h =>
      rw [ih]
      refine decide_eq_decide.2 ?_
      rw [List.length_cons]
      omega

theorem newNodes_isSome (g : Image) (n : Nat) : (Tab.get? g.newNodes n).isSome = decide (n < g.nodes.length) := by
  refine (get_numbered (fun y i => newNode y (g.inDegree i)) g.nodes 0 n).trans (decide_eq_decide.2 ?_)
  omega

end Sys2Proof.Proofs
end

section
/-! PROOFS. GLAUNCH, GPARAM and the trigger instructions, and what O52 says (R235, R237, R239, R240). -/

namespace Sys2Proof.Proofs

open Sys2Proof Sys2Proof.Machine Sys2Proof.Laws

/-! ## Completing -/

theorem went_retire {s : State} {k : Nat} {d : Dev} {g : SMap 64} (hg : (d.core k).g = g)
    (ht : (d.core k).trapCause = (s.dev.core k).trapCause) (hm : d.mem = s.dev.mem) :
    Went s { s with dev := d.retire k ((s.dev.core k).pc + 8) } k g := by
  simp only [Went, core_retire, mem_retire]
  exact ⟨trivial, hg, trivial, ht, hm⟩

@[simp] theorem launches_retire (d : Dev) (k : Nat) (pc : Word) : (d.retire k pc).launches = d.launches := by
  obtain ⟨ws, h⟩ := retire_eq d k pc
  rw [h]; rfl
@[simp] theorem nextLaunch_retire (d : Dev) (k : Nat) (pc : Word) : (d.retire k pc).nextLaunch = d.nextLaunch := by
  obtain ⟨ws, h⟩ := retire_eq d k pc
  rw [h]; rfl
@[simp] theorem triggers_retire (d : Dev) (k : Nat) (pc : Word) : (d.retire k pc).triggers = d.triggers := by
  obtain ⟨ws, h⟩ := retire_eq d k pc
  rw [h]; rfl

/-- Counting leaves every part of a world that does not speak of its counters. -/
theorem part_count {γ : Type} (part : World → γ) (h : ∀ (x : World) c, part { x with counters := c } = part x) (d : Dev) (w i n v : Nat) :
    part ((d.count w i n).world v) = part (d.world v) := by
  unfold Dev.count
  split
  · rfl
  · by_cases hv : v = w
    · subst hv
      rw [world_setWorld, h]
    · rw [world_setWorld_other _ _ hv]

theorem params_retire (d : Dev) (k : Nat) (pc : Word) (v : Nat) : ((d.retire k pc).world v).params = (d.world v).params :=
  part_count World.params (fun _ _ => rfl) _ _ _ _ _

/-! ## GLAUNCH -/

section Glaunch

variable {s : State} {k : Nat} {a b : Reg} {tid : BitVec 11} {flags : BitVec 3} {d0 d : Dev} {r : Rec} {ps : SMap 64}

/-- The parameters of GLAUNCH: none, or the 64 words that its loads have read. -/
def ParamsRead (s : State) (k : Nat) (a : Reg) (d0 : Dev) (ps : SMap 64) : Prop :=
  (s.dev.core k).readG a = 0 ∧ d0 = s.dev ∧ ps = [] ∨
    (s.dev.core k).readG a ≠ 0 ∧ ((s.dev.core k).readG a).toNat % 8 = 0 ∧ ((s.dev.core k).readG a).toNat + 512 ≤ 2 ^ 56 ∧ ∃ vals,
      s.dev.access s.ctx k (paramAccess (s.dev.core k) ((s.dev.core k).readG a)) = .done d0 vals ∧ ps = SMap.ofList (vals.map Prod.snd)

/-- Once its parameters are read, GLAUNCH launches. -/
theorem glaunch_reads (ha : s.actor = .core k) (hh : (s.dev.core k).held = []) (hr : (s.dev.core k).pendingG a = false)
    (h : ParamsRead s k a d0 ps) :
    ReadKept k s.dev d0 ∧
      exec (.glaunch a b tid flags) s = .next { s with dev := s.dev.finish s.now k (d0.glaunch s.ctx k b tid flags ps) } := by
  rw [show exec (.glaunch a b tid flags) s = execGlaunch a b tid flags s from rfl, execGlaunch, syncOp_core _ ha hh (by simpa using hr)]
  dsimp only
  rcases h with ⟨h0, rfl, rfl⟩ | ⟨h0, h8, hlen, vals, hacc, rfl⟩
  · rw [if_pos h0]
    exact ⟨ReadKept.refl k _, rfl⟩
  · rw [if_neg h0, paramCheck_ok h8 hlen, hacc]
    exact ⟨access_read rfl hacc, rfl⟩

/-- The launch that GLAUNCH creates. -/
def glaunchOf (g : Image) (world : Nat) (tid : BitVec 11) (flags : BitVec 3) (ps : SMap 64) (ltime : Nat) : Launch :=
  acceptedLaunch g world tid.toNat 4096 (field flags 0 2) (bit flags 2) true 0 0 ps ltime

/-- The device once GLAUNCH has accepted its launch. -/
def launchedDev (d : Dev) (now : Now) (g : Image) (world : Nat) (tid : BitVec 11) (flags : BitVec 3) (ps : SMap 64) (ltime : Nat) : Dev :=
  ((keepParams d world tid.toNat ps).acceptLaunch now (glaunchOf g world tid flags ps ltime)).1

theorem glaunch_accepts {x : Ctx} {g : Image} (huse : d0.useKind x.seq (k / 1024) (d0.core k).world tid.toNat [6] = (d, some r))
    (hcheck : d.checkGraph x.seq (d0.core k).world (field flags 0 2) (bit flags 2) (some r) = some (g, none)) :
    let d' := launchedDev d x.now g (d0.core k).world tid flags ps (d0.core k).orderTime
    d0.glaunch x k b tid flags ps = .done (d'.setCore k ((d'.core k).writeG b (BitVec.ofNat 64 d.nextLaunch))) := by
  simp only [Dev.glaunch, huse, launchGraph_accepts hcheck]
  rfl

theorem glaunch_refuses {x : Ctx} (huse : d0.useKind x.seq (k / 1024) (d0.core k).world tid.toNat [6] = (d, some r))
    (hcheck : d.checkGraph x.seq (d0.core k).world (field flags 0 2) (bit flags 2) (some r) = none) :
    let d' := d.complete x.now (d0.core k).world 4096 0 true (completionRecord 0 3 0xFFFF 0xFFFFFFFF)
    d0.glaunch x k b tid flags ps = .done (d'.setCore k ((d'.core k).writeG b (BitVec.allOnes 64))) := by
  simp only [Dev.glaunch, huse, launchGraph_refuses hcheck]
  rfl

theorem glaunch_bad {x : Ctx} (huse : d0.useKind x.seq (k / 1024) (d0.core k).world tid.toNat [6] = (d, none)) :
    d0.glaunch x k b tid flags ps = .trap Cause.badHandle (zext64 tid) := by
  simp only [Dev.glaunch, huse]
  rfl

/-- What is left by a launch that is accepted, and the launch. -/
theorem launchedDev_spec (d : Dev) (now : Now) (g : Image) (world : Nat) (tid : BitVec 11) (flags : BitVec 3) (ps : SMap 64) (ltime : Nat) :
    let d' := launchedDev d now g world tid flags ps ltime
    d'.mem = d.mem ∧ (∀ j, d'.core j = d.core j) ∧ d'.nextLaunch = d.nextLaunch + 1 ∧
      ∃ x, Tab.get? d'.launches d.nextLaunch = some x ∧ LaunchGoes (glaunchOf g world tid flags ps ltime) x := by
  have h := acceptLaunch_readies (keepParams d world tid.toNat ps) now (glaunchOf g world tid flags ps ltime)
  exact ⟨h.mem_eq, h.core_eq, h.nextLaunch_eq, h.launch (get_setLaunch _ _ _)⟩

theorem complete_eq (d : Dev) (now : Now) (world queue : Nat) (rec_ : Bytes) :
    ∃ ws hm, d.complete now world queue 0 true rec_ = { d with worlds := ws, hostMem := hm } := by
  unfold Dev.complete
  split
  · exact ⟨d.worlds, d.hostMem, rfl⟩
  · exact event_eq _ _ _ _ _ _

theorem writeG_g_of_ltime (c : Core) (t : Nat) (r : Reg) (v : Word) : (({ c with ltime := t } : Core).writeG r v).g = (c.writeG r v).g := by
  unfold Core.writeG
  split <;> rfl

/-- What a launch writes into its core: its number, or all ones. -/
theorem launch_went {d' : Dev} {t : Nat} {v : Word} (hcore : d'.core k = { s.dev.core k with ltime := t }) (hm : d'.mem = s.dev.mem) :
    Went s { s with dev := (d'.setCore k ((d'.core k).writeG b v)).retire k ((s.dev.core k).pc + 8) } k ((s.dev.core k).writeG b v).g := by
  refine went_retire ?_ ?_ hm
  · rw [core_setCore, hcore, writeG_g_of_ltime]
  · rw [core_setCore, hcore, writeG_trapCause]

/-- GLAUNCH of a graph that passes its checks. -/
theorem glaunch_launches {g : Image} {t : Nat}
    (hexec : exec (.glaunch a b tid flags) s = .next { s with dev := s.dev.finish s.now k (d0.glaunch s.ctx k b tid flags ps) })
    (hcore0 : d0.core k = { s.dev.core k with ltime := t })
    (hd : d.core k = d0.core k ∧ d.mem = s.dev.mem ∧ d.nextLaunch = s.dev.nextLaunch)
    (huse : d0.useKind s.seq (k / 1024) (s.dev.core k).world tid.toNat [6] = (d, some r))
    (hcheck : d.checkGraph s.seq (s.dev.core k).world (field flags 0 2) (bit flags 2) (some r) = some (g, none)) :
    ∃ u x lt, exec (.glaunch a b tid flags) s = .next u ∧ Went s u k ((s.dev.core k).writeG b (BitVec.ofNat 64 s.dev.nextLaunch)).g ∧
      u.dev.nextLaunch = s.dev.nextLaunch + 1 ∧ Tab.get? u.dev.launches s.dev.nextLaunch = some x ∧
      LaunchGoes (glaunchOf g (s.dev.core k).world tid flags ps lt) x := by
  obtain ⟨hcore, hmem, hnext⟩ := hd
  have hworld : (d0.core k).world = (s.dev.core k).world := by rw [hcore0]; rfl
  obtain ⟨hm, hc, hn, x, hx, hgo⟩ := launchedDev_spec d s.now g (s.dev.core k).world tid flags ps (d0.core k).orderTime
  rw [← hworld] at huse hcheck
  rw [glaunch_accepts (x := s.ctx) huse hcheck, finish_done, hworld] at hexec
  rw [hnext] at hx hexec
  refine ⟨_, x, (d0.core k).orderTime, hexec, launch_went (t := t) ?_ (hm.trans hmem), ?_, ?_, hgo⟩
  · exact (hc k).trans (hcore.trans hcore0)
  · rw [nextLaunch_retire, ← hnext]
    exact hn
  · rw [launches_retire]
    exact hx

/-- GLAUNCH of a graph that fails its checks. -/
theorem glaunch_fails {t : Nat}
    (hexec : exec (.glaunch a b tid flags) s = .next { s with dev := s.dev.finish s.now k (d0.glaunch s.ctx k b tid flags ps) })
    (hcore0 : d0.core k = { s.dev.core k with ltime := t })
    (hd : d.core k = d0.core k ∧ d.mem = s.dev.mem ∧ d.launches = s.dev.launches)
    (huse : d0.useKind s.seq (k / 1024) (s.dev.core k).world tid.toNat [6] = (d, some r))
    (hcheck : d.checkGraph s.seq (s.dev.core k).world (field flags 0 2) (bit flags 2) (some r) = none) :
    ∃ u, exec (.glaunch a b tid flags) s = .next u ∧ Went s u k ((s.dev.core k).writeG b (BitVec.allOnes 64)).g ∧
      u.dev.launches = s.dev.launches := by
  obtain ⟨hcore, hmem, hlaunches⟩ := hd
  have hworld : (d0.core k).world = (s.dev.core k).world := by rw [hcore0]; rfl
  obtain ⟨ws, hm, hcomplete⟩ := complete_eq d s.now (s.dev.core k).world 4096 (completionRecord 0 3 0xFFFF 0xFFFFFFFF)
  rw [← hworld] at huse hcheck
  rw [glaunch_refuses (x := s.ctx) huse hcheck, finish_done, hworld] at hexec
  refine ⟨_, hexec, launch_went (t := t) ?_ ?_, ?_⟩
  · rw [← hcore0, ← hcore]
    exact (congrArg (fun d => d.core k) hcomplete).trans rfl
  · exact (congrArg Dev.mem hcomplete).trans hmem
  · rw [launches_retire]
    exact (congrArg Dev.launches hcomplete).trans hlaunches

theorem field_low (flags : BitVec 3) : field flags 0 2 = flags.toNat % 4 := by simp [field]

end Glaunch

/-! ## Triggers (R239, R240) -/

theorem ready_triggers (d : Dev) (now : Now) (l n : Nat) : (d.ready now l n).triggers = d.triggers := by
  cases hx : Tab.get? d.launches l with
  | none => simp [Dev.ready, hx]
  | some x =>
    cases hy : x.node n with
    | none => simp [Dev.ready, hx, hy]
    | some y =>
      obtain ⟨ps, he, -, -⟩ := ready_eq now hx hy
      rw [he]
      rfl

theorem repeat_triggers {f : Dev → Dev} (h : ∀ d, (f d).triggers = d.triggers) (n : Nat) (d : Dev) : (n.repeat f d).triggers = d.triggers := by
  induction n with
  | zero => rfl
  | succ n ih => exact (h _).trans ih

/-- A trigger whose count readies runs, if its node does not wait, has given the count up. -/
theorem trigger_readied {d : Dev} (now : Now) (l n : Nat) {key : Nat} {t : Trigger} (ht : Tab.get? d.triggers key = some t) (waits : Bool) :
    let d' := if waits = true then d else
      t.count.repeat (fun d => d.ready now l n) { d with triggers := Tab.put d.triggers key { t with count := 0 } }
    Tab.get? d'.triggers key = some t ∨ Tab.get? d'.triggers key = some { t with count := 0 } := by
  cases waits with
  | true => exact .inl ht
  | false =>
    refine .inr ?_
    rw [if_neg Bool.false_ne_true, repeat_triggers fun d => ready_triggers d now _ _]
    exact tab_get_put _ _ _

/-- A bound trigger that readies its node has given up its count. -/
theorem drainTrigger_trigger {d : Dev} (now : Now) {key : Nat} {t : Trigger} (ht : Tab.get? d.triggers key = some t) :
    Tab.get? (d.drainTrigger now key).triggers key = some t ∨ Tab.get? (d.drainTrigger now key).triggers key = some { t with count := 0 } := by
  unfold Dev.drainTrigger
  rw [ht]
  dsimp only
  split
  · exact .inl ht
  · split
    · exact .inl ht
    · exact trigger_readied now _ _ ht _

/-- A slot that is bound, as it stands before its count readies runs. -/
def boundSlot (t : Trigger) (w : Watch) (h : Nat × Nat) : Trigger :=
  { t with pending := false, count := if t.pending then Nat.min (t.count + 1) 0xFFFF else t.count, watch := some w, handler := some h }

theorem bindTrigger_eq (d : Dev) (now : Now) (key : Nat) (w : Watch) (h : Nat × Nat) :
    d.bindTrigger now key w h =
      ({ d with triggers := Tab.put d.triggers key (boundSlot (Tab.getD d.triggers key Trigger.empty) w h) } : Dev).drainTrigger now key := rfl

theorem bindTrigger_readies (d : Dev) (now : Now) (key : Nat) (w : Watch) (h : Nat × Nat) : Readies d (d.bindTrigger now key w h) :=
  (readies_of_windows d d.windows _).trans (drainTrigger_readies _ now key)

theorem bindTrigger_spec (d : Dev) (now : Now) (key : Nat) (w : Watch) (h : Nat × Nat) :
    ∃ x, Tab.get? (d.bindTrigger now key w h).triggers key = some x ∧
      (x = boundSlot (Tab.getD d.triggers key Trigger.empty) w h ∨
        x = { boundSlot (Tab.getD d.triggers key Trigger.empty) w h with count := 0 }) := by
  rw [bindTrigger_eq]
  rcases drainTrigger_trigger (d := { d with triggers := Tab.put d.triggers key (boundSlot (Tab.getD d.triggers key Trigger.empty) w h) }) now
    (tab_get_put _ _ _) with h1 | h1
  · exact ⟨_, h1, .inl rfl⟩
  · exact ⟨_, h1, .inr rfl⟩

section Bind

variable {s : State} {k : Nat} {a b rc : Reg} {tid : BitVec 11} {d : Dev} {r : Rec}

/-- The slot that a word names, and the node. -/
def slotKey (s : State) (k : Nat) (a : Reg) : Nat := (s.dev.core k).world * 256 + ((s.dev.core k).readG a).toNat % 256
def slotNode (s : State) (k : Nat) (a : Reg) : Nat := ((s.dev.core k).readG a).toNat / 256 % 65536

theorem slotKey_field (s : State) (k : Nat) (a : Reg) :
    (s.dev.core k).world * 256 + field ((s.dev.core k).readG a) 0 8 = slotKey s k a := by simp [slotKey, field]
theorem slotNode_field (s : State) (k : Nat) (a : Reg) : field ((s.dev.core k).readG a) 8 16 = slotNode s k a := by simp [slotNode, field]

theorem trigbind_binds (i : Instr) (watch : Nat → Word → Word → Watch) (ha : s.actor = .core k) (hh : (s.dev.core k).held = [])
    (hr : ∀ r ∈ [a, b, rc], (s.dev.core k).pendingG r = false)
    (huse : s.dev.useKind s.seq (k / 1024) (s.dev.core k).world tid.toNat [6] = (d, some r))
    (hnode : d.nodeOfKind s.seq (s.dev.core k).world (some r) (slotNode s k a) 5 = true) (hv : ((s.dev.core k).readG a).toNat < 2 ^ 24) :
    trigbind a b rc tid i watch s = .next { s with
      dev := (d.bindTrigger s.now (slotKey s k a) (watch (quadOfCore k) ((s.dev.core k).readG b) ((s.dev.core k).readG rc))
        (tid.toNat, slotNode s k a)).retire k ((s.dev.core k).pc + 8) } := by
  rw [trigbind, syncOp_core _ ha hh hr]
  simp only [State.ctx, huse, slotNode_field, slotKey_field, hnode]
  rw [if_neg (by omega)]
  rfl

theorem trigbind_refuses (i : Instr) (watch : Nat → Word → Word → Watch) (ha : s.actor = .core k) (hh : (s.dev.core k).held = [])
    (hr : ∀ r ∈ [a, b, rc], (s.dev.core k).pendingG r = false)
    (huse : s.dev.useKind s.seq (k / 1024) (s.dev.core k).world tid.toNat [6] = (d, some r))
    (hnode : d.nodeOfKind s.seq (s.dev.core k).world (some r) (slotNode s k a) 5 = false) (hv : ((s.dev.core k).readG a).toNat < 2 ^ 24) :
    trigbind a b rc tid i watch s = .next (s.trapped k 0x0A (tid.zeroExtend 64)) := by
  rw [trigbind, syncOp_core _ ha hh hr]
  simp only [State.ctx, huse, slotNode_field, slotKey_field, hnode]
  rw [if_neg (by omega)]
  rfl

theorem storeWatch_eq (s : State) (a b rc : Reg) (tid : BitVec 11) : exec (.trigbindStoreWatch a b rc tid) s =
    trigbind a b rc tid (.trigbindStoreWatch a b rc tid) (fun q lo n => .stores lo.toNat (lo.toNat + n.toNat) q) s := rfl

theorem ringWatch_eq (s : State) (a b rc : Reg) (tid : BitVec 11) : exec (.trigbindRingWatch a b rc tid) s =
    trigbind a b rc tid (.trigbindRingWatch a b rc tid) (fun _ ring n => .ring (field ring 0 11) (field n 0 12)) s := rfl

/-- TRIGBIND leaves the core, and binds its slot. -/
theorem trigbind_spec {w : Watch} {i : Instr} (watch : Nat → Word → Word → Watch) (ha : s.actor = .core k) (hh : (s.dev.core k).held = [])
    (hr : ∀ r ∈ [a, b, rc], (s.dev.core k).pendingG r = false)
    (huse : s.dev.useKind s.seq (k / 1024) (s.dev.core k).world tid.toNat [6] = (d, some r))
    (hnode : d.nodeOfKind s.seq (s.dev.core k).world (some r) (slotNode s k a) 5 = true) (hv : ((s.dev.core k).readG a).toNat < 2 ^ 24)
    (hpend : (Tab.getD s.dev.triggers (slotKey s k a) Trigger.empty).pending = false)
    (hi : exec i s = trigbind a b rc tid i watch s) (hw : watch (quadOfCore k) ((s.dev.core k).readG b) ((s.dev.core k).readG rc) = w) :
    ∃ t x, exec i s = .next t ∧ Went s t k (s.dev.core k).g ∧ Tab.get? t.dev.triggers (slotKey s k a) = some x ∧ x.watch = some w ∧
      x.handler = some (tid.toNat, slotNode s k a) ∧ x.pending = false ∧
      x.fresh = (Tab.getD s.dev.triggers (slotKey s k a) Trigger.empty).fresh ∧
      (x.count = (Tab.getD s.dev.triggers (slotKey s k a) Trigger.empty).count ∨ x.count = 0) := by
  obtain ⟨ds, rfl⟩ := useKind_eq huse
  have hready := bindTrigger_readies { s.dev with dies := ds } s.now (slotKey s k a) w (tid.toNat, slotNode s k a)
  obtain ⟨x, hx, hslot⟩ := bindTrigger_spec { s.dev with dies := ds } s.now (slotKey s k a) w (tid.toNat, slotNode s k a)
  have hbind := trigbind_binds i watch ha hh hr huse hnode hv
  rw [hw] at hbind
  have hcore := hready.core_eq k
  refine ⟨_, x, hi.trans hbind, went_retire ?_ ?_ hready.mem_eq, ?_, ?_⟩
  · rw [hcore]; rfl
  · rw [hcore]; rfl
  · rw [triggers_retire]; exact hx
  · rcases hslot with rfl | rfl
    · exact ⟨rfl, rfl, rfl, rfl, .inl (if_neg (by simp [hpend]))⟩
    · exact ⟨rfl, rfl, rfl, rfl, .inr rfl⟩

/-- GPARAM sets one word of the graph's set. -/
theorem gparam_sets (ha : s.actor = .core k) (hh : (s.dev.core k).held = []) (hr : ∀ r ∈ [a, b], (s.dev.core k).pendingG r = false)
    (huse : s.dev.useKind s.seq (k / 1024) (s.dev.core k).world tid.toNat [6] = (d, some r)) (hb : ((s.dev.core k).readG b).toNat ≤ 63) :
    exec (.gparam a b tid) s = .next { s with
      dev := (keepParams d (s.dev.core k).world tid.toNat
        (SMap.set (Tab.getD (d.world (s.dev.core k).world).params tid.toNat []) ((s.dev.core k).readG b).toNat
          ((s.dev.core k).readG a))).retire k ((s.dev.core k).pc + 8) } := by
  rw [show exec (.gparam a b tid) s = execGparam a b tid s from rfl, execGparam, syncOp_core _ ha hh hr]
  simp only [State.ctx, huse]
  rw [if_neg (by simp), if_neg (by omega)]
  rfl

theorem gparam_illegal (ha : s.actor = .core k) (hh : (s.dev.core k).held = []) (hr : ∀ r ∈ [a, b], (s.dev.core k).pendingG r = false)
    (huse : s.dev.useKind s.seq (k / 1024) (s.dev.core k).world tid.toNat [6] = (d, some r)) (hb : 63 < ((s.dev.core k).readG b).toNat) :
    exec (.gparam a b tid) s = .next (s.trapped k 0x01 ((encode (.gparam a b tid)).getD 0)) := by
  rw [show exec (.gparam a b tid) s = execGparam a b tid s from rfl, execGparam, syncOp_core _ ha hh hr]
  simp only [State.ctx, huse]
  rw [if_neg (by simp), if_pos hb]
  rfl

theorem gparam_bad (ha : s.actor = .core k) (hh : (s.dev.core k).held = []) (hr : ∀ r ∈ [a, b], (s.dev.core k).pendingG r = false)
    (huse : s.dev.useKind s.seq (k / 1024) (s.dev.core k).world tid.toNat [6] = (d, none)) :
    exec (.gparam a b tid) s = .next (s.trapped k 0x0A (tid.zeroExtend 64)) := by
  rw [show exec (.gparam a b tid) s = execGparam a b tid s from rfl, execGparam, syncOp_core _ ha hh hr]
  simp only [State.ctx, huse]
  rw [if_pos (by simp)]
  rfl

/-- TRIGBIND unbind leaves the slot's count. -/
theorem unbind_spec (ha : s.actor = .core k) (hh : (s.dev.core k).held = []) (hr : (s.dev.core k).pendingG a = false)
    (hv : ((s.dev.core k).readG a).toNat < 2 ^ 24) :
    ∃ t, exec (.trigbindUnbind a) s = .next t ∧ Went s t k (s.dev.core k).g ∧
      Tab.getD t.dev.triggers (slotKey s k a) Trigger.empty =
        { Tab.getD s.dev.triggers (slotKey s k a) Trigger.empty with watch := none, handler := none } := by
  rw [show exec (.trigbindUnbind a) s = execTrigbindUnbind a s from rfl, execTrigbindUnbind, syncOp_core _ ha hh (by simpa using hr)]
  simp only [slotKey_field]
  rw [if_neg (by omega)]
  cases ht : Tab.get? s.dev.triggers (slotKey s k a) with
  | none =>
    refine ⟨_, ?_, went_retire (d := s.dev) rfl rfl rfl, ?_⟩
    · rw [finish_done]
    · simp only [triggers_retire, Tab.getD, ht]
      rfl
  | some t =>
    refine ⟨_, ?_, went_retire (d := { s.dev with triggers := Tab.put s.dev.triggers (slotKey s k a) { t with watch := none, handler := none } })
      rfl rfl rfl, ?_⟩
    · rw [finish_done]
    · simp only [triggers_retire, Tab.getD, ht, tab_get_put]
      rfl

/-- TRIGFIRE fires its slot. -/
theorem trigfire_spec (ha : s.actor = .core k) (hh : (s.dev.core k).held = []) (hr : (s.dev.core k).pendingG a = false) :
    ∃ t, exec (.trigfire a) s = .next t ∧ Went s t k (s.dev.core k).g ∧ Tab.get? t.dev.triggers (slotKey s k a) =
      some { Tab.getD s.dev.triggers (slotKey s k a) Trigger.empty with
        fresh := (Tab.getD s.dev.triggers (slotKey s k a) Trigger.empty).fresh + 1 } := by
  rw [show exec (.trigfire a) s = execTrigfire a s from rfl, execTrigfire, syncOp_core _ ha hh (by simpa using hr)]
  simp only [slotKey_field]
  refine ⟨_, rfl, went_retire (d := s.dev.fire (slotKey s k a)) rfl rfl rfl, ?_⟩
  simp only [finish_done, triggers_retire]
  exact tab_get_put _ _ _

end Bind

/-- The trigger and launch instructions wait while an earlier access of the core waits for a page. -/
theorem launches_wait {s : State} {k : Nat} (a b rc : Reg) (tid : BitVec 11) (flags : BitVec 3) (ha : s.actor = .core k)
    (hh : (s.dev.core k).held ≠ []) {i : Instr} (hi : i ∈ [Instr.glaunch a b tid flags, .gparam a b tid, .trigbindStoreWatch a b rc tid,
      .trigbindRingWatch a b rc tid, .trigbindUnbind a, .trigfire a]) : exec i s = .next (s.stalled k Wait.stalled) := by
  have hwait : ∀ regs f, syncOp regs f s = .next (s.stalled k Wait.stalled) := fun regs f => syncOp_held regs f ha hh
  have htrig : ∀ i w, trigbind a b rc tid i w s = .next (s.stalled k Wait.stalled) := fun _ _ => hwait _ _
  simp only [List.mem_cons, List.not_mem_nil, or_false] at hi
  rcases hi with rfl | rfl | rfl | rfl | rfl | rfl
  · exact (hwait _ _ : execGlaunch a b tid flags s = _)
  · exact (hwait _ _ : execGparam a b tid s = _)
  · exact (htrig _ _ : execTrigbindStoreWatch a b rc tid s = _)
  · exact (htrig _ _ : execTrigbindRingWatch a b rc tid s = _)
  · exact (hwait _ _ : execTrigbindUnbind a s = _)
  · exact (hwait _ _ : execTrigfire a s = _)

/-- GLAUNCH with an address that is not a multiple of 8. -/
theorem glaunch_misaligned {s : State} {k : Nat} {a b : Reg} {tid : BitVec 11} {flags : BitVec 3} (ha : s.actor = .core k)
    (hh : (s.dev.core k).held = []) (hr : (s.dev.core k).pendingG a = false) (h8 : ((s.dev.core k).readG a).toNat % 8 ≠ 0)
    (h : ((s.dev.core k).readG a).toNat + 512 ≤ 2 ^ 56) :
    exec (.glaunch a b tid flags) s = .next (s.trapped k 0x03 ((s.dev.core k).readG a)) := by
  have h0 : (s.dev.core k).readG a ≠ 0 := fun h0 => h8 (by rw [h0]; rfl)
  rw [show exec (.glaunch a b tid flags) s = execGlaunch a b tid flags s from rfl, execGlaunch, syncOp_core _ ha hh (by simpa using hr)]
  dsimp only
  rw [if_neg h0, paramCheck_misaligned h8 h]
  rfl

/-- Settles O52: GLAUNCH by `glaunch_launches` and `glaunch_fails`, and the others by their own lemmas. -/
theorem graphsAreLaunched : Obligations.GraphsAreLaunched := by
  unfold Obligations.GraphsAreLaunched
  refine ⟨fun s k a b rc tid flags ha hh i hi => launches_wait a b rc tid flags ha hh hi, fun t => ?_,
    fun s k a b rc tid ha hh hr => ?_⟩
  · simp only [Trigger.settle, Option.isNone_iff_eq_none]
  have hra : (s.dev.core k).pendingG a = false := hr a (by simp)
  have hrab : ∀ r ∈ [a, b], (s.dev.core k).pendingG r = false := fun r h => hr r (by simp at h ⊢; tauto)
  refine ⟨fun flags d0 d r ps hread huse => ?_, fun hlt h8 flags => glaunch_misaligned ha hh hra h8 (by omega),
    fun d r huse => ⟨fun hb => ?_, gparam_illegal ha hh hrab huse, fun hn hv hpend i w hi => ?_,
      fun hn hv => (storeWatch_eq s a b rc tid).trans (trigbind_refuses _ _ ha hh hr huse hn hv)⟩,
    fun huse => ⟨fun h0 => ?_, gparam_bad ha hh hrab huse⟩,
    unbind_spec ha hh hra, trigfire_spec ha hh hra⟩
  · obtain ⟨hkept, hexec⟩ := glaunch_reads (b := b) (tid := tid) (flags := flags) ha hh hra hread
    obtain ⟨ds, hds⟩ := useKind_eq huse
    have hm : d.mem = s.dev.mem := by rw [hds]; exact hkept.mem_eq
    have hl : d.launches = s.dev.launches := by rw [hds]; exact hkept.launches_eq
    have hn : d.nextLaunch = s.dev.nextLaunch := by rw [hds]; exact hkept.nextLaunch_eq
    have hc : d.core k = d0.core k := by rw [hds]; rfl
    obtain ⟨-, lt, hcore⟩ := hkept
    refine ⟨fun g hcheck => ?_, fun hcheck => ?_⟩
    · rw [← field_low] at hcheck
      obtain ⟨u, x, lt', hu, hwent, hnext, hx, ns, rfl, hsome, -⟩ := glaunch_launches hexec hcore ⟨hc, hm, hn⟩ huse hcheck
      exact ⟨u, _, hu, hwent, hnext, hx, rfl, rfl, rfl, field_low flags, rfl, rfl, rfl, rfl, fun n => (hsome n).trans (newNodes_isSome g n)⟩
    · rw [← field_low] at hcheck
      exact glaunch_fails hexec hcore ⟨hc, hm, hl⟩ huse hcheck
  · obtain ⟨ds, hds⟩ := useKind_eq huse
    have hw : d.world (s.dev.core k).world = s.dev.world (s.dev.core k).world := by rw [hds]; rfl
    refine ⟨_, gparam_sets ha hh hrab huse hb, went_retire ?_ ?_ ?_, fun i => ?_⟩
    · rw [hds]; rfl
    · rw [hds]; rfl
    · rw [hds]; rfl
    · simp only [params_retire, keepParams, world_setWorld, tab_getD_put, hw]
      exact get_set _ _ _ _
  · rcases hi with ⟨rfl, rfl⟩ | ⟨rfl, rfl⟩
    · exact trigbind_spec _ ha hh hr huse hn hv hpend (storeWatch_eq s a b rc tid) rfl
    · exact trigbind_spec _ ha hh hr huse hn hv hpend (ringWatch_eq s a b rc tid) (by simp [field])
  · obtain ⟨hkept, hexec⟩ := glaunch_reads (b := b) (tid := tid) (flags := 0) ha hh hra (.inl ⟨h0, rfl, rfl⟩)
    rw [hexec, glaunch_bad (x := s.ctx) huse]
    rfl

end Sys2Proof.Proofs
end

section
/-! PROOFS. The kill of a team and of a world: what it leaves of the device, and that every team of the world has finished (R44,
R45, R273). -/

namespace Sys2Proof.Proofs

open Sys2Proof Sys2Proof.Machine Sys2Proof.Laws

/-- What a kill leaves: memory, frames, the functions' TDISP states and the foreign-drop counters; tunnels and teams may go, and
teams may finish. -/
structure KillKept (d d' : Dev) : Prop where
  mem : d'.mem = d.mem
  frames : d'.frames = d.frames
  tdisp : ∀ v, (d'.world v).tdisp = (d.world v).tdisp
  foreign : ∀ i, (d'.die i).foreign = (d.die i).foreign
  tunnels : ∀ e ∈ d'.tunnels, e ∈ d.tunnels
  teams : ∀ n v', Tab.get? d'.teams n = some v' →
    ∃ v, Tab.get? d.teams n = some v ∧ v'.world = v.world ∧ (v.finished = true → v'.finished = true)

theorem killKept_of_eq {d d' : Dev} (hm : d'.mem = d.mem) (hf : d'.frames = d.frames) (hw : d'.worlds = d.worlds) (hd : d'.dies = d.dies)
    (htun : d'.tunnels = d.tunnels) (hteam : d'.teams = d.teams) : KillKept d d' where
  mem := hm
  frames := hf
  tdisp v := by rw [Dev.world, hw]; rfl
  foreign i := by rw [Dev.die, hd]; rfl
  tunnels e he := htun ▸ he
  teams n v' h := ⟨v', hteam ▸ h, rfl, id⟩

theorem KillKept.refl (d : Dev) : KillKept d d := killKept_of_eq rfl rfl rfl rfl rfl rfl

theorem KillKept.trans {a b c : Dev} (h : KillKept a b) (h' : KillKept b c) : KillKept a c where
  mem := h'.mem.trans h.mem
  frames := h'.frames.trans h.frames
  tdisp v := (h'.tdisp v).trans (h.tdisp v)
  foreign i := (h'.foreign i).trans (h.foreign i)
  tunnels e he := h.tunnels e (h'.tunnels e he)
  teams n v' hv := by
    obtain ⟨v1, hv1, hw1, hf1⟩ := h'.teams n v' hv
    obtain ⟨v, hv, hw, hf⟩ := h.teams n v1 hv1
    exact ⟨v, hv, hw1.trans hw, hf1 ∘ hf⟩

theorem killKept_foldl {α : Type} {f : Dev → α → Dev} (h : ∀ d a, KillKept d (f d a)) (l : List α) (d : Dev) :
    KillKept d (l.foldl f d) :=
  foldl_related KillKept.refl KillKept.trans h l d

theorem killKept_ite {d a b : Dev} (c : Prop) [Decidable c] (ha : KillKept d a) (hb : KillKept d b) : KillKept d (if c then a else b) := by
  split
  · exact ha
  · exact hb

/-! ## The operations of a kill -/

theorem count_kill (d : Dev) (w i n : Nat) : KillKept d (d.count w i n) := by
  have htdisp := part_count World.tdisp (fun _ _ => rfl) d w i n
  obtain ⟨ws, h⟩ := count_eq d w i n
  rw [h] at htdisp ⊢
  exact ⟨rfl, rfl, htdisp, fun _ => rfl, fun _ he => he, fun _ v' hv => ⟨v', hv, rfl, id⟩⟩

theorem emit_kill (d : Dev) (world : Nat) (counts : Counts) : KillKept d (d.emit world counts) := killKept_of_eq rfl rfl rfl rfl rfl rfl

theorem setCore_kill (d : Dev) (k : Nat) (c : Core) : KillKept d (d.setCore k c) := killKept_of_eq rfl rfl rfl rfl rfl rfl

theorem setQuad_kill (d : Dev) (q : Nat) (x : Quad) : KillKept d (d.setQuad q x) := killKept_of_eq rfl rfl rfl rfl rfl rfl

theorem returnEvent_kill (d : Dev) (n : Network) : KillKept d (d.returnEvent n) := by
  unfold Dev.returnEvent
  split
  · next k h ch _ =>
    unfold Dev.setLent
    dsimp only
    split
    · exact KillKept.refl d
    · exact killKept_ite _ (setCore_kill _ _ _) (KillKept.refl d)
  · exact KillKept.refl d

theorem unload_kill (d : Dev) (q : Nat) : KillKept d (d.unload q) := by
  unfold Dev.unload
  split
  · exact KillKept.refl d
  · next n _ =>
    exact ((returnEvent_kill d n).trans (killKept_foldl (fun d b => killKept_ite _ (setQuad_kill _ _ _) (KillKept.refl d)) n.blocks _)).trans
      (setQuad_kill _ _ _)

theorem closeRendezvous_kill (d : Dev) (k : Nat) : KillKept d (d.closeRendezvous k) :=
  (killKept_foldl (fun d _ => setQuad_kill d _ _) _ d).trans (setQuad_kill _ _ _)

theorem drainPlane_kill (d : Dev) (now : Now) (k n : Nat) : KillKept d (d.drainPlane now k n) := by
  have h1 := killKept_ite ((d.core k).counts.used = true) (emit_kill d ((d.core k).plane n).world (d.core k).counts) (KillKept.refl d)
  have h2 := h1.trans (count_kill _ ((d.core k).plane n).world 0 (now.clock - (d.core k).activeSince))
  have h3 : KillKept d (Dev.closeStreams _ k) := h2.trans (killKept_of_eq rfl rfl rfl rfl rfl rfl)
  exact (h3.trans (killKept_ite _ (closeRendezvous_kill _ k) (KillKept.refl _))).trans (setCore_kill _ k _)

@[simp] theorem die_setDie (d : Dev) (i : Nat) (x : Die) : (d.setDie i x).die i = x := tab_getD_put _ _ _ _
theorem die_setDie_other (d : Dev) {i j : Nat} (x : Die) (h : j ≠ i) : (d.setDie i x).die j = d.die j := tab_getD_put_other _ _ _ h

theorem foreign_setDie_stale (d : Dev) (i n j : Nat) : ((d.setDie i { d.die i with stale := n }).die j).foreign = (d.die j).foreign := by
  by_cases hj : j = i
  · subst hj
    rw [die_setDie]
  · rw [die_setDie_other _ _ hj]

theorem staleDie_kill (d : Dev) (i n : Nat) : KillKept d (d.setDie i { d.die i with stale := n }) :=
  ⟨rfl, rfl, fun _ => rfl, foreign_setDie_stale d i n, fun _ he => he, fun _ v' hv => ⟨v', hv, rfl, id⟩⟩

theorem killCore_kill (d : Dev) (now : Now) (k n : Nat) : KillKept d (d.killCore now k n) := by
  have h1 := (staleDie_kill d (k / 1024) ((d.die (k / 1024)).stale + ((d.core k).pend.filter fun p => p.ready && p.reply).length)).trans
    (count_kill _ (d.core k).world 15 ((d.core k).pend.filter fun p => p.ready && p.reply).length)
  refine ((h1.trans ?_).trans (setCore_kill _ k _)).trans (drainPlane_kill _ now k n)
  exact killKept_of_eq rfl rfl rfl rfl rfl rfl

theorem stopOps_kill (d : Dev) (q e : Nat) (gone : Cmd → Bool) : KillKept d (d.stopOps q e gone) := by
  have h1 := killKept_foldl (f := fun d (o : Cmd) => match o.converted with | some n => d.emit o.issuer.world n | none => d)
    (fun d o => by
      split
      · exact emit_kill d _ _
      · exact KillKept.refl d) ((d.engine q e).running.filter gone) d
  exact h1.trans (killKept_of_eq rfl rfl rfl rfl rfl rfl)

theorem killQuad_kill (d : Dev) (clock team q : Nat) : KillKept d (d.killQuad clock team q) := by
  have hnet : KillKept d (match (d.quad q).net with
      | none => d
      | some n =>
        if n.team = team then d.unload q
        else if (d.engine q 2).running.any fun (o : Cmd) => o.issuer.core.isSome && o.issuer.team == team then
          d.setNet q { n with staged := none, eventSink := if (d.eventChan n).any fun (ch : Chan) => ch.team == team then none else n.eventSink }
        else d) := by
    split
    · exact KillKept.refl d
    · exact killKept_ite _ (unload_kill d q) (killKept_ite _ (setQuad_kill _ _ _) (KillKept.refl d))
  exact (hnet.trans (killKept_foldl (fun d e => stopOps_kill d q e _) _ _)).trans (setQuad_kill _ _ _)

theorem endNode_kill (d : Dev) (l n status cause : Nat) : KillKept d (d.endNode l n status cause) := by
  unfold Dev.endNode
  dsimp only
  split
  · exact killKept_of_eq rfl rfl rfl rfl rfl rfl
  · split
    · exact killKept_of_eq rfl rfl rfl rfl rfl rfl
    · exact killKept_of_eq rfl rfl rfl rfl rfl rfl

theorem tab_get_del {α : Type} (t : Tab α) (k n : Nat) : Tab.get? (Tab.del t k) n = if n = k then none else Tab.get? t n := by
  induction t with
  | nil => simp [Tab.del, Tab.get?]
  | cons e t ih =>
    obtain ⟨k', x⟩ := e
    rw [Tab.del] at ih
    by_cases hk : k' = k
    · rw [Tab.del, List.filter_cons_of_neg (by simpa using hk), ih, Tab.get?]
      by_cases hn : n = k
      · rw [if_pos hn, if_pos hn]
      · rw [if_neg hn, if_neg hn, if_neg (by omega)]
    · rw [Tab.del, List.filter_cons_of_pos (by simpa using hk), Tab.get?, Tab.get?, ih]
      by_cases hn : k' = n
      · rw [if_pos hn, if_neg (by omega), if_pos hn]
      · rw [if_neg hn, if_neg hn]

/-- Where a team retires, its entry and its tunnels go. -/
theorem retireTeam_kill (d : Dev) (team : Nat) : KillKept d (d.retireTeam team) := by
  unfold Dev.retireTeam
  split
  · exact KillKept.refl d
  · next t _ =>
    dsimp only
    refine killKept_ite _ (KillKept.refl d) ?_
    have h := killKept_foldl (f := fun (d : Dev) q => if ((d.quad q).net).any fun (n : Network) => n.team == team then d.unload q else d)
      (fun d q => killKept_ite _ (unload_kill d q) (KillKept.refl d)) t.quads d
    refine h.trans ⟨rfl, rfl, fun _ => rfl, fun _ => rfl, fun _ he => (List.mem_filter.1 he).1, fun n v' hv => ?_⟩
    rw [tab_get_del] at hv
    split at hv
    · cases hv
    · exact ⟨v', hv, rfl, id⟩

/-! ## The kill -/

/-- A killed team's loaded planes are free again, its channels are flushed, and its beads and tunnels are gone. -/
def killRoutes (d : Dev) (team : Nat) (t : Team) : Dev :=
  let d := t.cores.foldl (fun (d : Dev) (k, n) =>
    if d.holds k n team && ((d.core k).plane n).state == .loaded then
      d.setCore k ((d.core k).setPlane n { Plane.empty with gen := ((d.core k).plane n).gen })
    else d) d
  let d := d.flushChans team
  { d with beads := Tab.map (fun _ (b : BeadRoute) => if b.team = team then { b with fly := none } else b) d.beads,
           tunnels := d.tunnels.filter fun e => e.2.team != team }

/-- Its quads' operations end, and then its cores. -/
def killRegion (d : Dev) (now : Now) (team : Nat) (quads : List Nat) (live : List (Nat × Nat)) : Dev :=
  live.foldl (fun d (k, n) => d.killCore now k n) (quads.foldl (fun d q => d.killQuad now.clock team q) d)

/-- The cores of a team whose plane is ACTIVE. -/
def liveOf (d : Dev) (team : Nat) (t : Team) : List (Nat × Nat) :=
  t.cores.filter fun (k, n) => (d.core k).active == some n && ((d.core k).plane n).state == .active && d.holds k n team

/-- The device in which a team's operations, cores and tunnels are gone, before its node ends. -/
def killParts (d : Dev) (now : Now) (team : Nat) (t : Team) : Dev :=
  killRegion (killRoutes d team t) now team t.quads (liveOf d team t)

theorem kill_eq {d : Dev} (now : Now) {team : Nat} {t : Team} (ht : Tab.get? d.teams team = some t) :
    d.kill now team =
      ((if t.finished then killParts d now team t else (killParts d now team t).endNode t.launch t.node 2 0).setTeam team
        { t with finished := true, votes := [] }).retireTeam team := by
  simp only [Dev.kill, ht]
  rfl

theorem killRoutes_spec (d : Dev) (team : Nat) (t : Team) :
    KillKept d (killRoutes d team t) ∧ ∀ e ∈ (killRoutes d team t).tunnels, e.2.team ≠ team := by
  have hplanes := killKept_foldl (f := fun (d : Dev) (e : Nat × Nat) =>
      if d.holds e.1 e.2 team && ((d.core e.1).plane e.2).state == .loaded then
        d.setCore e.1 ((d.core e.1).setPlane e.2 { Plane.empty with gen := ((d.core e.1).plane e.2).gen })
      else d) (fun d e => killKept_ite _ (setCore_kill _ _ _) (KillKept.refl d)) t.cores d
  refine ⟨hplanes.trans ?_, fun e he => by simpa using (List.mem_filter.1 he).2⟩
  exact ⟨rfl, rfl, fun _ => rfl, fun _ => rfl, fun _ he => (List.mem_filter.1 he).1, fun _ v' hv => ⟨v', hv, rfl, id⟩⟩

theorem killRegion_kill (d : Dev) (now : Now) (team : Nat) (quads : List Nat) (live : List (Nat × Nat)) :
    KillKept d (killRegion d now team quads live) := by
  have hquads := killKept_foldl (f := fun d q => d.killQuad now.clock team q) (fun d q => killQuad_kill d now.clock team q) quads d
  have hcores := killKept_foldl (f := fun d (e : Nat × Nat) => d.killCore now e.1 e.2) (fun d e => killCore_kill d now e.1 e.2) live
  exact hquads.trans (hcores _)

theorem killParts_spec (d : Dev) (now : Now) (team : Nat) (t : Team) :
    KillKept d (killParts d now team t) ∧ ∀ e ∈ (killParts d now team t).tunnels, e.2.team ≠ team := by
  obtain ⟨hkept, hgone⟩ := killRoutes_spec d team t
  have hregion := killRegion_kill (killRoutes d team t) now team t.quads (liveOf d team t)
  exact ⟨hkept.trans hregion, fun e he => hgone e (hregion.tunnels e he)⟩

/-- A killed team has no tunnels left, and has finished where it still stands. -/
theorem kill_team {d : Dev} (now : Now) {team : Nat} {t : Team} (ht : Tab.get? d.teams team = some t) :
    KillKept d (d.kill now team) ∧ (∀ e ∈ (d.kill now team).tunnels, e.2.team ≠ team) ∧
      ∀ v, Tab.get? (d.kill now team).teams team = some v → v.finished = true := by
  obtain ⟨hparts, hgone⟩ := killParts_spec d now team t
  rw [kill_eq now ht]
  set d1 := killParts d now team t
  have hended : KillKept d1 (if t.finished = true then d1 else d1.endNode t.launch t.node 2 0) :=
    killKept_ite _ (KillKept.refl d1) (endNode_kill d1 _ _ _ _)
  set d2 := if t.finished = true then d1 else d1.endNode t.launch t.node 2 0
  have hretire := retireTeam_kill (d2.setTeam team { t with finished := true, votes := [] }) team
  have hset : KillKept d (d2.setTeam team { t with finished := true, votes := [] }) := by
    have h := hparts.trans hended
    refine ⟨h.mem, h.frames, h.tdisp, h.foreign, h.tunnels, fun n v' hv => ?_⟩
    rw [teams_setTeam] at hv
    by_cases hn : n = team
    · subst hn
      rw [tab_get_put] at hv
      obtain rfl := Option.some.inj hv
      exact ⟨t, ht, rfl, fun _ => rfl⟩
    · rw [tab_get_put_other _ _ hn] at hv
      exact h.teams n v' hv
  refine ⟨hset.trans hretire, fun e he => hgone e (hended.tunnels e (hretire.tunnels e he)), fun v hv => ?_⟩
  obtain ⟨v1, hv1, -, hf⟩ := hretire.teams team v hv
  rw [teams_setTeam, tab_get_put] at hv1
  obtain rfl := Option.some.inj hv1
  exact hf rfl

theorem kill_none {d : Dev} (now : Now) {team : Nat} (ht : Tab.get? d.teams team = none) : d.kill now team = d := by
  simp only [Dev.kill, ht]

theorem kill_kill (d : Dev) (now : Now) (team : Nat) : KillKept d (d.kill now team) := by
  cases ht : Tab.get? d.teams team with
  | none => rw [kill_none now ht]; exact KillKept.refl d
  | some t => exact (kill_team now ht).1

/-- A team has finished, or is gone. -/
def TeamOver (n : Nat) (d : Dev) : Prop := ∀ v, Tab.get? d.teams n = some v → v.finished = true

theorem kill_over (d : Dev) (now : Now) (team : Nat) : TeamOver team (d.kill now team) := by
  cases ht : Tab.get? d.teams team with
  | none =>
    rw [kill_none now ht]
    intro v hv
    rw [ht] at hv
    cases hv
  | some t => exact (kill_team now ht).2.2

theorem KillKept.over {d d' : Dev} (h : KillKept d d') {n : Nat} (ho : TeamOver n d) : TeamOver n d' := by
  intro v' hv'
  obtain ⟨v, hv, -, hf⟩ := h.teams n v' hv'
  exact hf (ho v hv)

/-- A killed world keeps what a kill keeps, and every team of it has finished or is gone. -/
theorem killWorld_spec (d : Dev) (now : Now) (world : Nat) :
    KillKept d (d.killWorld now world) ∧
      ∀ n v, Tab.get? (d.killWorld now world).teams n = some v → v.world = world → v.finished = true := by
  obtain ⟨hkept, -, hover⟩ := foldl_brings (f := fun d (e : Nat × Team) => d.kill now e.1)
    (l := sortBy (fun (a b : Nat × Team) => decide (a.2.node < b.2.node)) (d.teams.filter fun e => e.2.world == world))
    (P := KillKept d) (Q := fun e d' => TeamOver e.1 d') (fun b e _ hb => hb.trans (kill_kill b now e.1)) (fun b e _ _ => kill_over b now e.1)
    (fun b _ e' _ _ ho => (kill_kill b now e'.1).over ho) (KillKept.refl d)
  refine ⟨hkept, fun n v hv hw => ?_⟩
  obtain ⟨v0, hv0, hw0, -⟩ := hkept.teams n v hv
  refine hover (n, v0) ((mem_sortBy _ _ _).2 (List.mem_filter.2 ⟨tab_mem_of_get hv0, ?_⟩)) v hv
  simp [← hw0, hw]

end Sys2Proof.Proofs
end

section
/-! PROOFS. Tag checks, tunnels, TDISP and the SPDM responder, and what O59 says (R295, R297, R310 to R313). -/

namespace Sys2Proof.Proofs

open Sys2Proof Sys2Proof.Machine Sys2Proof.Laws

/-! ## Tag checks (R294, R295) -/

theorem meshPacket_passes {s : State} {row place w gen : Nat} (h : s.dev.tagCheck row place w (BitVec.ofNat 16 gen) = .pass) :
    exec (.meshPacketEnters row place w gen) s = .next s := by
  rw [show exec (.meshPacketEnters row place w gen) s = execMeshPacketEnters row place w gen s from rfl, execMeshPacketEnters, run_next, h]

theorem die_event (d : Dev) (now : Now) (kind world die : Nat) (payload : Bytes) (i : Nat) :
    (d.event now kind world die payload).die i = d.die i := by
  obtain ⟨ws, hm, h⟩ := event_eq d now kind world die payload
  rw [h]; rfl

theorem tdisp_event (d : Dev) (now : Now) (kind world die : Nat) (payload : Bytes) (v : Nat) :
    ((d.event now kind world die payload).world v).tdisp = (d.world v).tdisp := by
  have hset : ∀ (d : Dev) (x : World), x.tdisp = (d.world world).tdisp → ((d.setWorld world x).world v).tdisp = (d.world v).tdisp := by
    intro d x hx
    by_cases hv : v = world
    · subst hv
      rw [world_setWorld, hx]
    · rw [world_setWorld_other _ _ hv]
  unfold Dev.event
  dsimp only
  split
  · rfl
  · split
    · exact hset d _ rfl
    · exact hset _ _ rfl

/-- A dropped packet is counted by its die, and told to the root world. -/
theorem foreignDrop_spec (d : Dev) (now : Now) (die world : Nat) (gen : BitVec 16) (router : Nat) :
    (d.foreignDrop now die world gen router).mem = d.mem ∧
    ((d.foreignDrop now die world gen router).die die).foreign = ((d.die die).foreign + 1) % 2 ^ 48 ∧
    (∀ v, ((d.foreignDrop now die world gen router).world v).tdisp = (d.world v).tdisp) ∧
    ∃ ds ws hm, d.foreignDrop now die world gen router = { d with dies := ds, worlds := ws, hostMem := hm } := by
  unfold Dev.foreignDrop
  refine ⟨by rw [mem_event]; rfl, by rw [die_event, die_setDie], fun v => (tdisp_event _ _ _ _ _ _ v).trans rfl, ?_⟩
  obtain ⟨ws, hm, h⟩ := event_eq (d.setDie die { d.die die with foreign := ((d.die die).foreign + 1) % 2 ^ 48 }) now 6 0 die
    (items [router, world, gen.toNat])
  exact ⟨_, ws, hm, h⟩

theorem meshPacket_drops {s : State} {row place w gen die router : Nat} (h : s.dev.tagCheck row place w (BitVec.ofNat 16 gen) = .drop die router) :
    ∃ t, exec (.meshPacketEnters row place w gen) s = .next t ∧ t.dev.mem = s.dev.mem ∧
      (t.dev.die die).foreign = ((s.dev.die die).foreign + 1) % 2 ^ 48 := by
  rw [show exec (.meshPacketEnters row place w gen) s = execMeshPacketEnters row place w gen s from rfl, execMeshPacketEnters, run_next, h]
  obtain ⟨hm, hf, -, -⟩ := foreignDrop_spec s.dev s.now die w (BitVec.ofNat 16 gen) router
  exact ⟨_, rfl, hm, hf⟩

theorem meshPacket_stale {s : State} {row place w gen die : Nat} (h : s.dev.tagCheck row place w (BitVec.ofNat 16 gen) = .stale die) :
    ∃ t, exec (.meshPacketEnters row place w gen) s = .next t ∧ t.dev.mem = s.dev.mem ∧ (t.dev.die die).stale = (s.dev.die die).stale + 1 := by
  rw [show exec (.meshPacketEnters row place w gen) s = execMeshPacketEnters row place w gen s from rfl, execMeshPacketEnters, run_next, h]
  obtain ⟨ws, hc⟩ := count_eq (s.dev.setDie die { s.dev.die die with stale := (s.dev.die die).stale + 1 }) w 15 1
  refine ⟨_, rfl, ?_, ?_⟩
  · simp only [Dev.countStale, hc]
    rfl
  · simp only [Dev.countStale, hc]
    exact congrArg Die.stale (die_setDie s.dev die _)

/-- The checks of Table 21.2. -/
def TagPasses (d : Dev) (row place w gen : Nat) : Prop :=
  match row with
  | 0 => (d.world w).owns place = true
  | 1 => ∃ t, Tab.get? d.tunnels (place % 2 ^ 32) = some t ∧ t.isOpen = true ∧ t.world = w ∧ t.die = place / 2 ^ 32
  | 2 => d.portOpen w (place % 2048) = true
  | _ => ((d.core (place / 4)).plane (place % 4)).world = w ∧ ((d.core (place / 4)).plane (place % 4)).gen = BitVec.ofNat 16 gen

/-- The die whose router drops a packet of a row. -/
def dropDie (row place : Nat) : Nat := match row with | 0 => place / 256 | 1 => place / 2 ^ 32 | _ => place / 4096 % 4

theorem tunnelOpen_iff (d : Dev) (n w die : Nat) :
    ((Tab.get? d.tunnels n).any fun t => t.isOpen && t.world == w && t.die == die) = true ↔
      ∃ t, Tab.get? d.tunnels n = some t ∧ t.isOpen = true ∧ t.world = w ∧ t.die = die := by
  cases Tab.get? d.tunnels n <;> simp [and_assoc]

theorem tagCheck_pass {d : Dev} {row place w gen : Nat} (hrow : row ≤ 3) (h : TagPasses d row place w gen) :
    d.tagCheck row place w (BitVec.ofNat 16 gen) = .pass := by
  interval_cases row
  · exact if_pos h
  · exact if_pos ((tunnelOpen_iff _ _ _ _).2 h)
  · exact if_pos h
  · exact if_pos h

theorem tagCheck_drop {d : Dev} {row place w gen : Nat} (hrow : row ≤ 3) (h3 : row ≠ 3) (h : ¬ TagPasses d row place w gen) :
    ∃ router, d.tagCheck row place w (BitVec.ofNat 16 gen) = .drop (dropDie row place) router := by
  interval_cases row
  · exact ⟨_, if_neg h⟩
  · exact ⟨_, if_neg fun hp => h ((tunnelOpen_iff _ _ _ _).1 hp)⟩
  · exact ⟨_, if_neg h⟩
  · exact absurd rfl h3

/-! ## Tunnels (R297) -/

/-- The packets that an exit router takes: a right tag, and a counter above the last. -/
def TunnelTakes (x : Tunnel) (c : Nat) (ok : Bool) : Prop := ok = true ∧ ∀ last, x.counter = some last → last < BitVec.ofNat 64 c

theorem accepts_iff (x : Tunnel) (c : Nat) (ok : Bool) : x.accepts (BitVec.ofNat 64 c) ok = true ↔ TunnelTakes x c ok := by
  unfold Tunnel.accepts TunnelTakes
  cases x.counter <;> simp

theorem tunnelPacket_accepted {s : State} {n c : Nat} {ok : Bool} {x : Tunnel} (hx : Tab.get? s.dev.tunnels n = some x) (ho : x.isOpen = true)
    (h : TunnelTakes x c ok) : exec (.tunnelPacketExit n c ok) s = .next { s with
      dev := { s.dev with tunnels := Tab.put s.dev.tunnels n { x with counter := some (BitVec.ofNat 64 c),
                                                                      sent := Nat.max x.sent (c % 2 ^ 64 + 1) } } } := by
  rw [show exec (.tunnelPacketExit n c ok) s = execTunnelPacketExit n c ok s from rfl, execTunnelPacketExit, run_next]
  simp only [hx, ho, (accepts_iff x c ok).2 h, Bool.not_true, Bool.false_eq_true, if_false, if_true]

theorem tunnelPacket_refused {s : State} {n c : Nat} {ok : Bool} {x : Tunnel} (hx : Tab.get? s.dev.tunnels n = some x) (ho : x.isOpen = true)
    (h : ¬ TunnelTakes x c ok) : exec (.tunnelPacketExit n c ok) s = .next { s with dev := s.dev.tunnelFail s.now n x } := by
  have hacc : x.accepts (BitVec.ofNat 64 c) ok = false := Bool.eq_false_iff.2 fun hp => h ((accepts_iff x c ok).1 hp)
  rw [show exec (.tunnelPacketExit n c ok) s = execTunnelPacketExit n c ok s from rfl, execTunnelPacketExit, run_next]
  simp only [hx, ho, hacc, Bool.not_true, Bool.false_eq_true, if_false, State.ctx]

theorem tdisp_fail {w w' : World} (h : w.tdisp = w'.tdisp) : w.fail.tdisp = if w'.locked then .error else w'.tdisp := by
  have hl : w.locked = w'.locked := by rw [World.locked, World.locked, h]
  rw [World.fail, hl]
  split
  · rfl
  · exact h

/-- A kill leaves a tunnel as it is, or none of the team's is left. -/
theorem kill_tunnel {d : Dev} (now : Now) {team n : Nat} {x : Tunnel} (hx : Tab.get? d.tunnels n = some x) :
    Tab.get? (d.kill now team).tunnels n = some x ∨ ∀ e ∈ (d.kill now team).tunnels, e.2.team ≠ team := by
  cases ht : Tab.get? d.teams team with
  | none => rw [kill_none now ht]; exact .inl hx
  | some t => exact .inr (kill_team now ht).2.1

/-- The device in which a tunnel is closed. -/
def closedTunnel (d : Dev) (n : Nat) (x : Tunnel) : Dev := { d with tunnels := Tab.put d.tunnels n { x with isOpen := false } }

theorem tunnelFail_eq (d : Dev) (now : Now) (n : Nat) (x : Tunnel) :
    let d' := (closedTunnel (d.foreignDrop now x.die x.world (d.teamGen x.team) n) n x).kill now x.team
    d.tunnelFail now n x = d'.setWorld x.world (d'.world x.world).fail := rfl

/-- A tunnel that fails is closed or gone, its function is in ERROR where it was locked, and its die has counted the packet. -/
theorem tunnelFail_spec (d : Dev) (now : Now) (n : Nat) (x : Tunnel) :
    (d.tunnelFail now n x).mem = d.mem ∧
    ((d.tunnelFail now n x).world x.world).tdisp = (if (d.world x.world).locked then .error else (d.world x.world).tdisp) ∧
    (Tab.get? (d.tunnelFail now n x).tunnels n = some { x with isOpen := false } ∨
      ∀ e ∈ (d.tunnelFail now n x).tunnels, e.2.team ≠ x.team) ∧
    ((d.tunnelFail now n x).die x.die).foreign = ((d.die x.die).foreign + 1) % 2 ^ 48 := by
  obtain ⟨hm, hf, ht, -⟩ := foreignDrop_spec d now x.die x.world (d.teamGen x.team) n
  rw [tunnelFail_eq]
  set d1 := closedTunnel (d.foreignDrop now x.die x.world (d.teamGen x.team) n) n x with hd1
  have hkill := kill_kill d1 now x.team
  have htunnel := kill_tunnel (d := d1) now (team := x.team) (n := n) (x := { x with isOpen := false }) (tab_get_put _ _ _)
  refine ⟨hkill.mem.trans hm, ?_, htunnel, (hkill.foreign x.die).trans hf⟩
  rw [world_setWorld]
  exact tdisp_fail ((hkill.tdisp x.world).trans (ht x.world))

/-! ## TDISP (R313) -/

section Tdisp

variable {s : State} {w : Nat}

theorem fail_locked {x : World} (h : x.tdisp = .configLocked ∨ x.tdisp = .run) : x.fail = { x with tdisp := .error } := by
  have hl : x.locked = true := by rcases h with h | h <;> simp [World.locked, h]
  rw [World.fail, if_pos hl]

theorem fail_unlocked {x : World} (h : x.tdisp = .configUnlocked ∨ x.tdisp = .error) : x.fail = x := by
  have hl : x.locked = false := by rcases h with h | h <;> simp [World.locked, h]
  rw [World.fail, hl]
  rfl

theorem isVf_of (h1 : 1 ≤ w) (h2 : w < 256) : isVf w = true := by simp [isVf, h1, h2]

theorem lock_waits (h : (s.dev.world w).tdisp ≠ .configUnlocked ∨ (s.dev.world w).changedAt = some s.now.clock) :
    exec (.lockInterfaceRequest w) s = .next s := by
  have hnot : ¬ (isVf w = true ∧ (s.dev.world w).tdisp = .configUnlocked ∧ (s.dev.world w).changedAt ≠ some s.ctx.now.clock) :=
    fun ⟨_, hu, hc⟩ => h.elim (fun hn => hn hu) hc
  rw [show exec (.lockInterfaceRequest w) s = execLockInterfaceRequest w s from rfl, execLockInterfaceRequest, run_next]
  dsimp only
  rw [if_neg hnot]

theorem lock_locks (hvf : isVf w = true) (h : (s.dev.world w).tdisp = .configUnlocked) (hc : (s.dev.world w).changedAt ≠ some s.now.clock) :
    ∃ report, exec (.lockInterfaceRequest w) s = .next { s with
      dev := s.dev.setWorld w { s.dev.world w with tdisp := .configLocked, report := report } } := by
  rw [show exec (.lockInterfaceRequest w) s = execLockInterfaceRequest w s from rfl, execLockInterfaceRequest, run_next]
  have hpos : isVf w = true ∧ (s.dev.world w).tdisp = .configUnlocked ∧ (s.dev.world w).changedAt ≠ some s.ctx.now.clock := ⟨hvf, h, hc⟩
  dsimp only
  rw [if_pos hpos]
  exact ⟨_, rfl⟩

theorem start_runs (hvf : isVf w = true) (h : (s.dev.world w).tdisp = .configLocked) :
    exec (.startInterfaceRequest w) s = .next { s with dev := s.dev.setWorld w { s.dev.world w with tdisp := .run } } := by
  rw [show exec (.startInterfaceRequest w) s = execStartInterfaceRequest w s from rfl, execStartInterfaceRequest, run_next]
  dsimp only
  rw [if_pos ⟨hvf, h⟩]

theorem start_waits (h : (s.dev.world w).tdisp ≠ .configLocked) : exec (.startInterfaceRequest w) s = .next s := by
  rw [show exec (.startInterfaceRequest w) s = execStartInterfaceRequest w s from rfl, execStartInterfaceRequest, run_next]
  dsimp only
  rw [if_neg fun hp => h hp.2]

theorem integrity_fails (hvf : isVf w = true) :
    exec (.ideIntegrityFailure w) s = .next { s with dev := s.dev.setWorld w (s.dev.world w).fail } := by
  rw [show exec (.ideIntegrityFailure w) s = execIdeIntegrityFailure w s from rfl, execIdeIntegrityFailure, run_next, if_pos hvf]

theorem stop_stops (hvf : isVf w = true) (h : (s.dev.world w).tdisp ≠ .configUnlocked) :
    let d := (s.dev.killWorld s.now w).scrubWorld w
    exec (.stopInterfaceRequest w) s = .next { s with dev := d.setWorld w { d.world w with tdisp := .configUnlocked } } := by
  rw [show exec (.stopInterfaceRequest w) s = execStopInterfaceRequest w s from rfl, execStopInterfaceRequest, run_next, if_pos ⟨hvf, h⟩]
  rfl

end Tdisp

/-- The frames of a world that it may still use. -/
def framesOf (d : Dev) (world : Nat) : List Nat :=
  Tab.keys (fun _ (f : Frame) => f.world == world && (f.state == .inUse || f.state == .freeing)) d.frames

/-- The frames enter SCRUB_PENDING, one after another. -/
def scrubFrames (d : Dev) (fs : List Nat) : Dev := fs.foldl (fun (d : Dev) i => d.setFrame i { d.frame i with state := .scrubPending }) d

theorem scrubFrames_eq (d : Dev) (fs : List Nat) : ∃ fr, scrubFrames d fs = { d with frames := fr } := by
  induction fs generalizing d with
  | nil => exact ⟨_, rfl⟩
  | cons f fs ih =>
    obtain ⟨fr, h⟩ := ih (d.setFrame f { d.frame f with state := .scrubPending })
    exact ⟨fr, h⟩

theorem scrubFrames_pending (d : Dev) {fs : List Nat} {f : Nat} (hf : f ∈ fs) : ((scrubFrames d fs).frame f).state = .scrubPending := by
  obtain ⟨-, -, h⟩ := foldl_brings (f := fun (d : Dev) i => d.setFrame i { d.frame i with state := .scrubPending }) (l := fs)
    (P := fun _ => True) (Q := fun i d => (d.frame i).state = .scrubPending) (fun _ _ _ _ => trivial)
    (fun b i _ _ => by rw [frame_setFrame])
    (fun b i j _ _ hi => by
      by_cases hj : i = j
      · subst hj
        rw [frame_setFrame]
      · exact (congrArg Frame.state (tab_getD_put_other b.frames _ Frame.clean hj)).trans hi) (b := d) trivial
  exact h f hf

theorem scrubWorld_eq (d : Dev) (world : Nat) :
    ∃ sq st, d.scrubWorld world =
      ({ scrubFrames d (framesOf d world) with scrubQueue := sq, stale := st } : Dev).setWorld world
        ((scrubFrames d (framesOf d world)).world world).unmapAll := ⟨_, _, rfl⟩

theorem mem_framesOf {d : Dev} {world f : Nat} (hw : (d.frame f).world = world) (hst : (d.frame f).state = .inUse) : f ∈ framesOf d world := by
  cases hf : Tab.get? d.frames f with
  | none =>
    rw [Dev.frame, Tab.getD, hf] at hst
    exact absurd hst (by decide)
  | some x =>
    rw [Dev.frame, Tab.getD, hf] at hw hst
    refine List.mem_map.2 ⟨(f, x), List.mem_filter.2 ⟨tab_mem_of_get hf, ?_⟩, rfl⟩
    have hw' : x.world = world := hw
    have hst' : x.state = .inUse := hst
    simp [hw', hst']

/-- A world with its memory unmapped has the leaves of ports alone. -/
theorem leaves_unmapAll (w : World) : ∀ e ∈ w.unmapAll.leaves, leafPort e.2 = true := by
  intro e he
  unfold World.leaves World.unmapAll at he
  dsimp only at he
  split at he
  · next r _ =>
    rw [Tab.getD, tab_get_map] at he
    cases ht : Tab.get? w.tables r with
    | none => rw [ht] at he; simp at he
    | some t =>
      rw [ht] at he
      exact (List.mem_filter.1 he).2
  · simp at he

theorem scrubWorld_spec (d : Dev) (world : Nat) :
    (d.scrubWorld world).mem = d.mem ∧ (d.scrubWorld world).teams = d.teams ∧
    (∀ e ∈ ((d.scrubWorld world).world world).leaves, leafPort e.2 = true) ∧
    ∀ f, (d.frame f).world = world → (d.frame f).state = .inUse → ((d.scrubWorld world).frame f).state = .scrubPending := by
  obtain ⟨sq, st, h⟩ := scrubWorld_eq d world
  obtain ⟨fr, hfr⟩ := scrubFrames_eq d (framesOf d world)
  rw [h]
  refine ⟨?_, ?_, fun e he => ?_, fun f hw hst => ?_⟩
  · rw [hfr]; rfl
  · rw [hfr]; rfl
  · rw [world_setWorld] at he
    exact leaves_unmapAll _ e he
  · exact scrubFrames_pending d (mem_framesOf hw hst)

/-- STOP_INTERFACE_REQUEST: the world's teams have finished, its memory is unmapped and its frames wait for scrubbing. -/
theorem stop_spec {s : State} {w : Nat} (hvf : isVf w = true) (h : (s.dev.world w).tdisp ≠ .configUnlocked) :
    ∃ t, exec (.stopInterfaceRequest w) s = .next t ∧ (t.dev.world w).tdisp = .configUnlocked ∧ t.dev.mem = s.dev.mem ∧
      (∀ e ∈ (t.dev.world w).leaves, leafPort e.2 = true) ∧
      (∀ n v, Tab.get? t.dev.teams n = some v → v.world = w → v.finished = true) ∧
      ∀ f, (s.dev.frame f).world = w → (s.dev.frame f).state = .inUse → (t.dev.frame f).state = .scrubPending := by
  obtain ⟨hkill, hover⟩ := killWorld_spec s.dev s.now w
  obtain ⟨hmem, hteams, hleaves, hframes⟩ := scrubWorld_spec (s.dev.killWorld s.now w) w
  refine ⟨_, stop_stops hvf h, ?_, hmem.trans hkill.mem, fun e he => ?_, fun n v hv => ?_, fun f hw hst => ?_⟩
  · rw [world_setWorld]
  · rw [world_setWorld] at he
    exact hleaves e he
  · exact hover n v (hteams ▸ hv)
  · have hframe : (s.dev.killWorld s.now w).frame f = s.dev.frame f := by rw [Dev.frame, hkill.frames]; rfl
    exact hframes f (hframe ▸ hw) (hframe ▸ hst)

/-! ## SPDM (R310, R311) -/

section Spdm

variable {s : State} {fn : Nat} {ready : Spdm → Bool} {f : Ctx → Dev → Spdm → Spdm}

theorem spdm_ready (hfn : fn < 256) (h : ready (s.dev.spdmOf fn) = true) :
    spdm fn ready f s = .next { s with dev := s.dev.setSpdm fn (f s.ctx s.dev (s.dev.spdmOf fn)) } := by
  rw [spdm, run_next, if_neg (by omega)]
  dsimp only
  rw [if_pos h]

theorem spdm_early (hfn : fn < 256) (h : ready (s.dev.spdmOf fn) = false) :
    spdm fn ready f s = .next { s with dev := s.dev.setSpdm fn { s.dev.spdmOf fn with reply := [] } } := by
  rw [spdm, run_next, if_neg (by omega)]
  dsimp only
  rw [if_neg (by simp [h])]

end Spdm

/-- An answer to a request that is not part of the transcript. -/
theorem answer_nil (x : Spdm) (reply : Bytes) : x.answer [] reply = { x with transcript := x.transcript ++ reply, reply := reply } := by
  rw [Spdm.answer, List.append_nil]

theorem blockIndices_one : ∀ i ∈ blockIndices, (blockIndices.filter fun j => i == 0xFF || j == i) = [i] := by decide

/-- A request for one measurement block is answered with it alone. -/
theorem blocks_one {d : Dev} {fn index : Nat} {value : Bytes} (hi : index ∈ blockIndices) (hv : d.block fn index = some value) :
    d.blocks fn index = BitVec.ofNat 8 index :: value := by
  rw [Dev.blocks, blockIndices_one index hi]
  simp [hv]

section Requests

variable {s : State} {fn slot index : Nat} (hfn : fn < 256) (nonce pub : Bytes)

/-- The state in which the connection of function `fn` stands at `y`. -/
def answered (s : State) (fn : Nat) (y : Spdm) : State := { s with dev := s.dev.setSpdm fn y }

include hfn

theorem getVersion_answers : exec (.getVersion fn) s = .next (answered s fn
    { version := true, capabilities := false, algorithms := false, exchanged := false, session := false,
      transcript := Config.spdmAnswer 0, secret := [], reply := Config.spdmAnswer 0 }) :=
  (spdm_ready hfn rfl : execGetVersion fn s = _)

theorem getCapabilities_answers (h : (s.dev.spdmOf fn).version = true) : exec (.getCapabilities fn) s = .next (answered s fn
    { s.dev.spdmOf fn with
      capabilities := true, transcript := (s.dev.spdmOf fn).transcript ++ Config.spdmAnswer 1, reply := Config.spdmAnswer 1 }) := by
  rw [show exec (.getCapabilities fn) s = execGetCapabilities fn s from rfl, execGetCapabilities, spdm_ready hfn h, answer_nil]
  rfl

theorem getCapabilities_early (h : (s.dev.spdmOf fn).version = false) :
    exec (.getCapabilities fn) s = .next (answered s fn { s.dev.spdmOf fn with reply := [] }) := by
  rw [show exec (.getCapabilities fn) s = execGetCapabilities fn s from rfl, execGetCapabilities, spdm_early hfn h]
  rfl

theorem negotiateAlgorithms_answers (h : (s.dev.spdmOf fn).capabilities = true) : exec (.negotiateAlgorithms fn) s = .next (answered s fn
    { s.dev.spdmOf fn with
      algorithms := true, transcript := (s.dev.spdmOf fn).transcript ++ Config.spdmAnswer 2, reply := Config.spdmAnswer 2 }) := by
  rw [show exec (.negotiateAlgorithms fn) s = execNegotiateAlgorithms fn s from rfl, execNegotiateAlgorithms, spdm_ready hfn h, answer_nil]
  rfl

theorem getDigests_answers (h : (s.dev.spdmOf fn).algorithms = true) :
    let digests := ([0, 1, 2, 3, 4] : List Nat).flatMap fun i => sha512 (Config.certificate i)
    exec (.getDigests fn) s = .next (answered s fn
      { s.dev.spdmOf fn with transcript := (s.dev.spdmOf fn).transcript ++ digests, reply := digests }) := by
  rw [show exec (.getDigests fn) s = execGetDigests fn s from rfl, execGetDigests, spdm_ready hfn h, answer_nil]
  rfl

theorem getCertificate_answers (h : (s.dev.spdmOf fn).algorithms = true) (hs : slot < 5) : exec (.getCertificate fn slot) s = .next (answered s fn
    { s.dev.spdmOf fn with
      transcript := (s.dev.spdmOf fn).transcript ++ Config.certificate slot, reply := Config.certificate slot }) := by
  rw [show exec (.getCertificate fn slot) s = execGetCertificate fn slot s from rfl, execGetCertificate, spdm_ready hfn (by simp [h, hs]),
    answer_nil]
  rfl

theorem getCertificate_early (hs : 5 ≤ slot) :
    exec (.getCertificate fn slot) s = .next (answered s fn { s.dev.spdmOf fn with reply := [] }) := by
  rw [show exec (.getCertificate fn slot) s = execGetCertificate fn slot s from rfl, execGetCertificate, spdm_early hfn (by simp [hs])]
  rfl

theorem challenge_answers (h : (s.dev.spdmOf fn).algorithms = true) (hs : slot < 5) :
    let body := sha512 (Config.certificate slot) ++ Config.nonce s.seq
    let sig := Config.ed25519Sign slot ((s.dev.spdmOf fn).transcript ++ nonce ++ body)
    exec (.challenge fn slot nonce) s = .next (answered s fn
      { s.dev.spdmOf fn with transcript := (s.dev.spdmOf fn).transcript ++ nonce ++ (body ++ sig), reply := body ++ sig }) := by
  rw [show exec (.challenge fn slot nonce) s = execChallenge fn slot nonce s from rfl, execChallenge, spdm_ready hfn (by simp [h, hs])]
  rfl

theorem getMeasurements_answers {value : Bytes} (h : (s.dev.spdmOf fn).algorithms = true) (hi : index ∈ blockIndices)
    (hv : s.dev.block fn index = some value) :
    ∃ y, exec (.getMeasurements fn index nonce) s = .next (answered s fn y) ∧ y.reply = BitVec.ofNat 8 index :: value ++ Config.nonce s.seq ++
      Config.ed25519Sign 0 (nonce ++ (BitVec.ofNat 8 index :: value ++ Config.nonce s.seq)) := by
  have hready : ((s.dev.spdmOf fn).algorithms && (index == 0xFF || blockIndices.contains index)) = true := by
    rw [h, List.contains_iff_mem.2 hi, Bool.or_true]
    rfl
  rw [show exec (.getMeasurements fn index nonce) s = execGetMeasurements fn index nonce s from rfl, execGetMeasurements,
    spdm_ready hfn hready, blocks_one hi hv]
  exact ⟨_, rfl, rfl⟩

theorem keyExchange_answers (h : (s.dev.spdmOf fn).algorithms = true) :
    ∃ y, exec (.keyExchange fn pub) s = .next (answered s fn y) ∧ y.exchanged = true ∧ y.session = false ∧
      y.secret = Config.x25519Shared s.seq pub ∧ y.reply = Config.x25519Public s.seq ++
        Config.ed25519Sign 0 ((s.dev.spdmOf fn).transcript ++ pub ++ Config.x25519Public s.seq) := by
  rw [show exec (.keyExchange fn pub) s = execKeyExchange fn pub s from rfl, execKeyExchange, spdm_ready hfn h]
  exact ⟨_, rfl, rfl, rfl, rfl, rfl⟩

theorem finish_establishes (h : (s.dev.spdmOf fn).exchanged = true) :
    ∃ y, exec (.finish fn (Config.finishVerify (s.dev.spdmOf fn).secret (s.dev.spdmOf fn).transcript)) s = .next (answered s fn y) ∧
      y.session = true ∧ y.exchanged = false := by
  rw [show exec (.finish fn _) s = execFinish fn _ s from rfl, execFinish, spdm_ready hfn (by simp [h])]
  exact ⟨_, rfl, rfl, rfl⟩

theorem finish_refuses (h : pub ≠ Config.finishVerify (s.dev.spdmOf fn).secret (s.dev.spdmOf fn).transcript) :
    exec (.finish fn pub) s = .next (answered s fn { s.dev.spdmOf fn with reply := [] }) := by
  rw [show exec (.finish fn pub) s = execFinish fn pub s from rfl, execFinish, spdm_early hfn (by simp [h])]
  rfl

theorem endSession_ends (h : (s.dev.spdmOf fn).session = true) :
    ∃ y, exec (.endSession fn) s = .next (answered s fn y) ∧ y.session = false ∧ y.secret = [] := by
  rw [show exec (.endSession fn) s = execEndSession fn s from rfl, execEndSession, spdm_ready hfn h]
  exact ⟨_, rfl, rfl, rfl⟩

end Requests

/-- Settles O59: the tag checks, tunnels and TDISP by their lemmas, and the SPDM responder by `spdm_ready` and `spdm_early`. -/
theorem tenantsAreSeparatedAndAttested : Obligations.TenantsAreSeparatedAndAttested := by
  unfold Obligations.TenantsAreSeparatedAndAttested
  refine ⟨fun s row place w gen hrow => ?_, fun s n c ok x hx ho => ?_, fun s w h1 h2 => ?_, fun s fn slot index nonce pub hfn => ?_⟩
  · refine ⟨fun h => meshPacket_passes (tagCheck_pass hrow h), fun h h3 => ?_, fun h h3 => ?_⟩
    · obtain ⟨router, hdrop⟩ := tagCheck_drop hrow h3 h
      exact meshPacket_drops hdrop
    · subst h3
      exact meshPacket_stale (if_neg h)
  · refine ⟨tunnelPacket_accepted hx ho, fun h => ⟨_, tunnelPacket_refused hx ho h, tunnelFail_spec s.dev s.now n x⟩⟩
  · have hvf := isVf_of h1 h2
    refine ⟨fun _ hc => lock_waits (.inr hc), lock_locks hvf, start_runs hvf, start_waits, fun h => ⟨lock_waits (.inl h), stop_spec hvf h⟩,
      fun h => ?_, fun h => ⟨_, integrity_fails hvf, ?_⟩⟩
    · exact (integrity_fails hvf).trans (by rw [fail_locked h])
    · rw [world_setWorld, fail_unlocked h]
  · refine ⟨getVersion_answers hfn, getCapabilities_answers hfn, getCapabilities_early hfn, negotiateAlgorithms_answers hfn,
      fun hal => ?_, fun hex => ⟨finish_establishes hfn hex, finish_refuses hfn pub⟩, endSession_ends hfn, rfl, rfl⟩
    refine ⟨⟨_, rfl, getDigests_answers hfn hal⟩, fun hslot => ?_, getCertificate_early hfn, fun value hv hi => ?_,
      keyExchange_answers hfn pub hal⟩
    · exact ⟨getCertificate_answers hfn hal hslot, _, _, rfl, rfl, challenge_answers hfn nonce hal hslot⟩
    · exact ⟨_, rfl, getMeasurements_answers hfn nonce hal hi hv⟩

end Sys2Proof.Proofs
end

section
/-! PROOFS. NCNT: the counts of a plane leave as a group of tokens, and the core waits until it has landed (R67, R68, R110). -/

namespace Sys2Proof.Proofs

open Sys2Proof Sys2Proof.Machine Sys2Proof.Laws

theorem core_emit (d : Dev) (world : Nat) (counts : Counts) (k : Nat) : (d.emit world counts).core k = d.core k := rfl

theorem emit_setCore (d : Dev) (world : Nat) (counts : Counts) (k : Nat) (c : Core) :
    (d.emit world counts).setCore k c = (d.setCore k c).emit world counts := rfl

/-- The first issue: the group leaves, the counts are cleared, and the core waits on the group's tag. -/
theorem ncnt_sends {s : State} {k : Nat} (ha : s.actor = .core k) (hst : (s.dev.core k).stage = .none) :
    exec .ncnt s = .next { s with dev := (s.dev.setCore k { s.dev.core k with
      counts := Counts.zero, stage := .counting s.dev.nextToken, wait := some Wait.stalled }).emit (s.dev.core k).world (s.dev.core k).counts } := by
  rw [show exec .ncnt s = execNcnt s from rfl, execNcnt, onCore_core _ ha]
  simp only [hst, Dev.finish, core_emit, core_setCore, emit_setCore, setCore_setCore, Option.getD_none]

/-- A later issue, once no group of its tag is under way: it completes. -/
theorem ncnt_completes {s : State} {k tag : Nat} (ha : s.actor = .core k) (hst : (s.dev.core k).stage = .counting tag)
    (hlanded : ∀ x ∈ s.dev.tokens, x.tag ≠ tag) : exec .ncnt s = .next (s.completedCore k (s.dev.core k)) := by
  have hnone : (s.dev.tokens.any fun x => x.tag == tag) = false := by simpa using hlanded
  rw [show exec .ncnt s = execNcnt s from rfl, execNcnt, onCore_core _ ha]
  simp only [hst, hnone, Bool.false_eq_true, if_false, finish_done, State.completedCore, State.completed, Dev.retire, core_setCore, setCore_setCore]

/-- Settles O26: the issue that sends the group, and the one that finds it landed. -/
theorem countsAreSentAndAwaited : Obligations.CountsAreSentAndAwaited := by
  unfold Obligations.CountsAreSentAndAwaited
  exact fun s k ha => ⟨fun hst => ncnt_sends ha hst, fun tag hst hlanded => ncnt_completes ha hst hlanded⟩

end Sys2Proof.Proofs
end

section
/-! PROOFS. The channel instructions and the arrivals of counts (R204 to R211). -/

namespace Sys2Proof.Proofs

open Sys2Proof Sys2Proof.Machine Sys2Proof.Laws

/-! ## The channel that a handle names (R207) -/

theorem chanAt_bound {d : Dev} {k : Nat} {h : BitVec 4} {b : Handle} {ch : Chan} {e : Option Bool}
    (hb : Tab.get? (d.core k).handles h.toNat = some b) (hl : b.lent = false) (hch : Tab.get? d.chans b.chan = some ch)
    (he : e = none ∨ e = some b.producer) : d.chanAt k h e = some (b.chan, b, ch) := by
  rcases he with rfl | rfl <;> simp [Dev.chanAt, hb, hl, hch]

theorem chanAt_other_end {d : Dev} {k : Nat} {h : BitVec 4} {b : Handle} {e : Bool} (hb : Tab.get? (d.core k).handles h.toNat = some b)
    (he : e ≠ b.producer) : d.chanAt k h (some e) = none := by
  simp [Dev.chanAt, hb, he]

theorem chanAt_unusable {d : Dev} {k : Nat} {h : BitVec 4} (e : Option Bool)
    (hn : Tab.get? (d.core k).handles h.toNat = none ∨ ∃ b, Tab.get? (d.core k).handles h.toNat = some b ∧ b.lent = true) :
    d.chanAt k h e = none := by
  obtain hn | ⟨b, hb, hl⟩ := hn
  · simp [Dev.chanAt, hn]
  · simp [Dev.chanAt, hb, hl]

section Issue

variable {s : State} {k : Nat} {p : Pred} {h : BitVec 4} {gs : List Reg} {e : Option Bool}
  {f : Ctx → Nat → Dev → Core → Nat → Chan → Res}

theorem channel_acts {n : Nat} {b : Handle} {ch : Chan} (ha : s.actor = .core k) (hi : (s.dev.core k).issues p gs)
    (hc : s.dev.chanAt k h e = some (n, b, ch)) :
    channel p h gs e f s = .next { s with dev := s.dev.finish s.now k (f s.ctx k s.dev (s.dev.core k) n ch) } := by
  have hg : gs.any (s.dev.core k).pendingG = false := List.any_eq_false.2 fun r hr => by simp [hi.2 r hr]
  rw [channel, onCore_core _ ha, scalarDev_on _ hi.1 hg, hc]

theorem channel_bad (ha : s.actor = .core k) (hi : (s.dev.core k).issues p gs) (hc : s.dev.chanAt k h e = none) :
    channel p h gs e f s = .next (s.trapped k 0x0A (h.zeroExtend 64)) := by
  have hg : gs.any (s.dev.core k).pendingG = false := List.any_eq_false.2 fun r hr => by simp [hi.2 r hr]
  rw [channel, onCore_core _ ha, scalarDev_on _ hi.1 hg, hc]
  rfl

end Issue

/-! ## What the operations of a channel leave -/

@[simp] theorem chans_retire (d : Dev) (k : Nat) (pc : Word) : (d.retire k pc).chans = d.chans := by
  obtain ⟨ws, h⟩ := retire_eq d k pc
  rw [h]; rfl

@[simp] theorem core_setChan (d : Dev) (n : Nat) (ch : Chan) (k : Nat) : (d.setChan n ch).core k = d.core k := rfl
theorem get_setChan (d : Dev) (n : Nat) (ch : Chan) : Tab.get? (d.setChan n ch).chans n = some ch := tab_get_put _ _ _
@[simp] theorem setChan_setChan (d : Dev) (n : Nat) (x y : Chan) : (d.setChan n x).setChan n y = d.setChan n y := by
  simp [Dev.setChan, tab_put_put]

/-- The core and the channel come to one logical time. -/
theorem syncChan_eq {d : Dev} (k : Nat) {n : Nat} {ch : Chan} (hc : Tab.get? d.chans n = some ch) :
    ∃ t, d.syncChan k n = (d.setChan n { ch with ltime := t }).setCore k { d.core k with ltime := t } := by
  rw [Dev.syncChan, hc]
  exact ⟨_, rfl⟩

theorem syncChan_cases (d : Dev) (k n : Nat) :
    ∃ chs t, d.syncChan k n = ({ d with chans := chs } : Dev).setCore k { d.core k with ltime := t } ∨ d.syncChan k n = d := by
  unfold Dev.syncChan
  split
  · exact ⟨d.chans, 0, .inr rfl⟩
  · exact ⟨_, _, .inl rfl⟩

@[simp] theorem mem_syncChan (d : Dev) (k n : Nat) : (d.syncChan k n).mem = d.mem := by
  obtain ⟨_, _, h | h⟩ := syncChan_cases d k n <;> simp [h]
@[simp] theorem trapCause_syncChan (d : Dev) (k n : Nat) : ((d.syncChan k n).core k).trapCause = (d.core k).trapCause := by
  obtain ⟨_, _, h | h⟩ := syncChan_cases d k n <;> simp [h]
@[simp] theorem g_syncChan (d : Dev) (k n : Nat) : ((d.syncChan k n).core k).g = (d.core k).g := by
  obtain ⟨_, _, h | h⟩ := syncChan_cases d k n <;> simp [h]
@[simp] theorem latch_syncChan (d : Dev) (k n : Nat) : ((d.syncChan k n).core k).latch = (d.core k).latch := by
  obtain ⟨_, _, h | h⟩ := syncChan_cases d k n <;> simp [h]

/-- What a channel holds after a value and a time have been set. -/
theorem get_syncChan (d : Dev) (k n : Nat) (ch : Chan) :
    ∃ t, Tab.get? ((d.setChan n ch).syncChan k n).chans n = some { ch with ltime := t } := by
  obtain ⟨t, ht⟩ := syncChan_eq k (get_setChan d n ch)
  exact ⟨t, by rw [ht]; exact get_setChan _ _ _⟩

theorem fireStores_eq (d : Dev) (world pa n : Nat) : ∃ ts, d.fireStores world pa n = { d with triggers := ts } := by
  unfold Dev.fireStores Dev.fireWatches
  split
  · exact ⟨_, rfl⟩
  · exact foldl_related (R := fun d d' : Dev => ∃ ts, d' = { d with triggers := ts }) (fun _ => ⟨_, rfl⟩)
      (by rintro a _ _ ⟨_, rfl⟩ ⟨_, rfl⟩; exact ⟨_, rfl⟩) (fun _ _ => ⟨_, rfl⟩) _ d

/-- What a channel holds after a count has left one end. -/
def withSent (ch : Chan) (n : Nat) (fill : Bool) : Chan :=
  if fill then { ch with fills := if n = 0 then ch.fills else ch.fills ++ [n] } else { ch with backs := if n = 0 then ch.backs else ch.backs ++ [n] }

/-- A count of some slots leaves one end; a count of none does nothing. -/
theorem sendCount_cases {d : Dev} (k : Nat) {i : Nat} (n : Nat) (fill : Bool) {ch : Chan} (hc : Tab.get? d.chans i = some ch) :
    d.sendCount k i n fill = d ∧ withSent ch n fill = ch ∨ d.sendCount k i n fill = (d.setChan i (withSent ch n fill)).syncChan k i := by
  rw [Dev.sendCount, hc]
  by_cases hn : n = 0
  · left; cases fill <;> simp [hn, withSent]
  · right; cases fill <;> simp [hn, withSent]

section Sent

variable {d : Dev} (k : Nat) {i : Nat} (n : Nat) (fill : Bool) {ch : Chan} (hc : Tab.get? d.chans i = some ch)

include hc

theorem mem_sendCount : (d.sendCount k i n fill).mem = d.mem := by
  obtain ⟨h, -⟩ | h := sendCount_cases k n fill hc <;> simp [h]
theorem trapCause_sendCount : ((d.sendCount k i n fill).core k).trapCause = (d.core k).trapCause := by
  obtain ⟨h, -⟩ | h := sendCount_cases k n fill hc <;> simp [h]
theorem latch_sendCount : ((d.sendCount k i n fill).core k).latch = (d.core k).latch := by
  obtain ⟨h, -⟩ | h := sendCount_cases k n fill hc <;> simp [h]
theorem get_sendCount : ∃ t, Tab.get? (d.sendCount k i n fill).chans i = some { withSent ch n fill with ltime := t } := by
  obtain ⟨h, hs⟩ | h := sendCount_cases k n fill hc
  · exact ⟨ch.ltime, by rw [h, hs, hc]⟩
  · obtain ⟨t, ht⟩ := get_syncChan d k i (withSent ch n fill)
    exact ⟨t, h ▸ ht⟩

end Sent

theorem latchIf_eq (d : Dev) (k n : Nat) : ∃ cs, d.latchIf k n = { d with cores := cs } := by
  unfold Dev.latchIf
  split <;> exact ⟨_, rfl⟩

@[simp] theorem mem_latchIf (d : Dev) (k n : Nat) : (d.latchIf k n).mem = d.mem := by
  obtain ⟨cs, h⟩ := latchIf_eq d k n
  rw [h]
@[simp] theorem chans_latchIf (d : Dev) (k n : Nat) : (d.latchIf k n).chans = d.chans := by
  obtain ⟨cs, h⟩ := latchIf_eq d k n
  rw [h]

theorem core_latchIf (d : Dev) (k n : Nat) :
    (d.latchIf k n).core k = { d.core k with latch := (d.core k).latch || decide (n ≠ 0) } := by
  unfold Dev.latchIf Dev.setLatch
  split <;> simp [*]

theorem inOrder_now {d : Dev} {k : Nat} (h : Held) (act : Dev → Dev) (hb : (d.core k).blocked = false) : d.inOrder k h act = act d := by
  simp [Dev.inOrder, hb]

/-- A slot's word and tag are written. -/
theorem writeSlotWord_eq {d : Dev} (k : Nat) {i : Nat} (slot tag pa : Nat) (bs : Bytes) {ch : Chan} (hc : Tab.get? d.chans i = some ch) :
    ∃ t, (d.writeSlotWord k i slot tag pa bs).mem = SMap.setRun d.mem pa bs ∧
      (d.writeSlotWord k i slot tag pa bs).core k = { d.core k with ltime := t } ∧
      Tab.get? (d.writeSlotWord k i slot tag pa bs).chans i = some { ch with tags := Tab.put ch.tags slot tag } := by
  rw [Dev.writeSlotWord, hc]
  obtain ⟨ts, hts⟩ := fireStores_eq (d.storePa (d.core k).orderTime pa bs).1 ch.world pa bs.length
  refine ⟨(d.storePa (d.core k).orderTime pa bs).2, ?_⟩
  simp only [hts]
  exact ⟨rfl, core_setCore _ _ _, get_setChan _ _ _⟩

/-! ## The fields of the operands (R206) -/

theorem count_field (c : Core) (n : BitVec 8) (x : Reg) : c.count n x = n.toNat + (c.readG x).toNat % 2 ^ 32 := by
  simp [Core.count, field]
theorem slotOff_field (off : BitVec 16) : slotOff off = off.toNat % 4096 := by simp [slotOff, field]
theorem slotWord_field (off : BitVec 16) : slotWord off = off.toNat / 4096 := by
  have := off.isLt
  simp only [slotWord, field]
  omega

theorem badWord_iff (ch : Chan) (w : Nat) : badWord ch w = true ↔ ¬ (if ch.slotBytes = 4 then w = 0 else w < ch.slotBytes / 8) := by
  unfold badWord
  split <;> simp

/-! ## The instructions on a bound handle -/

/-- Core `k` has gone on to its next instruction. -/
def GoesOn (s t : State) (k : Nat) : Prop :=
  (t.dev.core k).pc = (s.dev.core k).pc + 8 ∧ (t.dev.core k).wait = none ∧ (t.dev.core k).trapCause = (s.dev.core k).trapCause

theorem goesOn_retire {s : State} {k : Nat} {d : Dev} (ht : (d.core k).trapCause = (s.dev.core k).trapCause) :
    GoesOn s { s with dev := d.retire k ((s.dev.core k).pc + 8) } k := by
  simp only [GoesOn, core_retire]
  exact ⟨trivial, trivial, ht⟩

section Bound

variable {s : State} {k n : Nat} {p : Pred} {h : BitVec 4} {x y : Reg} {cnt rank : BitVec 8} {off : BitVec 16} {b : Handle} {ch : Chan}
  (ha : s.actor = .core k) (hi : (s.dev.core k).issues p [x])

include ha hi

theorem cstat_reads (hb : (s.dev.core k).blocked = false) (hh : Tab.get? (s.dev.core k).handles h.toNat = some b)
    (hc : s.dev.chanAt k h none = some (n, b, ch)) : ∃ t, exec (.cstat p h x) s = .next t ∧ GoesOn s t k ∧
    t.dev.mem = s.dev.mem ∧ (t.dev.core k).g = ((s.dev.core k).writeG x (ch.status b.producer)).g := by
  rw [show exec (.cstat p h x) s = execCstat p h x s from rfl, execCstat, channel_acts ha ⟨hi.1, by simp⟩ hc]
  simp only [hb, hh, Option.any_some, Bool.false_eq_true, if_false, finish_done]
  refine ⟨_, rfl, goesOn_retire ?_, ?_, ?_⟩ <;> simp

/-! The consumer's end. -/

section Consumer

variable (hc : s.dev.chanAt k h (some false) = some (n, b, ch))

include hc

theorem cwait_waits (h1 : (s.dev.core k).count cnt x ≤ ch.slots) (h2 : (s.dev.core k).count cnt x ≤ ch.filled) :
    ∃ t time, exec (.cwait p h x cnt) s = .next t ∧ GoesOn s t k ∧
      Tab.get? t.dev.chans n = some { ch with waited := (s.dev.core k).count cnt x, ltime := time } ∧ t.dev.mem = s.dev.mem := by
  obtain ⟨time, ht⟩ := get_syncChan s.dev k n { ch with waited := (s.dev.core k).count cnt x }
  rw [show exec (.cwait p h x cnt) s = execCwait p h x cnt s from rfl, execCwait, channel_acts ha hi hc]
  simp only [not_lt.2 h1, h2, if_true, if_false, finish_done]
  refine ⟨_, time, rfl, goesOn_retire ?_, ?_, ?_⟩
  · simp
  · simpa using ht
  · simp

theorem cwait_stalls (h1 : (s.dev.core k).count cnt x ≤ ch.slots) (h2 : ch.filled < (s.dev.core k).count cnt x) :
    exec (.cwait p h x cnt) s = .next (s.stalled k ⟨1, h.toNat, (s.dev.core k).count cnt x, ch.filled, 0⟩) := by
  rw [show exec (.cwait p h x cnt) s = execCwait p h x cnt s from rfl, execCwait, channel_acts ha hi hc]
  simp only [not_lt.2 h1, not_le.2 h2, if_false]
  rfl

theorem cwait_illegal (h1 : ch.slots < (s.dev.core k).count cnt x) :
    exec (.cwait p h x cnt) s = .next (s.trapped k 0x01 ((encode (.cwait p h x cnt)).getD 0)) := by
  rw [show exec (.cwait p h x cnt) s = execCwait p h x cnt s from rfl, execCwait, channel_acts ha hi hc]
  simp only [h1, if_true]
  rfl

theorem cpeek_reads (hb : (s.dev.core k).blocked = false) (h1 : slotOff off < ch.waited) (h2 : badWord ch (slotWord off) = false) :
    ∃ t, exec (.cpeek p h x y off) s = .next t ∧ GoesOn s t k ∧ t.dev.mem = s.dev.mem ∧
      (t.dev.core k).g = (((s.dev.core k).writeG x (wordOf (s.dev.bytesAt (ch.addr ((ch.head + slotOff off) % ch.slots) (slotWord off))
        (if ch.slotBytes = 4 then 4 else 8)))).writeG y (BitVec.ofNat 64 (Tab.getD ch.tags ((ch.head + slotOff off) % ch.slots) 0))).g := by
  rw [show exec (.cpeek p h x y off) s = execCpeek p h x y off s from rfl, execCpeek, channel_acts ha ⟨hi.1, by simp⟩ hc]
  simp only [not_le.2 h1, h2, hb, Bool.false_eq_true, or_self, if_false, finish_done]
  refine ⟨_, rfl, goesOn_retire ?_, ?_, ?_⟩
  · simp [Dev.loadPa, show ∀ ls, ({ s.dev with lines := ls } : Dev).core k = s.dev.core k from fun _ => rfl]
  · simp [Dev.loadPa]
  · simp [Dev.loadPa, show ∀ ls, ({ s.dev with lines := ls } : Dev).core k = s.dev.core k from fun _ => rfl]

theorem cpeek_illegal (h1 : ch.waited ≤ slotOff off ∨ badWord ch (slotWord off) = true) :
    exec (.cpeek p h x y off) s = .next (s.trapped k 0x01 ((encode (.cpeek p h x y off)).getD 0)) := by
  rw [show exec (.cpeek p h x y off) s = execCpeek p h x y off s from rfl, execCpeek, channel_acts ha ⟨hi.1, by simp⟩ hc]
  simp only [h1, if_true]
  rfl

theorem ccadv_moves (hb : (s.dev.core k).blocked = false) (h1 : (s.dev.core k).count cnt x ≤ ch.waited) :
    let total := (s.dev.core k).count cnt x
    ∃ t time, exec (.ccadv p h x cnt) s = .next t ∧ GoesOn s t k ∧ t.dev.mem = s.dev.mem ∧
      (t.dev.core k).latch = ((s.dev.core k).latch || decide (total ≠ 0)) ∧
      Tab.get? t.dev.chans n = some { ch with
        head := (ch.head + total) % ch.slots, filled := ch.filled - total, waited := ch.waited - total,
        backs := if total = 0 then ch.backs else ch.backs ++ [total], ltime := time } := by
  intro total
  let moved : Chan := { ch with head := (ch.head + total) % ch.slots, filled := ch.filled - total, waited := ch.waited - total }
  have hm : Tab.get? (s.dev.setChan n moved).chans n = some moved := get_setChan _ _ _
  obtain ⟨time, ht⟩ := get_sendCount k total false hm
  rw [show exec (.ccadv p h x cnt) s = execCcadv p h x cnt s from rfl, execCcadv, channel_acts ha hi hc]
  simp only [not_lt.2 h1, if_false, finish_done]
  rw [inOrder_now _ _ (by exact hb)]
  refine ⟨_, time, rfl, goesOn_retire ?_, ?_, ?_, ?_⟩
  · rw [core_latchIf]
    exact trapCause_sendCount k total false hm
  · rw [mem_retire, mem_latchIf]
    exact mem_sendCount k total false hm
  · rw [core_retire, core_latchIf]
    exact congrArg (· || _) (latch_sendCount k total false hm)
  · rw [chans_retire, chans_latchIf]
    exact ht

theorem ccadv_illegal (h1 : ch.waited < (s.dev.core k).count cnt x) :
    exec (.ccadv p h x cnt) s = .next (s.trapped k 0x01 ((encode (.ccadv p h x cnt)).getD 0)) := by
  rw [show exec (.ccadv p h x cnt) s = execCcadv p h x cnt s from rfl, execCcadv, channel_acts ha hi hc]
  simp only [h1, if_true]
  rfl

end Consumer

/-! The producer's end. -/

section Producer

variable (hc : s.dev.chanAt k h (some true) = some (n, b, ch))

include hc

theorem cresv_reserves (h1 : (s.dev.core k).count cnt x ≤ ch.slots) (h2 : (s.dev.core k).count cnt x ≤ ch.credits) :
    ∃ t time, exec (.cresv p h x cnt) s = .next t ∧ GoesOn s t k ∧
      Tab.get? t.dev.chans n = some { ch with reserved := (s.dev.core k).count cnt x, ltime := time } ∧ t.dev.mem = s.dev.mem := by
  obtain ⟨time, ht⟩ := get_syncChan s.dev k n { ch with reserved := (s.dev.core k).count cnt x }
  rw [show exec (.cresv p h x cnt) s = execCresv p h x cnt s from rfl, execCresv, channel_acts ha hi hc]
  simp only [not_lt.2 h1, h2, if_true, if_false, finish_done]
  refine ⟨_, time, rfl, goesOn_retire ?_, ?_, ?_⟩
  · simp
  · simpa using ht
  · simp

theorem cresv_stalls (h1 : (s.dev.core k).count cnt x ≤ ch.slots) (h2 : ch.credits < (s.dev.core k).count cnt x) :
    exec (.cresv p h x cnt) s = .next (s.stalled k ⟨2, h.toNat, (s.dev.core k).count cnt x, ch.credits, 0⟩) := by
  rw [show exec (.cresv p h x cnt) s = execCresv p h x cnt s from rfl, execCresv, channel_acts ha hi hc]
  simp only [not_lt.2 h1, not_le.2 h2, if_false]
  rfl

theorem cresv_illegal (h1 : ch.slots < (s.dev.core k).count cnt x) :
    exec (.cresv p h x cnt) s = .next (s.trapped k 0x01 ((encode (.cresv p h x cnt)).getD 0)) := by
  rw [show exec (.cresv p h x cnt) s = execCresv p h x cnt s from rfl, execCresv, channel_acts ha hi hc]
  simp only [h1, if_true]
  rfl

/-- CPUSH and CMARK differ in the side tag alone. -/
theorem push_acts {i : Instr} {tag : Nat} (hp : i = .cpush p h x off ∧ tag = 0 ∨ i = .cmark p h x rank off ∧ tag = rank.toNat + 1) :
    exec i s = .next { s with dev := s.dev.finish s.now k (if ch.reserved ≤ slotOff off ∨ badWord ch (slotWord off) then
      .trap Cause.illegal (wordOfInstr i) else s.dev.pushSlot k n ch off ((s.dev.core k).readG x) tag) } := by
  rcases hp with ⟨rfl, rfl⟩ | ⟨rfl, rfl⟩
  · rw [show exec (.cpush p h x off) s = execCpush p h x off s from rfl, execCpush, channel_acts ha hi hc]
  · rw [show exec (.cmark p h x rank off) s = execCmark p h x rank off s from rfl, execCmark, channel_acts ha hi hc]

section Push

variable {i : Instr} {tag : Nat} (hp : i = .cpush p h x off ∧ tag = 0 ∨ i = .cmark p h x rank off ∧ tag = rank.toNat + 1)

include hp

theorem push_writes (hch : Tab.get? s.dev.chans n = some ch) (hb : (s.dev.core k).blocked = false) (h1 : slotOff off < ch.reserved)
    (h2 : badWord ch (slotWord off) = false) (h3 : ch.readOnly = false) :
    ∃ t, exec i s = .next t ∧ GoesOn s t k ∧ (t.dev.core k).g = (s.dev.core k).g ∧
      t.dev.mem = SMap.setRun s.dev.mem (ch.addr ((ch.tail + slotOff off) % ch.slots) (slotWord off))
        (bytesOf (if ch.slotBytes = 4 then 4 else 8) ((s.dev.core k).readG x)) ∧
      Tab.get? t.dev.chans n = some { ch with tags := Tab.put ch.tags ((ch.tail + slotOff off) % ch.slots) tag } := by
  obtain ⟨time, hmem, hcore, hchan⟩ := writeSlotWord_eq k ((ch.tail + slotOff off) % ch.slots) tag
    (ch.addr ((ch.tail + slotOff off) % ch.slots) (slotWord off)) (bytesOf (if ch.slotBytes = 4 then 4 else 8) ((s.dev.core k).readG x)) hch
  rw [push_acts ha hi hc hp, if_neg (by simp [h1, h2]), Dev.pushSlot, if_neg (by simp [h3]), inOrder_now _ _ hb]
  refine ⟨_, rfl, goesOn_retire ?_, ?_, ?_, ?_⟩
  · rw [hcore]
  · rw [finish_done, core_retire, hcore]
  · rw [finish_done, mem_retire, hmem]
  · rw [finish_done, chans_retire, hchan]

theorem push_readOnly (h1 : slotOff off < ch.reserved) (h2 : badWord ch (slotWord off) = false) (h3 : ch.readOnly = true) :
    exec i s = .next (s.trapped k 0x0C (BitVec.ofNat 64 (ch.va.toNat + (ch.tail + slotOff off) % ch.slots * ch.slotBytes + 8 * slotWord off))) := by
  rw [push_acts ha hi hc hp, if_neg (by simp [h1, h2]), Dev.pushSlot, if_pos h3]
  rfl

theorem push_illegal (h1 : ch.reserved ≤ slotOff off ∨ badWord ch (slotWord off) = true) :
    exec i s = .next (s.trapped k 0x01 ((encode i).getD 0)) := by
  rw [push_acts ha hi hc hp, if_pos h1]
  rfl

end Push

theorem cpadv_moves (hb : (s.dev.core k).blocked = false) (h1 : (s.dev.core k).count cnt x ≤ ch.reserved) :
    let total := (s.dev.core k).count cnt x
    ∃ t time, exec (.cpadv p h x cnt) s = .next t ∧ GoesOn s t k ∧ t.dev.mem = s.dev.mem ∧
      (t.dev.core k).latch = ((s.dev.core k).latch || decide (total ≠ 0)) ∧
      Tab.get? t.dev.chans n = some { ch with
        tail := (ch.tail + total) % ch.slots, credits := ch.credits - total, reserved := ch.reserved - total,
        fills := if total = 0 then ch.fills else ch.fills ++ [total], ltime := time } := by
  intro total
  let moved : Chan := { ch with tail := (ch.tail + total) % ch.slots, credits := ch.credits - total, reserved := ch.reserved - total }
  have hm : Tab.get? (s.dev.setChan n moved).chans n = some moved := get_setChan _ _ _
  obtain ⟨time, ht⟩ := get_sendCount k total true hm
  rw [show exec (.cpadv p h x cnt) s = execCpadv p h x cnt s from rfl, execCpadv, channel_acts ha hi hc]
  simp only [not_lt.2 h1, if_false, finish_done]
  rw [inOrder_now _ _ (by exact hb)]
  refine ⟨_, time, rfl, goesOn_retire ?_, ?_, ?_, ?_⟩
  · rw [core_latchIf]
    exact trapCause_sendCount k total true hm
  · rw [mem_retire, mem_latchIf]
    exact mem_sendCount k total true hm
  · rw [core_retire, core_latchIf]
    exact congrArg (· || _) (latch_sendCount k total true hm)
  · rw [chans_retire, chans_latchIf]
    exact ht

theorem cpadv_illegal (h1 : ch.reserved < (s.dev.core k).count cnt x) :
    exec (.cpadv p h x cnt) s = .next (s.trapped k 0x01 ((encode (.cpadv p h x cnt)).getD 0)) := by
  rw [show exec (.cpadv p h x cnt) s = execCpadv p h x cnt s from rfl, execCpadv, channel_acts ha hi hc]
  simp only [h1, if_true]
  rfl

end Producer

end Bound

/-! ## A handle that cannot be used, or the other end's (R207, R265) -/

section Unusable

variable {s : State} {k : Nat} {p : Pred} {h : BitVec 4} {x y : Reg} {cnt rank : BitVec 8} {off : BitVec 16} {i : Instr}
  (ha : s.actor = .core k) (hi : (s.dev.core k).issues p [x])

include ha hi

theorem consumer_bad (hc : s.dev.chanAt k h (some false) = none) (hin : i = .cwait p h x cnt ∨ i = .ccadv p h x cnt ∨ i = .cpeek p h x y off) :
    exec i s = .next (s.trapped k 0x0A (h.zeroExtend 64)) := by
  rcases hin with rfl | rfl | rfl
  · exact (show exec _ s = execCwait p h x cnt s from rfl).trans (channel_bad ha hi hc)
  · exact (show exec _ s = execCcadv p h x cnt s from rfl).trans (channel_bad ha hi hc)
  · exact (show exec _ s = execCpeek p h x y off s from rfl).trans (channel_bad ha ⟨hi.1, by simp⟩ hc)

theorem producer_bad (hc : s.dev.chanAt k h (some true) = none)
    (hin : i = .cresv p h x cnt ∨ i = .cpush p h x off ∨ i = .cmark p h x rank off ∨ i = .cpadv p h x cnt) :
    exec i s = .next (s.trapped k 0x0A (h.zeroExtend 64)) := by
  rcases hin with rfl | rfl | rfl | rfl
  · exact (show exec _ s = execCresv p h x cnt s from rfl).trans (channel_bad ha hi hc)
  · exact (show exec _ s = execCpush p h x off s from rfl).trans (channel_bad ha hi hc)
  · exact (show exec _ s = execCmark p h x rank off s from rfl).trans (channel_bad ha hi hc)
  · exact (show exec _ s = execCpadv p h x cnt s from rfl).trans (channel_bad ha hi hc)

theorem cstat_bad (hc : s.dev.chanAt k h none = none) : exec (.cstat p h x) s = .next (s.trapped k 0x0A (h.zeroExtend 64)) :=
  (show exec _ s = execCstat p h x s from rfl).trans (channel_bad ha ⟨hi.1, by simp⟩ hc)

end Unusable

/-! ## Arrivals (R209) -/

theorem chans_latchOf (d : Dev) (k team : Nat) : (d.latchOf k team).chans = d.chans := by
  unfold Dev.latchOf
  split <;> rfl

theorem chans_fireRing (d : Dev) (world tid was is : Nat) : (d.fireRing world tid was is).chans = d.chans :=
  foldl_keeps (f := Dev.fire) Dev.chans (fun _ _ _ => rfl) d

theorem chans_dropToken (d : Dev) (now : Now) (world sender target : Nat) : (d.dropToken now world sender target).chans = d.chans := by
  obtain ⟨ws, hm, h⟩ := event_eq (d.setDie (dieOfQuad (quadOfCore target)) { d.die (dieOfQuad (quadOfCore target)) with
    foreign := ((d.die (dieOfQuad (quadOfCore target))).foreign + 1) % 2 ^ 48 }) now 6 0 (dieOfQuad (quadOfCore target))
    (items [quadOfCore target % 256, world, (d.core sender).cur.gen.toNat])
  exact (congrArg Dev.chans h).trans rfl

theorem fillArrival_adds {s : State} {n v : Nat} {rest : List Nat} {ch : Chan} (hch : Tab.get? s.dev.chans n = some ch)
    (hf : ch.fills = v :: rest) : ∃ t, exec (.channelFillArrival n) s = .next t ∧ Tab.get? t.dev.chans n = some
      { ch with filled := if (s.dev.world ch.world).owns (ch.cons / 4) then ch.filled + v else ch.filled, fills := rest } := by
  refine ⟨_, (show exec (.channelFillArrival n) s = execChannelFillArrival n s from rfl).trans (run_next _ _), ?_⟩
  simp only [hch, hf, quadOfCore]
  by_cases hown : (s.dev.world ch.world).owns (ch.cons / 4) = true
  · simp [hown, chans_fireRing, chans_latchOf, tab_get_put]
  · simp [hown, chans_dropToken, tab_get_put]

theorem creditArrival_adds {s : State} {n v : Nat} {rest : List Nat} {ch : Chan} (hch : Tab.get? s.dev.chans n = some ch)
    (hf : ch.backs = v :: rest) : ∃ t, exec (.channelCreditArrival n) s = .next t ∧ Tab.get? t.dev.chans n = some
      { ch with credits := if (s.dev.world ch.world).owns (ch.prod / 4) then ch.credits + v else ch.credits, backs := rest } := by
  refine ⟨_, (show exec (.channelCreditArrival n) s = execChannelCreditArrival n s from rfl).trans (run_next _ _), ?_⟩
  simp only [hch, hf, quadOfCore]
  by_cases hown : (s.dev.world ch.world).owns (ch.prod / 4) = true
  · simp [hown, chans_latchOf, tab_get_put]
  · simp [hown, chans_dropToken, tab_get_put]

/-! ## CBIND (R204, R208) -/

/-- A channel of the core's team that runs on a ring and ends at the core. -/
def Fits (c : Core) (k tid : Nat) (e : BitVec 16) (r : Option Rec) (ch : Chan) : Prop :=
  ch.team = c.cur.team ∧ ch.world = c.world ∧ ch.tid = tid ∧ (if e = 1 then ch.prod = k else ch.cons = k) ∧
    ∃ r', r = some r' ∧ ringOk r' ch = true

/-- The numbers of the channels that CBIND looks for, as the model tests them. -/
def fitting (d : Dev) (c : Core) (k tid : Nat) (e : BitVec 16) (r : Option Rec) : List Nat :=
  Tab.keys (fun _ ch => ch.team == c.cur.team && ch.world == c.world && ch.tid == tid &&
    (if e == 1 then ch.prod == k else ch.cons == k) && r.any fun r => ringOk r ch) d.chans

theorem mem_fitting {d : Dev} {c : Core} {k tid : Nat} {e : BitVec 16} {r : Option Rec} {n : Nat} :
    n ∈ fitting d c k tid e r ↔ ∃ ch, (n, ch) ∈ d.chans ∧ Fits c k tid e r ch := by
  have hfit : ∀ ch : Chan, (ch.team == c.cur.team && ch.world == c.world && ch.tid == tid &&
      (if e == 1 then ch.prod == k else ch.cons == k) && r.any fun r => ringOk r ch) = true ↔ Fits c k tid e r ch := by
    intro ch
    by_cases he : e = 1 <;> simp [Fits, he, and_assoc, Option.any_eq_true]
  simp only [fitting, Tab.keys, List.mem_map, List.mem_filter, hfit]
  constructor
  · rintro ⟨⟨m, ch⟩, ⟨hm, hf⟩, rfl⟩
    exact ⟨ch, hm, hf⟩
  · rintro ⟨ch, hm, hf⟩
    exact ⟨(n, ch), ⟨hm, hf⟩, rfl⟩

section Cbind

variable {s : State} {k : Nat} {p : Pred} {h : BitVec 4} {x : Reg} {e : BitVec 16} {d : Dev} {r : Option Rec}
  (ha : s.actor = .core k) (hi : (s.dev.core k).issues p [x]) (hl : (Tab.get? (s.dev.core k).handles h.toNat).any Handle.lent = false)
  (ht : ((s.dev.core k).readG x).toNat < 2048)
  (hu : s.dev.useKind s.seq (k / 1024) (s.dev.core k).world ((s.dev.core k).readG x).toNat [1] = (d, r))

include ha hi hl ht hu

theorem cbind_binds {n : Nat} {ch : Chan} (hn : (fitting d (s.dev.core k) k ((s.dev.core k).readG x).toNat e r).head? = some n)
    (hch : Tab.get? d.chans n = some ch) : exec (.cbind p h x e) s = .next (s.completed k ((d.setChan n (if e = 1 then
        { ch with readOnly := r.any Rec.readOnly, reserved := 0 } else { ch with readOnly := r.any Rec.readOnly, waited := 0 })).setCore k
      { s.dev.core k with handles := Tab.put (s.dev.core k).handles h.toNat { chan := n, producer := e == 1, lent := false } })
        ((s.dev.core k).pc + 8)) := by
  have hg : [x].any (s.dev.core k).pendingG = false := List.any_eq_false.2 fun r hr => by simp [hi.2 r hr]
  rw [fitting] at hn
  rw [show exec (.cbind p h x e) s = execCbind p h x e s from rfl, execCbind, onCore_core _ ha, scalarDev_on _ hi.1 hg]
  simp only [hl, Bool.false_eq_true, if_false, not_le.2 ht, show s.ctx.seq = s.seq from rfl, hu, hn, hch, finish_done]
  simp only [beq_iff_eq]
  rfl

theorem cbind_none (hn : fitting d (s.dev.core k) k ((s.dev.core k).readG x).toNat e r = []) :
    exec (.cbind p h x e) s = .next (s.trapped k 0x0A ((s.dev.core k).readG x)) := by
  have hg : [x].any (s.dev.core k).pendingG = false := List.any_eq_false.2 fun r hr => by simp [hi.2 r hr]
  rw [fitting] at hn
  rw [show exec (.cbind p h x e) s = execCbind p h x e s from rfl, execCbind, onCore_core _ ha, scalarDev_on _ hi.1 hg]
  simp only [hl, Bool.false_eq_true, if_false, not_le.2 ht, show s.ctx.seq = s.seq from rfl, hu, hn]
  rfl

end Cbind

/-- Where every channel that fits is one, that is the first. -/
theorem fitting_head {d : Dev} {c : Core} {k tid n : Nat} {e : BitVec 16} {r : Option Rec} {ch : Chan} (hch : Tab.get? d.chans n = some ch)
    (hf : Fits c k tid e r ch) (hu : ∀ x ∈ d.chans, Fits c k tid e r x.2 → x = (n, ch)) : (fitting d c k tid e r).head? = some n := by
  have hn : n ∈ fitting d c k tid e r := mem_fitting.2 ⟨ch, tab_mem_of_get hch, hf⟩
  cases hl : fitting d c k tid e r with
  | nil => simp [hl] at hn
  | cons a l =>
    obtain ⟨ch', hmem, hf'⟩ := mem_fitting.1 (hl ▸ List.mem_cons_self : a ∈ fitting d c k tid e r)
    have := hu _ hmem hf'
    simp_all

/-- Settles O44: each instruction by its lemmas, at its own end, at the other's, and on a handle that cannot be used. -/
theorem channelsMoveTheirPointers : Obligations.ChannelsMoveTheirPointers := by
  unfold Obligations.ChannelsMoveTheirPointers
  refine ⟨?_, ?_, fun s n ch hch => ⟨fun v rest hf => fillArrival_adds hch hf, fun v rest hf => creditArrival_adds hch hf⟩, ?_⟩
  · intro s k n p h x y cnt rank off b ch ha hb hi hh hn hl hch
    subst hn
    have hbad : ∀ {m : Nat}, ¬ (slotOff off < m ∧ if ch.slotBytes = 4 then slotWord off = 0 else slotWord off < ch.slotBytes / 8) →
        m ≤ slotOff off ∨ badWord ch (slotWord off) = true := fun hn => by
      rw [badWord_iff, ← not_lt]
      exact not_and_or.1 hn
    have hgood : (if ch.slotBytes = 4 then slotWord off = 0 else slotWord off < ch.slotBytes / 8) → badWord ch (slotWord off) = false :=
      fun hf => Bool.eq_false_iff.2 fun hb => (badWord_iff _ _).1 hb hf
    refine ⟨cstat_reads ha hi hb hh (chanAt_bound hh hl hch (.inl rfl)), fun hp => ?_, fun hp => ?_⟩
    · have hc : s.dev.chanAt k h (some false) = some (b.chan, b, ch) := chanAt_bound hh hl hch (.inr (by rw [hp]))
      have ho : s.dev.chanAt k h (some true) = none := chanAt_other_end hh (by simp [hp])
      simp only [← count_field, ← slotOff_field, ← slotWord_field]
      exact ⟨fun h1 h2 => cpeek_reads ha hi hc hb h1 (hgood h2), fun h1 => cpeek_illegal ha hi hc (hbad h1), cwait_waits ha hi hc,
        cwait_stalls ha hi hc, cwait_illegal ha hi hc, ccadv_moves ha hi hc hb, ccadv_illegal ha hi hc, fun i => producer_bad ha hi ho⟩
    · have hc : s.dev.chanAt k h (some true) = some (b.chan, b, ch) := chanAt_bound hh hl hch (.inr (by rw [hp]))
      have ho : s.dev.chanAt k h (some false) = none := chanAt_other_end hh (by simp [hp])
      simp only [← count_field, ← slotOff_field, ← slotWord_field]
      exact ⟨cresv_reserves ha hi hc, cresv_stalls ha hi hc, cresv_illegal ha hi hc,
        fun i tag hit => ⟨fun h1 h2 => push_writes ha hi hc hit hch hb h1 (hgood h2), fun h1 h2 => push_readOnly ha hi hc hit h1 (hgood h2),
          fun h1 => push_illegal ha hi hc hit (hbad h1)⟩,
        cpadv_moves ha hi hc hb, cpadv_illegal ha hi hc, fun i => consumer_bad ha hi ho⟩
  · intro s k p h x y cnt rank off i ha hi hn hin
    have hc := fun e => chanAt_unusable (d := s.dev) (k := k) e hn
    obtain hin | hin | rfl : (i = .cwait p h x cnt ∨ i = .ccadv p h x cnt ∨ i = .cpeek p h x y off) ∨
        (i = .cresv p h x cnt ∨ i = .cpush p h x off ∨ i = .cmark p h x rank off ∨ i = .cpadv p h x cnt) ∨ i = .cstat p h x := by tauto
    · exact consumer_bad ha hi (hc _) hin
    · exact producer_bad ha hi (hc _) hin
    · exact cstat_bad ha hi (hc _)
  · intro s k p h x e d r ha hi c tid hl ht hu fit
    obtain ⟨ds, hd⟩ := useKind_eq hu
    refine ⟨fun n ch hch hf huniq => ⟨_, cbind_binds ha hi hl ht hu (fitting_head hch hf huniq) hch, ?_⟩, fun hno => cbind_none ha hi hl ht hu ?_⟩
    · refine ⟨?_, ?_, ?_, ?_⟩
      · simp [State.completed, c]
      · simp [State.completed, hd]
      · simp [State.completed, c]
      · simp [State.completed, tab_get_put]
    · exact List.eq_nil_iff_forall_not_mem.2 fun n hn => by
        obtain ⟨ch, hm, hf⟩ := mem_fitting.1 hn
        exact hno _ hm hf

end Sys2Proof.Proofs
end

section
/-! PROOFS. FENCE: its entries, its counters, and what it does when nothing is left to wait for (R178, R184, R185, R193 to R196). -/

namespace Sys2Proof.Proofs

open Sys2Proof Sys2Proof.Machine Sys2Proof.Laws

/-! ## What a fence leaves -/

/-- Memory, worlds and all else stay but cores and leases; no lease copy is new; the fencing core keeps all but its times, its floors,
its ended operands and what its fences keep. -/
def Fenced (k : Nat) (d d' : Dev) : Prop :=
  (∃ cs ls, d' = { d with cores := cs, leases := ls }) ∧ (∀ l ∈ d'.leases, l ∈ d.leases) ∧
    ∃ lt fl en kp, d'.core k = { d.core k with ltime := lt, floors := fl, ended := en, kept := kp }

theorem Fenced.refl (k : Nat) (d : Dev) : Fenced k d d := ⟨⟨_, _, rfl⟩, fun _ h => h, _, _, _, _, rfl⟩

theorem Fenced.trans {k : Nat} {a b c : Dev} (h : Fenced k a b) (h' : Fenced k b c) : Fenced k a c := by
  obtain ⟨⟨_, _, rfl⟩, hl, _, _, _, _, hc⟩ := h
  obtain ⟨⟨_, _, rfl⟩, hl', _, _, _, _, hc'⟩ := h'
  exact ⟨⟨_, _, rfl⟩, fun l hm => hl l (hl' l hm), _, _, _, _, hc'.trans (by rw [hc])⟩

theorem Fenced.mem_eq {k : Nat} {d d' : Dev} (h : Fenced k d d') : d'.mem = d.mem := by
  obtain ⟨⟨_, _, rfl⟩, -⟩ := h
  rfl

theorem Fenced.world_eq {k : Nat} {d d' : Dev} (h : Fenced k d d') (w : Nat) : d'.world w = d.world w := by
  obtain ⟨⟨_, _, rfl⟩, -⟩ := h
  rfl

theorem Fenced.cur_eq {k : Nat} {d d' : Dev} (h : Fenced k d d') : (d'.core k).cur = (d.core k).cur := by
  obtain ⟨-, -, _, _, _, _, hc⟩ := h
  rw [hc]
  rfl

theorem Fenced.core_world {k : Nat} {d d' : Dev} (h : Fenced k d d') : (d'.core k).world = (d.core k).world :=
  congrArg Plane.world h.cur_eq

theorem fenced_setCore {d : Dev} {k : Nat} {c : Core}
    (h : ∃ lt fl en kp, c = { d.core k with ltime := lt, floors := fl, ended := en, kept := kp }) : Fenced k d (d.setCore k c) :=
  ⟨⟨_, _, rfl⟩, fun _ hm => hm, by simpa using h⟩

theorem fenced_dropLeases (k : Nat) (d : Dev) (gone : Lease → Bool) : Fenced k d (d.dropLeases gone) :=
  ⟨⟨_, _, rfl⟩, fun _ hm => (List.mem_filter.1 hm).1, _, _, _, _, rfl⟩

theorem fenced_joinAt (d : Dev) (k t : Nat) (lines : List Nat) : Fenced k d (d.joinAt k t lines) := by
  refine (fenced_setCore (c := { d.core k with ltime := Nat.max (d.core k).ltime t }) ⟨_, _, _, _, rfl⟩).trans ?_
  rw [show d.joinAt k t lines = _ from rfl, Dev.joinAt, Dev.dropLines]
  split
  · exact Fenced.refl _ _
  · exact fenced_dropLeases _ _ _

theorem fenced_joinEnded (d : Dev) (k : Nat) (all : Bool) (ranges : List (Nat × Nat)) : Fenced k d (d.joinEnded k all ranges) :=
  (fenced_setCore ⟨_, _, _, _, rfl⟩).trans (fenced_joinAt _ _ _ _)

theorem fenced_dropRange (d : Dev) (k world q lo hi : Nat) : Fenced k d (d.dropRange world q lo hi) := fenced_dropLeases k d _

/-! ## Acquiring (R178, R185) -/

/-- The lines of a range leave the quad's copies. -/
def dropOne (k : Nat) (d : Dev) (r : Nat × Nat) : Dev :=
  if r.1 < r.2 then d.dropRange (d.core k).world (quadOfCore k) r.1 r.2 else d

theorem fenced_dropOne (k : Nat) (d : Dev) (r : Nat × Nat) : Fenced k d (dropOne k d r) := by
  unfold dropOne
  split
  · exact fenced_dropRange _ _ _ _ _ _
  · exact Fenced.refl _ _

theorem fenced_dropAll (k : Nat) (rs : List (Nat × Nat)) (d : Dev) : Fenced k d (rs.foldl (dropOne k) d) :=
  foldl_related (R := Fenced k) (Fenced.refl k) Fenced.trans (fenced_dropOne k) rs d

theorem fenced_acquire (d : Dev) (k : Nat) (all : Bool) (ranges : List (Nat × Nat)) : Fenced k d (d.acquire k all ranges) := by
  unfold Dev.acquire
  dsimp only
  split
  · exact (fenced_setCore ⟨_, _, _, _, rfl⟩).trans (fenced_dropLeases _ _ _)
  · exact (fenced_setCore ⟨_, _, _, _, rfl⟩).trans (fenced_dropAll k ranges _)

theorem acquire_all (d : Dev) (k : Nat) (ranges : List (Nat × Nat)) : ∀ l ∈ (d.acquire k true ranges).leases, l.quad ≠ quadOfCore k := by
  intro l hl
  have h := (List.mem_filter.1 hl).2
  simpa using h

/-- A line that a mapped address of a world lies in. -/
def LineAt (w : World) (va line : Nat) : Prop :=
  ∃ level e, w.leafOf va = some (level, e) ∧ (leafBase e + va % 2 ^ pageBits level) / 128 = line

theorem leafOf_mem {w : World} {va level : Nat} {e : Word} (h : w.leafOf va = some (level, e)) :
    level ∈ [2, 3, 4] ∧ (leafKeyAt level va, e) ∈ w.leaves := by
  unfold World.leafOf at h
  obtain ⟨l, hl, he⟩ := List.exists_of_findSome?_eq_some h
  obtain ⟨x, hx, heq⟩ := Option.map_eq_some_iff.1 he
  cases heq
  exact ⟨hl, tab_mem_of_get hx⟩

theorem leafKeyAt_level {level va : Nat} (hlevel : level ∈ [2, 3, 4]) (hva : va < 2 ^ 56) : leafKeyAt level va / 2 ^ 40 = level ∧
    leafKeyAt level va % 2 ^ 40 = va / 2 ^ pageBits level := by
  have hidx : va / 2 ^ pageBits level < 2 ^ 40 := by
    simp only [List.mem_cons, List.not_mem_nil, or_false] at hlevel
    rcases hlevel with rfl | rfl | rfl <;> norm_num [pageBits] <;> omega
  unfold leafKeyAt leafKey
  generalize va / 2 ^ pageBits level = idx at hidx
  omega

theorem pageBits_lines (level : Nat) : 2 ^ pageBits level % 128 = 0 ∧ 0 < 2 ^ pageBits level := by
  unfold pageBits
  split_ifs <;> norm_num

/-- Dropping a range leaves the quad no copy of a line that a mapped address of the range lies in. -/
theorem dropRange_gone {d : Dev} {world q lo hi va : Nat} {l : Lease} (hl : l ∈ (d.dropRange world q lo hi).leases) (hq : l.quad = q)
    (hlo : lo ≤ va) (hhi : va < hi) (hva : va < 2 ^ 56) : ¬ LineAt (d.world world) va l.line := by
  rintro ⟨level, e, hleaf, hline⟩
  obtain ⟨hlevel, hmem⟩ := leafOf_mem hleaf
  obtain ⟨hkey, hidx⟩ := leafKeyAt_level hlevel hva
  obtain ⟨hsize, hpos⟩ := pageBits_lines level
  have hsplit := Nat.div_add_mod' va (2 ^ pageBits level)
  have hmod := Nat.mod_lt va hpos
  have hbase : leafBase e % 128 = 0 := by unfold leafBase; omega
  have hgone := (List.mem_filter.1 hl).2
  rw [Bool.not_eq_true', Bool.and_eq_false_iff] at hgone
  rcases hgone with hgone | hgone
  · simp [hq] at hgone
  · have hcover := List.any_eq_false.1 hgone _ hmem
    dsimp only at hcover
    rw [hkey, hidx] at hcover
    simp only [Bool.and_eq_true, decide_eq_true_eq] at hcover
    generalize 2 ^ pageBits level = size at *
    generalize va / size * size = start at *
    generalize va % size = off at *
    omega

/-- No lease copy of the core's quad holds a line that an address of the ranges is mapped to. -/
def Acquired (k : Nat) (w : World) (ranges : List (Nat × Nat)) (leases : List Lease) : Prop :=
  ∀ l ∈ leases, l.quad = quadOfCore k → ∀ r ∈ ranges, ∀ va, r.1 ≤ va → va < r.2 → va < 2 ^ 56 → ¬ LineAt w va l.line

theorem dropOne_gone (k : Nat) (d : Dev) (r : Nat × Nat) : Acquired k (d.world (d.core k).world) [r] (dropOne k d r).leases := by
  intro l hl hq r' hr va hlo hhi hva
  cases List.mem_singleton.1 hr
  rw [dropOne, if_pos (by omega)] at hl
  exact dropRange_gone hl hq hlo hhi hva

theorem dropAll_gone (k : Nat) (rs : List (Nat × Nat)) (d : Dev) :
    Acquired k (d.world (d.core k).world) rs (rs.foldl (dropOne k) d).leases := by
  induction rs generalizing d with
  | nil => exact fun _ _ _ _ hr => absurd hr (List.not_mem_nil)
  | cons r rs ih =>
    intro l hl hq r' hr
    rcases List.mem_cons.1 hr with rfl | hr
    · exact dropOne_gone k d r' l ((fenced_dropAll k rs _).2.1 l hl) hq r' (List.mem_singleton.2 rfl)
    · have h := ih (dropOne k d r) l hl hq r' hr
      rwa [(fenced_dropOne k d r).world_eq, (fenced_dropOne k d r).core_world] at h

theorem acquire_ranges (d : Dev) (k : Nat) (ranges : List (Nat × Nat)) :
    Acquired k (d.world (d.core k).world) ranges (d.acquire k false ranges).leases := by
  have hset : ∀ fl, Fenced k d (d.setCore k { d.core k with floors := fl }) := fun _ => fenced_setCore ⟨_, _, _, _, rfl⟩
  have h := dropAll_gone k ranges (d.setCore k { d.core k with floors :=
    (if (d.core k).stime ≤ (d.core k).ltime then [] else (ranges.filter fun r => decide (r.1 < r.2)).map fun r => (r.1, r.2, (d.core k).stime))
      ++ (d.core k).floors })
  rwa [(hset _).world_eq, (hset _).core_world] at h

/-! ## What a fence does that has nothing left to wait for (R185) -/

theorem fenced_actFence (d : Dev) (k kind scope : Nat) (ranges : List (Nat × Nat)) : Fenced k d (d.actFence k kind scope ranges) := by
  unfold Dev.actFence
  have hjoin : Fenced k d (if kind = 0 then d else d.joinEnded k (kind == 3) ranges) := by
    split
    · exact Fenced.refl _ _
    · exact fenced_joinEnded _ _ _ _
  have hacquire : ∀ d : Dev, Fenced k d (if kind = 1 then d else d.acquire k (kind == 3) ranges) := by
    intro d
    split
    · exact Fenced.refl _ _
    · exact fenced_acquire _ _ _ _
  exact (hjoin.trans (hacquire _)).trans (fenced_setCore ⟨_, _, _, _, rfl⟩)

theorem actFence_all (d : Dev) (k scope : Nat) (ranges : List (Nat × Nat)) : ∀ l ∈ (d.actFence k 3 scope ranges).leases, l.quad ≠ quadOfCore k :=
  acquire_all (d.joinEnded k true ranges) k ranges

theorem actFence_acquire {kind : Nat} (hkind : kind = 0 ∨ kind = 2) (d : Dev) (k scope : Nat) (ranges : List (Nat × Nat)) :
    Acquired k (d.world (d.core k).world) ranges (d.actFence k kind scope ranges).leases := by
  rcases hkind with rfl | rfl
  · exact acquire_ranges d k ranges
  · have hjoin := fenced_joinEnded d k false ranges
    have h := acquire_ranges (d.joinEnded k false ranges) k ranges
    rwa [hjoin.world_eq, hjoin.core_world] at h

/-! ## What a fence waits for (R185, R194, R196) -/

section
variable (c : Core) (kind : BitVec 2) (rs : List (Nat × Nat))

/-- The core's range counter holds bytes that a fence of the kind with these ranges waits for. -/
def CounterOpen (n : Nat) : Prop := ∃ r, Tab.get? c.ranges n = some r ∧ r.count ≠ 0 ∧ kind ≠ 0 ∧
  (kind = 3 ∨ ∃ e ∈ rs, r.lo < e.2 ∧ e.1 < r.hi ∧ r.lo < r.hi ∧ e.1 < e.2)

/-- The fence waits: for a counter, or for an access of the core that waits for a page. -/
def FenceOpen : Prop := (∃ n, n < 8 ∧ CounterOpen c kind rs n) ∨ (kind ≠ 0 ∧ c.held ≠ [])

/-- The counters that the fence finds open. -/
def openCounters : List Nat := if kind.toNat = 0 then [] else c.fenceCounters (kind.toNat == 3) rs

theorem mem_openCounters (n : Nat) : n ∈ openCounters c kind rs ↔ n < 8 ∧ CounterOpen c kind rs n := by
  unfold openCounters CounterOpen Core.fenceCounters
  by_cases h0 : kind = 0
  · simp [h0]
  · have h3 : (kind.toNat == 3) = true ↔ kind = 3 := by simp [← BitVec.toNat_inj]
    rw [if_neg (by simpa [← BitVec.toNat_inj] using h0), List.mem_filter, List.mem_range]
    cases hr : Tab.get? c.ranges n with
    | none => simp
    | some r =>
      simp [h3, overlaps, and_assoc]
      exact fun _ _ _ => h0

theorem fenceOpen_iff : ((openCounters c kind rs).isEmpty && (kind.toNat == 0 || !c.blocked)) = true ↔ ¬ FenceOpen c kind rs := by
  have h0 : (kind.toNat == 0) = true ↔ kind = 0 := by simp [← BitVec.toNat_inj]
  have hempty : (openCounters c kind rs).isEmpty = true ↔ ¬ ∃ n, n < 8 ∧ CounterOpen c kind rs n := by
    simp only [← mem_openCounters, List.isEmpty_iff, List.eq_nil_iff_forall_not_mem, not_exists]
  rw [Bool.and_eq_true, hempty, Bool.or_eq_true, h0, FenceOpen, not_or]
  simp [Core.blocked, or_iff_not_imp_left]

/-- The counters that a fence names from then on. -/
def namedCounters (seen : List Nat) : List Nat :=
  if kind.toNat = 3 then List.range 8 else seen ++ (openCounters c kind rs).filter fun i => !seen.contains i

theorem mem_namedCounters {seen : List Nat} (h : kind ≠ 3) (n : Nat) :
    n ∈ namedCounters c kind rs seen ↔ n ∈ seen ∨ (n < 8 ∧ CounterOpen c kind rs n) := by
  rw [namedCounters, if_neg (by simpa [← BitVec.toNat_inj] using h), List.mem_append, List.mem_filter, mem_openCounters]
  by_cases hs : n ∈ seen <;> simp [hs]

end

theorem bitMask_eq (is : List Nat) : bitMask is = (is.map (2 ^ ·)).sum := by
  have h : ∀ m, is.foldl (fun m i => m + 2 ^ i) m = m + (is.map (2 ^ ·)).sum := by
    induction is with
    | nil => exact fun m => rfl
    | cons i is ih => exact fun m => by rw [List.foldl_cons, ih, List.map_cons, List.sum_cons, Nat.add_assoc]
  rw [bitMask, h, Nat.zero_add]

section
variable {d : Dev} {k sc : Nat} {kind : BitVec 2} {clamped : Bool} {i : Instr} {rs : List (Nat × Nat)} {seen : List Nat}

theorem tryFence_waits (h : FenceOpen (d.core k) kind rs) : d.tryFence k kind.toNat sc clamped i rs seen =
    .wait d (.fencing rs (namedCounters (d.core k) kind rs seen)) ((d.core k).fenceWait (namedCounters (d.core k) kind rs seen)) := by
  rw [Dev.tryFence]
  exact if_neg fun hc => (fenceOpen_iff _ _ _).1 hc h

theorem tryFence_acts (h : ¬ FenceOpen (d.core k) kind rs) : d.tryFence k kind.toNat sc clamped i rs seen =
    (d.actFence k kind.toNat sc rs).afterClamp k clamped i := by
  rw [Dev.tryFence]
  exact if_pos ((fenceOpen_iff _ _ _).2 h)

end

theorem fenceRanges_eq (x : Ctx) (k : Nat) (es : List (Bool × BitVec 11)) (d : Dev) :
    ∃ ds, (d.fenceRanges x k es).1 = { d with dies := ds } := by
  induction es generalizing d with
  | nil => exact ⟨_, rfl⟩
  | cons e es ih =>
    obtain ⟨reg, e⟩ := e
    rw [Dev.fenceRanges]
    dsimp only
    split
    · obtain ⟨ds, hd⟩ := ih d
      split
      next d' rs heq => exact ⟨ds, by rw [← hd, heq]⟩
      next => exact ⟨ds, hd⟩
    · obtain ⟨ds, hd⟩ := useRecord_eq d x.seq (dieOfQuad (quadOfCore k)) (d.core k).world e.toNat
      split
      next d' heq => exact ⟨ds, by rw [← hd, heq]⟩
      next d' r heq =>
        rw [heq] at hd
        obtain ⟨ds', hd'⟩ := ih d'
        cases hd
        split
        next d'' rs heq' => exact ⟨ds', by rw [← hd', heq']⟩
        next => exact ⟨ds', hd'⟩

/-! ## FENCE (R194) -/

section
variable {s : State} {k : Nat} {scope : BitVec 4} {cnt kind : BitVec 2} {form : BitVec 4} {e0 e1 e2 e3 : BitVec 11} {d : Dev}
  {rs seen : List (Nat × Nat)} {cs : List Nat}

theorem entries_ready {es : List (Bool × BitVec 11)} {c : Core} (h : ∀ e ∈ es, e.1 = true →
    c.pendingG (BitVec.ofNat 6 (e.2.toNat / 32 % 64)) = false ∧ c.pendingG (BitVec.ofNat 6 (e.2.toNat / 32 % 64 + 1)) = false) :
    (entryRegs es).any c.pendingG = false := by
  rw [List.any_eq_false]
  intro r hr
  obtain ⟨e, he, hre⟩ := List.mem_flatMap.1 hr
  cases hreg : e.1 with
  | false => simp [hreg] at hre
  | true =>
    obtain ⟨hlo, hhi⟩ := h e he hreg
    simp only [hreg, if_true, List.mem_cons, List.not_mem_nil, or_false] at hre
    rcases hre with rfl | rfl
    · rw [show field e.2 5 6 = e.2.toNat / 32 % 64 from rfl, hlo]; simp
    · rw [show field e.2 5 6 = e.2.toNat / 32 % 64 from rfl, hhi]; simp

section
variable (ha : s.actor = .core k) (hst : (s.dev.core k).stage = .none)
  (hready : (entryRegs (fenceEntries cnt kind form e0 e1 e2 e3)).any (s.dev.core k).pendingG = false)
include ha hst hready

theorem fence_reads (h : s.dev.fenceRanges s.ctx k (fenceEntries cnt kind form e0 e1 e2 e3) = (d, .inr rs)) :
    exec (.fence scope cnt kind form e0 e1 e2 e3) s = .next { s with dev := (s.dev.finish s.now k
      (d.tryFence k kind.toNat (s.dev.clampScope k scope.toNat).1 (s.dev.clampScope k scope.toNat).2
        (.fence scope cnt kind form e0 e1 e2 e3) rs [])) } := by
  rw [show exec (.fence scope cnt kind form e0 e1 e2 e3) s = execFence scope cnt kind form e0 e1 e2 e3 s from rfl, execFence, onCore_core _ ha]
  simp only [hst, hready, Bool.false_eq_true, if_false, h]

theorem fence_bad_record {tid : Nat} (h : s.dev.fenceRanges s.ctx k (fenceEntries cnt kind form e0 e1 e2 e3) = (d, .inl tid)) :
    exec (.fence scope cnt kind form e0 e1 e2 e3) s = .next (s.trapped k 0x0A (BitVec.ofNat 64 tid)) := by
  rw [show exec (.fence scope cnt kind form e0 e1 e2 e3) s = execFence scope cnt kind form e0 e1 e2 e3 s from rfl, execFence, onCore_core _ ha]
  simp only [hst, hready, Bool.false_eq_true, if_false, h]
  rfl

end

/-- A later issue goes on with the ranges that it has read. -/
theorem fence_goes_on (ha : s.actor = .core k) (hst : (s.dev.core k).stage = .fencing seen cs) :
    exec (.fence scope cnt kind form e0 e1 e2 e3) s = .next { s with dev := (s.dev.finish s.now k
      (s.dev.tryFence k kind.toNat (s.dev.clampScope k scope.toNat).1 (s.dev.clampScope k scope.toNat).2
        (.fence scope cnt kind form e0 e1 e2 e3) seen cs)) } := by
  rw [show exec (.fence scope cnt kind form e0 e1 e2 e3) s = execFence scope cnt kind form e0 e1 e2 e3 s from rfl, execFence, onCore_core _ ha]
  simp only [hst]

/-- What a waiting fence leaves. -/
theorem finish_fence_waits (now : Now) (i : Instr) (sc : Nat) (clamped : Bool) (c : Core) (d₀ : Dev) (hc : d.core k = c) (h : FenceOpen c kind rs) :
    ∃ w ns, d₀.finish now k (d.tryFence k kind.toNat sc clamped i rs cs) = d.setCore k { c with stage := .fencing rs ns, wait := some w } ∧
      w.kind = 6 ∧ w.handle = 1 ∧ w.needed = (ns.map (2 ^ ·)).sum ∧ w.held = ((ns.filter c.counterZero).map (2 ^ ·)).sum ∧
      (kind = 3 → ns = List.range 8) ∧ (kind ≠ 3 → ∀ n, n ∈ ns ↔ n ∈ cs ∨ (n < 8 ∧ CounterOpen c kind rs n)) := by
  subst hc
  rw [tryFence_waits h]
  exact ⟨_, _, rfl, rfl, rfl, bitMask_eq _, bitMask_eq _, fun h => if_pos (by rw [h]; rfl), fun h => mem_namedCounters _ _ _ h⟩

/-- What a completed fence leaves whose scope was not clamped. -/
theorem finish_fence_completes (now : Now) (i : Instr) (sc : Nat) (s : State) (c : Core) (hc : s.dev.core k = c) (hd : ∃ ds, d = { s.dev with dies := ds })
    (h : ¬ FenceOpen c kind rs) :
    let t := s.dev.finish now k (d.tryFence k kind.toNat sc false i rs cs)
    t.mem = s.dev.mem ∧ (∃ lt fl en kp, t.core k = { c with pc := c.pc + 8, wait := none, stage := .none, ltime := lt, floors := fl, ended := en, kept := kp }) ∧
      (∀ l ∈ t.leases, l ∈ s.dev.leases) ∧ (kind = 3 → ∀ l ∈ t.leases, l.quad ≠ quadOfCore k) ∧
      (kind = 0 ∨ kind = 2 → Acquired k (s.dev.world c.world) rs t.leases) := by
  obtain ⟨ds, rfl⟩ := hd
  subst hc
  rw [tryFence_acts (d := { s.dev with dies := ds }) h, Dev.afterClamp, if_neg (by decide), finish_done]
  have hact := fenced_actFence { s.dev with dies := ds } k kind.toNat sc rs
  obtain ⟨-, hle, lt, fl, en, kp, hcore⟩ := id hact
  obtain ⟨ws, hret⟩ := retire_eq (Dev.actFence { s.dev with dies := ds } k kind.toNat sc rs) k ((s.dev.core k).pc + 8)
  have hleases : ((Dev.actFence { s.dev with dies := ds } k kind.toNat sc rs).retire k ((s.dev.core k).pc + 8)).leases =
      (Dev.actFence { s.dev with dies := ds } k kind.toNat sc rs).leases := by rw [hret]; rfl
  refine ⟨by rw [mem_retire, hact.mem_eq], ⟨lt, fl, en, kp, ?_⟩, ?_, ?_, ?_⟩
  · rw [core_retire, hcore]; rfl
  · rw [hleases]; exact hle
  · rintro rfl; rw [hleases]; exact actFence_all _ _ _ _
  · intro hkind; rw [hleases]
    exact actFence_acquire (by rcases hkind with rfl | rfl <;> simp) _ _ _ _

/-- A fence that has nothing left to wait for, of a clamped scope. -/
theorem finish_fence_clamped (s : State) (i : Instr) (sc : Nat) (hd : ∃ ds, d = { s.dev with dies := ds }) (h : ¬ FenceOpen (s.dev.core k) kind rs) :
    ∃ d' : Dev, s.dev.finish s.now k (d.tryFence k kind.toNat sc true i rs cs) = s.dev.finish s.now k (d'.afterClamp k true i) ∧
      (d'.core k).cur = (s.dev.core k).cur ∧ (d'.core k).inHandler = (s.dev.core k).inHandler := by
  obtain ⟨ds, rfl⟩ := hd
  rw [tryFence_acts (d := { s.dev with dies := ds }) h]
  have hact := fenced_actFence { s.dev with dies := ds } k kind.toNat sc rs
  obtain ⟨-, -, lt, fl, en, kp, hcore⟩ := id hact
  exact ⟨_, rfl, hact.cur_eq, by rw [hcore]; rfl⟩

theorem finish_clamped_completes (d d' : Dev) (now : Now) (i : Instr) (h : (d'.core k).cur.clampTraps = false) :
    ((d.finish now k (d'.afterClamp k true i)).core k).scopeClamped = true ∧
      ((d.finish now k (d'.afterClamp k true i)).core k).pc = (d.core k).pc + 8 := by
  rw [Dev.afterClamp, if_pos rfl]
  simp [h]

/-- SCOPE_CLAMP comes after the instruction (Table 7.7). -/
theorem finish_clamped_traps (d d' : Dev) (now : Now) (i : Instr) (h : (d'.core k).cur.clampTraps = true) (hin : (d'.core k).inHandler = false)
    (hh : (d'.core k).cur.handler ≠ 0xFFFF) :
    let t := d.finish now k (d'.afterClamp k true i)
    (t.core k).scopeClamped = true ∧ (t.core k).trapCause = 0x0B ∧ (t.core k).trapPc = (d.core k).pc + 8 ∧ (t.core k).inHandler = true := by
  have hcur : (d'.setCore k { d'.core k with scopeClamped := true }).core k = { d'.core k with scopeClamped := true } := core_setCore _ _ _
  rw [Dev.afterClamp, if_pos rfl]
  dsimp only
  rw [if_pos h, Dev.finish]
  rcases takeTrapAt_cases ((d'.setCore k { d'.core k with scopeClamped := true }).retire k ((d.core k).pc + 8)) now k Cause.scopeClamp
    (wordOfInstr i) ((d.core k).pc + 8) (d.core k).pc with ⟨hin', -⟩ | ⟨-, hcause, -⟩ | ⟨-, -, -, heq⟩
  · rw [core_retire, hcur] at hin'
    exact absurd (hin'.symm.trans hin) (by decide)
  · rw [core_retire, hcur] at hcause
    exact (hcause.resolve_left (by decide) |> hh).elim
  · rw [heq]
    simp [Core.setTrap, Cause.scopeClamp]

end

/-! ## LGFENCE (R197, R198) -/

section
variable (w : Nat) (tids : List Nat)

/-- The die's cache without the records that the fence names. -/
def withoutTids (x : Die) : Die := { x with legend := x.legend.filter fun e => !(e.1 == w && tids.contains e.2.1) }

theorem mem_legend_withoutTids (x : Die) (e : Nat × Nat × Bytes) :
    e ∈ (withoutTids w tids x).legend ↔ e ∈ x.legend ∧ ¬ (e.1 = w ∧ e.2.1 ∈ tids) := by
  simp [withoutTids, ← imp_iff_not_or]

theorem dropLegends_keep (is : List Nat) (d : Dev) : ∃ ds, is.foldl (fun d i => d.dropLegend i w tids) d = { d with dies := ds } := by
  induction is generalizing d with
  | nil => exact ⟨_, rfl⟩
  | cons i is ih =>
    obtain ⟨ds, h⟩ := ih (d.dropLegend i w tids)
    exact ⟨ds, h⟩

theorem withoutTids_withoutTids (x : Die) : withoutTids w tids (withoutTids w tids x) = withoutTids w tids x := by
  simp [withoutTids, List.filter_filter]

theorem die_dropLegend (d : Dev) (i j : Nat) : (d.dropLegend i w tids).die j = if j = i then withoutTids w tids (d.die j) else d.die j := by
  split
  next h => subst h; exact die_setDie _ _ _
  next h => exact die_setDie_other _ _ h

theorem die_dropLegends (is : List Nat) (d : Dev) (j : Nat) :
    (is.foldl (fun d i => d.dropLegend i w tids) d).die j = if j ∈ is then withoutTids w tids (d.die j) else d.die j := by
  induction is generalizing d with
  | nil => rfl
  | cons i is ih =>
    rw [List.foldl_cons, ih, die_dropLegend]
    by_cases hi : j = i <;> by_cases hj : j ∈ is <;> simp [hi, hj, withoutTids_withoutTids]

end

theorem clampScope_off {d : Dev} {k : Nat} {scope : BitVec 4} (h : scope = 6 → (d.world (d.core k).world).tenantScope = false) :
    d.clampScope k scope.toNat = (scope.toNat, false) :=
  if_neg fun ⟨hs, ht⟩ => by rw [h (by simpa [← BitVec.toNat_inj] using hs)] at ht; exact absurd ht (by decide)

theorem clampScope_on {d : Dev} {k : Nat} (h : (d.world (d.core k).world).tenantScope = true) :
    d.clampScope k (6 : BitVec 4).toNat = (5, true) := if_pos ⟨rfl, h⟩

theorem lgfence_drops {s : State} {k : Nat} {scope : BitVec 4} {cnt : BitVec 2} {e0 e1 e2 e3 : BitVec 11} (ha : s.actor = .core k)
    (hb : (s.dev.core k).blocked = false) (hsc : scope = 6 → (s.dev.world (s.dev.core k).world).tenantScope = false) :
    exec (.lgfence scope cnt e0 e1 e2 e3) s = .next (s.completed k
      (((s.dev.scopeDies k scope.toNat).foldl (fun d i => d.dropLegend i (s.dev.core k).world
        (([e0, e1, e2, e3].map BitVec.toNat).take (cnt.toNat + 1))) s.dev).setCore k ((s.dev.core k).keep scope.toNat)) ((s.dev.core k).pc + 8)) := by
  rw [show exec (.lgfence scope cnt e0 e1 e2 e3) s = execLgfence scope cnt e0 e1 e2 e3 s from rfl, execLgfence, onCoreSync_core _ ha hb]
  dsimp only
  rw [clampScope_off hsc]
  obtain ⟨ds, h⟩ := dropLegends_keep (s.dev.core k).world (([e0, e1, e2, e3].map BitVec.toNat).take (cnt.toNat + 1)) (s.dev.scopeDies k scope.toNat) s.dev
  rw [h]
  rfl

/-- Settles O42: the first issue by what its entries read, a later one by what it has read, and LGFENCE. -/
theorem fencesWaitForTheirCounters : Obligations.FencesWaitForTheirCounters := by
  unfold Obligations.FencesWaitForTheirCounters
  refine ⟨?_, ?_⟩
  · intro s k scope cnt kind form e0 e1 e2 e3 d ranges seen cs ha c entries waits open_ i stalls completes
    have hstalls : ∀ {u : Dev} {rs before sc clamped}, u.core k = c → FenceOpen c kind rs →
        exec i s = .next { s with dev := (s.dev.finish s.now k (u.tryFence k kind.toNat sc clamped i rs before)) } → stalls u rs before := by
      intro u rs before sc clamped hc hopen hex
      obtain ⟨w, ns, heq, hw⟩ := finish_fence_waits s.now i sc clamped c s.dev hc hopen
      exact ⟨w, ns, by rw [hex, heq], hw⟩
    have hcompletes : ∀ {u : Dev} {rs before}, (∃ ds, u = { s.dev with dies := ds }) → ¬ FenceOpen c kind rs →
        exec i s = .next { s with dev := (s.dev.finish s.now k (u.tryFence k kind.toNat scope.toNat false i rs before)) } → completes rs := by
      intro u rs before hu hopen hex
      obtain ⟨hmem, ⟨lt, fl, en, kp, hcore⟩, hle, hall, hacq⟩ := finish_fence_completes s.now i scope.toNat s c rfl hu hopen
      refine ⟨_, hex, hmem, ?_, ?_, ?_, ?_, ?_, ?_, ?_, ?_, ?_, hall, hle, ?_⟩
      iterate 9 · rw [hcore]
      · intro hkind l hl hq r hr va level e hlo hhi hva hleaf hline
        exact hacq hkind l hl hq r hr va hlo hhi hva ⟨level, e, hleaf, hline⟩
    refine ⟨fun hst hready => ⟨fun tid d' h => fence_bad_record ha hst (entries_ready hready) h, fun h => ?_⟩, fun hst => ?_⟩
    · have hread := fence_reads (scope := scope) ha hst (entries_ready hready) h
      obtain ⟨ds, hds⟩ : ∃ ds, d = { s.dev with dies := ds } := by
        obtain ⟨ds, hds⟩ := fenceRanges_eq s.ctx k entries s.dev
        exact ⟨ds, by rw [← hds, h]⟩
      have hc : d.core k = c := by rw [hds]; rfl
      refine ⟨fun hopen => hstalls hc hopen hread, fun hopen hsc => ?_, fun hopen hs ht hno => ?_, fun hopen hs ht htraps hin hh => ?_⟩
      · rw [clampScope_off hsc] at hread
        exact hcompletes ⟨ds, hds⟩ hopen hread
      · subst hs
        rw [clampScope_on ht] at hread
        obtain ⟨d', heq, hcur, -⟩ := finish_fence_clamped s i 5 ⟨ds, hds⟩ hopen
        exact ⟨_, by rw [hread, heq], finish_clamped_completes s.dev d' s.now i (by rw [hcur]; exact hno)⟩
      · subst hs
        rw [clampScope_on ht] at hread
        obtain ⟨d', heq, hcur, hin'⟩ := finish_fence_clamped s i 5 ⟨ds, hds⟩ hopen
        exact ⟨_, by rw [hread, heq], finish_clamped_traps s.dev d' s.now i (by rw [hcur]; exact htraps) (hin'.trans hin) (by rw [hcur]; exact hh)⟩
    · have hgo := fence_goes_on (scope := scope) (cnt := cnt) (kind := kind) (form := form) (e0 := e0) (e1 := e1) (e2 := e2) (e3 := e3) ha hst
      refine ⟨fun hopen => hstalls rfl hopen hgo, fun hopen hsc => ?_⟩
      rw [clampScope_off hsc] at hgo
      exact hcompletes ⟨_, rfl⟩ hopen hgo
  · intro s k scope cnt e0 e1 e2 e3 ha hb hsc c tids dies
    refine ⟨_, ((s.dev.core k).keep scope.toNat).kept, lgfence_drops ha hb hsc, ?_⟩
    obtain ⟨ds, hds⟩ := dropLegends_keep c.world tids dies s.dev
    have hdies := die_dropLegends c.world tids dies s.dev
    obtain ⟨ws, hret⟩ := retire_eq (({ s.dev with dies := ds } : Dev).setCore k (c.keep scope.toNat)) k (c.pc + 8)
    rw [hds] at hdies ⊢
    rw [State.completed, hret]
    refine ⟨?_, rfl, fun i hi => (hdies i).trans (if_neg hi), fun i hi e => ?_⟩
    · exact (core_setCore _ _ _).trans (by rw [core_setCore]; rfl)
    · have hdie := (hdies i).trans (if_pos hi)
      have hmem := (mem_legend_withoutTids c.world tids (s.dev.die i) e)
      rwa [← hdie] at hmem

end Sys2Proof.Proofs
end

section
/-! PROOFS. One correct rounding: what `roundAt` and `roundTo` give of an exact number (R53, Table 3.3). -/

namespace Sys2Proof.Proofs

open Sys2Proof Sys2Proof.Machine Sys2Proof.Laws

/-! ## Powers of two -/

theorem bitLen_bounds {m : Nat} (h : m ≠ 0) : 1 ≤ bitLen m ∧ 2 ^ (bitLen m - 1) ≤ m ∧ m < 2 ^ bitLen m := by
  rw [bitLen, if_neg h, Nat.add_sub_cancel]
  exact ⟨Nat.le_add_left _ _, Nat.log2_self_le h, Nat.lt_log2_self⟩

theorem lt_two_pow_bitLen (m : Nat) : m < 2 ^ bitLen m := by
  by_cases h : m = 0
  · subst h; decide
  · exact (bitLen_bounds h).2.2

theorem two_zpow_pos (e : Int) : (0 : ℚ) < 2 ^ e := zpow_pos (by norm_num) e

theorem zpow_toNat {e : Int} (h : 0 ≤ e) : ((2 ^ e.toNat : Nat) : ℚ) = 2 ^ e := by
  rw [Nat.cast_pow, Nat.cast_ofNat, ← zpow_natCast, Int.toNat_of_nonneg h]

/-! ## The magnitude of an exact number -/

/-- `v` is the magnitude of an exact number: m * 2^e, or above it by less than 2^e. -/
def IsMagnitude (x : Exact) (v : ℚ) : Prop :=
  if x.sticky then (x.m : ℚ) * 2 ^ x.e < v ∧ v < (x.m + 1) * 2 ^ x.e else v = x.m * 2 ^ x.e

theorem IsMagnitude.le {x : Exact} {v : ℚ} (h : IsMagnitude x v) : (x.m : ℚ) * 2 ^ x.e ≤ v := by
  unfold IsMagnitude at h
  split at h
  · exact h.1.le
  · exact h.ge

theorem IsMagnitude.lt {x : Exact} {v : ℚ} (h : IsMagnitude x v) : v < (x.m + 1) * 2 ^ x.e := by
  unfold IsMagnitude at h
  split at h
  · exact h.2
  · rw [h]; exact mul_lt_mul_of_pos_right (lt_add_one _) (two_zpow_pos _)

/-- Where a magnitude between two neighbours goes in a mode: `odd` tells of the lower one. -/
def GoesUp (rnd : Nat) (neg : Bool) (odd : Prop) (lo hi w : ℚ) : Prop :=
  match rnd with
  | 0 => lo + hi < 2 * w ∨ (lo + hi = 2 * w ∧ odd)
  | 1 => False
  | 2 => neg = true ∧ lo < w
  | _ => neg = false ∧ lo < w

theorem goesUp_scale {rnd : Nat} {neg : Bool} {odd : Prop} {lo hi w c : ℚ} (hc : 0 < c) :
    GoesUp rnd neg odd (lo * c) (hi * c) (w * c) ↔ GoesUp rnd neg odd lo hi w := by
  have hlt : lo * c < w * c ↔ lo < w := mul_lt_mul_iff_left₀ hc
  have hmid : lo * c + hi * c < 2 * (w * c) ↔ lo + hi < 2 * w := by
    rw [← add_mul, ← mul_assoc]; exact mul_lt_mul_iff_left₀ hc
  have htie : lo * c + hi * c = 2 * (w * c) ↔ lo + hi = 2 * w := by
    rw [← add_mul, ← mul_assoc]; exact mul_left_inj' hc.ne'
  unfold GoesUp
  split <;> simp only [hlt, hmid, htie]

/-- A magnitude that is not above the lower neighbour stays. -/
theorem not_goesUp_of_le {rnd : Nat} {neg : Bool} {odd : Prop} {lo hi w : ℚ} (h : lo < hi) (hw : w ≤ lo) : ¬ GoesUp rnd neg odd lo hi w := by
  unfold GoesUp
  split
  · rintro (h' | ⟨h', -⟩) <;> linarith
  · exact id
  · exact fun h' => absurd h'.2 (not_lt.2 hw)
  · exact fun h' => absurd h'.2 (not_lt.2 hw)

/-- What rounding `v / 2^q` to an integer gives: the integer below it, whether it goes up from there, and whether it was none. -/
def RoundsAt (rnd : Nat) (neg : Bool) (t : ℚ) (r : Nat × Bool) : Prop :=
  ∃ n : Nat, ∃ up : Bool, (n : ℚ) ≤ t ∧ t < n + 1 ∧ (up = true ↔ GoesUp rnd neg (n % 2 = 1) n (n + 1) t) ∧
    r.1 = n + b2n up ∧ (r.2 = true ↔ (n : ℚ) ≠ t)

/-- The rounding decision, from how the remainder stands to the half and to nothing. -/
theorem roundUp_iff {rnd : Nat} {neg : Bool} {n rem half : Nat} {sticky : Bool} {t : ℚ}
    (habove : half < rem ∨ (rem = half ∧ sticky = true) ↔ (n : ℚ) + (n + 1) < 2 * t)
    (htie : rem = half ∧ sticky = false ↔ (n : ℚ) + (n + 1) = 2 * t) (hne : rem ≠ 0 ∨ sticky = true ↔ (n : ℚ) < t) :
    roundUp rnd neg n rem half sticky = true ↔ GoesUp rnd neg (n % 2 = 1) n (n + 1) t := by
  unfold roundUp GoesUp
  split
  · rw [← habove, ← htie]
    cases sticky <;> simp
  · exact iff_of_false (by decide) id
  · rw [← hne]; simp
  · rw [← hne]; simp

/-- A multiple is itself. -/
theorem roundsAt_multiple (rnd : Nat) (neg : Bool) (n : Nat) : RoundsAt rnd neg n (n + b2n (roundUp rnd neg n 0 1 false), false) := by
  refine ⟨n, _, le_refl _, lt_add_one _, roundUp_iff ?_ ?_ ?_, rfl, by simp⟩
  · exact iff_of_false (by simp) (by linarith)
  · exact iff_of_false (by simp) (by intro h; linarith)
  · exact iff_of_false (by simp) (lt_irrefl _)

/-- A number far below the half. -/
theorem roundsAt_tiny {rnd : Nat} {neg tiny : Bool} {t : ℚ} (h0 : 0 ≤ t) (h1 : t < 1 / 4) (htiny : tiny = true ↔ 0 < t) :
    RoundsAt rnd neg t (b2n (roundUp rnd neg 0 (b2n tiny) 2 false), tiny) := by
  refine ⟨0, _, by simpa using h0, by push_cast; linarith, roundUp_iff ?_ ?_ ?_, (Nat.zero_add _).symm, ?_⟩
  · exact iff_of_false (by cases tiny <;> simp [b2n]) (by push_cast; linarith)
  · exact iff_of_false (by cases tiny <;> simp [b2n]) (by push_cast; intro h; linarith)
  · rw [Nat.cast_zero, ← htiny]; cases tiny <;> simp [b2n]
  · rw [htiny, Nat.cast_zero]; exact lt_iff_le_and_ne.trans (and_iff_right h0)

/-- A number with `s` bits below the half's, and perhaps more. -/
theorem roundsAt_bits {rnd : Nat} {neg sticky : Bool} {m s : Nat} {y : ℚ} (hlo : (m : ℚ) ≤ y) (hhi : y < m + 1)
    (hsticky : sticky = true ↔ (m : ℚ) < y) :
    RoundsAt rnd neg (y / 2 ^ (s + 1))
      (m / 2 ^ (s + 1) + b2n (roundUp rnd neg (m / 2 ^ (s + 1)) (m % 2 ^ (s + 1)) (2 ^ s) sticky), m % 2 ^ (s + 1) != 0 || sticky) := by
  have hpos : 0 < 2 ^ s := Nat.two_pow_pos s
  rw [pow_succ', pow_succ', show (2 : ℚ) ^ s = ((2 ^ s : Nat) : ℚ) by norm_cast]
  generalize 2 ^ s = half at *
  have hsplit : (m : ℚ) = 2 * half * (m / (2 * half) : Nat) + (m % (2 * half) : Nat) := by exact_mod_cast (Nat.div_add_mod _ _).symm
  have hmod : ((m % (2 * half) : Nat) : ℚ) + 1 ≤ 2 * half := by exact_mod_cast Nat.mod_lt m (show 0 < 2 * half by omega)
  generalize m / (2 * half) = n at *
  generalize m % (2 * half) = r at *
  have hposq : (0 : ℚ) < half := by exact_mod_cast hpos
  obtain ⟨d, hd⟩ : ∃ d, y = 2 * half * n + d := ⟨y - 2 * half * n, by ring⟩
  rw [hsplit, hd, add_lt_add_iff_left] at hsticky
  have hrd : (r : ℚ) ≤ d := by linarith
  have hdr : d < r + 1 := by linarith
  have hr0 : (0 : ℚ) ≤ r := Nat.cast_nonneg r
  have ht : y / (2 * half) = n + d / (2 * half) := by rw [hd]; field_simp
  have hdh : d / (2 * half) < 1 := by rw [div_lt_one (by linarith)]; linarith
  have hd0 : (n : ℚ) < n + d / (2 * half) ↔ 0 < d := by rw [lt_add_iff_pos_right, div_pos_iff_of_pos_right (by linarith)]
  have htwice : 2 * ((n : ℚ) + d / (2 * half)) = n + (n + d / half) := by field_simp; ring
  have hrn : r = 0 ∨ (1 : ℚ) ≤ r := (Nat.eq_zero_or_pos r).imp_right fun h => by exact_mod_cast h
  have hnz : r ≠ 0 ∨ sticky = true ↔ 0 < d := by
    rw [hsticky]
    refine ⟨fun h => h.elim (fun h => ?_) fun h => hr0.trans_lt h, fun h => hrn.symm.imp (fun h => ?_) fun h' => ?_⟩
    · linarith [hrn.resolve_left h]
    · rintro rfl; norm_num at h
    · rw [h']; exact_mod_cast h
  rw [ht]
  refine ⟨n, _, ?_, by linarith, roundUp_iff ?_ ?_ ?_, rfl, ?_⟩
  · exact le_add_of_nonneg_right (div_nonneg (hr0.trans hrd) (by linarith))
  · rw [htwice, add_lt_add_iff_left, add_lt_add_iff_left, one_lt_div hposq, hsticky]
    refine ⟨fun h => ?_, fun h => ?_⟩
    · rcases h with h | ⟨rfl, h⟩
      · exact lt_of_lt_of_le (by exact_mod_cast h) hrd
      · exact h
    · rcases Nat.lt_trichotomy r half with hlt | rfl | hgt
      · have : (r : ℚ) + 1 ≤ half := by exact_mod_cast hlt
        linarith
      · exact .inr ⟨rfl, h⟩
      · exact .inl hgt
  · rw [htwice, add_right_inj, add_right_inj, eq_div_iff hposq.ne', one_mul, ← Bool.not_eq_true, hsticky]
    refine ⟨fun ⟨h1, h2⟩ => h1 ▸ le_antisymm hrd (not_lt.1 h2), fun h => ?_⟩
    have h1 : r = half := by
      have h2 : r < half + 1 := by exact_mod_cast (by linarith : (r : ℚ) < half + 1)
      have h3 : half < r + 1 := by exact_mod_cast (by linarith : (half : ℚ) < r + 1)
      omega
    exact ⟨h1, by rw [h1, ← h]; exact lt_irrefl _⟩
  · rw [hd0]; exact hnz
  · rw [Bool.or_eq_true, bne_iff_ne, hnz, ← hd0, lt_iff_le_and_ne]
    exact and_iff_right (le_add_of_nonneg_right (div_nonneg (hr0.trans hrd) (by linarith)))

theorem roundAt_rounds {rnd : Nat} {x : Exact} {q : Int} {v : ℚ} (hv : IsMagnitude x v) (hq : x.sticky = true → x.e < q) :
    RoundsAt rnd x.neg (v / 2 ^ q) (roundAt rnd x q) := by
  unfold roundAt
  split
  case isTrue hle =>
    have hsticky : x.sticky = false := by
      rw [← Bool.not_eq_true]; exact fun h => absurd (hq h) (by omega)
    have ht : v / 2 ^ q = ((x.m * 2 ^ (x.e - q).toNat : Nat) : ℚ) := by
      rw [IsMagnitude, hsticky] at hv
      rw [Nat.cast_mul, zpow_toNat (by omega), zpow_sub₀ two_ne_zero, ← mul_div_assoc, div_left_inj' (two_zpow_pos q).ne']
      simpa using hv
    rw [ht, hsticky]
    exact roundsAt_multiple _ _ _
  case isFalse hgt =>
    obtain ⟨s, hs⟩ : ∃ s : Nat, q = x.e + (s + 1 : Nat) := ⟨(q - x.e).toNat - 1, by omega⟩
    have hsplit : v / 2 ^ q = v / 2 ^ x.e / 2 ^ (s + 1) := by
      rw [hs, zpow_add₀ two_ne_zero, zpow_natCast, div_div]
    have hlo : (x.m : ℚ) ≤ v / 2 ^ x.e := (le_div_iff₀ (two_zpow_pos _)).2 hv.le
    have hhi : v / 2 ^ x.e < x.m + 1 := (div_lt_iff₀ (two_zpow_pos _)).2 hv.lt
    have hsticky : x.sticky = true ↔ (x.m : ℚ) < v / 2 ^ x.e := by
      rw [lt_div_iff₀ (two_zpow_pos _)]
      unfold IsMagnitude at hv
      split at hv
      next h => exact iff_of_true h hv.1
      next h => exact iff_of_false h (by rw [hv]; exact lt_irrefl _)
    rw [hsplit, show (q - x.e).toNat = s + 1 by omega]
    generalize v / 2 ^ x.e = y at *
    have hpos : (0 : ℚ) < 2 ^ (s + 1) := by positivity
    have hm0 : (0 : ℚ) ≤ x.m := Nat.cast_nonneg _
    dsimp only
    split
    case isTrue hsmall =>
      have hm : (x.m + 1 : ℚ) * 4 ≤ 2 ^ (s + 1) := by
        have h := lt_two_pow_bitLen x.m
        have h' : 2 ^ (bitLen x.m + 2) ≤ 2 ^ (s + 1) := Nat.pow_le_pow_right (by norm_num) hsmall
        rw [pow_add] at h'
        exact_mod_cast (by omega : (x.m + 1) * 4 ≤ 2 ^ (s + 1))
      refine roundsAt_tiny (div_nonneg (hm0.trans hlo) hpos.le) ?_ ?_
      · rw [div_lt_div_iff₀ hpos (by norm_num)]; linarith
      · rw [div_pos_iff_of_pos_right hpos, Bool.or_eq_true, bne_iff_ne, hsticky]
        refine ⟨fun h => ?_, fun h => ?_⟩
        · rcases h with h | h
          · exact lt_of_lt_of_le (by exact_mod_cast Nat.pos_of_ne_zero h) hlo
          · exact hm0.trans_lt h
        · by_cases hz : x.m = 0
          · exact .inr (by rw [hz]; exact_mod_cast h)
          · exact .inl hz
    case isFalse hbig => exact roundsAt_bits hlo hhi hsticky

end Sys2Proof.Proofs
end

section
/-! PROOFS. The encodings of a format in the order of their magnitudes, and what `roundTo` gives among them (R53). -/

namespace Sys2Proof.Proofs

open Sys2Proof Sys2Proof.Machine Sys2Proof.Laws

/-! ## Encodings and magnitudes -/

/-- The magnitude of an encoding without its sign, in units of the smallest subnormal, with no bound on the exponent. -/
def mag (mb u : Nat) : Nat := if u / 2 ^ mb = 0 then u % 2 ^ mb else (2 ^ mb + u % 2 ^ mb) * 2 ^ (u / 2 ^ mb - 1)

/-- The encoding of significand `n` at the `j`-th binade: also where `n` has just left the binade. -/
theorem mag_binade {mb j n : Nat} (hn : n ≤ 2 ^ (mb + 1)) (hj : j = 0 ∨ 2 ^ mb ≤ n) : mag mb (j * 2 ^ mb + n) = n * 2 ^ j := by
  have hpos : 0 < 2 ^ mb := Nat.two_pow_pos mb
  rw [pow_succ] at hn
  unfold mag
  generalize 2 ^ mb = b at *
  by_cases hsmall : n < b
  · have hj0 : j = 0 := by omega
    simp [hj0, Nat.div_eq_of_lt hsmall, Nat.mod_eq_of_lt hsmall]
  · by_cases hcarry : n = 2 * b
    · have hu : j * b + n = b * (j + 2) := by rw [hcarry]; ring
      rw [hu, Nat.mul_div_cancel_left _ hpos, Nat.mul_mod_right, if_neg (by omega), hcarry, Nat.add_zero,
        show j + 2 - 1 = j + 1 from rfl, pow_succ]
      ring
    · have hu : j * b + n = (n - b) + b * (j + 1) := by rw [Nat.mul_add, Nat.mul_comm b j]; omega
      rw [hu, Nat.add_mul_div_left _ _ hpos, Nat.add_mul_mod_self_left, Nat.div_eq_of_lt (by omega), Nat.mod_eq_of_lt (by omega),
        if_neg (by omega), Nat.zero_add, Nat.add_sub_cancel, Nat.add_sub_cancel' (by omega)]

theorem exists_binade (mb u : Nat) : ∃ j n, u = j * 2 ^ mb + n ∧ n < 2 ^ (mb + 1) ∧ (j = 0 ∨ 2 ^ mb ≤ n) := by
  have hpos : 0 < 2 ^ mb := Nat.two_pow_pos mb
  have hmod := Nat.mod_lt u hpos
  by_cases h : u < 2 ^ mb
  · exact ⟨0, u, by omega, by rw [pow_succ]; omega, .inl rfl⟩
  · refine ⟨u / 2 ^ mb - 1, 2 ^ mb + u % 2 ^ mb, ?_, by rw [pow_succ]; omega, .inr (Nat.le_add_right _ _)⟩
    have hdiv := Nat.div_add_mod' u (2 ^ mb)
    have hge : 1 ≤ u / 2 ^ mb := (Nat.le_div_iff_mul_le hpos).2 (by omega)
    rw [Nat.sub_mul, Nat.one_mul]
    have := Nat.mul_le_mul_right (2 ^ mb) hge
    omega

theorem mag_strictMono (mb : Nat) : StrictMono (mag mb) := by
  refine strictMono_nat_of_lt_succ fun u => ?_
  obtain ⟨j, n, rfl, hn, hj⟩ := exists_binade mb u
  rw [mag_binade hn.le hj, Nat.add_assoc, mag_binade hn (hj.imp_right fun h => h.trans (Nat.le_succ n))]
  exact Nat.mul_lt_mul_of_pos_right (Nat.lt_succ_self n) (Nat.two_pow_pos j)

theorem mag_zero (mb : Nat) : mag mb 0 = 0 := by simp [mag]

theorem mag_of_lt {mb u : Nat} (h : u ≤ 2 ^ mb) : mag mb u = u := by
  have := mag_binade (mb := mb) (j := 0) (n := u) (by rw [pow_succ]; omega) (.inl rfl)
  simpa using this

theorem mag_lt_min {mb u : Nat} : mag mb u < 2 ^ mb ↔ u < 2 ^ mb := by
  rw [← mag_of_lt (mb := mb) (le_refl _)]
  exact (mag_strictMono mb).lt_iff_lt.trans (by rw [mag_of_lt (le_refl _)])

/-! ## The formats -/

/-- The formats that rounding goes to with signed zeros. -/
def floatFmts : List Fmt := [f32, bf16, f16, e5m2, e4m3]

/-- What the formats have in common. -/
structure Regular (f : Fmt) : Prop where
  width : f.w = f.mb + f.eb + 1
  mant : 1 ≤ f.mb
  least : 2 ^ f.mb < f.maxBits
  most : f.maxBits + 1 < 2 ^ (f.w - 1)
  bias : 1 ≤ f.bias
  signed : f.special ≠ .finite
  next : mag f.mb f.maxBits + (mag f.mb f.maxBits - mag f.mb (f.maxBits - 1)) = mag f.mb (f.maxBits + 1)
  overflow : ∀ j n : Nat, 2 ^ f.mb ≤ n → n < 2 ^ (f.mb + 1) →
    ((f.emax < f.emin + j ∨ (f.emax = f.emin + j ∧ f.nmax < n)) ↔ f.maxBits < j * 2 ^ f.mb + n)

theorem regular_of_mem {f : Fmt} (h : f ∈ floatFmts) : Regular f := by
  simp only [floatFmts, List.mem_cons, List.not_mem_nil, or_false] at h
  rcases h with rfl | rfl | rfl | rfl | rfl
  all_goals
    refine ⟨by decide, by decide, by decide, by decide, by decide, by decide, by decide, fun j n h1 h2 => ?_⟩
    simp only [f32, bf16, f16, e5m2, e4m3, Fmt.emax, Fmt.emin, Fmt.nmax, Fmt.maxBits] at *
    omega

/-! ## One rounding to a format (R53) -/

/-- What `roundTo` gives of the number `w`, in units of the smallest subnormal: `u` is the encoding below it, and `up` tells that it
goes to the one above. -/
structure RoundsTo (f : Fmt) (rnd : Nat) (sat neg : Bool) (w : ℚ) (r : Rounded) (u : Nat) (up : Bool) : Prop where
  le : (mag f.mb u : ℚ) ≤ w
  lt : w < mag f.mb (u + 1)
  goes : up = true ↔ GoesUp rnd neg (u % 2 = 1) (mag f.mb u) (mag f.mb (u + 1)) w
  overflow : f.maxBits < u + b2n up → r.overflow = true ∧ r.bits = overflowBits f rnd sat neg
  bits : u + b2n up ≤ f.maxBits → r.overflow = false ∧ r.bits = signBit f neg + (u + b2n up)
  inexact : u + b2n up ≤ f.maxBits → (r.inexact = true ↔ (mag f.mb u : ℚ) ≠ w)
  tiny : u + b2n up < 2 ^ f.mb → r.inexact = true → r.tiny = true
  large : u + b2n up ≤ f.maxBits → (2 ^ f.mb : ℚ) ≤ w → r.tiny = false
  subnormal : u + b2n up ≤ f.maxBits → (r.subnormal = true ↔ u + b2n up ≠ 0 ∧ u + b2n up < 2 ^ f.mb)

theorem zeroBits_signed {f : Fmt} (hf : Regular f) (neg : Bool) : zeroBits f neg = signBit f neg := if_neg hf.signed

/-- An exact zero. -/
theorem roundTo_zero {f : Fmt} (hf : Regular f) (rnd : Nat) (sat neg : Bool) :
    RoundsTo f rnd sat neg 0 ⟨zeroBits f neg, false, false, false, false⟩ 0 false := by
  have hsucc : mag f.mb 1 = 1 := mag_of_lt Nat.one_le_two_pow
  have hz := mag_zero f.mb
  refine ⟨by simp [hz], by simp [hsucc], ?_, fun h => absurd h (by simp [b2n]), fun _ => ⟨rfl, zeroBits_signed hf neg⟩, ?_, ?_, ?_, ?_⟩
  · rw [hz, hsucc, Nat.cast_zero, Nat.cast_one]
    exact iff_of_false (by decide) (not_goesUp_of_le one_pos le_rfl)
  · exact fun _ => iff_of_false Bool.false_ne_true (by simp [hz])
  · exact fun _ h => absurd h Bool.false_ne_true
  · exact fun _ _ => rfl
  · exact fun _ => iff_of_false Bool.false_ne_true (by simp [b2n])

/-- The binade of a number. -/
theorem magnitude_binade {x : Exact} {v : ℚ} (hv : IsMagnitude x v) (hm : x.m ≠ 0) :
    (2 : ℚ) ^ (x.e + bitLen x.m - 1) ≤ v ∧ v < 2 ^ (x.e + bitLen x.m) := by
  obtain ⟨h1, hlow, hhigh⟩ := bitLen_bounds hm
  have hscale : ∀ n : Nat, (2 : ℚ) ^ (x.e + n) = (2 ^ n : Nat) * 2 ^ x.e := fun n => by
    rw [zpow_add₀ two_ne_zero, zpow_natCast, mul_comm]; norm_cast
  refine ⟨le_trans ?_ hv.le, hv.lt.trans_le ?_⟩
  · rw [show x.e + bitLen x.m - 1 = x.e + ((bitLen x.m - 1 : Nat) : Int) by omega, hscale]
    exact mul_le_mul_of_nonneg_right (by exact_mod_cast hlow) (two_zpow_pos _).le
  · rw [hscale]
    exact mul_le_mul_of_nonneg_right (by exact_mod_cast hhigh) (two_zpow_pos _).le

/-- A significand of one binade, rounded, among the encodings. -/
theorem goes_binade {mb j n : Nat} {w : ℚ} {rnd : Nat} {neg up : Bool} (hmb : 1 ≤ mb) (hn : n < 2 ^ (mb + 1)) (hj : j = 0 ∨ 2 ^ mb ≤ n)
    (hle : (n : ℚ) ≤ w / 2 ^ j) (hlt : w / 2 ^ j < n + 1) (hup : up = true ↔ GoesUp rnd neg (n % 2 = 1) n (n + 1) (w / 2 ^ j)) :
    (mag mb (j * 2 ^ mb + n) : ℚ) ≤ w ∧ w < mag mb (j * 2 ^ mb + n + 1) ∧ (up = true ↔ GoesUp rnd neg ((j * 2 ^ mb + n) % 2 = 1)
      (mag mb (j * 2 ^ mb + n)) (mag mb (j * 2 ^ mb + n + 1)) w) ∧ ((mag mb (j * 2 ^ mb + n) : ℚ) = w ↔ (n : ℚ) = w / 2 ^ j) := by
  have hpos : (0 : ℚ) < 2 ^ j := by positivity
  have hmag : (mag mb (j * 2 ^ mb + n) : ℚ) = n * 2 ^ j := by rw [mag_binade hn.le hj]; push_cast; rfl
  have hmag' : (mag mb (j * 2 ^ mb + n + 1) : ℚ) = (n + 1) * 2 ^ j := by
    rw [Nat.add_assoc, mag_binade hn (hj.imp_right fun h => h.trans (Nat.le_succ n))]; push_cast; rfl
  have hodd : (j * 2 ^ mb + n) % 2 = n % 2 := by
    obtain ⟨b, rfl⟩ := Nat.exists_eq_add_of_le' hmb
    rw [pow_succ, ← Nat.mul_assoc]; omega
  have hw : w = w / 2 ^ j * 2 ^ j := (div_mul_cancel₀ _ hpos.ne').symm
  rw [hmag, hmag', hodd]
  refine ⟨(le_div_iff₀ hpos).1 hle, (div_lt_iff₀ hpos).1 hlt, ?_, (eq_div_iff hpos.ne').symm⟩
  rw [hup]
  conv_rhs => rw [hw]
  exact (goesUp_scale hpos).symm

/-- A significand that has left its binade is the least of the next one. -/
theorem exists_renormal {mb j n : Nat} (q : Int) (hn : n ≤ 2 ^ (mb + 1)) (hj : j = 0 ∨ 2 ^ mb ≤ n) :
    ∃ j' n', (if 2 ^ (mb + 1) ≤ n then (n / 2, q + j + 1) else (n, q + j)) = (n', q + (j' : Nat)) ∧ n' < 2 ^ (mb + 1) ∧ (j' = 0 ∨ 2 ^ mb ≤ n') ∧
      j * 2 ^ mb + n = j' * 2 ^ mb + n' := by
  have hpos := Nat.two_pow_pos mb
  rw [pow_succ] at hn ⊢
  split
  next h => exact ⟨j + 1, 2 ^ mb, by rw [Prod.mk.injEq]; constructor <;> push_cast <;> omega, by omega, .inr le_rfl, by rw [Nat.add_mul]; omega⟩
  next h => exact ⟨j, n, rfl, by omega, hj, rfl⟩

/-- What goes up to the even neighbour of a grid twice as fine goes up in the coarse one. -/
theorem goesUp_coarse {rnd : Nat} {neg : Bool} {odd odd' : Prop} {a w : ℚ} (h : GoesUp rnd neg odd (2 * a + 1) (2 * a + 1 + 1) (2 * w)) :
    GoesUp rnd neg odd' a (a + 1) w := by
  unfold GoesUp at *
  split at h
  · refine .inl ?_
    rcases h with h | ⟨h, -⟩ <;> linarith
  · exact h.elim
  · exact ⟨h.1, by linarith [h.2]⟩
  · exact ⟨h.1, by linarith [h.2]⟩

/-- A number that rounds below the least normal does so with one bit more as well. -/
theorem free_ne_least {mb n : Nat} {rnd : Nat} {neg up : Bool} {w : ℚ} {r : Nat × Bool} (hw : w < 2 ^ mb) (hlt : w < n + 1)
    (hup : up = true ↔ GoesUp rnd neg (n % 2 = 1) n (n + 1) w) (hsmall : n + b2n up < 2 ^ mb) (hfree : RoundsAt rnd neg (2 * w) r) :
    r.1 ≠ 2 ^ (mb + 1) := by
  obtain ⟨n', up', hle', -, hup', hr, -⟩ := hfree
  rw [hr, pow_succ]
  intro h
  have hn' : n' < 2 ^ mb * 2 := by
    have : (n' : ℚ) < (2 ^ mb * 2 : Nat) := by push_cast; linarith
    exact_mod_cast this
  have hup1 : up' = true := by
    by_contra h0
    rw [Bool.not_eq_true] at h0
    rw [h0, show b2n false = 0 from rfl] at h
    omega
  rw [hup1, show b2n true = 1 from rfl] at h
  have hle : n' < 2 * (n + 1) := by
    have : (n' : ℚ) < (2 * (n + 1) : Nat) := by push_cast; linarith
    exact_mod_cast this
  have hn : n' = 2 * n + 1 := by
    have : n < 2 ^ mb := lt_of_le_of_lt (Nat.le_add_right _ _) hsmall
    omega
  have hgo := hup'.1 hup1
  rw [hn] at hgo
  push_cast at hgo
  rw [hup.2 (goesUp_coarse hgo), show b2n true = 1 from rfl] at hsmall
  omega

theorem roundTo_rounds {f : Fmt} (hf : Regular f) {rnd : Nat} {sat : Bool} {x : Exact} {v : ℚ} (hv : IsMagnitude x v)
    (hzero : x.m = 0 → x.sticky = false) (hsticky : x.sticky = true → f.mb + 1 < bitLen x.m) :
    ∃ u up, RoundsTo f rnd sat x.neg (v / 2 ^ (f.emin - f.mb)) (roundTo f rnd sat x) u up := by
  unfold roundTo
  split
  case isTrue h =>
    obtain ⟨hm, hs⟩ := h
    have hv0 : v = 0 := by
      rw [IsMagnitude, hzero hm, hm] at hv
      simpa using hv
    rw [hv0, zero_div]
    exact ⟨0, false, roundTo_zero hf rnd sat x.neg⟩
  case isFalse h =>
    have hm : x.m ≠ 0 := fun h0 => h ⟨h0, by simp [hzero h0]⟩
    obtain ⟨hlow, hhigh⟩ := magnitude_binade hv hm
    dsimp only
    obtain ⟨top, htop⟩ : ∃ top, top = x.e + bitLen x.m - 1 := ⟨_, rfl⟩
    rw [← htop] at hlow ⊢
    rw [show x.e + (bitLen x.m : Int) = top + 1 by omega] at hhigh
    obtain ⟨j, hj, hj0⟩ : ∃ j : Nat, (if top < f.emin then f.emin else top) - f.mb = f.emin - f.mb + j ∧ (j = 0 ∧ top ≤ f.emin ∨ top = f.emin + j) :=
      ⟨(top - f.emin).toNat, by split_ifs <;> omega, by omega⟩
    rw [hj]
    have hj' : j = 0 ∨ top = f.emin + j := hj0.imp_left And.left
    have hcut : v / 2 ^ (f.emin - f.mb + j) = v / 2 ^ (f.emin - f.mb) / 2 ^ j := by
      rw [zpow_add₀ two_ne_zero, zpow_natCast, div_div]
    have hless : v / 2 ^ (f.emin - f.mb + j) < 2 ^ (f.mb + 1) := by
      rw [div_lt_iff₀ (two_zpow_pos _), ← zpow_natCast, ← zpow_add₀ two_ne_zero]
      exact hhigh.trans_le (zpow_le_zpow_right₀ one_le_two (by push_cast; omega))
    have hmore : top = f.emin + j → 2 ^ f.mb ≤ v / 2 ^ (f.emin - f.mb + j) := by
      intro h
      rw [le_div_iff₀ (two_zpow_pos _), ← zpow_natCast, ← zpow_add₀ two_ne_zero]
      exact le_trans (zpow_le_zpow_right₀ one_le_two (by omega)) hlow
    have hst : x.sticky = true → x.e < top - f.mb := fun h => by have := hsticky h; omega
    obtain ⟨n, up, hle, hlt, hup, hr1, hr2⟩ := roundAt_rounds (rnd := rnd) hv (q := f.emin - f.mb + j) fun h => by have := hst h; omega
    have hfree := roundAt_rounds (rnd := rnd) hv (q := top - f.mb) hst
    have hn : n < 2 ^ (f.mb + 1) := by exact_mod_cast hle.trans_lt hless
    have hjn : j = 0 ∨ 2 ^ f.mb ≤ n := hj'.imp_right fun h => Nat.lt_succ_iff.1 (by exact_mod_cast (hmore h).trans_lt hlt)
    have hsmall : v / 2 ^ (f.emin - f.mb) < 2 ^ f.mb ↔ top < f.emin := by
      rw [div_lt_iff₀ (two_zpow_pos _), ← zpow_natCast, ← zpow_add₀ two_ne_zero, add_sub_cancel]
      refine ⟨fun h => ?_, fun h => hhigh.trans_le (zpow_le_zpow_right₀ one_le_two (by omega))⟩
      exact (zpow_lt_zpow_iff_right₀ one_lt_two).1 (hlow.trans_lt h)
    rw [hcut] at hle hlt hup hr2
    obtain ⟨hcle, hclt, hcup, hceq⟩ := goes_binade hf.mant hn hjn hle hlt hup
    obtain ⟨j', n', hpair, hn', hjn', hcode⟩ := exists_renormal (f.emin - f.mb) (j := j) (n := n + b2n up)
      (by cases up <;> simp only [b2n] <;> simp <;> omega) (hjn.imp_right fun h => h.trans (Nat.le_add_right _ _))
    generalize roundAt rnd x (f.emin - f.mb + j) = r at *
    obtain ⟨r, inexact⟩ := r
    dsimp only at hr1 hr2 ⊢
    rw [hr1, hpair]
    dsimp only
    generalize hfr : roundAt rnd x (top - f.mb) = free at *
    have htiny : j * 2 ^ f.mb + (n + b2n up) < 2 ^ f.mb →
        (decide (top < f.emin) && !(decide (top = f.emin - 1) && free.1 == 2 ^ (f.mb + 1))) = true := by
      intro hc
      have hj0 : j = 0 := hjn.resolve_right (by omega)
      have htop : top < f.emin := by
        by_contra h
        have := hmore (by omega)
        rw [hcut] at this
        have : 2 ^ f.mb < n + 1 := by exact_mod_cast this.trans_lt hlt
        omega
      rw [hj0, pow_zero, div_one] at hlt hup
      have hne : top = f.emin - 1 → free.1 ≠ 2 ^ (f.mb + 1) := by
        intro h
        have htwice : v / 2 ^ (top - f.mb) = 2 * (v / 2 ^ (f.emin - f.mb)) := by
          rw [h, show f.emin - 1 - (f.mb : Int) = f.emin - f.mb - 1 by omega, zpow_sub_one₀ two_ne_zero]
          field_simp
        rw [htwice] at hfree
        exact free_ne_least (hsmall.2 htop) hlt hup (by omega) hfree
      simp only [htop, decide_true, Bool.true_and, Bool.not_eq_true', Bool.and_eq_false_imp, decide_eq_true_eq, beq_eq_false_iff_ne]
      exact hne
    have hlarge : 2 ^ f.mb ≤ v / 2 ^ (f.emin - f.mb) →
        (decide (top < f.emin) && !(decide (top = f.emin - 1) && free.1 == 2 ^ (f.mb + 1))) = false := by
      intro h
      rw [decide_eq_false (fun h' => absurd (hsmall.2 h') (not_lt.2 h)), Bool.false_and]
    generalize (decide (top < f.emin) && !(decide (top = f.emin - 1) && free.1 == 2 ^ (f.mb + 1))) = tiny at *
    have hcode' : j * 2 ^ f.mb + n + b2n up = j' * 2 ^ f.mb + n' := by omega
    have hover : 2 ^ f.mb ≤ n' ∧ (f.emax < f.emin - f.mb + j' + f.mb ∨ f.emax = f.emin - f.mb + j' + f.mb ∧ f.nmax < n') ↔
        f.maxBits < j * 2 ^ f.mb + n + b2n up := by
      rw [hcode', show f.emin - f.mb + (j' : Int) + f.mb = f.emin + j' by ring]
      by_cases h : 2 ^ f.mb ≤ n'
      · rw [and_iff_right h, hf.overflow j' n' h hn']
      · have := hf.least
        rw [hjn'.resolve_right h]
        exact iff_of_false (fun h' => h h'.1) (by omega)
    refine ⟨j * 2 ^ f.mb + n, up, ?_⟩
    have hinex : inexact = true ↔ (mag f.mb (j * 2 ^ f.mb + n) : ℚ) ≠ v / 2 ^ (f.emin - f.mb) := hr2.trans (not_congr hceq.symm)
    split
    case isTrue h =>
      have h := hover.1 h
      have := hf.least
      exact ⟨hcle, hclt, hcup, fun _ => ⟨rfl, rfl⟩, fun h' => absurd h' (by omega), fun h' => absurd h' (by omega), fun h' => absurd h' (by omega),
        fun h' => absurd h' (by omega), fun h' => absurd h' (by omega)⟩
    case isFalse h =>
      have h := mt hover.2 h
      split
      case isTrue hsub =>
        have hj0 : j' = 0 := hjn'.resolve_right (by omega)
        rw [hj0, Nat.zero_mul, Nat.zero_add] at hcode'
        refine ⟨hcle, hclt, hcup, fun h' => absurd h' h, fun _ => ⟨rfl, ?_⟩, fun _ => hinex, fun h' _ => htiny (by omega), fun _ => hlarge, ?_⟩
        · rw [hcode']
          dsimp only
          split
          next h0 => rw [h0, zeroBits_signed hf, Nat.add_zero]
          next => rfl
        · rw [hcode']
          simp [hsub]
      case isFalse hnormal =>
        refine ⟨hcle, hclt, hcup, fun h' => absurd h' h, fun _ => ⟨rfl, ?_⟩, fun _ => hinex, fun h' _ => htiny (by omega), fun _ => hlarge, ?_⟩
        · have hbias : (f.emin - f.mb + j' + f.mb + f.bias).toNat = j' + 1 := by unfold Fmt.emin; omega
          rw [hcode']
          dsimp only
          rw [hbias, Nat.add_mul]
          omega
        · rw [hcode']
          exact fun _ => iff_of_false Bool.false_ne_true (by omega)

end Sys2Proof.Proofs
end

section
/-! PROOFS. A rounding to a format is the one that R53 asks for: nearest among the finite values, with its flags. -/

namespace Sys2Proof.Proofs

open Sys2Proof Sys2Proof.Machine Sys2Proof.Laws

/-- A magnitude with a sign. -/
def withSign (neg : Bool) (m : Nat) : Int := if neg then -(m : Int) else m

theorem cast_withSign (neg : Bool) (m : Nat) : (withSign neg m : ℚ) = if neg then -(m : ℚ) else m := by
  unfold withSign; split <;> simp

theorem natAbs_withSign (neg : Bool) (m : Nat) : (withSign neg m).natAbs = m := by
  unfold withSign; split <;> simp

/-! ## The nearest value -/

section
variable {a b c m w : ℚ} {up : Bool}

/-- The chosen neighbour is the nearer one, and is as near as another magnitude only at a tie. -/
theorem chosen_nearest {odd : Prop} (ha : a ≤ w) (hb : w < b) (hup : up = true ↔ a + b < 2 * w ∨ (a + b = 2 * w ∧ odd))
    (hc : c = if up then b else a) (hm : m ≤ a ∨ b ≤ m) : |c - w| ≤ |m - w| ∧ (|c - w| = |m - w| → m = c ∨ a + b = 2 * w) := by
  have hside : |m - w| = if m ≤ a then w - m else m - w := by
    split
    next h => rw [abs_sub_comm, abs_of_nonneg (by linarith)]
    next h => rw [abs_of_nonneg (by linarith [hm.resolve_left h])]
  rw [hside]
  cases up with
  | true =>
    rw [hc, if_pos rfl, abs_of_pos (by linarith)]
    have hge : a + b ≤ 2 * w := (hup.1 rfl).elim le_of_lt fun h => h.1.le
    split
    next h => exact ⟨by linarith, fun h' => .inr (by linarith)⟩
    next h => exact ⟨by linarith [hm.resolve_left h], fun h' => .inl (by linarith)⟩
  | false =>
    rw [hc, if_neg (by decide), abs_sub_comm, abs_of_nonneg (by linarith)]
    have hge : 2 * w ≤ a + b := not_lt.1 fun h => absurd (hup.2 (.inl h)) (by decide)
    split
    next h => exact ⟨by linarith, fun h' => .inl (by linarith)⟩
    next h => exact ⟨by linarith [hm.resolve_left h], fun h' => .inr (by linarith [hm.resolve_left h])⟩

end

section
variable {M : Nat → Nat} {k u : Nat} {x : Int} {w : ℚ} {neg up : Bool} {V : Int → Prop}

/-- Every value has a magnitude of a list in ascending order, and a sign. -/
def Encoded (M : Nat → Nat) (V : Int → Prop) : Prop := ∀ v, V v → ∃ sign m, v = withSign sign (M m)

variable (hM : StrictMono M) (hk : 0 < k) (hx : (x : ℚ) = k * if neg then -w else w) (hV : Encoded M V)
  (hle : (M u : ℚ) ≤ w) (hlt : w < M (u + 1))

include hM in
theorem magnitudes_apart (m : Nat) : (M m : ℚ) ≤ M u ∨ (M (u + 1) : ℚ) ≤ M m := by
  rcases Nat.lt_or_ge u m with h | h
  · exact .inr (by exact_mod_cast hM.monotone h)
  · exact .inl (by exact_mod_cast hM.monotone h)

theorem magnitude_chosen (up : Bool) : (M (u + b2n up) : ℚ) = if up then (M (u + 1) : ℚ) else M u := by
  cases up <;> rfl

section
include hx

theorem distance (v : Int) : ((k * v - x).natAbs : ℚ) = k * |(v : ℚ) - if neg then -w else w| := by
  rw [Nat.cast_natAbs, Int.cast_abs]
  push_cast
  rw [hx, ← mul_sub, abs_mul, Nat.abs_cast]

theorem natAbs_target (hw : 0 ≤ w) : (x.natAbs : ℚ) = k * w := by
  rw [Nat.cast_natAbs, Int.cast_abs, hx, abs_mul, Nat.abs_cast]
  split
  · rw [abs_neg, abs_of_nonneg hw]
  · rw [abs_of_nonneg hw]

include hk

theorem le_target (v : Int) : k * v ≤ x ↔ (v : ℚ) ≤ if neg then -w else w := by
  rw [← Int.cast_le (R := ℚ), hx]
  push_cast
  exact mul_le_mul_iff_right₀ (by exact_mod_cast hk)

end

theorem distance_withSign (m : ℚ) : |(if neg then -m else m) - if neg then -w else w| = |m - w| := by
  cases neg
  · rfl
  · simp only [if_true, neg_sub_neg]; exact abs_sub_comm _ _

theorem distance_ge (sign : Bool) {m : ℚ} (hm : 0 ≤ m) (hw : 0 ≤ w) :
    |m - w| ≤ |(if sign then -m else m) - if neg then -w else w| := by
  refine le_trans (le_of_eq ?_) (abs_abs_sub_abs_le _ _)
  congr 1
  congr 1
  · split
    · rw [abs_neg, abs_of_nonneg hm]
    · rw [abs_of_nonneg hm]
  · split
    · rw [abs_neg, abs_of_nonneg hw]
    · rw [abs_of_nonneg hw]

theorem withSign_zero (neg : Bool) : withSign neg 0 = 0 := by cases neg <;> rfl

theorem withSign_not (neg : Bool) (m : Nat) : withSign (!neg) m = -withSign neg m := by cases neg <;> simp [withSign]

include hM hlt in
theorem below_le {m : Nat} (h : (M m : ℚ) ≤ w) : (M m : ℚ) ≤ M u :=
  (magnitudes_apart hM m).resolve_right fun h' => absurd (h'.trans h) (not_le.2 hlt)

include hM hle hlt in
/-- Going up from every number between two neighbours gives the least magnitude that is not below. -/
theorem above_least (hup : up = true ↔ (M u : ℚ) < w) :
    w ≤ M (u + b2n up) ∧ ∀ m, w ≤ M m → (M (u + b2n up) : ℚ) ≤ M m := by
  cases up with
  | true => exact ⟨hlt.le, fun m h => (magnitudes_apart hM m).resolve_left fun h' => absurd (h.trans h') (not_le.2 (hup.1 rfl))⟩
  | false =>
    have heq : (M u : ℚ) = w := le_antisymm hle (not_lt.1 fun h => absurd (hup.2 h) (by decide))
    exact ⟨heq.ge, fun m h => heq.trans_le h⟩

omit hk hx hV hle hlt in
theorem distance_opposite {sign : Bool} {m : ℚ} (h : sign ≠ neg) (hm : 0 ≤ m) (hw : 0 ≤ w) :
    |(if sign then -m else m) - if neg then -w else w| = m + w := by
  cases sign <;> cases neg
  · exact absurd rfl h
  · rw [if_neg (by decide), if_pos rfl, sub_neg_eq_add, abs_of_nonneg (add_nonneg hm hw)]
  · rw [if_pos rfl, if_neg (by decide), abs_sub_comm, sub_neg_eq_add, abs_of_nonneg (add_nonneg hw hm), add_comm]
  · exact absurd rfl h

include hle hlt in
/-- A chosen neighbour that is as near to the number as to its opposite is zero. -/
theorem chosen_zero (hup : up = true ↔ GoesUp 0 neg (u % 2 = 1) (M u) (M (u + 1)) w)
    (h : |(M (u + b2n up) : ℚ) - w| = M (u + b2n up) + w) : (M (u + b2n up) : ℚ) = 0 := by
  have ha : (0 : ℚ) ≤ M u := Nat.cast_nonneg _
  cases up with
  | true =>
    rw [magnitude_chosen, if_pos rfl, abs_of_pos (by linarith)] at h
    have hmid : (M u : ℚ) + M (u + 1) ≤ 2 * w := (hup.1 rfl).elim le_of_lt fun h => h.1.le
    linarith
  | false =>
    rw [magnitude_chosen, if_neg (by decide), abs_sub_comm, abs_of_nonneg (by linarith)] at h
    rw [magnitude_chosen, if_neg (by decide)]
    linarith

include hM hk hx hV hle hlt

theorem nearest_even (hup : up = true ↔ GoesUp 0 neg (u % 2 = 1) (M u) (M (u + 1)) w) :
    Nearest 0 k x (withSign neg (M (u + b2n up))) ((u + b2n up) % 2 = 0) V := by
  intro v hv
  obtain ⟨sign, m, rfl⟩ := hV v hv
  have hkq : (0 : ℚ) < k := by exact_mod_cast hk
  have hw : 0 ≤ w := (Nat.cast_nonneg _).trans hle
  have hm : (0 : ℚ) ≤ M m := Nat.cast_nonneg _
  obtain ⟨hnear, hclose⟩ := chosen_nearest hle hlt hup (magnitude_chosen up) (magnitudes_apart hM m)
  have hfar := distance_ge (neg := neg) sign hm hw
  rw [← Nat.cast_le (α := ℚ), ← Nat.cast_inj (R := ℚ), distance hx, distance hx, cast_withSign, cast_withSign, distance_withSign]
  refine ⟨mul_le_mul_of_nonneg_left (hnear.trans hfar) hkq.le, fun hne heq => ?_⟩
  have heq := mul_left_cancel₀ hkq.ne' heq
  have htie : (M u : ℚ) + M (u + 1) = 2 * w := by
    refine (hclose (le_antisymm hnear (hfar.trans heq.ge))).resolve_left fun hsame => hne ?_
    rw [Nat.cast_inj.1 hsame] at heq ⊢
    by_cases hs : sign = neg
    · rw [hs]
    · rw [distance_opposite hs (Nat.cast_nonneg _) hw] at heq
      have hzero : M (u + b2n up) = 0 := by
        rw [← Nat.cast_inj (R := ℚ), Nat.cast_zero]
        exact chosen_zero hle hlt hup heq
      rw [hzero, withSign_zero, withSign_zero]
  cases up with
  | true =>
    have hodd := (hup.1 rfl).elim (fun h => absurd htie h.ne) And.right
    rw [show b2n true = 1 from rfl]
    omega
  | false =>
    have hodd : ¬ u % 2 = 1 := fun h => absurd (hup.2 (.inr ⟨htie, h⟩)) (by decide)
    rw [show b2n false = 0 from rfl]
    omega

theorem nearest_toward_zero (hup : up = true ↔ GoesUp 1 neg (u % 2 = 1) (M u) (M (u + 1)) w) (e : Prop) :
    Nearest 1 k x (withSign neg (M (u + b2n up))) e V := by
  have hkq : (0 : ℚ) < k := by exact_mod_cast hk
  have hw : 0 ≤ w := (Nat.cast_nonneg _).trans hle
  have hdown : up = false := by rw [← Bool.not_eq_true, hup]; exact id
  have hnat : ∀ v : Int, (k * v).natAbs ≤ x.natAbs ↔ (v.natAbs : ℚ) ≤ w := fun v => by
    rw [← Nat.cast_le (α := ℚ), natAbs_target hx hw, Int.natAbs_mul, Int.natAbs_natCast, Nat.cast_mul]
    exact mul_le_mul_iff_right₀ hkq
  subst hdown
  refine ⟨(hnat _).2 (by rw [natAbs_withSign]; exact hle), ?_, fun v hv h => ?_⟩
  · have hm : (0 : ℚ) ≤ M (u + b2n false) * (k * w) := mul_nonneg (Nat.cast_nonneg _) (mul_nonneg hkq.le hw)
    have hprod : ((withSign neg (M (u + b2n false)) * x : Int) : ℚ) = M (u + b2n false) * (k * w) := by
      rw [Int.cast_mul, hx, cast_withSign]
      cases neg
      · rfl
      · simp
    exact Int.cast_nonneg_iff.1 (hprod ▸ hm)
  · obtain ⟨sign, m, rfl⟩ := hV v hv
    have h := (hnat _).1 h
    rw [natAbs_withSign] at h ⊢
    rw [natAbs_withSign]
    exact_mod_cast below_le hM hlt h

theorem nearest_down (hup : up = true ↔ GoesUp 2 neg (u % 2 = 1) (M u) (M (u + 1)) w) (e : Prop) :
    Nearest 2 k x (withSign neg (M (u + b2n up))) e V := by
  have hw : 0 ≤ w := (Nat.cast_nonneg _).trans hle
  cases neg with
  | false =>
    have hstay : up = false := by rw [← Bool.not_eq_true, hup]; exact fun h => absurd h.1 (by decide)
    subst hstay
    refine ⟨(le_target hk hx _).2 hle, fun v hv h => ?_⟩
    obtain ⟨sign, m, rfl⟩ := hV v hv
    have h := (le_target hk hx _).1 h
    rw [← Int.cast_le (R := ℚ), cast_withSign, cast_withSign]
    rw [cast_withSign] at h
    cases sign
    · exact below_le hM hlt h
    · exact (neg_nonpos.2 (Nat.cast_nonneg _)).trans (Nat.cast_nonneg _)
  | true =>
    obtain ⟨hge, hleast⟩ := above_least hM hle hlt (hup.trans (and_iff_right rfl))
    refine ⟨(le_target hk hx _).2 (by rw [cast_withSign]; exact neg_le_neg hge), fun v hv h => ?_⟩
    obtain ⟨sign, m, rfl⟩ := hV v hv
    have h := (le_target hk hx _).1 h
    rw [← Int.cast_le (R := ℚ), cast_withSign, cast_withSign]
    rw [cast_withSign] at h
    cases sign
    · have hm : (0 : ℚ) ≤ M m := Nat.cast_nonneg _
      have h : (M m : ℚ) ≤ -w := h
      have := hleast m (by linarith)
      exact (by linarith : (M m : ℚ) ≤ -(M (u + b2n up) : ℚ))
    · exact neg_le_neg (hleast m (neg_le_neg_iff.1 h))

/-- Upward is downward of the opposite. -/
theorem nearest_up (hup : up = true ↔ GoesUp 3 neg (u % 2 = 1) (M u) (M (u + 1)) w) (e : Prop) :
    Nearest 3 k x (withSign neg (M (u + b2n up))) e V := by
  have hx' : ((-x : Int) : ℚ) = k * if (!neg) = true then -w else w := by
    rw [Int.cast_neg, hx]; cases neg <;> simp
  have hV' : Encoded M fun v => V (-v) := fun v hv => by
    obtain ⟨sign, m, h⟩ := hV _ hv
    exact ⟨!sign, m, by rw [withSign_not, ← h, neg_neg]⟩
  have hup' : up = true ↔ GoesUp 2 (!neg) (u % 2 = 1) (M u) (M (u + 1)) w := by
    rw [hup]; cases neg <;> simp [GoesUp]
  obtain ⟨hle', hleast⟩ := nearest_down hM hk hx' hV' hle hlt hup' e
  rw [withSign_not] at hle' hleast
  refine ⟨by linarith, fun v hv h => ?_⟩
  have := hleast (-v) (show V (- -v) by rwa [neg_neg]) (by linarith)
  linarith

theorem nearest_chosen {rnd : Nat} (hr : rnd < 4) (hup : up = true ↔ GoesUp rnd neg (u % 2 = 1) (M u) (M (u + 1)) w) :
    Nearest rnd k x (withSign neg (M (u + b2n up))) ((u + b2n up) % 2 = 0) V := by
  match rnd, hr with
  | 0, _ => exact nearest_even hM hk hx hV hle hlt hup
  | 1, _ => exact nearest_toward_zero hM hk hx hV hle hlt hup _
  | 2, _ => exact nearest_down hM hk hx hV hle hlt hup _
  | 3, _ => exact nearest_up hM hk hx hV hle hlt hup _

omit hV hle in
/-- The chosen value is the number itself just where the neighbour below is. -/
theorem chosen_exact {rnd : Nat} (hup : up = true ↔ GoesUp rnd neg (u % 2 = 1) (M u) (M (u + 1)) w) : (M u : ℚ) ≠ w ↔ k * withSign neg (M (u + b2n up)) ≠ x := by
  have hkq : (k : ℚ) ≠ 0 := by exact_mod_cast hk.ne'
  have hnext : (M u : ℚ) < M (u + 1) := by exact_mod_cast hM (Nat.lt_succ_self _)
  have hcast : k * withSign neg (M (u + b2n up)) = x ↔ (M (u + b2n up) : ℚ) = w := by
    rw [← Int.cast_inj (α := ℚ), hx, Int.cast_mul, Int.cast_natCast, mul_right_inj' hkq, cast_withSign]
    cases neg
    · exact Iff.rfl
    · exact neg_inj
  rw [ne_eq, ne_eq, hcast]
  cases up with
  | false => rfl
  | true => exact iff_of_true (fun h => not_goesUp_of_le hnext h.ge (hup.1 rfl)) hlt.ne'

end

/-! ## The encodings of a format -/

section
variable {f : Fmt} (hf : Regular f)
include hf

theorem units_eq (b : Nat) : f.units b = withSign (b / 2 ^ (f.w - 1) % 2 == 1) (mag f.mb (b % 2 ^ (f.w - 1))) := by
  have hw : f.w - 1 = f.mb + f.eb := by have := hf.width; omega
  have hex : b % 2 ^ (f.w - 1) / 2 ^ f.mb = b / 2 ^ f.mb % 2 ^ f.eb := by rw [hw, pow_add, Nat.mod_mul_right_div_self]
  have hm : b % 2 ^ (f.w - 1) % 2 ^ f.mb = b % 2 ^ f.mb := by rw [hw, pow_add, Nat.mod_mul_right_mod]
  simp only [Fmt.units, mag, withSign, hex, hm, beq_iff_eq]
  rfl

/-- An encoding from its sign and its magnitude's. -/
theorem signed_encoding (neg : Bool) {c : Nat} (hc : c ≤ f.maxBits) : (signBit f neg + c) / 2 ^ (f.w - 1) = b2n neg ∧
    (signBit f neg + c) % 2 ^ (f.w - 1) = c ∧ ((signBit f neg + c) % 2 = 0 ↔ c % 2 = 0) ∧ f.finite (signBit f neg + c) ∧
    f.units (signBit f neg + c) = withSign neg (mag f.mb c) := by
  have hmost := hf.most
  have hpos : 0 < 2 ^ (f.w - 1) := Nat.two_pow_pos _
  have hsign : signBit f neg = 2 ^ (f.w - 1) * b2n neg := by cases neg <;> simp [signBit, b2n]
  have hdiv : (signBit f neg + c) / 2 ^ (f.w - 1) = b2n neg := by
    rw [hsign, Nat.mul_add_div hpos, Nat.div_eq_of_lt (by omega), Nat.add_zero]
  have hmod : (signBit f neg + c) % 2 ^ (f.w - 1) = c := by rw [hsign, Nat.mul_add_mod, Nat.mod_eq_of_lt (by omega)]
  have hpow : 2 ^ f.w = 2 ^ (f.w - 1) * 2 ∧ 2 ^ (f.w - 1) % 2 = 0 := by
    have hw := hf.width
    have hm := hf.mant
    obtain ⟨v, hv⟩ : ∃ v, f.w = v + 2 := ⟨f.w - 2, by omega⟩
    rw [hv, show v + 2 - 1 = v + 1 from rfl, pow_succ, pow_succ]
    exact ⟨rfl, Nat.mul_mod_left _ _⟩
  refine ⟨hdiv, hmod, ?_, ⟨?_, by rw [hmod]; exact hc⟩, ?_⟩
  · rw [hsign]
    cases neg <;> simp only [b2n] <;> simp
    omega
  · rw [hpow.1, hsign]
    cases neg <;> simp only [b2n] <;> simp <;> omega
  · rw [units_eq hf, hdiv, hmod]
    cases neg <;> rfl

theorem encoded_finite : Encoded (mag f.mb) fun v => ∃ c, f.finite c ∧ f.units c = v := fun _ ⟨c, _, hc⟩ => ⟨_, _, hc.symm.trans (units_eq hf c)⟩

theorem natAbs_units_maxBits : (f.units f.maxBits).natAbs = mag f.mb f.maxBits ∧
    (f.units (f.maxBits - 1)).natAbs = mag f.mb (f.maxBits - 1) := by
  have hmost := hf.most
  rw [units_eq hf, units_eq hf, natAbs_withSign, natAbs_withSign, Nat.mod_eq_of_lt (by omega), Nat.mod_eq_of_lt (by omega)]
  exact ⟨rfl, rfl⟩

section
variable {k u rnd : Nat} {x : Int} {w : ℚ} {neg up : Bool} (hk : 0 < k) (hx : (x : ℚ) = k * if neg then -w else w)
  (hle : (mag f.mb u : ℚ) ≤ w) (hlt : w < mag f.mb (u + 1))
  (hup : up = true ↔ GoesUp rnd neg (u % 2 = 1) (mag f.mb u) (mag f.mb (u + 1)) w)
include hk hx hle hlt hup

omit hf hlt hup in
theorem target_cast (a : Nat) : (k * a < x.natAbs ↔ (a : ℚ) < w) ∧ (k * a ≤ x.natAbs ↔ (a : ℚ) ≤ w) ∧
    (k * a < 2 * x.natAbs ↔ (a : ℚ) < 2 * w) ∧ (k * a = 2 * x.natAbs ↔ (a : ℚ) = 2 * w) := by
  have hkq : (0 : ℚ) < k := by exact_mod_cast hk
  have hnat := natAbs_target hx ((Nat.cast_nonneg _).trans hle)
  have htwice : 2 * ((k : ℚ) * w) = k * (2 * w) := by ring
  rw [← Nat.cast_lt (α := ℚ), ← Nat.cast_le (α := ℚ), ← Nat.cast_lt (α := ℚ), ← Nat.cast_inj (R := ℚ), Nat.cast_mul, Nat.cast_mul, hnat,
    Nat.cast_ofNat, htwice]
  exact ⟨mul_lt_mul_iff_right₀ hkq, mul_le_mul_iff_right₀ hkq, mul_lt_mul_iff_right₀ hkq, mul_right_inj' hkq.ne'⟩

omit hf hle hlt hup in
theorem sign_target (hw : 0 < w) : (x < 0 ↔ neg = true) ∧ (0 < x ↔ neg = false) := by
  have hkw : (0 : ℚ) < k * w := mul_pos (by exact_mod_cast hk) hw
  rw [← Int.cast_lt_zero (R := ℚ), ← Int.cast_pos (R := ℚ), hx]
  cases neg
  · exact ⟨iff_of_false (by simpa using hkw.le) (by decide), iff_of_true hkw rfl⟩
  · have : (k : ℚ) * -w < 0 := by linarith
    exact ⟨iff_of_true this rfl, iff_of_false (not_lt.2 this.le) (by decide)⟩

omit hup hlt in
/-- Overflow is going up from the largest finite value, or being past it. -/
theorem overflows_goesUp (hr : rnd < 4) : f.overflows rnd k x ↔
    GoesUp rnd neg (f.maxBits % 2 = 1) (mag f.mb f.maxBits) (mag f.mb (f.maxBits + 1)) w ∨ (mag f.mb (f.maxBits + 1) : ℚ) ≤ w := by
  have htop : (mag f.mb f.maxBits : ℚ) < mag f.mb (f.maxBits + 1) := by exact_mod_cast mag_strictMono f.mb (Nat.lt_succ_self _)
  have hpos : (0 : ℚ) ≤ mag f.mb f.maxBits := Nat.cast_nonneg _
  have hsum := (target_cast hk hx hle (mag f.mb f.maxBits + mag f.mb (f.maxBits + 1))).2.2
  push_cast at hsum
  unfold Fmt.overflows
  dsimp only
  rw [(natAbs_units_maxBits hf).1, (natAbs_units_maxBits hf).2, hf.next, (target_cast hk hx hle _).1, (target_cast hk hx hle _).2.1,
    hsum.1, hsum.2]
  have hsign := fun hw => sign_target (w := w) hk hx hw
  generalize (mag f.mb f.maxBits : ℚ) = T at *
  generalize (mag f.mb (f.maxBits + 1) : ℚ) = N at *
  have hpast : N ≤ w → T < w := htop.trans_le
  have hneg : T < w → (x < 0 ↔ neg = true) ∧ (0 < x ↔ neg = false) := fun h => hsign (hpos.trans_lt h)
  match rnd, hr with
  | 0, _ => exact (or_iff_left_of_imp fun h => .inl (by linarith)).symm
  | 1, _ => simp [GoesUp]
  | 2, _ | 3, _ =>
    by_cases h : T < w
    · simp only [GoesUp, h, hneg h]
      cases neg <;> simp
    · simp [GoesUp, h, mt hpast h]

theorem overflows_iff (hr : rnd < 4) : f.overflows rnd k x ↔ f.maxBits < u + b2n up := by
  rw [overflows_goesUp hf hk hx hle hr]
  have hmono := mag_strictMono f.mb
  have hnext : (mag f.mb f.maxBits : ℚ) < mag f.mb (f.maxBits + 1) := by exact_mod_cast hmono (Nat.lt_succ_self _)
  have hone : b2n up ≤ 1 := by cases up <;> decide
  rcases Nat.lt_trichotomy u f.maxBits with h | h | h
  · have hbelow : w < mag f.mb f.maxBits := hlt.trans_le (by exact_mod_cast hmono.monotone h)
    refine iff_of_false (fun h' => h'.elim (not_goesUp_of_le hnext hbelow.le) fun h' => ?_) (by omega)
    linarith
  · rw [← h, ← hup, or_iff_left (not_le.2 hlt)]
    cases up <;> simp [b2n]
  · exact iff_of_true (.inr (le_trans (by exact_mod_cast hmono.monotone h) hle)) (by omega)

end

end

/-! ## Rounding with flags (R53, R151) -/

theorem flags_bits (uf nx : Bool) : (flagIf uf flagUF ||| flagIf nx flagNX).getLsbD 0 = nx ∧ (flagIf uf flagUF ||| flagIf nx flagNX).getLsbD 1 = uf ∧
    (flagIf uf flagUF ||| flagIf nx flagNX).toNat < 4 := by
  cases uf <;> cases nx <;> decide

section
variable {f : Fmt} {md : BitVec 4} {sat : Bool} {E : Exact} {u k : Nat} {up : Bool} {x : Int} {w : ℚ} (hf : Regular f) (hk : 0 < k)
  (hx : (x : ℚ) = k * if E.neg then -w else w) (h : RoundsTo f (mdRnd md) sat E.neg w (roundTo f (mdRnd md) sat E) u up)
include hf hk hx h

omit hk hx in
theorem finishF_flush (ho : u + b2n up ≤ f.maxBits) (hs : mdFtz md = true ∧ (roundTo f (mdRnd md) sat E).subnormal = true) :
    finishF f md sat E = { bits := signBit f E.neg, flags := flagUF ||| flagNX } := by
  obtain ⟨hftz, hsub⟩ := hs
  simp only [finishF, (h.bits ho).1, hftz, hsub, Bool.false_eq_true, if_false, Bool.and_true, if_true, zeroBits_signed hf]

omit hf hk hx in
theorem finishF_keep (ho : u + b2n up ≤ f.maxBits) (hs : ¬ (mdFtz md = true ∧ (roundTo f (mdRnd md) sat E).subnormal = true)) :
    finishF f md sat E = { bits := signBit f E.neg + (u + b2n up), flags :=
      (flagIf ((roundTo f (mdRnd md) sat E).tiny && (roundTo f (mdRnd md) sat E).inexact) flagUF |||
        flagIf (roundTo f (mdRnd md) sat E).inexact flagNX) } := by
  have hcond : ¬ ((roundTo f (mdRnd md) sat E).subnormal && mdFtz md) = true := by rw [Bool.and_eq_true]; exact fun h => hs h.symm
  simp only [finishF, (h.bits ho).1, (h.bits ho).2, Bool.false_eq_true, if_false]
  rw [if_neg hcond]

theorem finishF_overflows (ho : f.maxBits < u + b2n up) : (finishF f md sat E).flags = flagOF ||| flagNX ∧
    (finishF f md sat E).bits = (if x < 0 then 2 ^ (f.w - 1) else 0) +
      (if sat = true ∨ mdRnd md = 1 ∨ (mdRnd md = 2 ∧ 0 < x) ∨ (mdRnd md = 3 ∧ x < 0) then f.maxBits else (2 ^ f.eb - 1) * 2 ^ f.mb) := by
  obtain ⟨hover, hbits⟩ := h.overflow ho
  have hu : 0 < u := by
    have hleast := hf.least
    have hpow := Nat.two_pow_pos f.mb
    have hone : b2n up ≤ 1 := by cases up <;> decide
    omega
  have hw : 0 < w := lt_of_lt_of_le (by exact_mod_cast (Nat.zero_le _).trans_lt (mag_strictMono f.mb hu)) h.le
  obtain ⟨hneg, hpos⟩ := sign_target hk hx hw
  simp only [finishF, hover, if_true, hbits, true_and, overflowBits, signBit, Fmt.infBits, hneg, hpos, Bool.or_eq_true, beq_iff_eq,
    Bool.and_eq_true, Bool.not_eq_true', or_assoc]

theorem finishF_fits (ho : u + b2n up ≤ f.maxBits) : ∃ b, f.finite b ∧
    Nearest (mdRnd md) k x (f.units b) (b % 2 = 0) (fun v => ∃ c, f.finite c ∧ f.units c = v) ∧
    (x ≠ 0 → (2 ^ (f.w - 1) ≤ b ↔ x < 0)) ∧
    (if md.getLsbD 2 = true ∧ f.units b ≠ 0 ∧ (f.units b).natAbs < 2 ^ f.mb then
      (finishF f md sat E).bits = b / 2 ^ (f.w - 1) * 2 ^ (f.w - 1) ∧ (finishF f md sat E).flags = flagUF ||| flagNX
    else
      (finishF f md sat E).bits = b ∧ ((finishF f md sat E).flags.getLsbD 0 = true ↔ k * f.units b ≠ x) ∧
      ((f.units b).natAbs < 2 ^ f.mb → (finishF f md sat E).flags.getLsbD 1 = (finishF f md sat E).flags.getLsbD 0) ∧
      (k * 2 ^ f.mb ≤ x.natAbs → (finishF f md sat E).flags.getLsbD 1 = false) ∧ (finishF f md sat E).flags.toNat < 4) := by
  obtain ⟨hdiv, -, heven, hfin, hunits⟩ := signed_encoding hf E.neg ho
  obtain ⟨hover, hbits⟩ := h.bits ho
  refine ⟨signBit f E.neg + (u + b2n up), hfin, ?_, ?_, ?_⟩
  · rw [hunits, propext heven]
    exact nearest_chosen (mag_strictMono f.mb) hk hx (encoded_finite hf) h.le h.lt (by have : mdRnd md < 4 := Nat.mod_lt _ (by decide); exact this) h.goes
  · intro hx0
    have hw : 0 < w := by
      refine lt_of_le_of_ne ((Nat.cast_nonneg _).trans h.le) fun h0 => hx0 ?_
      rw [← Int.cast_inj (α := ℚ), hx, ← h0]
      simp
    rw [(sign_target hk hx hw).1, ← Nat.one_mul (2 ^ (f.w - 1)), ← Nat.le_div_iff_mul_le (Nat.two_pow_pos _), hdiv]
    cases E.neg <;> decide
  · have hzero : withSign E.neg (mag f.mb (u + b2n up)) ≠ 0 ↔ u + b2n up ≠ 0 := by
      rw [← Int.natAbs_ne_zero, natAbs_withSign]
      exact (mag_strictMono f.mb).injective.ne_iff' (mag_zero f.mb)
    have hflush : md.getLsbD 2 = true ∧ withSign E.neg (mag f.mb (u + b2n up)) ≠ 0 ∧ mag f.mb (u + b2n up) < 2 ^ f.mb ↔
        mdFtz md = true ∧ (roundTo f (mdRnd md) sat E).subnormal = true := by
      rw [hzero, mag_lt_min, ← h.subnormal ho]
      rfl
    rw [hunits, natAbs_withSign, hdiv]
    by_cases hs : mdFtz md = true ∧ (roundTo f (mdRnd md) sat E).subnormal = true
    · rw [if_pos (hflush.2 hs), finishF_flush hf h ho hs]
      cases E.neg <;> simp [signBit, b2n]
    · rw [if_neg (mt hflush.1 hs), finishF_keep h ho hs]
      obtain ⟨hnx, huf, hlt⟩ := flags_bits ((roundTo f (mdRnd md) sat E).tiny && (roundTo f (mdRnd md) sat E).inexact)
        (roundTo f (mdRnd md) sat E).inexact
      dsimp only
      rw [hnx, huf]
      refine ⟨rfl, ?_, fun hsmall => ?_, fun hlarge => ?_, hlt⟩
      · rw [h.inexact ho, chosen_exact (mag_strictMono f.mb) hk hx h.lt h.goes]
      · cases hi : (roundTo f (mdRnd md) sat E).inexact
        · rw [Bool.and_false]
        · rw [h.tiny (mag_lt_min.1 hsmall) hi]; rfl
      · rw [h.large ho (by exact_mod_cast (target_cast hk hx h.le _).2.1.1 hlarge), Bool.false_and]

/-- One rounding packs the result that R53 asks for. -/
theorem finishF_rounds_of : f.rounds md sat k x (finishF f md sat E) := by
  have hover := overflows_iff hf hk hx h.le h.lt h.goes (Nat.mod_lt _ (by decide))
  exact ⟨fun ho => finishF_overflows hf hk hx h (hover.1 ho), fun ho => finishF_fits hf hk hx h (not_lt.1 (mt hover.2 ho))⟩

end

end Sys2Proof.Proofs
end

section
/-! PROOFS. The lane float instructions: their elements, their flags, and the exact results that they round (R53, R55, R57, R58, R147, R150 to R152). -/

namespace Sys2Proof.Proofs

open Sys2Proof Sys2Proof.Machine Sys2Proof.Laws

/-! ## Exact numbers as rationals -/

/-- The value of a sign, a significand and an exponent. -/
def signedValue (neg : Bool) (m : Nat) (e : Int) : ℚ := (withSign neg m : ℚ) * 2 ^ e

theorem signedValue_eq (neg : Bool) (m : Nat) (e : Int) : signedValue neg m e = if neg then -((m : ℚ) * 2 ^ e) else (m : ℚ) * 2 ^ e := by
  rw [signedValue, cast_withSign]
  split
  · exact neg_mul _ _
  · rfl

theorem signedValue_eq_zero {neg : Bool} {m : Nat} {e : Int} : signedValue neg m e = 0 ↔ m = 0 := by
  rw [signedValue, mul_eq_zero, or_iff_left (two_zpow_pos e).ne', Int.cast_eq_zero, ← Int.natAbs_eq_zero, natAbs_withSign]

theorem signedValue_mul (a b : Bool) (m n : Nat) (e g : Int) :
    signedValue (a != b) (m * n) (e + g) = signedValue a m e * signedValue b n g := by
  have hsign : withSign (a != b) (m * n) = withSign a m * withSign b n := by cases a <;> cases b <;> simp [withSign]
  rw [signedValue, signedValue, signedValue, hsign, zpow_add₀ two_ne_zero]
  push_cast
  ring

theorem signedValue_not (neg : Bool) (m : Nat) (e : Int) : signedValue (!neg) m e = -signedValue neg m e := by
  rw [signedValue, signedValue, withSign_not]
  push_cast
  ring

section
variable {f : Fmt} {md : BitVec 4} {sat : Bool} {E : Exact} {k : Nat} {x : Int} (hf : Regular f) (hk : 0 < k)
include hf hk

/-- Rounding a number that is known from below, to enough bits. -/
theorem finishF_rounds {v : ℚ} (hv : IsMagnitude E v) (hzero : E.m = 0 → E.sticky = false) (hsticky : E.sticky = true → f.mb + 1 < bitLen E.m)
    (hx : (if E.neg then -v else v) * k = x * 2 ^ (f.emin - f.mb)) : f.rounds md sat k x (finishF f md sat E) := by
  obtain ⟨u, up, h⟩ := roundTo_rounds hf (rnd := mdRnd md) (sat := sat) hv hzero hsticky
  refine finishF_rounds_of hf hk ?_ h
  have hpow := (two_zpow_pos (f.emin - f.mb)).ne'
  have hcast : (x : ℚ) = (if E.neg then -v else v) * k / 2 ^ (f.emin - f.mb) := by rw [hx, mul_div_cancel_right₀ _ hpow]
  rw [hcast]
  cases E.neg <;> simp <;> ring

/-- Rounding an exact number. -/
theorem finishF_rounds_exact (hs : E.sticky = false) (hx : signedValue E.neg E.m E.e * k = x * 2 ^ (f.emin - f.mb)) :
    f.rounds md sat k x (finishF f md sat E) := by
  refine finishF_rounds hf hk (v := E.m * 2 ^ E.e) ?_ (fun _ => hs) (fun h => absurd (hs.symm.trans h) (by decide)) (by rw [← signedValue_eq]; exact hx)
  rw [IsMagnitude, hs]
  rfl

end

/-! ## Operands -/

section
variable {f : Fmt} (hf : Regular f) (hs : f.special = .ieee)

theorem unpack_ieee (a : Nat) (hs : f.special = .ieee) : unpack f a =
    if a / 2 ^ f.mb % 2 ^ f.eb = 0 then
      if a % 2 ^ f.mb = 0 then .fin (a / 2 ^ (f.w - 1) % 2 == 1) 0 0 else .fin (a / 2 ^ (f.w - 1) % 2 == 1) (a % 2 ^ f.mb) (f.emin - f.mb)
    else if a / 2 ^ f.mb % 2 ^ f.eb = 2 ^ f.eb - 1 then (if a % 2 ^ f.mb = 0 then .inf (a / 2 ^ (f.w - 1) % 2 == 1) else .nan)
    else .fin (a / 2 ^ (f.w - 1) % 2 == 1) (2 ^ f.mb + a % 2 ^ f.mb) (Int.ofNat (a / 2 ^ f.mb % 2 ^ f.eb) - f.bias - f.mb) := by
  simp only [unpack, hs, show (Special.ieee != Special.finite) = true from rfl, Bool.and_true]

include hf

/-- The exponent and mantissa fields. -/
theorem fields_eq (a : Nat) : a % 2 ^ (f.w - 1) / 2 ^ f.mb = a / 2 ^ f.mb % 2 ^ f.eb ∧ a % 2 ^ (f.w - 1) % 2 ^ f.mb = a % 2 ^ f.mb := by
  have hw : f.w - 1 = f.mb + f.eb := by have := hf.width; omega
  rw [hw, pow_add, Nat.mod_mul_right_div_self, Nat.mod_mul_right_mod]
  exact ⟨rfl, rfl⟩

/-- An infinity is the encoding above the largest finite one. -/
theorem maxBits_succ (hs : f.special = .ieee) : 2 ≤ 2 ^ f.eb ∧ f.maxBits + 1 = (2 ^ f.eb - 1) * 2 ^ f.mb := by
  have hleast := hf.least
  have hb := Nat.two_pow_pos f.mb
  rw [Fmt.maxBits, hs] at hleast ⊢
  dsimp only at hleast ⊢
  generalize 2 ^ f.mb = b at *
  have hge : 2 ≤ 2 ^ f.eb := by
    refine Nat.le_of_not_lt fun h => ?_
    rw [Nat.sub_eq_zero_of_le (by omega), Nat.zero_mul] at hleast
    omega
  obtain ⟨n, hn⟩ : ∃ n, 2 ^ f.eb = n + 2 := ⟨2 ^ f.eb - 2, (Nat.sub_add_cancel hge).symm⟩
  rw [hn, Nat.add_sub_cancel, show n + 2 - 1 = n + 1 from rfl, Nat.add_mul]
  omega

theorem exponent_finite (hs : f.special = .ieee) {a : Nat} (ha : f.finite a) : a / 2 ^ f.mb % 2 ^ f.eb ≠ 2 ^ f.eb - 1 := by
  have hlt : a % 2 ^ (f.w - 1) < (2 ^ f.eb - 1) * 2 ^ f.mb := by
    rw [← (maxBits_succ hf hs).2]
    exact Nat.lt_succ_of_le ha.2
  rw [← (fields_eq hf a).1]
  exact (Nat.div_lt_of_lt_mul (by rwa [Nat.mul_comm])).ne

/-- The units of an encoding, by its fields. -/
theorem natAbs_units (a : Nat) : (f.units a).natAbs =
    if a / 2 ^ f.mb % 2 ^ f.eb = 0 then a % 2 ^ f.mb else (2 ^ f.mb + a % 2 ^ f.mb) * 2 ^ (a / 2 ^ f.mb % 2 ^ f.eb - 1) := by
  rw [units_eq hf, natAbs_withSign, mag, (fields_eq hf a).1, (fields_eq hf a).2]

/-- A finite encoding under FTZ is its value, with the sign of the encoding. -/
theorem operand_finite (hs : f.special = .ieee) {ftz : Bool} {a : Nat} (ha : f.finite a) :
    ∃ m e, operand f ftz a = .fin (a / 2 ^ (f.w - 1) % 2 == 1) m e ∧
      signedValue (a / 2 ^ (f.w - 1) % 2 == 1) m e = f.read ftz a * 2 ^ (f.emin - f.mb) := by
  have hex := exponent_finite hf hs ha
  have habs := natAbs_units hf a
  have hunits : f.units a = withSign (a / 2 ^ (f.w - 1) % 2 == 1) (f.units a).natAbs := by
    conv_lhs => rw [units_eq hf]
    rw [units_eq hf, natAbs_withSign]
  have hm := Nat.mod_lt a (Nat.two_pow_pos f.mb)
  rw [operand, isSubnormal, unpack_ieee a hs, if_neg hex, Fmt.read]
  generalize (a / 2 ^ (f.w - 1) % 2 == 1) = neg at *
  by_cases he : a / 2 ^ f.mb % 2 ^ f.eb = 0
  · rw [if_pos he] at habs
    by_cases hz : a % 2 ^ f.mb = 0
    · have h0 : f.units a = 0 := Int.natAbs_eq_zero.1 (habs.trans hz)
      exact ⟨0, 0, by simp [he, hz], by simp [h0, signedValue, withSign_zero]⟩
    · cases ftz with
      | true => exact ⟨0, 0, by simp [he, hz], by simp [habs, hm, signedValue, withSign_zero]⟩
      | false => exact ⟨a % 2 ^ f.mb, f.emin - f.mb, by simp [he, hz], by rw [signedValue, hunits, habs]; simp⟩
  · rw [if_neg he] at habs
    have hge : 2 ^ f.mb ≤ (f.units a).natAbs := by
      rw [habs]
      exact (Nat.le_add_right _ _).trans (Nat.le_mul_of_pos_right _ (Nat.two_pow_pos _))
    refine ⟨_, _, by simp only [he, beq_iff_eq, Bool.and_eq_true, false_and, and_false, if_false]; rfl, ?_⟩
    have hone : 1 ≤ a / 2 ^ f.mb % 2 ^ f.eb := Nat.one_le_iff_ne_zero.2 he
    have hexp : Int.ofNat (a / 2 ^ f.mb % 2 ^ f.eb) - f.bias - f.mb = (a / 2 ^ f.mb % 2 ^ f.eb - 1 : Nat) + (f.emin - f.mb) := by
      rw [Fmt.emin, Nat.cast_sub hone, Int.ofNat_eq_natCast]
      push_cast
      ring
    rw [if_neg fun h => absurd h.2 (not_lt.2 hge), signedValue, hunits, habs, hexp, zpow_add₀ two_ne_zero, zpow_natCast, ← mul_assoc,
      cast_withSign, cast_withSign]
    cases neg <;> simp
    ring

end

/-! ## Sums -/

theorem withSign_natAbs (s : Int) (neg : Bool) : withSign (if s = 0 then neg else decide (s < 0)) s.natAbs = s := by
  by_cases h : s = 0
  · rw [h]; exact withSign_zero _
  · rw [if_neg h, withSign]
    split
    next hneg => have := of_decide_eq_true hneg; omega
    next hneg => have := of_decide_eq_false (Bool.not_eq_true _ ▸ hneg); omega

theorem signedAt_value (neg : Bool) (m : Nat) {e low : Int} (h : low ≤ e) : (signedAt neg m e low : ℚ) * 2 ^ low = signedValue neg m e := by
  have hpow : ((m * 2 ^ (e - low).toNat : Nat) : ℚ) * 2 ^ low = m * 2 ^ e := by
    rw [Nat.cast_mul, zpow_toNat (by omega), mul_assoc, ← zpow_add₀ two_ne_zero, sub_add_cancel]
  rw [signedValue_eq, ← hpow]
  unfold signedAt
  cases neg <;> simp

theorem sumExact_value (rnd : Nat) (an bn : Bool) (am bm : Nat) (ae be : Int) :
    (sumExact rnd an am ae bn bm be).sticky = false ∧
      signedValue (sumExact rnd an am ae bn bm be).neg (sumExact rnd an am ae bn bm be).m (sumExact rnd an am ae bn bm be).e =
        signedValue an am ae + signedValue bn bm be := by
  unfold sumExact
  split
  case isTrue h =>
    rw [signedValue_eq_zero.2 h.1, signedValue_eq_zero.2 h.2, add_zero]
    exact ⟨rfl, signedValue_eq_zero.2 rfl⟩
  case isFalse h =>
    refine ⟨rfl, ?_⟩
    dsimp only
    have hpart : ∀ (neg : Bool) (m : Nat) (e low : Int), (m ≠ 0 → low ≤ e) →
        (((if m = 0 then 0 else signedAt neg m e low : Int)) : ℚ) * 2 ^ low = signedValue neg m e := by
      intro neg m e low hlow
      split
      next hm => rw [signedValue_eq_zero.2 hm, Int.cast_zero, zero_mul]
      next hm => exact signedAt_value neg m (hlow hm)
    have ha := hpart an am ae (if am = 0 then be else if bm = 0 then ae else if ae ≤ be then ae else be) (by intro hm; split_ifs <;> omega)
    have hb := hpart bn bm be (if am = 0 then be else if bm = 0 then ae else if ae ≤ be then ae else be) (by intro hm; split_ifs <;> omega)
    rw [← ha, ← hb, ← add_mul, ← Int.cast_add, signedValue]
    congr 2
    exact withSign_natAbs _ _

theorem signedValue_same {neg : Bool} {m n : Nat} {e g : Int} (h : signedValue neg m e + signedValue neg n g = 0) : m = 0 ∧ n = 0 := by
  have hm : (0 : ℚ) ≤ m * 2 ^ e := mul_nonneg (Nat.cast_nonneg _) (two_zpow_pos e).le
  have hn : (0 : ℚ) ≤ n * 2 ^ g := mul_nonneg (Nat.cast_nonneg _) (two_zpow_pos g).le
  rw [← signedValue_eq_zero (neg := false) (e := e), ← signedValue_eq_zero (m := n) (neg := false) (e := g), signedValue_eq, signedValue_eq]
  rw [signedValue_eq, signedValue_eq] at h
  cases neg <;> simp only [Bool.false_eq_true, if_true, if_false] at h ⊢ <;> constructor <;> linarith

/-- An exact zero sum has the sign of both numbers, or the mode's. -/
theorem sumExact_zero {rnd : Nat} {an bn : Bool} {am bm : Nat} {ae be : Int} (h : signedValue an am ae + signedValue bn bm be = 0) :
    ∃ e, sumExact rnd an am ae bn bm be = { neg := if an = bn then an else rnd == 2, m := 0, e := e, sticky := false } := by
  have hm : (sumExact rnd an am ae bn bm be).m = 0 := by
    rw [← signedValue_eq_zero, (sumExact_value rnd an bn am bm ae be).2, h]
  unfold sumExact at hm ⊢
  split
  case isTrue hz => exact ⟨_, rfl⟩
  case isFalse hz =>
    have hne : an ≠ bn := by
      rintro rfl
      exact hz (signedValue_same h)
    rw [if_neg hz] at hm
    dsimp only at hm ⊢
    rw [if_pos (Int.natAbs_eq_zero.1 hm), if_neg hne, hm]
    exact ⟨_, rfl⟩

theorem finishF_zero (f : Fmt) (md : BitVec 4) (sat neg : Bool) (e : Int) :
    finishF f md sat { neg := neg, m := 0, e := e, sticky := false } = { bits := zeroBits f neg, flags := 0 } := by
  simp [finishF, roundTo, flagIf]

/-! ## The operations on finite operands (R53, R55) -/

section
variable {f : Fmt} {md : BitVec 4} (hf : Regular f)
include hf

theorem addF_rounds {k : Nat} {x : Int} {an bn : Bool} {am bm : Nat} {ae be : Int} (hk : 0 < k)
    (hx : (signedValue an am ae + signedValue bn bm be) * k = x * 2 ^ (f.emin - f.mb)) :
    f.rounds md (mdSat md) k x (addF f md (.fin an am ae) (.fin bn bm be)) := by
  obtain ⟨hs, hv⟩ := sumExact_value (mdRnd md) an bn am bm ae be
  exact finishF_rounds_exact hf hk hs (by rw [hv]; exact hx)

/-- A unit of products, in the format's own. -/
theorem unit_mul : ((2 ^ (f.bias + f.mb - 1) : Nat) : ℚ) * 2 ^ (f.emin - f.mb) = 1 := by
  have hb := hf.bias
  rw [Nat.cast_pow, Nat.cast_ofNat, ← zpow_natCast, ← zpow_add₀ two_ne_zero, Fmt.emin, show ((f.bias + f.mb - 1 : Nat) : Int) + (1 - f.bias - f.mb) = 0 by omega]
  rfl

variable (hs : f.special = .ieee) {a b : Nat} (ha : f.finite a) (hb : f.finite b)
include hs ha hb

theorem fadd_rounds : f.rounds md (mdSat md) 1 (f.read (mdFtz md) a + f.read (mdFtz md) b) (fadd f md a b) := by
  obtain ⟨m, e, ho, hv⟩ := operand_finite hf hs (ftz := mdFtz md) ha
  obtain ⟨n, g, ho', hv'⟩ := operand_finite hf hs (ftz := mdFtz md) hb
  rw [fadd, ho, ho']
  exact addF_rounds hf one_pos (by rw [hv, hv']; push_cast; ring)

theorem fsub_rounds : f.rounds md (mdSat md) 1 (f.read (mdFtz md) a - f.read (mdFtz md) b) (fsub f md a b) := by
  obtain ⟨m, e, ho, hv⟩ := operand_finite hf hs (ftz := mdFtz md) ha
  obtain ⟨n, g, ho', hv'⟩ := operand_finite hf hs (ftz := mdFtz md) hb
  rw [fsub, ho, ho']
  exact addF_rounds hf one_pos (by rw [signedValue_not, hv, hv']; push_cast; ring)

theorem fmul_rounds : f.rounds md (mdSat md) (2 ^ (f.bias + f.mb - 1)) (f.read (mdFtz md) a * f.read (mdFtz md) b) (fmul f md a b) := by
  obtain ⟨m, e, ho, hv⟩ := operand_finite hf hs (ftz := mdFtz md) ha
  obtain ⟨n, g, ho', hv'⟩ := operand_finite hf hs (ftz := mdFtz md) hb
  rw [fmul, ho, ho']
  refine finishF_rounds_exact hf (Nat.two_pow_pos _) rfl ?_
  dsimp only
  rw [signedValue_mul, hv, hv']
  have hunit := unit_mul hf
  push_cast
  push_cast at hunit
  linear_combination (f.read (mdFtz md) a : ℚ) * f.read (mdFtz md) b * 2 ^ (f.emin - f.mb) * hunit

theorem ffma_rounds {c : Nat} (hc : f.finite c) : f.rounds md (mdSat md) (2 ^ (f.bias + f.mb - 1))
    (f.read (mdFtz md) a * f.read (mdFtz md) b + (2 ^ (f.bias + f.mb - 1) : Nat) * f.read (mdFtz md) c) (ffma f md a b c) := by
  obtain ⟨m, e, ho, hv⟩ := operand_finite hf hs (ftz := mdFtz md) ha
  obtain ⟨n, g, ho', hv'⟩ := operand_finite hf hs (ftz := mdFtz md) hb
  obtain ⟨l, h, ho'', hv''⟩ := operand_finite hf hs (ftz := mdFtz md) hc
  rw [ffma, ho, ho', ho'']
  refine addF_rounds hf (Nat.two_pow_pos _) ?_
  rw [signedValue_mul, hv, hv', hv'']
  have hunit := unit_mul hf
  push_cast
  push_cast at hunit
  linear_combination (f.read (mdFtz md) a : ℚ) * f.read (mdFtz md) b * 2 ^ (f.emin - f.mb) * hunit

/-- An exact zero sum (R53). -/
theorem fadd_zero (h : f.read (mdFtz md) a + f.read (mdFtz md) b = 0) : fadd f md a b =
    { bits := if a / 2 ^ (f.w - 1) = b / 2 ^ (f.w - 1) then a / 2 ^ (f.w - 1) * 2 ^ (f.w - 1) else
        if field md 0 2 = 2 then 2 ^ (f.w - 1) else 0, flags := 0 } := by
  obtain ⟨m, e, ho, hv⟩ := operand_finite hf hs (ftz := mdFtz md) ha
  obtain ⟨n, g, ho', hv'⟩ := operand_finite hf hs (ftz := mdFtz md) hb
  have hsum : signedValue (a / 2 ^ (f.w - 1) % 2 == 1) m e + signedValue (b / 2 ^ (f.w - 1) % 2 == 1) n g = 0 := by
    rw [hv, hv', ← add_mul, ← Int.cast_add, h, Int.cast_zero, zero_mul]
  obtain ⟨l, hexact⟩ := sumExact_zero (rnd := mdRnd md) hsum
  have hsign : ∀ x, f.finite x → x / 2 ^ (f.w - 1) < 2 := fun x hx => by
    have hw := hf.width
    refine Nat.div_lt_of_lt_mul ?_
    rw [← pow_succ, Nat.sub_add_cancel (by omega)]
    exact hx.1
  rw [fadd, ho, ho', addF, hexact, finishF_zero, zeroBits_signed hf]
  have h1 := hsign a ha
  have h2 := hsign b hb
  generalize a / 2 ^ (f.w - 1) = x at *
  generalize b / 2 ^ (f.w - 1) = y at *
  have hx : x = 0 ∨ x = 1 := by omega
  have hy : y = 0 ∨ y = 1 := by omega
  rcases hx with rfl | rfl <;> rcases hy with rfl | rfl <;> simp [signBit, mdRnd]

end

theorem reciprocal_magnitude (neg : Bool) {m k : Nat} (e : Int) (hm : m ≠ 0) :
    IsMagnitude { neg := neg, m := 2 ^ k / m, e := -Int.ofNat k - e, sticky := 2 ^ k % m != 0 } (1 / (m * 2 ^ e)) := by
  have hmq : (0 : ℚ) < m := by exact_mod_cast Nat.pos_of_ne_zero hm
  have hsplit : (2 ^ k : ℚ) = m * (2 ^ k / m : Nat) + (2 ^ k % m : Nat) := by exact_mod_cast (Nat.div_add_mod _ _).symm
  have hlt : ((2 ^ k % m : Nat) : ℚ) < m := by exact_mod_cast Nat.mod_lt _ (Nat.pos_of_ne_zero hm)
  have hpow := two_zpow_pos (-Int.ofNat k - e)
  have hv : 1 / ((m : ℚ) * 2 ^ e) = 2 ^ k / m * 2 ^ (-Int.ofNat k - e) := by
    rw [Int.ofNat_eq_natCast, zpow_sub₀ two_ne_zero, zpow_neg, zpow_natCast]
    field_simp
  rw [IsMagnitude, hv]
  dsimp only
  split
  case isTrue h =>
    have hr : (0 : ℚ) < (2 ^ k % m : Nat) := by exact_mod_cast Nat.pos_of_ne_zero (by simpa using h)
    refine ⟨mul_lt_mul_of_pos_right ?_ hpow, mul_lt_mul_of_pos_right ?_ hpow⟩
    · rw [lt_div_iff₀ hmq]; linarith
    · rw [div_lt_iff₀ hmq]; linarith
  case isFalse h =>
    have hr : ((2 ^ k % m : Nat) : ℚ) = 0 := by exact_mod_cast (by simpa using h : 2 ^ k % m = 0)
    rw [mul_left_inj' hpow.ne', div_eq_iff hmq.ne']
    linarith

/-- The reciprocal is known to 64 bits and more, and whether it is exact (R57). -/
theorem frcp_rounds {md : BitVec 4} {a : Nat} (ha : f32.finite a) (hne : f32.read (mdFtz md) a ≠ 0) :
    f32.rounds md (mdSat md) (f32.read (mdFtz md) a).natAbs ((f32.read (mdFtz md) a).sign * 2 ^ 298) (frcp f32 md a) := by
  have hf : Regular f32 := regular_of_mem (by decide)
  obtain ⟨m, e, ho, hv⟩ := operand_finite hf rfl (ftz := mdFtz md) ha
  have hm : m ≠ 0 := fun h => hne (by
    rw [signedValue_eq_zero.2 h] at hv
    have := mul_eq_zero.1 hv.symm
    exact Int.cast_eq_zero.1 (this.resolve_right (two_zpow_pos _).ne'))
  rw [frcp, ho]
  dsimp only
  rw [if_neg hm]
  have hlarge : 2 ^ 64 ≤ 2 ^ (64 + bitLen m) / m := by
    rw [Nat.le_div_iff_mul_le (Nat.pos_of_ne_zero hm), pow_add]
    exact Nat.mul_le_mul_left _ (lt_two_pow_bitLen m).le
  refine finishF_rounds hf (Int.natAbs_pos.2 hne) (reciprocal_magnitude _ e hm) (fun h => ?_) (fun _ => ?_) ?_
  · have h : 2 ^ (64 + bitLen m) / m = 0 := h
    rw [h] at hlarge
    exact absurd hlarge (by decide)
  · have hlt := hlarge.trans_lt (lt_two_pow_bitLen _)
    have h64 := (Nat.pow_lt_pow_iff_right (by norm_num)).1 hlt
    exact lt_trans (by decide) h64
  · have hme : (0 : ℚ) < m * 2 ^ e := mul_pos (by exact_mod_cast Nat.pos_of_ne_zero hm) (two_zpow_pos e)
    rw [signedValue_eq] at hv
    rw [show (f32.emin - f32.mb : Int) = -149 from rfl] at hv ⊢
    have hT := two_zpow_pos (-149)
    have hTT : (2 : ℚ) ^ (298 : Nat) * 2 ^ (-149 : Int) * 2 ^ (-149 : Int) = 1 := by
      rw [← zpow_natCast, ← zpow_add₀ two_ne_zero, ← zpow_add₀ two_ne_zero, show ((298 : Nat) : Int) + -149 + -149 = 0 from rfl, zpow_zero]
    rw [Nat.cast_natAbs, Int.cast_abs, Int.cast_mul, Int.cast_pow, Int.cast_ofNat]
    generalize f32.read (mdFtz md) a = r at *
    generalize (2 : ℚ) ^ (-149 : Int) = T at *
    generalize (2 : ℚ) ^ 298 = H at *
    generalize (m : ℚ) * 2 ^ e = P at *
    generalize (a / 2 ^ (f32.w - 1) % 2 == 1) = neg at *
    have hinv : 1 / P * (P / T) = H * T := by
      rw [one_div_mul_eq_div, div_div_cancel_left' hme.ne', ← one_div, div_eq_iff hT.ne']
      exact hTT.symm
    have hPT : 0 < P / T := div_pos hme hT
    cases neg with
    | false =>
      have hr : (r : ℚ) = P / T := by rw [eq_div_iff hT.ne']; exact hv.symm
      have hpos : (0 : ℚ) < r := by rw [hr]; exact hPT
      rw [abs_of_pos hpos, Int.sign_eq_one_of_pos (Int.cast_pos.1 hpos), hr, Int.cast_one, one_mul]
      exact hinv
    | true =>
      have hr : (r : ℚ) = -(P / T) := by rw [← neg_div, eq_div_iff hT.ne']; exact hv.symm
      have hneg : (r : ℚ) < 0 := by rw [hr]; linarith
      rw [abs_of_neg hneg, Int.sign_eq_neg_one_of_neg (Int.cast_lt_zero.1 hneg), hr, neg_neg, Int.cast_neg, Int.cast_one]
      simp only [if_true]
      linear_combination -hinv

/-! ## NaN (R57, R58) -/

section
variable {f : Fmt} (hf : Regular f) (hs : f.special = .ieee) {a b : Nat} (md : BitVec 4)
include hf hs

/-- An encoding above infinity. -/
theorem fields_nan (h : f.maxBits + 1 < a % 2 ^ (f.w - 1)) :
    a / 2 ^ f.mb % 2 ^ f.eb = 2 ^ f.eb - 1 ∧ a % 2 ^ f.mb ≠ 0 ∧ a / 2 ^ f.mb % 2 ^ f.eb ≠ 0 := by
  obtain ⟨hex, hm⟩ := fields_eq hf a
  obtain ⟨htwo, hmax⟩ := maxBits_succ hf hs
  have hlt : a % 2 ^ (f.w - 1) < 2 ^ f.mb * 2 ^ f.eb := by
    rw [← pow_add, show f.mb + f.eb = f.w - 1 by have := hf.width; omega]
    exact Nat.mod_lt a (Nat.two_pow_pos _)
  have hpos := Nat.two_pow_pos f.mb
  rw [hmax] at h
  rw [← hex, ← hm]
  generalize a % 2 ^ (f.w - 1) = u at *
  have hge : 2 ^ f.eb - 1 ≤ u / 2 ^ f.mb := (Nat.le_div_iff_mul_le hpos).2 h.le
  have hle : u / 2 ^ f.mb < 2 ^ f.eb := Nat.div_lt_of_lt_mul hlt
  have htop : u / 2 ^ f.mb = 2 ^ f.eb - 1 := by omega
  refine ⟨htop, fun h0 => ?_, by omega⟩
  have hdiv := Nat.div_add_mod' u (2 ^ f.mb)
  rw [htop, h0] at hdiv
  omega

theorem operand_nan (h : f.maxBits + 1 < a % 2 ^ (f.w - 1)) (ftz : Bool) : operand f ftz a = .nan := by
  obtain ⟨htop, hm, hz⟩ := fields_nan hf hs h
  rw [operand, isSubnormal, unpack_ieee a hs, if_neg hz, if_pos htop, if_neg hm, if_neg (by simp [hz])]

theorem isNan_flush (h : f.maxBits + 1 < a % 2 ^ (f.w - 1)) (ftz : Bool) : isNan f (flushBits f ftz a) = true := by
  obtain ⟨htop, hm, hz⟩ := fields_nan hf hs h
  rw [flushBits, isSubnormal, if_neg (by simp [hz]), isNan, unpack_ieee a hs, if_neg hz, if_pos htop, if_neg hm]
  rfl

theorem nan_results (h : f.maxBits + 1 < a % 2 ^ (f.w - 1) ∨ f.maxBits + 1 < b % 2 ^ (f.w - 1)) (c : Nat) :
    fadd f md a b = nanRes f ∧ fsub f md a b = nanRes f ∧ fmul f md a b = nanRes f ∧ ffma f md a b c = nanRes f ∧
      ∀ less, fminmax less f md a b = nanRes f := by
  have hadd : ∀ v, addF f md v .nan = nanRes f := fun v => by cases v <;> rfl
  have hmul : ∀ v, mulV v .nan = .nan := fun v => by cases v <;> rfl
  rcases h with h | h
  · have ho := operand_nan hf hs h (mdFtz md)
    refine ⟨by rw [fadd, ho]; rfl, by rw [fsub, ho]; rfl, by rw [fmul, ho]; rfl, by rw [ffma, ho]; rfl, fun less => ?_⟩
    rw [fminmax]
    simp only [isNan_flush hf hs h, Bool.true_or, if_true]
  · have ho := operand_nan hf hs h (mdFtz md)
    refine ⟨by rw [fadd, ho, hadd], by rw [fsub, ho]; exact hadd _, by rw [fmul, ho, hmul]; rfl, by rw [ffma, ho, hmul]; rfl, fun less => ?_⟩
    rw [fminmax]
    simp only [isNan_flush hf hs h, Bool.or_true, if_true]

end

theorem inf_mul_zero (md : BitVec 4) (c : Nat) : ffma f32 md 0x7F800000 0 c = nanRes f32 := by
  have hinf : ∀ ftz, operand f32 ftz 0x7F800000 = .inf false := by decide
  have hzero : ∀ ftz, operand f32 ftz 0 = .fin false 0 0 := by decide
  rw [ffma, hinf, hzero]
  rfl

theorem special_results : ∀ md : BitVec 4,
    fadd f32 md 0x7F800000 0xFF800000 = nanRes f32 ∧ fmul f32 md 0 0x7F800000 = nanRes f32 ∧
    fminmax true f32 md 0 0x80000000 = { bits := 0x80000000, flags := 0 } ∧
    fminmax false f32 md 0x80000000 0 = { bits := 0, flags := 0 } := by decide

theorem fexp2_results : ∀ md : BitVec 4, [0, 0x80000000, 0x3F800000, 0x7F800000, 0xFF800000].map (fexp2 f32 md) =
    [0x3F800000, 0x3F800000, 0x40000000, 0x7F800000, 0].map fun b => { bits := b, flags := 0 } := by decide

theorem flog2_results : ∀ md : BitVec 4, [0, 0x80000000, 0x7F800000, 0xFF800000, 0xBF800000, 0x3F800000, 0x41000000].map (flog2 f32 md) =
    [{ bits := 0xFF800000, flags := 0b01000 }, { bits := 0xFF800000, flags := 0b01000 }, { bits := 0x7F800000, flags := 0 }, nanRes f32,
     nanRes f32, { bits := 0, flags := 0 }, { bits := 0x40400000, flags := 0 }] := by decide

theorem frcp_results : ∀ md : BitVec 4, [0, 0x80000000, 0x7F800000, 0xFF800000, 0x3F800000].map (frcp f32 md) =
    [{ bits := 0x7F800000, flags := 0b01000 }, { bits := 0xFF800000, flags := 0b01000 }, { bits := 0, flags := 0 },
     { bits := 0x80000000, flags := 0 }, { bits := 0x3F800000, flags := 0 }] := by decide

theorem frsq_results : ∀ md : BitVec 4, [0, 0x80000000, 0x7F800000, 0xFF800000, 0xBF800000, 0x3F800000].map (frsq f32 md) =
    [{ bits := 0x7F800000, flags := 0b01000 }, { bits := 0xFF800000, flags := 0b01000 }, { bits := 0, flags := 0 }, nanRes f32, nanRes f32,
     { bits := 0x3F800000, flags := 0 }] := by decide

/-! ## The lane float instructions (R147, R150 to R152) -/

theorem laneFloat_completes {s : State} {k : Nat} {p : Pred} {vs : List Reg} (rd : Reg) (n : Nat) (f : Core → Nat → Lane × BitVec 5)
    (ha : s.actor = .core k) (hi : (s.dev.core k).issuesV p [] vs) :
    laneFloat p vs rd n f s =
      .next ({ s with dev := s.dev.count (s.dev.core k).world 5 (n * (activeLanes ((s.dev.core k).mask p)).length) }.completedCore k
        { (s.dev.core k).writeV rd ((s.dev.core k).mask p) (fun l => (f (s.dev.core k) l).1) with
          fpstat := (s.dev.core k).fpstat ||| ((activeLanes ((s.dev.core k).mask p)).map fun l => (f (s.dev.core k) l).2).foldl (· ||| ·) 0 }) := by
  obtain ⟨⟨hm, -⟩, hv⟩ := hi
  rw [laneFloat, onCore_core _ ha]
  dsimp only
  rw [lanes_on _ hm rfl (List.any_eq_false.2 fun r hr => by rw [hv r hr]; decide)]
  simp only [CRes.lift, finish_done, orFlags, List.foldl_map, List.map_map, State.completedCore, State.completed, core_count, Core.writeV,
    writeLanes_fpstat]
  rfl

theorem laneUnit_completes {s : State} {k : Nat} {p : Pred} {ra : Reg} (md : BitVec 4) (rd : Reg) (f : FOp1) (ha : s.actor = .core k)
    (hi : (s.dev.core k).issuesV p [] [ra]) :
    laneUnit p md rd ra f s =
      .next ({ s with dev := s.dev.count (s.dev.core k).world 5 (activeLanes ((s.dev.core k).mask p)).length }.completedCore k
        ((s.dev.core k).launch (.v rd.toNat)
          ((activeLanes ((s.dev.core k).mask p)).map fun l => (l, BitVec.ofNat 64 (f f32 md ((s.dev.core k).lane ra l).toNat).bits))
          (allFlags ((activeLanes ((s.dev.core k).mask p)).map fun l => f f32 md ((s.dev.core k).lane ra l).toNat)) (some 14))) := by
  obtain ⟨⟨hm, -⟩, hv⟩ := hi
  rw [laneUnit, onCore_core _ ha]
  dsimp only
  rw [lanes_on _ hm rfl (List.any_eq_false.2 fun r hr => by rw [hv r hr]; decide)]
  simp only [CRes.lift, finish_done, allFlags, List.foldl_map, List.map_map, State.completedCore, State.completed, core_count]
  rfl

theorem zipWith_elems (w : Nat) (op : Nat → Nat → FRes) (a b : Lane) :
    List.zipWith op (elems w a) (elems w b) = (List.range (32 / w)).map fun e => op (elemOf w e a) (elemOf w e b) := by
  simp only [elems, List.zipWith_map, List.zipWith_self]
  rfl

theorem zip_elems (w : Nat) (op : Nat → Nat → Nat → FRes) (a b c : Lane) :
    List.zipWith (fun x yz => op x yz.1 yz.2) (elems w a) ((elems w b).zip (elems w c)) =
      (List.range (32 / w)).map fun e => op (elemOf w e a) (elemOf w e b) (elemOf w e c) := by
  simp only [elems, List.zip, List.zipWith_map, List.zipWith_self]
  rfl

theorem map_elems (w : Nat) (op : Nat → FRes) (a : Lane) :
    (elems w a).map op = (List.range (32 / w)).map fun e => op (elemOf w e a) := by
  simp only [elems, List.map_map]
  rfl

/-- The instructions of Table 9.3 are lane float instructions of their element results. -/
theorem exec_float {c : Core} {i : Instr} {p : Pred} {d : Reg} {vs : List Reg} {w : Nat} {f : Nat → List FRes} (h : floatSpec c i = some (p, d, vs, w, f)) :
    ∃ g : Core → Nat → List FRes, g c = f ∧ exec i = laneFloat p vs d (32 / w) fun c l => packRes w (g c l) := by
  suffices hs : ∃ g : Core → Nat → List FRes, (∀ c, floatSpec c i = some (p, d, vs, w, g c)) ∧
      exec i = laneFloat p vs d (32 / w) fun c l => packRes w (g c l) by
    obtain ⟨g, hg, hexec⟩ := hs
    refine ⟨g, ?_, hexec⟩
    rw [hg c] at h
    injection h with h
    injection h with _ h
    injection h with _ h
    injection h with _ h
    injection h
  cases i with
  | vfadd | vfsub | vfmul | vfmin | vfmax | vfscl =>
    cases h
    refine ⟨_, fun _ => rfl, ?_⟩
    simp only [zipWith_elems]
    rfl
  | vfma =>
    cases h
    refine ⟨_, fun _ => rfl, ?_⟩
    simp only [zip_elems]
    rfl
  | vfabs | vfneg =>
    cases h
    refine ⟨_, fun _ => rfl, ?_⟩
    simp only [map_elems]
    rfl
  | _ => cases h

theorem ieee_regular {f : Fmt} (h : f ∈ [f32, bf16, f16]) : Regular f ∧ f.special = .ieee := by
  refine ⟨regular_of_mem ?_, ?_⟩ <;>
    (simp only [floatFmts, List.mem_cons, List.not_mem_nil, or_false] at h ⊢
     rcases h with rfl | rfl | rfl <;> simp [f32, bf16, f16])

/-- Settles O34: the element operations by one rounding, NaN and Table 3.5, and the instructions by their lanes. -/
theorem laneFloatResultsAndFlags : Obligations.LaneFloatResultsAndFlags := by
  unfold Obligations.LaneFloatResultsAndFlags
  refine ⟨fun i s k p d ha => ⟨fun vs w f h hi => ?_, fun a f h hi => ?_⟩, ?_, ?_, ?_⟩
  · obtain ⟨g, rfl, hexec⟩ := exec_float h
    rw [hexec]
    exact laneFloat_completes d _ _ ha hi
  · cases i with
    | vexp2 | vlog2 | vrcp | vrsq =>
      cases h
      exact laneUnit_completes _ _ _ ha hi
    | _ => cases h
  · intro f md a b c hmem ha hb hc
    obtain ⟨hf, hs⟩ := ieee_regular hmem
    refine ⟨fadd_rounds hf hs ha hb, fsub_rounds hf hs ha hb, fmul_rounds hf hs ha hb, ffma_rounds hf hs ha hb hc, ?_, fadd_zero hf hs ha hb⟩
    rintro rfl hne
    exact frcp_rounds ha hne
  · intro f md a b c hmem _ _ h
    obtain ⟨hf, hs⟩ := ieee_regular hmem
    exact nan_results hf hs md h c
  · intro md c
    obtain ⟨hadd, hmul, hmin, hmax⟩ := special_results md
    exact ⟨hadd, hmul, inf_mul_zero md c, hmin, hmax, fexp2_results md, flog2_results md, frcp_results md, frsq_results md⟩

end Sys2Proof.Proofs
end

section
/-! PROOFS. VFCVT: its lanes, its counts, and the roundings of its elements (R54 to R56, R66, R153 to R155). -/

namespace Sys2Proof.Proofs

open Sys2Proof Sys2Proof.Machine Sys2Proof.Laws

/-! ## The elements of a lane, and their counts (R66, R154) -/

theorem cvtLane_eq (x y : NumFmt) (md : BitVec 4) (part : Nat) (a old : Lane) :
    cvtLane x y md part a old = (ofElems y.width (cvtElems x y md part a old), cvtResults x y md part a) := by
  unfold cvtLane cvtElems cvtResults ofElems
  dsimp only
  split
  case isTrue h =>
    refine Prod.ext (congrArg (laneOfElems y.width) (List.map_congr_left fun e _ => ?_)) (by simp [h])
    split
    next hin =>
      have hlt : e - part * (32 / Nat.max x.width y.width) < 32 / Nat.max x.width y.width := by omega
      simp [List.getD_eq_getElem?_getD, hlt]
    next => rfl
  case isFalse h =>
    have hmax : Nat.max x.width y.width = y.width := Nat.max_eq_right (by omega)
    simp only [hmax, List.map_map, Function.comp_def]

theorem record_one (n : Counts) (r : CvtRes) : n.record r.cls = n.tally [r] := by
  cases h : r.cls <;> simp [Counts.record, Counts.tally, h]

theorem tally_append (n : Counts) (rs qs : List CvtRes) : n.tally (rs ++ qs) = (n.tally rs).tally qs := by
  have hempty : (rs ++ qs).isEmpty = (rs.isEmpty && qs.isEmpty) := by cases rs <;> rfl
  simp [Counts.tally, Nat.add_assoc, Bool.or_assoc, hempty]

theorem record_all (rs : List CvtRes) (n : Counts) : rs.foldl (fun n r => n.record r.cls) n = n.tally rs := by
  induction rs generalizing n with
  | nil => simp [Counts.tally]
  | cons r rs ih => rw [List.foldl_cons, ih, record_one, ← tally_append, List.singleton_append]

theorem vfcvt_completes {s : State} {k : Nat} {p : Pred} {dst md : BitVec 4} {d a src part : Reg} {x y : NumFmt} (ha : s.actor = .core k)
    (hx : numFmt src.toNat = some x) (hy : numFmt dst.toNat = some y) (hi : (s.dev.core k).issuesV p [] [a]) :
    let c := s.dev.core k
    let act := activeLanes (c.mask p)
    let rs := act.flatMap fun l => cvtResults x y md part.toNat (c.lane a l)
    exec (.vfcvt p dst md d a src part) s =
      .next ({ s with dev := s.dev.count c.world 5 (32 / Nat.max x.width y.width * act.length) }.completedCore k
        { c.writeV d (c.mask p) (fun l => ofElems y.width (cvtElems x y md part.toNat (c.lane a l) (c.lane d l))) with
          fpstat := c.fpstat ||| (rs.map CvtRes.flags).foldl (· ||| ·) 0, counts := c.counts.tally rs }) := by
  intro c act rs
  obtain ⟨⟨hm, -⟩, hv⟩ := hi
  rw [show exec (.vfcvt p dst md d a src part) s = execVfcvt p dst md d a src part s from rfl, execVfcvt, onCore_core _ ha]
  dsimp only
  rw [hx, hy]
  dsimp only
  rw [lanes_on _ hm rfl (List.any_eq_false.2 fun r hr => by rw [hv r hr]; decide)]
  simp only [CRes.lift, finish_done, List.foldl_map, List.map_map, List.flatMap_map, State.completedCore, State.completed, core_count, Core.writeV,
    writeLanes_fpstat, writeLanes_counts, record_all, cvtLane_eq, Function.comp_def]
  rfl

/-! ## To a float (R54, R55, R153) -/

/-- Whether the source itself is not zero. -/
def nonzeroSource (f : Fmt) (a : Nat) : Bool := match unpack f a with | .fin _ m _ => m != 0 | _ => true

theorem cvtFloat_rounds {g : Fmt} (hg : Regular g) {md : BitVec 4} {nonzero neg : Bool} {m k : Nat} {e x : Int} (hk : 0 < k)
    (hx : signedValue neg m e * k = x * 2 ^ (g.emin - g.mb)) :
    g.rounds md (g.special != .ieee || mdSat md) k x
      { bits := (cvtFloat g md nonzero (.fin neg m e)).bits, flags := (cvtFloat g md nonzero (.fin neg m e)).flags } :=
  finishF_rounds_exact hg hk rfl hx

theorem f32_regular : Regular f32 := regular_of_mem (by decide)

/-- A finite f32 goes to a narrower float. -/
theorem float_to_float {g : Fmt} (hmem : g ∈ [bf16, f16, e5m2, e4m3]) (md : BitVec 4) {a : Nat} (ha : f32.finite a) :
    let r := convert (.float f32) (.float g) md a
    g.rounds md (md.getLsbD 3 || g.w == 8 && g.eb == 4) (2 ^ (150 - (g.bias + g.mb))) (f32.read (md.getLsbD 2) a)
      { bits := r.bits, flags := r.flags } := by
  intro r
  obtain ⟨m, e, ho, hv⟩ := operand_finite f32_regular rfl (ftz := mdFtz md) ha
  have hsat : (md.getLsbD 3 || g.w == 8 && g.eb == 4) = (g.special != .ieee || mdSat md) := by
    rw [Bool.or_comm]
    simp only [List.mem_cons, List.not_mem_nil, or_false] at hmem
    rcases hmem with rfl | rfl | rfl | rfl <;> rfl
  have hg : Regular g := regular_of_mem (List.mem_cons_of_mem _ hmem)
  have hscale : ((2 ^ (150 - (g.bias + g.mb)) : Nat) : ℚ) * 2 ^ (f32.emin - f32.mb) = 2 ^ (g.emin - g.mb) := by
    have hle : g.bias + g.mb ≤ 150 := by
      simp only [List.mem_cons, List.not_mem_nil, or_false] at hmem
      rcases hmem with rfl | rfl | rfl | rfl <;> decide
    rw [Nat.cast_pow, Nat.cast_ofNat, ← zpow_natCast, ← zpow_add₀ two_ne_zero, show (f32.emin - f32.mb : Int) = -149 from rfl, Fmt.emin]
    congr 1
    omega
  have hr : r = cvtFloat g md (nonzeroSource f32 a) (.fin (a / 2 ^ (f32.w - 1) % 2 == 1) m e) := by
    rw [← ho]; rfl
  rw [hsat, hr]
  refine cvtFloat_rounds hg (Nat.two_pow_pos _) ?_
  rw [hv, show md.getLsbD 2 = mdFtz md from rfl]
  linear_combination (f32.read (mdFtz md) a : ℚ) * hscale

theorem withSign_self (v : Int) : withSign (decide (v < 0)) v.natAbs = v := by
  have := withSign_natAbs v false
  split at this
  next h => rw [h]; rfl
  next h => exact this

theorem toSigned_eq {w a : Nat} (hw : w ≠ 0) (ha : a < 2 ^ w) : toSigned w a = if 2 ^ (w - 1) ≤ a then (a : Int) - 2 ^ w else a := by
  obtain ⟨v, rfl⟩ := Nat.exists_eq_succ_of_ne_zero hw
  rw [toSigned, Nat.mod_eq_of_lt ha, Nat.succ_sub_one]
  have hpow : 2 ^ (v + 1) = 2 * 2 ^ v := pow_succ' 2 v
  by_cases h : 2 ^ v ≤ a
  · rw [if_pos h, if_neg (by omega)]; rfl
  · rw [if_neg h, if_pos (by omega)]; rfl

/-- An integer goes to a float. -/
theorem int_to_float {w : Nat} (hw : w ∈ [8, 16, 32, 64]) (signed : Bool) {f : Fmt} (hmem : f ∈ [f32, bf16, f16]) (md : BitVec 4) {a : Nat} (ha : a < 2 ^ w) :
    let x : Int := if signed = true ∧ 2 ^ (w - 1) ≤ a then a - 2 ^ w else a
    let r := convert (.int w signed) (.float f) md a
    f.rounds md (md.getLsbD 3) 1 (x * 2 ^ (f.bias + f.mb - 1)) { bits := r.bits, flags := r.flags } := by
  intro x r
  obtain ⟨hf, hs⟩ := ieee_regular hmem
  have hx : (if signed then toSigned w a else Int.ofNat (a % 2 ^ w)) = x := by
    simp only [x]
    cases signed
    · simp [Nat.mod_eq_of_lt ha]
    · simp only [if_true, true_and]
      exact toSigned_eq (by rintro rfl; simp at hw) ha
  have hr : r = cvtFloat f md (x != 0) (.fin (decide (x < 0)) x.natAbs 0) := by rw [← hx]; rfl
  have hsat : (f.special != .ieee || mdSat md) = md.getLsbD 3 := by rw [hs]; rfl
  rw [hr, ← hsat]
  refine cvtFloat_rounds hf one_pos ?_
  have hunit := unit_mul hf
  push_cast at hunit ⊢
  rw [signedValue, withSign_self, zpow_zero]
  linear_combination -(x : ℚ) * hunit

/-! ## To an integer (R56, R155) -/

theorem cast_wrapInt (w : Nat) (z : Int) : (wrapInt w z : Int) = z % 2 ^ w := by
  rw [wrapInt, Int.toNat_of_nonneg (Int.emod_nonneg _ (by simp)), Int.ofNat_eq_natCast, Nat.cast_pow, Nat.cast_ofNat]

theorem intRange_eq (w : Nat) (signed : Bool) :
    intRange w signed = (if signed then -2 ^ (w - 1) else 0, if signed then 2 ^ (w - 1) - 1 else 2 ^ w - 1) := by
  have hsub : ∀ v : Nat, ((2 ^ v - 1 : Nat) : Int) = 2 ^ v - 1 := fun v => by rw [Nat.cast_sub Nat.one_le_two_pow]; push_cast; rfl
  cases signed
  · simp [intRange, hsub]
  · simp [intRange, hsub]

/-- Saturation to an integer format, with its flags. -/
theorem cvtInt_saturates (w : Nat) (signed inexact nonzero : Bool) (z : Int) :
    let lo := (intRange w signed).1
    let hi := (intRange w signed).2
    let r := cvtInt w signed z inexact nonzero
    (r.bits : Int) = (if z < lo then lo else if hi < z then hi else z) % 2 ^ w ∧ (z < lo ∨ hi < z → r.flags = 0b00101) ∧
      (lo ≤ z → z ≤ hi → r.flags = flagIf inexact flagNX) := by
  intro lo hi r
  by_cases h : z < lo
  · have hr : r = ⟨wrapInt w lo, flagOF ||| flagNX, .overflow⟩ := if_pos h
    rw [hr, if_pos h]
    exact ⟨cast_wrapInt _ _, fun _ => rfl, fun h' => absurd h (not_lt.2 h')⟩
  · by_cases h' : hi < z
    · have hr : r = ⟨wrapInt w hi, flagOF ||| flagNX, .overflow⟩ := (if_neg h).trans (if_pos h')
      rw [hr, if_neg h, if_pos h']
      exact ⟨cast_wrapInt _ _, fun _ => rfl, fun _ h'' => absurd h' (not_lt.2 h'')⟩
    · have hr : r = ⟨wrapInt w z, flagIf inexact flagNX, _⟩ := (if_neg h).trans (if_neg h')
      rw [hr, if_neg h, if_neg h']
      exact ⟨cast_wrapInt _ _, fun ho => absurd ho (not_or.2 ⟨h, h'⟩), fun _ _ => rfl⟩

/-- Rounding to an integer. -/
theorem roundAt_integer {rnd k : Nat} (hr : rnd < 4) (hk : 0 < k) {neg : Bool} {m : Nat} {e x : Int} (hx : signedValue neg m e * k = x) :
    let r := roundAt rnd { neg := neg, m := m, e := e, sticky := false } 0
    Nearest rnd k x (withSign neg r.1) (withSign neg r.1 % 2 = 0) (fun _ => True) ∧ (r.2 = true ↔ k * withSign neg r.1 ≠ x) := by
  intro r
  obtain ⟨n, up, hle, hlt, hup, hr1, hr2⟩ := roundAt_rounds (rnd := rnd) (x := { neg := neg, m := m, e := e, sticky := false }) (q := 0)
    (v := m * 2 ^ e) rfl (fun h => absurd h Bool.false_ne_true)
  rw [zpow_zero, div_one] at hle hlt hup hr2
  rw [← Nat.cast_succ] at hlt hup
  have hx' : (x : ℚ) = k * if neg then -((m : ℚ) * 2 ^ e) else (m : ℚ) * 2 ^ e := by rw [← hx, signedValue_eq, mul_comm]
  have hM : StrictMono (id : Nat → Nat) := strictMono_id
  have hV : Encoded id (fun _ => True) := fun v _ => ⟨decide (v < 0), v.natAbs, (withSign_self v).symm⟩
  have heven : withSign neg (n + b2n up) % 2 = 0 ↔ (n + b2n up) % 2 = 0 := by
    unfold withSign
    split <;> omega
  rw [show r = (n + b2n up, r.2) from Prod.ext hr1 rfl]
  refine ⟨?_, hr2.trans (chosen_exact (M := id) hM hk hx' hlt hup)⟩
  rw [propext heven]
  exact nearest_chosen (M := id) hM hk hx' hV hle hlt hr hup

theorem operand_significand {f : Fmt} (hs : f.special = .ieee) {ftz : Bool} {a m : Nat} {neg : Bool} {e : Int} (h : operand f ftz a = .fin neg m e) :
    m < 2 ^ (f.mb + 1) ∧ (m = 0 → e = 0) := by
  have hm := Nat.mod_lt a (Nat.two_pow_pos f.mb)
  rw [operand, unpack_ieee a hs] at h
  rw [pow_succ]
  split_ifs at h <;> cases h <;> constructor <;> omega

theorem source_nonzero {f : Fmt} (hf : Regular f) (hs : f.special = .ieee) {a : Nat} (ha : f.finite a) :
    nonzeroSource f a = true ↔ f.units a ≠ 0 := by
  obtain ⟨m, e, ho, hv⟩ := operand_finite hf hs (ftz := false) ha
  have ho : unpack f a = _ := ho
  have hread : f.read false a = f.units a := if_neg (by simp)
  rw [nonzeroSource, ho, ← hread, ← Int.cast_ne_zero (α := ℚ), ← mul_ne_zero_iff_right (two_zpow_pos (f.emin - f.mb)).ne', ← hv, ne_eq, signedValue_eq_zero]
  exact bne_iff_ne

/-- A whole number rounds to itself. -/
theorem roundAt_whole (rnd : Nat) (neg : Bool) (m : Nat) {e : Int} (he : 0 ≤ e) :
    m * 2 ^ e.toNat ≤ (roundAt rnd { neg := neg, m := m, e := e, sticky := false } 0).1 ∧
      (roundAt rnd { neg := neg, m := m, e := e, sticky := false } 0).2 = false := by
  rw [roundAt, if_pos he, Int.sub_zero]
  exact ⟨Nat.le_add_right _ _, rfl⟩

/-- A number of 71 bits or more is past every integer format. -/
theorem past_range {w : Nat} (hw : w ∈ [8, 16, 32, 64]) (signed neg : Bool) {q : Nat} (hq : 2 ^ 70 ≤ q) :
    if neg then withSign neg q < (intRange w signed).1 else (intRange w signed).2 < withSign neg q := by
  simp only [List.mem_cons, List.not_mem_nil, or_false] at hw
  rw [intRange_eq]
  rcases hw with rfl | rfl | rfl | rfl <;> cases signed <;> cases neg <;> simp [withSign] <;> omega

theorem big_whole {m : Nat} {e : Int} (hm : m < 2 ^ 24) (he : m = 0 → e = 0) (hbig : 70 < e + bitLen m) : 0 ≤ e ∧ 2 ^ 70 ≤ m * 2 ^ e.toNat := by
  have hm0 : m ≠ 0 := fun h => by rw [he h, h] at hbig; exact absurd hbig (by decide)
  obtain ⟨h1, hlow, -⟩ := bitLen_bounds hm0
  have hlen := (Nat.pow_lt_pow_iff_right (by norm_num)).1 (hlow.trans_lt hm)
  have he0 : 0 ≤ e := by omega
  refine ⟨he0, ?_⟩
  calc 2 ^ 70 ≤ 2 ^ (bitLen m - 1 + e.toNat) := Nat.pow_le_pow_right (by norm_num) (by omega)
    _ = 2 ^ (bitLen m - 1) * 2 ^ e.toNat := pow_add _ _ _
    _ ≤ m * 2 ^ e.toNat := Nat.mul_le_mul_right _ hlow

section
variable {w : Nat} {signed nonzero neg : Bool} {rnd m : Nat} {e : Int}

theorem cvtValInt_big (hbig : 70 < e + bitLen m) : cvtValInt w signed rnd nonzero (.fin neg m e) =
    ⟨wrapInt w (if neg then (intRange w signed).1 else (intRange w signed).2), flagOF ||| flagNX, .overflow⟩ := by
  rw [cvtValInt]
  exact if_pos hbig

theorem cvtValInt_round (hbig : ¬ 70 < e + bitLen m) : cvtValInt w signed rnd nonzero (.fin neg m e) =
    cvtInt w signed (withSign neg (roundAt rnd { neg := neg, m := m, e := e, sticky := false } 0).1)
      ((roundAt rnd { neg := neg, m := m, e := e, sticky := false } 0).2 || (nonzero && m == 0)) nonzero := by
  rw [cvtValInt]
  exact if_neg hbig

/-- The integer that a finite value goes to, saturated, and whether its flags are those of its rounding. -/
theorem cvtValInt_saturates (hw : w ∈ [8, 16, 32, 64]) (hm : m < 2 ^ 24) (he : m = 0 → e = 0) :
    let lo := (intRange w signed).1
    let hi := (intRange w signed).2
    let q := roundAt rnd { neg := neg, m := m, e := e, sticky := false } 0
    let z := withSign neg q.1
    let r := cvtValInt w signed rnd nonzero (.fin neg m e)
    (r.bits : Int) = (if z < lo then lo else if hi < z then hi else z) % 2 ^ w ∧ (z < lo ∨ hi < z → r.flags = 0b00101) ∧
      (lo ≤ z → z ≤ hi → r.flags = flagIf (q.2 || (nonzero && m == 0)) flagNX) := by
  intro lo hi q z r
  by_cases hbig : 70 < e + bitLen m
  · obtain ⟨he0, h70⟩ := big_whole hm he hbig
    have hpast := past_range hw signed neg (h70.trans (roundAt_whole rnd neg m he0).1)
    rw [show r = _ from cvtValInt_big hbig]
    cases neg with
    | true =>
      have hpast : z < lo := hpast
      rw [if_pos hpast]
      exact ⟨cast_wrapInt _ _, fun _ => rfl, fun h => absurd hpast (not_lt.2 h)⟩
    | false =>
      have hpast : hi < z := hpast
      have hlo : lo ≤ 0 := by
        simp only [lo, intRange_eq]
        split
        · exact neg_nonpos.2 (by positivity)
        · exact le_rfl
      have hz : ¬ z < lo := not_lt.2 (hlo.trans (Int.natCast_nonneg _))
      rw [if_neg hz, if_pos hpast]
      exact ⟨cast_wrapInt _ _, fun _ => rfl, fun _ h => absurd hpast (not_lt.2 h)⟩
  · rw [show r = _ from cvtValInt_round hbig]
    exact cvtInt_saturates w signed _ nonzero z

end

theorem flagIf_exact {b : Bool} {p : Prop} [Decidable p] (h : b = true ↔ ¬ p) : flagIf b flagNX = if p then 0 else 0b00001 := by
  cases b with
  | false => rw [if_pos (not_not.1 (mt h.2 (by decide)))]; rfl
  | true => rw [if_neg (h.1 rfl)]; rfl

theorem float_to_int {w : Nat} (hw : w ∈ [8, 16, 32, 64]) (signed : Bool) (md : BitVec 4) {a : Nat} (ha : f32.finite a) :
    let lo : Int := if signed then -2 ^ (w - 1) else 0
    let hi : Int := if signed then 2 ^ (w - 1) - 1 else 2 ^ w - 1
    let r := convert (.float f32) (.int w signed) md a
    ∃ n : Int, Nearest (field md 0 2) (2 ^ 149) (f32.read (md.getLsbD 2) a) n (n % 2 = 0) (fun _ => True) ∧
      (r.bits : Int) = (if n < lo then lo else if hi < n then hi else n) % 2 ^ w ∧
      (n < lo ∨ hi < n → r.flags = 0b00101) ∧
      (lo ≤ n → n ≤ hi → r.flags = if 2 ^ 149 * n = f32.units a then 0 else 0b00001) := by
  intro lo hi r
  obtain ⟨m, e, ho, hv⟩ := operand_finite f32_regular rfl (ftz := mdFtz md) ha
  obtain ⟨hm, he⟩ := operand_significand rfl ho
  have hnonzero := source_nonzero f32_regular rfl ha
  have hr : r = cvtValInt w signed (mdRnd md) (nonzeroSource f32 a)
      (.fin (a / 2 ^ (f32.w - 1) % 2 == 1) m e) := by rw [← ho]; rfl
  have hx : signedValue (a / 2 ^ (f32.w - 1) % 2 == 1) m e * (2 ^ 149 : Nat) = f32.read (mdFtz md) a := by
    rw [hv, mul_assoc, mul_comm ((2 : ℚ) ^ _), show ((2 ^ 149 : Nat) : ℚ) * _ = 1 from unit_mul f32_regular, mul_one]
  obtain ⟨hbits, hover, hfits⟩ := cvtValInt_saturates (signed := signed) (nonzero := nonzeroSource f32 a)
    (neg := (a / 2 ^ (f32.w - 1) % 2 == 1)) (rnd := mdRnd md) hw hm he
  rw [← hr] at hbits hover hfits
  rw [intRange_eq] at hbits hover hfits
  obtain ⟨hnear, hexact⟩ := roundAt_integer (rnd := mdRnd md) (Nat.mod_lt _ (by decide)) (Nat.two_pow_pos 149) hx
  refine ⟨_, hnear, hbits, hover, fun h1 h2 => (hfits h1 h2).trans ?_⟩
  by_cases hm0 : m = 0
  · have hread : f32.read (mdFtz md) a = 0 := by
      rw [← Int.cast_inj (α := ℚ), ← hx, signedValue_eq_zero.2 hm0, zero_mul, Int.cast_zero]
    have hwhole := (roundAt_whole (mdRnd md) (a / 2 ^ (f32.w - 1) % 2 == 1) m (he hm0).ge).2
    have hz := not_not.1 (mt hexact.2 (by rw [hwhole]; decide))
    rw [hread, Nat.cast_pow, Nat.cast_ofNat] at hz
    rw [hwhole, hz, hm0]
    exact flagIf_exact (by rw [← ne_eq, ne_comm, ← hnonzero]; simp)
  · have hread : f32.read (mdFtz md) a = f32.units a := by
      have hne : f32.read (mdFtz md) a ≠ 0 := fun h => hm0 (signedValue_eq_zero.1 (by
        rw [hv, h, Int.cast_zero, zero_mul]))
      rw [Fmt.read] at hne ⊢
      split at hne
      next => exact absurd rfl hne
      next h => rw [if_neg h]
    rw [hread, Nat.cast_pow, Nat.cast_ofNat] at hexact
    exact flagIf_exact (by rw [← ne_eq, ← hexact]; simp [hm0])

/-! ## NaN, infinities and E2M1 (R54, Table 3.4) -/

theorem special_conversions : ∀ md : BitVec 4,
    ([f32, bf16, f16, e5m2, e4m3, e2m1].map fun g => (convert (.float f32) (.float g) md 0x7F800001).bits) =
      [0x7FC00000, 0x7FC0, 0x7E00, 0x7E, 0x7F, 0] ∧
    (convert (.float f32) (.int 32 true) md 0x7F800001).bits = 0 ∧
    ([f32, bf16, f16, e5m2, e4m3, e2m1].map fun g => (convert (.float f32) (.float g) md 0xFF800000).bits) =
      [0xFF800000, 0xFF80, 0xFC00, 0xFC, 0xFE, 0xF] ∧
    (field md 0 2 = 0 → ([0x3E800000, 0x40200000, 0x40A00000, 0xC0200000, 0xBE800000, 0x41000000].map fun a =>
      (convert (.float f32) (.float e2m1) md a).bits) = [0, 4, 6, 0xC, 0, 7]) := by decide

/-- Settles O35: the lanes, the three ways of one rounding, and the special values. -/
theorem conversionsFillTheirPart : Obligations.ConversionsFillTheirPart := by
  unfold Obligations.ConversionsFillTheirPart
  refine ⟨?_, fun g md a hg ha => float_to_float hg md ha, fun w signed md a hw ha => float_to_int hw signed md ha,
    fun w signed f md a hw hf ha => int_to_float hw signed hf md ha, special_conversions⟩
  intro s k p dst md d a src part x y ha _ hx hy hi
  exact vfcvt_completes ha hx hy hi

end Sys2Proof.Proofs
end

section
/-! PROOFS. The end of an engine's operation (R195, R217, R221). -/

namespace Sys2Proof.Proofs

open Sys2Proof Sys2Proof.Machine Sys2Proof.Laws

/-! ## What the end of an operation leaves alone -/

/-- Memory and the worlds are kept, and of each quad everything but its slots. -/
structure Settled (d d' : Dev) : Prop where
  mem : d'.mem = d.mem
  worlds : d'.worlds = d.worlds
  quad : ∀ q, ∃ vs, d'.quad q = { d.quad q with slots := vs }

theorem Settled.refl (d : Dev) : Settled d d := ⟨rfl, rfl, fun _ => ⟨_, rfl⟩⟩
theorem Settled.trans {a b c : Dev} (h : Settled a b) (h' : Settled b c) : Settled a c := by
  refine ⟨h'.mem.trans h.mem, h'.worlds.trans h.worlds, fun q => ?_⟩
  obtain ⟨vs, hq⟩ := h.quad q
  obtain ⟨vs', hq'⟩ := h'.quad q
  exact ⟨vs', by rw [hq', hq]⟩

theorem settled_setCore (d : Dev) (k : Nat) (c : Core) : Settled d (d.setCore k c) := ⟨rfl, rfl, fun _ => ⟨_, rfl⟩⟩

theorem settled_latchQuad (d : Dev) (q : Nat) : Settled d (d.latchQuad q) := by
  obtain ⟨cs, h⟩ := latchQuad_eq d q
  rw [h]
  exact ⟨rfl, rfl, fun _ => ⟨_, rfl⟩⟩

theorem settled_mapSlot (d : Dev) (q i : Nat) (f : Slot → Slot) : Settled d (d.mapSlot q i f) := by
  refine Settled.trans (b := d.setQuad q _) ⟨rfl, rfl, fun r => ?_⟩ (settled_latchQuad _ q)
  by_cases hr : r = q
  · subst hr
    exact ⟨_, quad_setQuad _ _ _⟩
  · exact ⟨_, quad_setQuad_other _ _ hr⟩

theorem settled_landOnBarrier (d : Dev) (bar : Option Nat) (t n : Nat) : Settled d (d.landOnBarrier bar t n) := by
  unfold Dev.landOnBarrier
  split
  · exact Settled.refl d
  · dsimp only
    split
    · exact Settled.refl d
    · exact ⟨rfl, rfl, fun _ => ⟨_, rfl⟩⟩

/-- The end of a node's command is noted for its launch alone. -/
theorem nodeEnded_eq (d : Dev) (node : Option (Nat × Nat)) (fault : Option Nat) :
    ∃ ls es, d.nodeEnded node fault = { d with launches := ls, ended := es } := by
  unfold Dev.nodeEnded
  split
  · exact ⟨_, _, rfl⟩
  · unfold Dev.endNode
    split
    · exact ⟨_, _, rfl⟩
    · split <;> exact ⟨_, _, rfl⟩

theorem settled_nodeEnded (d : Dev) (node : Option (Nat × Nat)) (fault : Option Nat) : Settled d (d.nodeEnded node fault) := by
  obtain ⟨ls, es, h⟩ := nodeEnded_eq d node fault
  rw [h]
  exact ⟨rfl, rfl, fun _ => ⟨_, rfl⟩⟩

/-! ## The rule of `endOp` -/

/-- The engine that an ended operation leaves. -/
def withoutOp (g : Engine) (cmd : Cmd) (t : Nat) (lines : List Nat) (fault : Option Nat) : Engine :=
  { g with running := g.running.filter fun o => o.seq != cmd.seq, ltime := Nat.max g.ltime t, lines := lines ++ cmd.lines ++ g.lines,
           fault := match fault with | some code => some (code, cmd.seq, cmd.issuer.core) | none => g.fault,
           prog := g.prog.map fun p => if cmd.issuer.program ∧ fault.isSome then { p with opsFault := true } else p }

/-- The slot that an ended operation fills sees its end. -/
def slotSeen (d : Dev) (clock q e : Nat) (cmd : Cmd) (t : Nat) (fault : Option Nat) : Dev :=
  match fillsSlot cmd.instr with
  | none => d
  | some s => d.mapSlot q s fun (v : Slot) =>
      if v.state = SlotState.filling ∧ v.seq = cmd.seq ∧ (v.filler.map Prod.fst) = some e then
        { v with state := .full, faulted := fault.isSome, code := fault.getD 0, ltime := t,
                 last := (clock, if fault.isSome then 3 else 2),
                 armed := if cmd.tile.isSome ∧ fault.isSome then none else v.armed }
      else v

/-- Whether GDONE has ended a team (R236). -/
def teamGone (d : Dev) (n : Nat) : Bool := match Tab.get? d.teams n with | some t => t.gone | none => false

/-- An operation's issuer sees its end. -/
def opSeen (d : Dev) (e : Nat) (cmd : Cmd) (t : Nat) (lines : List Nat) (fault : Option Nat) : Dev :=
  match cmd.issuer.core with
  | none => d
  | some k =>
    let c := if d.issuedNow k cmd.issuer then (d.core k).release t lines cmd.charged else d.core k
    if teamGone d cmd.issuer.team then d.setCore k { c with ops := c.ops.filter fun (o : OpRef) => !(o.eng == e && o.seq == cmd.seq) }
    else d.setCore k { c with ops := c.ops.map fun (o : OpRef) =>
      if o.eng = e ∧ o.seq = cmd.seq then { o with done := true, fault := fault } else o }

theorem slotSeen_settled (d : Dev) (clock q e : Nat) (cmd : Cmd) (t : Nat) (fault : Option Nat) :
    Settled d (slotSeen d clock q e cmd t fault) := by
  unfold slotSeen
  split
  · exact Settled.refl d
  · exact settled_mapSlot d _ _ _

theorem opSeen_settled (d : Dev) (e : Nat) (cmd : Cmd) (t : Nat) (lines : List Nat) (fault : Option Nat) :
    Settled d (opSeen d e cmd t lines fault) := by
  unfold opSeen
  split
  · exact Settled.refl d
  · dsimp only
    split <;> exact settled_setCore d _ _

/-- A record that the issuing core still has of the operation is done. -/
theorem opSeen_ops (d : Dev) {e : Nat} {cmd : Cmd} (t : Nat) (lines : List Nat) (fault : Option Nat) {k : Nat} (hk : cmd.issuer.core = some k) :
    ∀ o ∈ ((opSeen d e cmd t lines fault).core k).ops, o.eng = e → o.seq = cmd.seq → o.done = true ∧ o.fault = fault := by
  intro o ho he hs
  simp only [opSeen, hk] at ho
  split at ho
  · rw [core_setCore, List.mem_filter] at ho
    simp [he, hs] at ho
  · rw [core_setCore, List.mem_map] at ho
    obtain ⟨p, -, rfl⟩ := ho
    by_cases hp : p.eng = e ∧ p.seq = cmd.seq
    · simp [hp]
    · rw [if_neg hp] at he hs
      exact absurd ⟨he, hs⟩ hp

theorem endOp_eq (d : Dev) (clock q e : Nat) (cmd : Cmd) (t wrote : Nat) (lines : List Nat) (fault : Option Nat) :
    d.endOp clock q e cmd t wrote lines fault =
      (opSeen ((slotSeen ((({ d with faults := d.faults.filter fun (f : PageFault) => f.party != .engine q e cmd.seq } : Dev).setEngine q e
        (withoutOp (d.engine q e) cmd t lines fault)).latchQuad q) clock q e cmd t fault).landOnBarrier cmd.bar t wrote) e cmd t
        (lines ++ cmd.lines) fault).nodeEnded cmd.issuer.node fault := rfl

theorem settled_faults (d : Dev) (fs : List PageFault) (q e : Nat) (g : Engine) :
    Settled (d.setEngine q e g) (({ d with faults := fs } : Dev).setEngine q e g) := ⟨rfl, rfl, fun _ => ⟨_, rfl⟩⟩

theorem endOp_settled (d : Dev) (clock q e : Nat) (cmd : Cmd) (t wrote : Nat) (lines : List Nat) (fault : Option Nat) :
    Settled (d.setEngine q e (withoutOp (d.engine q e) cmd t lines fault)) (d.endOp clock q e cmd t wrote lines fault) := by
  rw [endOp_eq]
  refine Settled.trans ?_ (settled_nodeEnded _ _ _)
  refine Settled.trans ?_ (opSeen_settled _ _ _ _ _ _)
  refine Settled.trans ?_ (settled_landOnBarrier _ _ _ _)
  refine Settled.trans ?_ (slotSeen_settled _ _ _ _ _ _ _)
  exact (settled_faults d _ q e _).trans (settled_latchQuad _ q)

theorem endOp_ops (d : Dev) (clock q : Nat) {e : Nat} {cmd : Cmd} (t wrote : Nat) (lines : List Nat) (fault : Option Nat) {k : Nat}
    (hk : cmd.issuer.core = some k) : ∀ o ∈ ((d.endOp clock q e cmd t wrote lines fault).core k).ops, o.eng = e → o.seq = cmd.seq →
      o.done = true ∧ o.fault = fault := by
  rw [endOp_eq]
  generalize Dev.landOnBarrier _ _ _ _ = d1
  obtain ⟨ls, es, h⟩ := nodeEnded_eq (opSeen d1 e cmd t (lines ++ cmd.lines) fault) cmd.issuer.node fault
  rw [h]
  exact opSeen_ops d1 t _ fault hk

theorem Settled.engine_eq {d d' : Dev} (h : Settled d d') (q e : Nat) : d'.engine q e = d.engine q e := by
  obtain ⟨vs, hq⟩ := h.quad q
  rw [Dev.engine, hq]
  rfl

/-- An operation has ended where `endOp` has made the engine and the cores what they are. -/
theorem ended_of_endOp {s t : State} {d : Dev} {q e clock time wrote : Nat} {cmd c : Cmd} {lines : List Nat} {fault : Option Nat}
    (hd : d.engine q e = s.dev.engine q e) (hseq : c.seq = cmd.seq) (hiss : c.issuer = cmd.issuer)
    (hg : t.dev.engine q e = (d.endOp clock q e c time wrote lines fault).engine q e)
    (hc : t.dev.cores = (d.endOp clock q e c time wrote lines fault).cores) : Ended s t q e cmd fault := by
  have hengine : t.dev.engine q e = withoutOp (s.dev.engine q e) c time lines fault := by
    rw [hg, (endOp_settled _ _ _ _ _ _ _ _ _).engine_eq, dev_engine_setEngine, hd]
  refine ⟨?_, ?_, fun k hk => ?_⟩
  · rw [hengine, ← hseq]; rfl
  · rw [hengine, ← hseq, ← hiss]; rfl
  · rw [Dev.core, hc, ← hseq]
    exact endOp_ops d clock q time wrote lines fault (hiss ▸ hk)

theorem ended_endOp {s : State} {d : Dev} {q e clock time wrote : Nat} {cmd c : Cmd} {lines : List Nat} {fault : Option Nat}
    (hd : d.engine q e = s.dev.engine q e) (hseq : c.seq = cmd.seq) (hiss : c.issuer = cmd.issuer) :
    Ended s { s with dev := d.endOp clock q e c time wrote lines fault } q e cmd fault := ended_of_endOp hd hseq hiss rfl rfl

end Sys2Proof.Proofs
end

section
/-! PROOFS. Counts that land, and accesses within one line (R67, R68). -/

namespace Sys2Proof.Proofs

open Sys2Proof Sys2Proof.Machine Sys2Proof.Laws

/-! ## Accesses touch no quad -/

theorem quads_event (d : Dev) (now : Now) (kind world die : Nat) (payload : Bytes) : (d.event now kind world die payload).quads = d.quads := by
  obtain ⟨ws, hm, h⟩ := event_eq d now kind world die payload
  rw [h]

theorem quads_foreignDrop (d : Dev) (now : Now) (die world : Nat) (gen : BitVec 16) (router : Nat) :
    (d.foreignDrop now die world gen router).quads = d.quads := quads_event _ _ _ _ _ _

theorem quads_refused (d : Dev) (now : Now) (req : Req) (a : Xlate) : (d.refused now req a).quads = d.quads := by
  cases a with
  | drop die router => exact quads_foreignDrop _ _ _ _ _ _
  | mem | port | regs | miss | deny => rfl

theorem quads_fireStores (d : Dev) (world pa n : Nat) : (d.fireStores world pa n).quads = d.quads := by
  obtain ⟨ts, h⟩ := fireStores_eq d world pa n
  rw [h]

theorem quads_portWrite (d : Dev) (now : Now) (gathers : Bool) (win va : Nat) (bs : Bytes) :
    (d.portWrite now gathers win va bs).quads = d.quads := by
  unfold Dev.portWrite
  split
  · rfl
  · split <;> rfl

theorem quads_ring (d : Dev) (now : Now) (world off v : Nat) : (d.ring now world off v).quads = d.quads := by
  unfold Dev.ring
  split
  · rfl
  · split
    · exact quads_foreignDrop _ _ _ _ _ _
    · split
      · rfl
      · dsimp only
        split
        · rfl
        · split
          · exact quads_event _ _ _ _ _ _
          · rfl

theorem quads_writeRegister (d : Dev) (now : Now) (world off : Nat) (v : Word) : (d.writeRegister now world off v).quads = d.quads := by
  unfold Dev.writeRegister
  split
  · rfl
  · split
    · exact quads_ring d now world off v.toNat
    · split <;> rfl

/-- What loads leave of the device holds the quads. -/
theorem ReadKept.quads_eq {k : Nat} {d d' : Dev} (h : ReadKept k d d') : d'.quads = d.quads := by
  obtain ⟨⟨_, _, _, _, _, _, _, rfl⟩, -⟩ := h; rfl

theorem read_piece (d : Dev) (x : Ctx) (req : Req) (va pa n t : Nat) (write : Bool) :
    ReadKept 0 d ((((d.walked x.seq req.die req.world va).traffic x.seq req.world pa n write).loadPa x.seq none t pa n).1) :=
  ((walked_read 0 d _ _ _ _).trans (traffic_read 0 _ _ _ _ _ _)).trans (loadPa_read 0 _ _ _ _ _ _)

theorem quads_readChunk (r : Run) (x : Ctx) (req : Req) (pinned : Bool) (va n : Nat) : (r.readChunk x req pinned va n).1.d.quads = r.d.quads := by
  unfold Run.readChunk
  split
  · rfl
  · split
    · exact (read_piece r.d x req va _ n r.t false).quads_eq
    · rfl
    · rfl
    · unfold Run.missed; split <;> rfl
    · exact quads_refused _ _ _ _

theorem quads_writeChunk (r : Run) (x : Ctx) (req : Req) (pinned : Bool) (va : Nat) (bs : Bytes) :
    (r.writeChunk x req pinned va bs).d.quads = r.d.quads := by
  unfold Run.writeChunk
  split
  · rfl
  · dsimp only
    split
    · exact (quads_fireStores _ _ _ _).trans ((walked_read 0 r.d _ _ _ _).trans (traffic_read 0 _ _ _ _ _ _)).quads_eq
    · exact quads_portWrite _ _ _ _ _ _
    · exact quads_writeRegister _ _ _ _ _
    · unfold Run.missed; split <;> rfl
    · exact quads_refused _ _ _ _

theorem quads_read (r : Run) (x : Ctx) (req : Req) (pinned : Bool) (va n : Nat) : (r.read x req pinned va n).1.d.quads = r.d.quads :=
  foldl_keeps (fun (p : Run × Bytes) => p.1.d.quads) (fun p a _ => quads_readChunk p.1 x req pinned a.1 a.2) _

theorem quads_write (r : Run) (x : Ctx) (req : Req) (pinned : Bool) (va : Nat) (bs : Bytes) :
    (r.write x req pinned va bs).d.quads = r.d.quads :=
  foldl_keeps (fun (p : Run × Bytes) => p.1.d.quads) (fun p a _ => quads_writeChunk p.1 x req pinned a.1 (p.2.take a.2)) _

/-- The request by which the port of die 0 adds to a record. -/
def portReq (world : Nat) (r : Rec) : Req := { world := world, gen := 0, die := 0, quad := none, write := true, slot := some r.keySlot }

/-- The addition of `v` to the field at offset `o` of the statistics record of a world. -/
def addCount (x : Ctx) (world : Nat) (r : Rec) (s : Run) (o v : Nat) : Run :=
  let p := s.read x (portReq world r) true (r.base + o) 8
  p.1.write x (portReq world r) true (r.base + o) (bytesOfNat 8 (natOfBytes p.2 + v))

/-- The fields of a statistics record that a group of counts adds to, with one group more (Table 3.11). -/
def countFields (n : Counts) : List (Nat × Nat) :=
  [(0, n.nanIn), (0x08, n.overflow), (0x10, n.underflow), (0x18, n.inexact), (0x20, 1)]

/-- The additions of a group of counts. -/
def addCounts (x : Ctx) (world : Nat) (r : Rec) (n : Counts) (s : Run) : Run :=
  (countFields n).foldl (fun s f => addCount x world r s f.1 f.2) s

theorem landCounts_some {d d' : Dev} {x : Ctx} {world : Nat} (n : Counts) {r : Rec}
    (h : d.useKind x.seq 0 world (d.world world).statsTid [5] = (d', some r)) :
    d.landCounts x world n = (addCounts x world r n (Run.of d' 0)).d := by
  unfold Dev.landCounts
  dsimp only
  rw [h]
  rfl

theorem landCounts_none {d d' : Dev} {x : Ctx} {world : Nat} (n : Counts)
    (h : d.useKind x.seq 0 world (d.world world).statsTid [5] = (d', none)) :
    d.landCounts x world n = if (d.world world).statsRefused then d' else (d'.setWorld world { d.world world with statsRefused := true }).event
      x.now 8 0 0 (items [68, world, (d.world world).statsTid]) := by
  unfold Dev.landCounts
  dsimp only
  rw [h]

theorem quads_addCount (x : Ctx) (world : Nat) (r : Rec) (s : Run) (o v : Nat) : (addCount x world r s o v).d.quads = s.d.quads :=
  (quads_write _ _ _ _ _ _).trans (quads_read _ _ _ _ _ _)

theorem quads_landCounts (d : Dev) (x : Ctx) (world : Nat) (n : Counts) : (d.landCounts x world n).quads = d.quads := by
  rcases h : d.useKind x.seq 0 world (d.world world).statsTid [5] with ⟨d', o⟩
  obtain ⟨ds, hd⟩ := useKind_eq h
  have hquads : d'.quads = d.quads := by rw [hd]
  cases o with
  | some r =>
    rw [landCounts_some n h]
    exact (foldl_keeps (fun s : Run => s.d.quads) (fun s f _ => quads_addCount x world r s f.1 f.2) _).trans hquads
  | none =>
    rw [landCounts_none n h]
    split
    · exact hquads
    · exact (quads_event _ _ _ _ _ _).trans hquads

end Sys2Proof.Proofs
end

section
/-! PROOFS. Copy, matrix and pushdown commands end with their effect or with a fault's code (R217, R227, R229, R271). -/

namespace Sys2Proof.Proofs

open Sys2Proof Sys2Proof.Machine Sys2Proof.Laws

/-! ## The ends of commands -/

/-- The device once the counts of an operation that converts have landed. -/
def landed (d : Dev) (x : Ctx) (world : Nat) (counts : Option Counts) : Dev :=
  match counts with | some n => d.landCounts x world n | none => d

theorem quads_landed (d : Dev) (x : Ctx) (world : Nat) (counts : Option Counts) : (landed d x world counts).quads = d.quads := by
  cases counts with
  | none => rfl
  | some n => exact quads_landCounts d x world n

theorem engine_landed (d : Dev) (x : Ctx) (world : Nat) (counts : Option Counts) (q e : Nat) :
    (landed d x world counts).engine q e = d.engine q e := by
  rw [Dev.engine, Dev.quad, quads_landed]
  rfl

/-- What an ended operation of engine `e` leaves of a device whose counts have landed. -/
structure Left (q e : Nat) (d d' : Dev) : Prop where
  mem : d'.mem = d.mem
  worlds : d'.worlds = d.worlds
  accs : (d'.quad q).accs = (d.quad q).accs
  statB : (d'.quad q).statB = (d.quad q).statB
  net : (d'.quad q).net = (d.quad q).net

theorem left_endOp {q e : Nat} (d : Dev) (clock : Nat) (cmd : Cmd) (t wrote : Nat) (lines : List Nat) (fault : Option Nat) :
    Left q e d (d.endOp clock q e cmd t wrote lines fault) := by
  obtain ⟨hmem, hworlds, hquad⟩ := endOp_settled d clock q e cmd t wrote lines fault
  obtain ⟨vs, hq⟩ := hquad q
  rw [Dev.setEngine, quad_setQuad] at hq
  exact ⟨hmem, hworlds, by rw [hq]; rfl, by rw [hq]; rfl, by rw [hq]; rfl⟩

section
variable {s : State} {q : Nat} {cmd c : Cmd} {r : Run}

theorem endMatrix_spec (d₀ : Dev) (counts : Option Counts) (hw : r.waits = false) (hseq : c.seq = cmd.seq) (hiss : c.issuer = cmd.issuer)
    (hg : r.d.engine q 1 = s.dev.engine q 1) :
    Ended s { s with dev := d₀.endMatrix s.ctx q c r counts } q 1 cmd r.err ∧
      Left q 1 (landed r.d s.ctx cmd.issuer.world counts) (d₀.endMatrix s.ctx q c r counts) := by
  have h : d₀.endMatrix s.ctx q c r counts =
      (landed r.d s.ctx c.issuer.world counts).endOp s.ctx.now.clock q 1 c r.t r.wrote r.lines r.err := by
    unfold Dev.endMatrix
    rw [if_neg (by simp [hw])]
    rfl
  rw [h, hiss]
  exact ⟨ended_endOp ((engine_landed _ _ _ _ _ _).trans hg) hseq hiss, left_endOp _ _ _ _ _ _ _⟩

theorem endCopy_spec (d₀ : Dev) (counts : Option Counts) (hw : r.waits = false) (hseq : c.seq = cmd.seq) (hiss : c.issuer = cmd.issuer)
    (hg : r.d.engine q 0 = s.dev.engine q 0) :
    Ended s { s with dev := d₀.endCopy s.ctx q c r counts } q 0 cmd r.err ∧
      (d₀.endCopy s.ctx q c r counts).mem = (landed r.d s.ctx cmd.issuer.world counts).mem := by
  have h : d₀.endCopy s.ctx q c r counts =
      ((landed r.d s.ctx c.issuer.world counts).endOp s.ctx.now.clock q 0 c r.t r.wrote r.lines r.err).releaseFollow q c r.err := by
    unfold Dev.endCopy
    rw [if_neg (by simp [hw])]
    rfl
  rw [h, hiss]
  exact ⟨ended_of_endOp ((engine_landed _ _ _ _ _ _).trans hg) hseq hiss (engine_setEngine_ne _ q _ (by decide)) rfl,
    (left_endOp _ _ _ _ _ _ _).mem⟩

/-! ## Faults that are decided -/

/-- A CPYS whose fault is decided leaves its engine with that code. -/
theorem cpys_faults {seq f : Nat} {a b c : Reg} {tid : BitVec 11} {acc : BitVec 3} (hf : cmd.fault = some f) (hw : cmd.waiting = false)
    (hi : cmd.instr = .cpys a b c tid acc) (hfind : (s.dev.engine q 0).find seq = some cmd) (ht : cmd.tile = none) :
    ∃ t, exec (.copyComplete q seq) s = .next t ∧ t.dev.mem = s.dev.mem ∧ Ended s t q 0 cmd (some f) := by
  have henabled : s.dev.copyEnabled s.ctx.now.clock q cmd = true := by simp [Dev.copyEnabled, hw, hi, ht, fillsSlot]
  have hnone : (if f = 0x0C then cmd.converted else none) = none := by simp [Cmd.converted, hi]
  have hexec : exec (.copyComplete q seq) s = .next { s with
      dev := s.dev.endCopy s.ctx q cmd ((Run.copy s.dev cmd).fail f) (if f = 0x0C then cmd.converted else none) } := by
    rw [show exec (.copyComplete q seq) s = execCopyComplete q seq s from rfl, execCopyComplete, run_next]
    simp only [hfind, henabled, if_true, Dev.copyRun, hf]
  obtain ⟨hend, hmem⟩ := endCopy_spec (s := s) (cmd := cmd) (r := (Run.copy s.dev cmd).fail f) s.dev none rfl rfl rfl rfl
  rw [hnone] at hexec
  exact ⟨_, hexec, hmem, hend⟩

/-- The head of the matrix array's commands runs. -/
theorem matrix_runs {rest : List Cmd} (hr : (s.dev.engine q 1).running = cmd :: rest) (hw : cmd.waiting = false) :
    exec (.matrixCommandComplete q) s = .next { s with dev := s.dev.matrixRun s.ctx q cmd } := by
  rw [show exec (.matrixCommandComplete q) s = execMatrixCommandComplete q s from rfl, execMatrixCommandComplete, run_next]
  simp only [hr, hw, Bool.false_eq_true, if_false]

/-- A matrix command whose fault is decided leaves its engine with that code, and a drain that had converted lands its counts. -/
theorem matrix_faults {f : Nat} {rest : List Cmd} (hf : cmd.fault = some f) (hw : cmd.waiting = false)
    (hr : (s.dev.engine q 1).running = cmd :: rest) : ∃ t, exec (.matrixCommandComplete q) s = .next t ∧ Ended s t q 1 cmd (some f) ∧
      t.dev.mem = (landed s.dev s.ctx cmd.issuer.world (if f = 0x0C then cmd.converted else none)).mem := by
  have hrun : s.dev.matrixRun s.ctx q cmd =
      s.dev.endMatrix s.ctx q cmd ((Run.start s.dev cmd).fail f) (if f = 0x0C then cmd.converted else none) := by
    simp only [Dev.matrixRun, hf]
  obtain ⟨hend, hleft⟩ := endMatrix_spec (s := s) (cmd := cmd) (r := (Run.start s.dev cmd).fail f) s.dev
    (if f = 0x0C then cmd.converted else none) rfl rfl rfl rfl
  exact ⟨_, matrix_runs hr hw, hrun ▸ hend, hrun ▸ hleft.mem⟩

end

end Sys2Proof.Proofs
end

section
/-! PROOFS. What the matrix array's commands leave in their quad, and ACLEAR (R60, R229, R271). -/

namespace Sys2Proof.Proofs

open Sys2Proof Sys2Proof.Machine Sys2Proof.Laws

/-! ## Lists by blocks -/

/-- A list over `n * m` numbers, block by block. -/
theorem map_range_blocks {β : Type} (g : Nat → β) (m n : Nat) :
    (List.range (n * m)).map g = (List.range n).flatMap fun i => (List.range m).map fun j => g (m * i + j) := by
  induction n with
  | zero => simp
  | succ n ih =>
    rw [Nat.succ_mul, List.range_add, List.map_append, ih, List.range_succ, List.flatMap_append, List.map_map]
    simp [Function.comp_def, Nat.mul_comm]

theorem zipIdx_map_range {α : Type} (f : Nat → α) (n : Nat) : ((List.range n).map f).zipIdx = (List.range n).map fun i => (f i, i) := by
  refine List.ext_getElem (by simp) fun i h h' => ?_
  simp

theorem get_ofListFrom {w : Nat} (xs : List (BitVec w)) (k j : Nat) :
    SMap.get (SMap.ofListFrom k xs) j = if j < k then 0 else xs.getD (j - k) 0 := by
  induction xs generalizing k j with
  | nil => simp [SMap.ofListFrom, SMap.get]
  | cons x xs ih =>
    have hnone : SMap.get (SMap.ofListFrom (k + 1) xs) k = 0 := by simp [ih]
    rw [SMap.ofListFrom, get_cons _ _ _ _ hnone, ih]
    rcases Nat.lt_trichotomy j k with h | h | h
    · rw [if_neg (by omega), if_pos (by omega), if_pos h]
    · subst h
      simp
    · rw [if_neg (by omega), if_neg (by omega), if_neg (by omega), show j - k = (j - (k + 1)) + 1 by omega, List.getD_cons_succ]

theorem get_ofList {w : Nat} (xs : List (BitVec w)) (j : Nat) : SMap.get (SMap.ofList xs) j = xs.getD j 0 := by
  rw [SMap.ofList, get_ofListFrom]
  simp

/-! ## Accumulation (R60) -/

/-- The element that MMA and MMAZ make of an element `c`, a row `i` of A and a column `j` of B. -/
def mmaElem (fa fb kt : Nat) (A B : Bytes) (c i j : Nat) : Lane :=
  BitVec.ofNat 32 (dotBlocks c (vectorBlocks fa kt (sliceB A (64 * i) 64) (sliceB A (0x2000 + 16 * i) 16))
    (vectorBlocks fb kt (sliceB B (256 * j) 64) (sliceB B (256 * j + 64) 16)))

theorem mma_elems (a : Acc) (zero : Bool) (fa kt : Nat) (A : Bytes) (b : Stationary) : (a.mma zero fa kt A b).elems =
    SMap.ofList ((List.range 128).flatMap fun i => (List.range 64).map fun j =>
      mmaElem fa b.format kt A (SMap.getRun b.bytes 0 16384) (if zero then 0 else (SMap.get a.elems (64 * i + j)).toNat) i j) := by
  unfold Acc.mma aRows bCols mmaElem
  simp only [zipIdx_map_range, List.flatMap_map, List.map_map, Function.comp_def]

theorem get_mma (a : Acc) (zero : Bool) (fa kt : Nat) (A : Bytes) (b : Stationary) {i j : Nat} (hi : i < 128) (hj : j < 64) :
    SMap.get (a.mma zero fa kt A b).elems (64 * i + j) =
      mmaElem fa b.format kt A (SMap.getRun b.bytes 0 16384) (if zero then 0 else (SMap.get a.elems (64 * i + j)).toNat) i j := by
  rw [mma_elems]
  generalize SMap.getRun b.bytes 0 16384 = B
  have hblocks := map_range_blocks (fun n => mmaElem fa b.format kt A B
    (if zero then 0 else (SMap.get a.elems (64 * (n / 64) + n % 64)).toNat) (n / 64) (n % 64)) 64 128
  have hplace : ∀ i, ∀ j ∈ List.range 64, (64 * i + j) / 64 = i ∧ (64 * i + j) % 64 = j := fun i j hj => by
    have := List.mem_range.1 hj
    omega
  rw [List.flatMap_congr (g := fun i => (List.range 64).map fun j =>
    mmaElem fa b.format kt A B (if zero then 0 else (SMap.get a.elems (64 * i + j)).toNat) i j) fun i _ =>
      List.map_congr_left fun j hj => by rw [(hplace i j hj).1, (hplace i j hj).2]] at hblocks
  rw [get_ofList, ← hblocks, List.getD_eq_getElem _ _ (by simp; omega), List.getElem_map, List.getElem_range,
    (hplace i j (List.mem_range.2 hj)).1, (hplace i j (List.mem_range.2 hj)).2]

theorem counters_count (d : Dev) (w i n j : Nat) : SMap.get ((d.count w i n).world w).counters j =
    SMap.get (d.world w).counters j + if j = i then BitVec.ofNat 48 n else 0 := by
  unfold Dev.count
  by_cases hn : n = 0
  · simp [hn]
  · simp only [hn, if_false, world_setWorld, get_set]
    split
    · next h => rw [h]
    · simp

/-! ## The commands of the matrix array -/

section
variable {s : State} {q : Nat} {cmd : Cmd} {rest : List Cmd}

/-- A command of the matrix array that ends without a fault, with no counts to land, on the device `d`. -/
theorem matrix_ends (hr : (s.dev.engine q 1).running = cmd :: rest) (hw : cmd.waiting = false) {d₀ d : Dev} {c : Cmd} {r : Run}
    (hrun : s.dev.matrixRun s.ctx q cmd = d₀.endMatrix s.ctx q c r none) (hd : r.d = d) (herr : r.err = none) (hmiss : r.misses = [])
    (hseq : c.seq = cmd.seq) (hiss : c.issuer = cmd.issuer) (hg : d.engine q 1 = s.dev.engine q 1) :
    ∃ t, (exec (.matrixCommandComplete q) s = .next t ∧ Ended s t q 1 cmd none) ∧ Left q 1 d t.dev := by
  subst hd
  have hwaits : r.waits = false := by simp [Run.waits, hmiss]
  obtain ⟨hend, hleft⟩ := endMatrix_spec (s := s) d₀ none hwaits hseq hiss hg
  exact ⟨_, ⟨matrix_runs hr hw, by rw [hrun, ← herr]; exact hend⟩, by rw [hrun]; exact hleft⟩

theorem readSlot_start (d : Dev) (c : Cmd) (i o n : Nat) : (Run.start d c).readSlot q i o n =
    ({ Run.start d c with t := Nat.max c.ltime ((d.quad q).slot i).ltime }, d.slotBytes q i o n) := rfl

theorem engine_setQuad (d : Dev) {x : Quad} (e : Nat) (h : x.engines = (d.quad q).engines) : (d.setQuad q x).engine q e = d.engine q e := by
  rw [Dev.engine, quad_setQuad, Quad.engine, h]
  rfl

theorem Left.acc_eq {e : Nat} {d d' : Dev} (h : Left q e d d') (n : Nat) : (d'.quad q).acc n = (d.quad q).acc n := by
  rw [Quad.acc, h.accs]; rfl

theorem Left.world_eq {e : Nat} {d d' : Dev} (h : Left q e d d') (w : Nat) : d'.world w = d.world w := by
  rw [Dev.world, h.worlds]; rfl

theorem acc_setAcc (x : Quad) (n m : Nat) (a : Acc) : (x.setAcc n a).acc m = if m = n then a else x.acc m := by
  by_cases h : m = n
  · subst h
    rw [if_pos rfl]
    exact tab_getD_put _ _ _ _
  · rw [if_neg h]
    exact tab_getD_put_other _ _ _ h

theorem mzero_clears {acc : Reg} (hr : (s.dev.engine q 1).running = cmd :: rest) (hf : cmd.fault = none) (hw : cmd.waiting = false)
    (hi : cmd.instr = .mzero acc) : ∃ t, (exec (.matrixCommandComplete q) s = .next t ∧ Ended s t q 1 cmd none) ∧
      (t.dev.mem = s.dev.mem ∧ (t.dev.world cmd.issuer.world).counters = (s.dev.world cmd.issuer.world).counters) ∧
      (t.dev.quad q).acc acc.toNat = Acc.zero ∧ ∀ n, n ≠ acc.toNat → (t.dev.quad q).acc n = (s.dev.quad q).acc n := by
  have hrun : s.dev.matrixRun s.ctx q cmd = s.dev.endMatrix s.ctx q cmd
      (Run.start (s.dev.setQuad q ((s.dev.quad q).setAcc acc.toNat Acc.zero)) cmd) none := by
    simp only [Dev.matrixRun, hf, hi]
  obtain ⟨t, hdone, hleft⟩ := matrix_ends (d := s.dev.setQuad q ((s.dev.quad q).setAcc acc.toNat Acc.zero)) hr hw hrun rfl rfl rfl rfl rfl
    (engine_setQuad _ 1 rfl)
  have hacc : ∀ n, (t.dev.quad q).acc n = if n = acc.toNat then Acc.zero else (s.dev.quad q).acc n := fun n => by
    rw [hleft.acc_eq, quad_setQuad, acc_setAcc]
  exact ⟨t, hdone, ⟨hleft.mem, by rw [hleft.world_eq]; rfl⟩, by rw [hacc, if_pos rfl], fun n hn => by rw [hacc, if_neg hn]⟩

/-- The use of a record by a command touches the dies' caches alone. -/
theorem cmdRecord_eq {d d' : Dev} {x : Ctx} {tid : Nat} {r : Option Rec} (h : d.cmdRecord x q cmd tid = (d', r)) :
    ∃ ds, d' = { d with dies := ds } := by
  unfold Dev.cmdRecord at h
  split at h
  · exact ⟨d.dies, (Prod.mk.inj h).1.symm⟩
  · obtain ⟨ds, hd⟩ := useRecord_eq d x.seq (dieOfQuad q) cmd.issuer.world tid
    exact ⟨ds, by rw [← hd, h]⟩

theorem mldb_loads {bs : Reg} {tid : BitVec 11} {d : Dev} {r : Rec} (hr : (s.dev.engine q 1).running = cmd :: rest) (hf : cmd.fault = none)
    (hw : cmd.waiting = false) (hi : cmd.instr = .mldb bs tid) (hrec : s.dev.cmdRecord s.ctx q cmd tid.toNat = (d, some r))
    (hfmt : r.format = 1 ∨ r.format = 3 ∨ r.format = 4 ∨ r.format = 5) :
    ∃ t, (exec (.matrixCommandComplete q) s = .next t ∧ Ended s t q 1 cmd none) ∧
      (t.dev.mem = s.dev.mem ∧ (t.dev.world cmd.issuer.world).counters = (s.dev.world cmd.issuer.world).counters) ∧
      (t.dev.quad q).statB = some { format := r.format, bytes := SMap.ofList (s.dev.slotBytes q bs.toNat 0 16384) } := by
  have hpair : (pairing r.format).isNone = false := by rcases hfmt with h | h | h | h <;> rw [h] <;> rfl
  obtain ⟨ds, rfl⟩ := cmdRecord_eq hrec
  set d : Dev := { s.dev with dies := ds }
  have hrun : s.dev.matrixRun s.ctx q cmd = d.endMatrix s.ctx q { cmd with record := some r }
      { Run.start d { cmd with record := some r } with
        t := Nat.max cmd.ltime ((d.quad q).slot bs.toNat).ltime,
        d := d.setQuad q { d.quad q with statB := some { format := r.format, bytes := SMap.ofList (d.slotBytes q bs.toNat 0 16384) } } }
      none := by
    simp only [Dev.matrixRun, hf, hi, hrec, hpair, Bool.false_eq_true, if_false, readSlot_start]
    rfl
  obtain ⟨t, hdone, hleft⟩ := matrix_ends hr hw hrun rfl rfl rfl rfl rfl (engine_setQuad _ 1 rfl)
  refine ⟨t, hdone, ⟨hleft.mem, by rw [hleft.world_eq]; rfl⟩, ?_⟩
  rw [hleft.statB, quad_setQuad]
  rfl

theorem mma_accumulates {acc bs : Reg} {tid : BitVec 11} {zero : Bool} {d : Dev} {r : Rec} {b : Stationary} {kt : Nat}
    (hr : (s.dev.engine q 1).running = cmd :: rest) (hf : cmd.fault = none) (hw : cmd.waiting = false)
    (hi : cmd.instr = (if zero then .mmaz acc bs tid else .mma acc bs tid)) (hrec : s.dev.cmdRecord s.ctx q cmd tid.toNat = (d, some r))
    (hb : (s.dev.quad q).statB = some b) (hk : tileK r.format = some kt) (hpair : paired r.format b.format = true) :
    ∃ t, (exec (.matrixCommandComplete q) s = .next t ∧ Ended s t q 1 cmd none) ∧ t.dev.mem = s.dev.mem ∧
      (∀ i, SMap.get (t.dev.world cmd.issuer.world).counters i = SMap.get (s.dev.world cmd.issuer.world).counters i +
        if i = macCounter r.format then BitVec.ofNat 48 (128 * 64 * kt) else 0) ∧
      (t.dev.quad q).statB = some b ∧ ∀ n, (t.dev.quad q).acc n = if n = acc.toNat then
        ((s.dev.quad q).acc acc.toNat).mma zero r.format kt (s.dev.slotBytes q bs.toNat 0 16384) b else (s.dev.quad q).acc n := by
  obtain ⟨ds, rfl⟩ := cmdRecord_eq hrec
  set d : Dev := { s.dev with dies := ds }
  set d1 : Dev := d.setQuad q ((d.quad q).setAcc acc.toNat (((d.quad q).acc acc.toNat).mma zero r.format kt (d.slotBytes q bs.toNat 0 16384) b))
  have hb' : (d.quad q).statB = some b := hb
  have hrun : s.dev.matrixRun s.ctx q cmd = d.endMatrix s.ctx q { cmd with record := some r }
      { Run.start d { cmd with record := some r } with
        t := Nat.max cmd.ltime ((d.quad q).slot bs.toNat).ltime,
        d := d1.count cmd.issuer.world (macCounter r.format) (128 * 64 * kt) } none := by
    have hmma : s.dev.matrixRun s.ctx q cmd = d.matrixMma s.ctx q acc.toNat bs.toNat zero { cmd with record := some r } r := by
      cases zero <;> simp only [Dev.matrixRun, hf, hi, hrec, Bool.false_eq_true, if_false, if_true]
    rw [hmma, Dev.matrixMma]
    simp only [hb', hk, hpair, Bool.not_true, Bool.false_eq_true, if_false, readSlot_start]
    rfl
  have hg : (d1.count cmd.issuer.world (macCounter r.format) (128 * 64 * kt)).engine q 1 = s.dev.engine q 1 := by
    rw [Dev.engine, quad_count]
    exact engine_setQuad d 1 rfl
  obtain ⟨t, hdone, hleft⟩ := matrix_ends hr hw hrun rfl rfl rfl rfl rfl hg
  refine ⟨t, hdone, ?_, fun i => ?_, ?_, fun n => ?_⟩
  · rw [hleft.mem, mem_count]; rfl
  · rw [hleft.world_eq, counters_count]; rfl
  · rw [hleft.statB, quad_count, quad_setQuad]; exact hb
  · rw [hleft.acc_eq, quad_count, quad_setQuad, acc_setAcc]; rfl

/-! ## ACLEAR (R271) -/

theorem concludePush_aclear (d₀ d : Dev) (x : Ctx) {unload : BitVec 1} (hi : cmd.instr = .aclear unload) :
    d₀.concludePush x q cmd (Run.start d cmd) = d.endOp x.now.clock q 2 cmd cmd.ltime 0 [] none := by
  have hwaits : (Run.start d cmd).waits = false := rfl
  unfold Dev.concludePush
  rw [if_neg (by simp [hwaits])]
  unfold Dev.endPush
  simp only [hi]
  rfl

theorem aclear_clears {n : Network} (hr : (s.dev.engine q 2).running = cmd :: rest) (hw : cmd.waiting = false) (hf : cmd.fault = none)
    (hi : cmd.instr = .aclear 0) (hn : (s.dev.quad q).net = some n) : ∃ t, exec (.pushdownCommandDone q) s = .next t ∧
      Ended s t q 2 cmd none ∧ t.dev.mem = s.dev.mem ∧ (t.dev.quad q).net = some n.clear := by
  have hexec : exec (.pushdownCommandDone q) s = .next { s with
      dev := (s.dev.setNet q n.clear).endOp s.ctx.now.clock q 2 cmd cmd.ltime 0 [] none } := by
    rw [show exec (.pushdownCommandDone q) s = execPushdownCommandDone q s from rfl, execPushdownCommandDone, run_next]
    have herr : (Run.start s.dev cmd).err.isSome = false := rfl
    have hload : ((0 : BitVec 1) = 1) = False := by decide
    simp only [hr, hw, Bool.false_eq_true, if_false, Dev.pushRun, hf, hn, hi, herr, hload, concludePush_aclear _ _ _ hi]
  have hleft := left_endOp (q := q) (e := 2) (s.dev.setNet q n.clear) s.ctx.now.clock cmd cmd.ltime 0 [] none
  have hg : (s.dev.setNet q n.clear).engine q 2 = s.dev.engine q 2 := engine_setQuad s.dev 2 rfl
  refine ⟨_, hexec, ended_endOp hg rfl rfl, hleft.mem, ?_⟩
  rw [hleft.net, Dev.setNet, quad_setQuad]

end

end Sys2Proof.Proofs
end

section
/-! PROOFS. Accesses of an operation that lie in one line, and a copy of one line's bytes (R177, R225). -/

namespace Sys2Proof.Proofs

open Sys2Proof Sys2Proof.Machine Sys2Proof.Laws

/-! ## Devices that translate alike -/

/-- Two devices that hold the same stale translations and translate every request alike. -/
structure Alike (d d' : Dev) : Prop where
  stale : d'.stale = d.stale
  translate : ∀ seq req va, d'.translate seq req va = d.translate seq req va

theorem Alike.refl (d : Dev) : Alike d d := ⟨rfl, fun _ _ _ => rfl⟩
theorem Alike.trans {a b c : Dev} (h : Alike a b) (h' : Alike b c) : Alike a c :=
  ⟨h'.stale.trans h.stale, fun seq req va => (h'.translate seq req va).trans (h.translate seq req va)⟩

/-- Translation reads none of the caches, lines, counters and triggers, and no byte. -/
theorem alike_caches (d : Dev) (ds : Tab Die) (l2 : Tab (List Nat)) (ln : Tab (Nat × Nat)) (ts : Tab Trigger) (m : List Host.Cell)
    (tk : List Tokens) :
    Alike d { d with dies := ds, l2 := l2, lines := ln, triggers := ts, mem := m, tokens := tk } := ⟨rfl, fun _ _ _ => rfl⟩

/-- Counting changes of a world its counters alone. -/
theorem world_count (d : Dev) (w i n v : Nat) : ∃ cs, (d.count w i n).world v = { d.world v with counters := cs } := by
  unfold Dev.count
  split
  · exact ⟨_, rfl⟩
  · by_cases h : v = w
    · subst h
      exact ⟨_, world_setWorld _ _ _⟩
    · exact ⟨_, world_setWorld_other _ _ h⟩

theorem alike_count (d : Dev) (w i n : Nat) : Alike d (d.count w i n) := by
  have hworld := world_count d w i n
  obtain ⟨ws, h⟩ := count_eq d w i n
  rw [h] at hworld ⊢
  set d' : Dev := { d with worlds := ws }
  have hleaf : ∀ seq die world va, d'.leafFor seq die world va = d.leafFor seq die world va := fun seq die world va => by
    obtain ⟨cs, hw⟩ := hworld world
    rw [Dev.leafFor, Dev.leavesFor, hw]
    rfl
  have haperture : ∀ req va, d'.aperture req va = d.aperture req va := fun req va => by
    obtain ⟨cs, hw⟩ := hworld req.world
    rw [Dev.aperture, hw]
    rfl
  have huse : ∀ req va level e, d'.useLeaf req va level e = d.useLeaf req va level e := fun req va level e => by
    obtain ⟨cs, hw⟩ := hworld req.world
    rw [Dev.useLeaf, Dev.execAt, Dev.paOk, hw]
    rfl
  refine ⟨rfl, fun seq req va => ?_⟩
  rw [Dev.translate, hleaf, haperture]
  simp only [huse]
  rfl

theorem alike_traffic (d : Dev) (seq world pa n : Nat) (write : Bool) : Alike d (d.traffic seq world pa n write) := by
  unfold Dev.traffic
  dsimp only
  split
  · exact Alike.refl d
  · refine (alike_count d world (if write then 7 else 6) n).trans ?_
    generalize d.count world (if write then 7 else 6) n = d1
    split
    · split
      · exact (alike_count d1 _ _ _).trans (alike_count _ _ _ _)
      · exact (alike_count d1 _ _ _).trans (alike_count _ _ _ _)
    · split
      · exact alike_count d1 _ _ _
      · exact (alike_caches d1 d1.dies _ d1.lines d1.triggers d1.mem d1.tokens).trans (alike_count _ _ _ _)

theorem mem_traffic (d : Dev) (seq world pa n : Nat) (write : Bool) : (d.traffic seq world pa n write).mem = d.mem :=
  (traffic_read 0 d seq world pa n write).mem_eq

theorem tokens_traffic (d : Dev) (seq world pa n : Nat) (write : Bool) : (d.traffic seq world pa n write).tokens = d.tokens := by
  obtain ⟨⟨_, _, _, _, _, _, _, h⟩, -⟩ := traffic_read 0 d seq world pa n write
  rw [h]

theorem walked_fresh (d : Dev) (seq die world va : Nat) (h : d.stale = []) : d.walked seq die world va = d := by
  simp [Dev.walked, h]

theorem alike_loadPa (d : Dev) (seq t pa n : Nat) : Alike d (d.loadPa seq none t pa n).1 := ⟨rfl, fun _ _ _ => rfl⟩

/-! ## Accesses in one line -/

theorem chunks_line {va n fuel : Nat} (hn : n ≠ 0) (h : va % 128 + n ≤ 128) : chunks (fuel + 2) va n = [(va, n)] := by
  have hmin : Nat.min n (128 - va % 128) = n := Nat.min_eq_left (by omega)
  rw [chunks, if_neg hn]
  simp only [hmin]
  rw [chunks, if_pos (Nat.sub_self n)]

theorem read_line {r : Run} {x : Ctx} {req : Req} {pinned : Bool} {va n pa : Nat} (herr : r.err = none) (hstale : r.d.stale = [])
    (htr : r.d.translate x.seq req va = .mem pa) (hn : n ≠ 0) (hline : va % 128 + n ≤ 128) :
    ∃ d t, r.read x req pinned va n = ({ r with d := d, t := t, got := r.got + n }, r.d.bytesAt pa n) ∧
      d.mem = r.d.mem ∧ d.tokens = r.d.tokens ∧ Alike r.d d := by
  set d1 := r.d.traffic x.seq req.world pa n false
  set p := d1.loadPa x.seq none r.t pa n
  have hchunk : r.readChunk x req pinned va n = ({ r with d := p.1, t := p.2.1, got := r.got + n }, d1.bytesAt pa n) := by
    unfold Run.readChunk
    rw [if_neg (by simp [herr])]
    simp only [htr, walked_fresh _ _ _ _ _ hstale]
    rfl
  have hread : r.read x req pinned va n = ((r.readChunk x req pinned va n).1, [] ++ (r.readChunk x req pinned va n).2) := by
    rw [Run.read, chunksOf, chunks_line hn hline]
    rfl
  have hmem : d1.mem = r.d.mem := mem_traffic _ _ _ _ _ _
  refine ⟨p.1, p.2.1, ?_, (loadPa_mem _ _ _ _ _ _).trans hmem, tokens_traffic _ _ _ _ _ _,
    (alike_traffic r.d x.seq req.world pa n false).trans (alike_loadPa d1 x.seq r.t pa n)⟩
  rw [hread, hchunk, List.nil_append, Dev.bytesAt, hmem]
  rfl

theorem write_line {r : Run} {x : Ctx} {req : Req} {pinned : Bool} {va pa : Nat} {bs : Bytes} (herr : r.err = none) (hstale : r.d.stale = [])
    (htr : r.d.translate x.seq req va = .mem pa) (hn : bs.length ≠ 0) (hline : va % 128 + bs.length ≤ 128) :
    ∃ d t ls, r.write x req pinned va bs = { r with d := d, t := t, wrote := r.wrote + bs.length, put := r.put + bs.length, lines := ls } ∧
      d.mem = SMap.setRun r.d.mem pa bs ∧ d.tokens = r.d.tokens ∧ Alike r.d d := by
  set d1 := (r.d.traffic x.seq req.world pa bs.length true)
  obtain ⟨ts, hts⟩ := fireStores_eq (d1.storePa r.t pa bs).1 req.world pa bs.length
  have hchunk : r.writeChunk x req pinned va bs =
      { r with d := (d1.storePa r.t pa bs).1.fireStores req.world pa bs.length, t := (d1.storePa r.t pa bs).2,
               wrote := r.wrote + bs.length, put := r.put + bs.length, lines := noteLine r.lines pa } := by
    unfold Run.writeChunk
    rw [if_neg (by simp [herr])]
    simp only [htr, walked_fresh _ _ _ _ _ hstale]
    rfl
  have hwrite : r.write x req pinned va bs = r.writeChunk x req pinned va bs := by
    rw [Run.write, chunksOf, chunks_line hn hline]
    simp only [List.foldl_cons, List.foldl_nil, List.take_length]
  refine ⟨_, _, _, hwrite.trans hchunk, ?_, ?_, ?_⟩
  · rw [hts]
    exact congrArg (SMap.setRun · pa bs) (mem_traffic _ _ _ _ _ _)
  · rw [hts]
    exact tokens_traffic _ _ _ _ _ _
  · rw [hts]
    exact (alike_traffic r.d x.seq req.world pa bs.length true).trans (alike_caches _ d1.dies d1.l2 _ ts _ d1.tokens)

theorem length_bytesAt (d : Dev) (pa n : Nat) : (d.bytesAt pa n).length = n := by simp [Dev.bytesAt, SMap.getRun]

theorem sliceB_all (bs : Bytes) : sliceB bs 0 bs.length = bs := by simp [sliceB]

end Sys2Proof.Proofs
end

section
/-! PROOFS. A copy of one line's bytes (R225). -/

namespace Sys2Proof.Proofs

open Sys2Proof Sys2Proof.Machine Sys2Proof.Laws

/-- The fields of a byte copy's flags when all are zero (Table 15.7). -/
theorem cpyFlags_zero : cpySrc 0#13 = 0 ∧ cpyDst 0#13 = 0 ∧ cpyForm 0#13 = 0 ∧ cpyConv 0#13 = false := ⟨rfl, rfl, rfl, rfl⟩

section
variable {s : State} {q seq : Nat} {cmd : Cmd} {a b c bs : Reg} {tid : BitVec 11} {d : Dev} {r : Rec} {from_ to_ : Nat}

/-- One piece of a byte copy whose bytes lie in one line on both sides: it is read, written and has landed. -/
theorem copyPieces_line {run : Run} {x : Ctx} {slot : Nat} (herr : run.err = none) (hmiss : run.misses = []) (hlanded : cmd.landed = [])
    (hn : cmd.c.toNat ≠ 0) (hb : cmd.b.toNat % 128 + cmd.c.toNat ≤ 128) (ha : cmd.a.toNat % 128 + cmd.c.toNat ≤ 128)
    (hstale : run.d.stale = []) (hfrom : run.d.translate x.seq (plainReq cmd.issuer q false) cmd.b.toNat = .mem from_)
    (hto : run.d.translate x.seq (r.req cmd.issuer q true) cmd.a.toNat = .mem to_) :
    ∃ run' n, run.copyPieces x q slot cmd 0#13 r cmd.c.toNat (Run.source x (plainReq cmd.issuer q false) false cmd.b.toNat) = (run', n) ∧
      run'.err = none ∧ run'.misses = [] ∧ run'.d.mem = SMap.setRun run.d.mem to_ (run.d.bytesAt from_ cmd.c.toNat) ∧
      run'.d.quads = run.d.quads := by
  obtain ⟨d1, t1, hread, hmem1, -, halike1⟩ := read_line (pinned := false) herr hstale hfrom hn hb
  have hlen := length_bytesAt run.d from_ cmd.c.toNat
  set data := run.d.bytesAt from_ cmd.c.toNat
  set run1 : Run := { run with d := d1, t := t1, got := run.got + cmd.c.toNat }
  obtain ⟨d2, t2, ls, hwrite, hmem2, -, -⟩ := write_line (r := run1) (x := x) (pinned := r.pinned) (bs := data) herr
    (halike1.stale.trans hstale) ((halike1.translate _ _ _).trans hto) (by omega) (by omega)
  have hslice : sliceB data 0 cmd.c.toNat = data := by rw [← hlen]; exact sliceB_all data
  have hchunks : chunksOf cmd.a.toNat cmd.c.toNat = [(cmd.a.toNat, cmd.c.toNat)] := chunks_line hn ha
  have hwent : run.went run1 = true := by simp [Run.went, run1, herr, hmiss]
  have hwent2 : run.went (run1.write x (r.req cmd.issuer q true) r.pinned cmd.a.toNat data) = true := by
    rw [hwrite]; simp [Run.went, run1, herr, hmiss]
  have hsource : Run.source x (plainReq cmd.issuer q false) false cmd.b.toNat run 0 cmd.c.toNat = (run1, some data) := by
    rw [Run.source, Nat.add_zero, hread, if_pos hwent]
  set run2 := run1.write x (r.req cmd.issuer q true) r.pinned cmd.a.toNat data
  have hpieces : run.copyPieces x q slot cmd 0#13 r cmd.c.toNat (Run.source x (plainReq cmd.issuer q false) false cmd.b.toNat) =
      ({ run2 with landed := 0 :: run2.landed }, cmd.counts.plus Counts.zero) := by
    unfold Run.copyPieces
    simp only [cpyFlags_zero, Bool.false_eq_true, if_false, Nat.zero_ne_one, hchunks,
      List.foldl_cons, List.foldl_nil, Nat.sub_self, herr, hlanded, Option.isSome_none, Bool.false_or, List.contains_nil,
      Nat.zero_add, ceilDiv, Nat.add_sub_cancel, Nat.div_one, Nat.sub_zero, Nat.mul_one, hsource, hslice, copyReq, if_true]
    rw [if_pos hwent2]
  have hquads : run2.d.quads = run.d.quads := (quads_write _ _ _ _ _ _).trans
    ((congrArg (fun p : Run × Bytes => p.1.d.quads) hread).symm.trans (quads_read _ _ _ _ _ _))
  exact ⟨_, _, hpieces, by rw [hwrite]; exact herr, by rw [hwrite]; exact hmiss, by rw [hwrite, ← hmem1]; exact hmem2, hquads⟩

/-- A copy of bytes that lie in one line on both sides moves them. -/
theorem copy_line (hi : cmd.instr = .cpy a b c bs tid 0#13) (hf : cmd.fault = none) (hw : cmd.waiting = false) (ht : cmd.tile = none)
    (hlanded : cmd.landed = []) (hfind : (s.dev.engine q 0).find seq = some cmd) (hn : cmd.c.toNat ≠ 0)
    (hb : cmd.b.toNat % 128 + cmd.c.toNat ≤ 128) (ha : cmd.a.toNat % 128 + cmd.c.toNat ≤ 128) (hstale : s.dev.stale = [])
    (hrec : s.dev.cmdRecord s.ctx q cmd tid.toNat = (d, some r)) (hro : r.readOnly = false)
    (hfrom : s.dev.translate s.seq (plainReq cmd.issuer q false) cmd.b.toNat = .mem from_)
    (hto : s.dev.translate s.seq (r.req cmd.issuer q true) cmd.a.toNat = .mem to_) :
    ∃ t, exec (.copyComplete q seq) s = .next t ∧ Ended s t q 0 cmd none ∧
      t.dev.mem = SMap.setRun s.dev.mem to_ (s.dev.bytesAt from_ cmd.c.toNat) := by
  obtain ⟨ds, rfl⟩ := cmdRecord_eq hrec
  set d : Dev := { s.dev with dies := ds }
  let cmd' : Cmd := { cmd with record := some r }
  obtain ⟨run', n, hpieces, herr, hmiss, hmem, hquads⟩ := copyPieces_line (cmd := cmd') (q := q) (r := r) (from_ := from_) (to_ := to_)
    (run := Run.copy d cmd') (x := s.ctx) (slot := bs.toNat) rfl rfl hlanded hn hb ha hstale hfrom hto
  have hcheck : d.copyCheck cmd' 0#13 tid.toNat r = none := by
    simp [Dev.copyCheck, Dev.copyTidOk, hro, cpyFlags_zero]
  have henabled : s.dev.copyEnabled s.ctx.now.clock q cmd = true := by
    simp [Dev.copyEnabled, hw, hi, ht, fillsSlot, cpyFlags_zero]
  have hbytes : s.dev.copyBytes s.ctx q bs.toNat tid.toNat cmd 0#13 = d.endCopy s.ctx q cmd' run' none := by
    unfold Dev.copyBytes
    simp only [hrec, if_neg hn, cpyFlags_zero]
    rw [show d.copyCheck _ 0#13 tid.toNat r = none from hcheck]
    simp only [show (0 : Nat) ≠ 2 by decide, Nat.zero_ne_one, if_false, bne_self_eq_false, Bool.and_false, copyReq, Bool.false_eq_true]
    rw [show (Run.copy d _).copyPieces _ _ _ _ _ _ _ _ = (run', n) from hpieces]
  have hexec : exec (.copyComplete q seq) s = .next { s with dev := d.endCopy s.ctx q cmd' run' none } := by
    rw [show exec (.copyComplete q seq) s = execCopyComplete q seq s from rfl, execCopyComplete, run_next]
    simp only [hfind, henabled, if_true, Dev.copyRun, hf, hi, cpyFlags_zero, hbytes]
  obtain ⟨hend, hmem'⟩ := endCopy_spec (s := s) (cmd := cmd) (c := cmd') (r := run') d none (by simp [Run.waits, hmiss]) rfl rfl
    (q := q) (by rw [Dev.engine, Dev.quad, hquads]; rfl)
  exact ⟨_, hexec, herr ▸ hend, hmem'.trans hmem⟩

end

end Sys2Proof.Proofs
end

section
/-! PROOFS. MDRAIN to a slot: its bytes land in the vault, and its counts at the port (R61, R67, R219). -/

namespace Sys2Proof.Proofs

open Sys2Proof Sys2Proof.Machine Sys2Proof.Laws

/-! ## Bytes of a slot (R219) -/

theorem slotPa_lt (d : Dev) (q i : Nat) {o o' : Nat} (h : o' < o) : d.slotPa q i o' < d.slotPa q i o := by
  unfold Dev.slotPa vaultPa
  omega

theorem slotPa_line (d : Dev) (q i : Nat) {o j : Nat} (ho : o % 128 = 0) (hj : j < 128) : d.slotPa q i (o + j) = d.slotPa q i o + j := by
  unfold Dev.slotPa vaultPa
  omega

/-- One line of a write into a slot. -/
def slotStep (world q i : Nat) (p : Run × Bytes) (c : Nat × Nat) : Run × Bytes :=
  let pa := p.1.d.slotPa q i c.1
  let (d, t) := p.1.d.storePa p.1.t pa (p.2.take c.2)
  ({ p.1 with d := d.fireStores world pa c.2, t := t, wrote := p.1.wrote + c.2 }, p.2.drop c.2)

theorem writeSlot_eq {r : Run} (world q i o : Nat) (bs : Bytes) (herr : r.err = none) :
    r.writeSlot world q i o bs = ((chunks (bs.length / 128 + 2) o bs.length).foldl (slotStep world q i) (r, bs)).1 := by
  unfold Run.writeSlot
  rw [if_neg (by simp [herr])]
  rfl

/-- A line of a slot write stores its bytes and fires watches; nothing else of the device changes. -/
theorem slotStep_eq (world q i : Nat) (p : Run × Bytes) (c : Nat × Nat) : ∃ d t, slotStep world q i p c =
    ({ p.1 with d := d, t := t, wrote := p.1.wrote + c.2 }, p.2.drop c.2) ∧
      d.mem = SMap.setRun p.1.d.mem (p.1.d.slotPa q i c.1) (p.2.take c.2) ∧ d.pkgId = p.1.d.pkgId ∧ d.quads = p.1.d.quads := by
  obtain ⟨ts, h⟩ := fireStores_eq (p.1.d.storePa p.1.t (p.1.d.slotPa q i c.1) (p.2.take c.2)).1 world (p.1.d.slotPa q i c.1) c.2
  refine ⟨_, _, rfl, ?_, ?_, ?_⟩
  · exact (congrArg Dev.mem h).trans rfl
  · exact (congrArg Dev.pkgId h).trans rfl
  · exact (congrArg Dev.quads h).trans rfl

theorem slotPa_pkgId {d d' : Dev} (h : d'.pkgId = d.pkgId) (q i o : Nat) : d'.slotPa q i o = d.slotPa q i o := by
  unfold Dev.slotPa
  rw [h]

/-- The lines of a write from offset `o`: each byte stands at its place in the slot, and the places before `o` keep theirs. -/
theorem slotSteps_bytes (world q i fuel : Nat) {o : Nat} (ho : o % 128 = 0) {bs : Bytes} (hlen : bs.length ≤ 128 * fuel) (r : Run) :
    (∀ j, j < bs.length →
      SMap.get ((chunks fuel o bs.length).foldl (slotStep world q i) (r, bs)).1.d.mem (r.d.slotPa q i (o + j)) = bs.getD j 0) ∧
    ∀ o', o' < o → SMap.get ((chunks fuel o bs.length).foldl (slotStep world q i) (r, bs)).1.d.mem (r.d.slotPa q i o') =
      SMap.get r.d.mem (r.d.slotPa q i o') := by
  induction fuel generalizing o bs r with
  | zero => exact ⟨fun j hj => by omega, fun _ _ => rfl⟩
  | succ fuel ih =>
    rw [chunks]
    by_cases hnil : bs.length = 0
    · rw [if_pos hnil]
      exact ⟨fun j hj => by omega, fun _ _ => rfl⟩
    rw [if_neg hnil]
    dsimp only
    rw [show 128 - o % 128 = 128 by omega, show bs.length - Nat.min bs.length 128 = (bs.drop (Nat.min bs.length 128)).length by simp]
    obtain ⟨d, t, hstep, hmem, hpkg, -⟩ := slotStep_eq world q i (r, bs) (o, Nat.min bs.length 128)
    have hmin : Nat.min bs.length 128 ≤ bs.length ∧ Nat.min bs.length 128 ≤ 128 ∧
        (Nat.min bs.length 128 < 128 → Nat.min bs.length 128 = bs.length) := by
      simp only [Nat.min_def]; split <;> omega
    generalize Nat.min bs.length 128 = m at hstep hmem hmin ⊢
    obtain ⟨hm, hm', hlast⟩ := hmin
    have htake : (bs.take m).length = m := by simp [hm]
    have hmem : d.mem = SMap.setRun r.d.mem (r.d.slotPa q i o) (bs.take m) := hmem
    -- what this line leaves at an offset of the slot
    have hline : ∀ j, j < m → SMap.get d.mem (r.d.slotPa q i (o + j)) = bs.getD j 0 := fun j hj => by
      rw [hmem, slotPa_line _ _ _ ho (by omega), get_setRun _ _ _ _ (by omega), List.getElem_take, List.getD_eq_getElem _ _ (by omega)]
    have hbefore : ∀ o', o' < o → SMap.get d.mem (r.d.slotPa q i o') = SMap.get r.d.mem (r.d.slotPa q i o') := fun o' ho' => by
      rw [hmem, get_setRun_other _ _ _ _ (.inl (slotPa_lt _ _ _ ho'))]
    rw [List.foldl_cons, hstep]
    by_cases hrest : m < 128
    · have hdrop : bs.drop m = [] := by rw [hlast hrest]; exact List.drop_length
      have hchunks : ∀ f va, chunks f va ([] : Bytes).length = [] := fun f va => by cases f <;> rfl
      simp only [hdrop, hchunks, List.foldl_nil]
      exact ⟨fun j hj => hline j (by rw [hlast hrest]; exact hj), hbefore⟩
    · obtain ⟨hafter, hkept⟩ := ih (o := o + m) (by omega) (bs := bs.drop m) (by rw [List.length_drop]; omega)
        { r with d := d, t := t, wrote := r.wrote + m }
      simp only [slotPa_pkgId hpkg] at hafter hkept
      refine ⟨fun j hj => ?_, fun o' ho' => (hkept o' (by omega)).trans (hbefore o' ho')⟩
      by_cases hjm : j < m
      · exact (hkept (o + j) (by omega)).trans (hline j hjm)
      · have h := hafter (j - m) (by rw [List.length_drop]; omega)
        rw [show o + m + (j - m) = o + j by omega] at h
        rw [h]
        simp [List.getD_eq_getElem?_getD, show m + (j - m) = j by omega]

theorem writeSlot_bytes {r : Run} (world q i : Nat) {bs : Bytes} (herr : r.err = none) {o : Nat} (ho : o < bs.length) :
    SMap.get (r.writeSlot world q i 0 bs).d.mem (r.d.slotPa q i o) = bs.getD o 0 := by
  rw [writeSlot_eq world q i 0 bs herr]
  have h := (slotSteps_bytes world q i (bs.length / 128 + 2) (o := 0) rfl (bs := bs) (by omega) r).1 o ho
  rwa [Nat.zero_add] at h

theorem writeSlot_keeps {r : Run} (world q i o : Nat) (bs : Bytes) (herr : r.err = none) :
    (r.writeSlot world q i o bs).d.quads = r.d.quads ∧ (r.writeSlot world q i o bs).err = none ∧
      (r.writeSlot world q i o bs).misses = r.misses := by
  have hkeep : ∀ p c, ((slotStep world q i p c).1.d.quads, (slotStep world q i p c).1.err, (slotStep world q i p c).1.misses) =
      (p.1.d.quads, p.1.err, p.1.misses) := fun p c => by
    obtain ⟨d, t, h, -, -, hquads⟩ := slotStep_eq world q i p c
    rw [h, hquads]
  have h := foldl_keeps (fun p : Run × Bytes => (p.1.d.quads, p.1.err, p.1.misses)) (l := chunks (bs.length / 128 + 2) o bs.length)
    (fun p c _ => hkeep p c) (r, bs)
  obtain ⟨hq, h⟩ := Prod.mk.inj h
  obtain ⟨he, hm⟩ := Prod.mk.inj h
  rw [writeSlot_eq world q i o bs herr]
  exact ⟨hq, he.trans herr, hm⟩

/-! ## What a drain converts (R61, R66) -/

theorem add_all (rs : List CvtRes) (n : Counts) : rs.foldl (fun n r => n.add r.cls) n = { n.tally rs with used := n.used } := by
  induction rs generalizing n with
  | nil => simp [Counts.tally]
  | cons r rs ih =>
    rw [List.foldl_cons, ih, ← List.singleton_append, tally_append]
    cases h : r.cls <;> simp [Counts.add, Counts.tally, h]

/-- The results of one row of a drain. -/
def drainedRow (a : Acc) (f : NumFmt) (md : BitVec 4) (i : Nat) : List CvtRes := (List.range 64).map fun j => a.drain f md (64 * i + j)

/-- A drain of row `i`, after the rows and counts of `p`. -/
def drainStep (a : Acc) (f : NumFmt) (md : BitVec 4) (p : List (Nat × Bytes) × Counts) (i : Nat) : List (Nat × Bytes) × Counts :=
  (p.1 ++ [(i, (drainedRow a f md i).flatMap fun r => bytesOfNat (f.width / 8) r.bits)], (drainedRow a f md i).foldl (fun n r => n.add r.cls) p.2)

/-- What the drain of some rows appends to the rows and counts that it finds. -/
theorem drainSteps_eq (a : Acc) (f : NumFmt) (md : BitVec 4) (rows : List Nat) (p : List (Nat × Bytes) × Counts) :
    (rows.foldl (drainStep a f md) p).1.flatMap Prod.snd =
      p.1.flatMap Prod.snd ++ (rows.flatMap (drainedRow a f md)).flatMap (fun r => bytesOfNat (f.width / 8) r.bits) ∧
    (rows.foldl (drainStep a f md) p).2 = (rows.flatMap (drainedRow a f md)).foldl (fun n r => n.add r.cls) p.2 := by
  induction rows generalizing p with
  | nil => simp
  | cons i rows ih =>
    obtain ⟨hbytes, hcounts⟩ := ih (drainStep a f md p i)
    rw [List.foldl_cons, hbytes, hcounts]
    simp [drainStep, List.flatMap_append]

theorem drainRows_eq (a : Acc) (f : NumFmt) (md : BitVec 4) (rows : List Nat) :
    (drainRows a f md rows).1.flatMap Prod.snd = (rows.flatMap (drainedRow a f md)).flatMap (fun r => bytesOfNat (f.width / 8) r.bits) ∧
    (drainRows a f md rows).2 = { Counts.zero.tally (rows.flatMap (drainedRow a f md)) with used := false } := by
  obtain ⟨hbytes, hcounts⟩ := drainSteps_eq a f md rows ([], Counts.zero)
  exact ⟨hbytes, hcounts.trans (add_all _ _)⟩

/-- The rows from `64 * h` on are the elements from `4096 * h` on. -/
theorem drainedRows_eq (a : Acc) (f : NumFmt) (md : BitVec 4) (h n : Nat) :
    ((List.range n).map fun i => 64 * h + i).flatMap (drainedRow a f md) = (List.range (n * 64)).map fun k => a.drain f md (4096 * h + k) := by
  rw [map_range_blocks, List.flatMap_map]
  refine List.flatMap_congr fun i _ => List.map_congr_left fun j _ => ?_
  rw [show 64 * (64 * h + i) + j = 4096 * h + (64 * i + j) by omega]

theorem allRows_eq (a : Acc) (f : NumFmt) (md : BitVec 4) (n : Nat) :
    (List.range n).flatMap (drainedRow a f md) = (List.range (n * 64)).map fun k => a.drain f md (0 + k) := by
  have h := drainedRows_eq a f md 0 n
  simpa using h

/-- The results of a drain to a slot: half of the rows where they fill it, all of them otherwise. -/
def slotResults (a : Acc) (f : NumFmt) (fl : BitVec 3) : List CvtRes :=
  (List.range (if f.width = 32 then 4096 else 8192)).map fun n =>
    a.drain f (if fl.getLsbD 2 then 0 else 8) ((if fl.getLsbD 0 then 4096 else 0) + n)

theorem drainSlot_eq (run : Run) (world q i : Nat) (a : Acc) {f : NumFmt} {fl : BitVec 3}
    (hf : f.width ≤ 16 ∧ fl.getLsbD 0 = false ∨ f.width = 32) :
    run.drainSlot world q i (b2n (bit fl 0)) a f (if bit fl 2 then 0 else 8) =
      (run.writeSlot world q i 0 ((slotResults a f fl).flatMap fun v => bytesOfNat (f.width / 8) v.bits),
        { Counts.zero.tally (slotResults a f fl) with used := false }) := by
  have hrows : (if 2 < f.width / 8 then (List.range 64).map fun i => 64 * b2n (bit fl 0) + i else List.range 128).flatMap
      (drainedRow a f (if bit fl 2 then 0 else 8)) = slotResults a f fl := by
    unfold slotResults
    rcases hf with ⟨hw, h0⟩ | hw
    · have h2 : ¬ 2 < f.width / 8 := by omega
      have h32 : ¬ f.width = 32 := by omega
      rw [if_neg h2, if_neg h32, h0]
      exact allRows_eq a f _ 128
    · have h2 : 2 < f.width / 8 := by omega
      have hfirst : 4096 * b2n (bit fl 0) = if fl.getLsbD 0 then 4096 else 0 := by
        cases h0 : fl.getLsbD 0 <;> simp only [bit, b2n, h0, if_true, Bool.false_eq_true, if_false]
      rw [if_pos h2, if_pos hw, drainedRows_eq, hfirst]
      rfl
  obtain ⟨hbytes, hcounts⟩ := drainRows_eq a f (if bit fl 2 then 0 else 8)
    (if 2 < f.width / 8 then (List.range 64).map fun i => 64 * b2n (bit fl 0) + i else List.range 128)
  rw [hrows] at hbytes hcounts
  unfold Run.drainSlot
  dsimp only
  rw [← hbytes, ← hcounts]

theorem landCounts_used (d : Dev) (x : Ctx) (world : Nat) (n : Counts) (used : Bool) :
    d.landCounts x world { n with used := used } = d.landCounts x world n := by
  rcases h : d.useKind x.seq 0 world (d.world world).statsTid [5] with ⟨d', o⟩
  cases o with
  | some r => rw [landCounts_some _ h, landCounts_some _ h]; rfl
  | none => rw [landCounts_none _ h, landCounts_none _ h]

section
variable {s : State} {q : Nat} {cmd : Cmd} {rest : List Cmd}

theorem mdrain_drains {acc b bs : Reg} {tid : BitVec 11} {fl : BitVec 3} {d : Dev} {r : Rec} {f : NumFmt}
    (hr : (s.dev.engine q 1).running = cmd :: rest) (hfault : cmd.fault = none) (hw : cmd.waiting = false)
    (hi : cmd.instr = .mdrain acc b bs tid fl) (hfl : fl.getLsbD 1 = false) (hrec : s.dev.cmdRecord s.ctx q cmd tid.toNat = (d, some r))
    (h5 : r.format ≠ 5) (h12 : r.format ≠ 12) (hfmt : numFmt r.format = some f)
    (hwidth : f.width ≤ 16 ∧ fl.getLsbD 0 = false ∨ f.width = 32) :
    let rs := slotResults ((s.dev.quad q).acc acc.toNat) f fl
    let bytes := rs.flatMap fun v => bytesOfNat (f.width / 8) v.bits
    let u := ((Run.start d cmd).writeSlot cmd.issuer.world q bs.toNat 0 bytes).d
    (∀ o, o < bytes.length → SMap.get u.mem (s.dev.slotPa q bs.toNat o) = bytes.getD o 0) ∧
      ∃ t, (exec (.matrixCommandComplete q) s = .next t ∧ Ended s t q 1 cmd none) ∧
        t.dev.mem = (u.landCounts s.ctx cmd.issuer.world (Counts.zero.tally rs)).mem := by
  intro rs bytes u
  obtain ⟨ds, rfl⟩ := cmdRecord_eq hrec
  set d : Dev := { s.dev with dies := ds }
  refine ⟨fun o ho => writeSlot_bytes cmd.issuer.world q bs.toNat (r := Run.start d cmd) rfl ho, ?_⟩
  obtain ⟨hquads, herr, hmiss⟩ := writeSlot_keeps (r := Run.start d cmd) cmd.issuer.world q bs.toNat 0 bytes rfl
  have hguard : ¬ (r.format = 5 ∨ f.width = 64 ∨ (f.width ≤ 16 ∧ bit fl 0 = true)) := by
    rintro (h | h | ⟨h, h0⟩)
    · exact h5 h
    · omega
    · rcases hwidth with ⟨-, h0'⟩ | h'
      · exact Bool.false_ne_true (h0'.symm.trans h0)
      · omega
  have hrun : s.dev.matrixRun s.ctx q cmd = d.endMatrix s.ctx q { cmd with record := some r }
      ((Run.start d cmd).writeSlot cmd.issuer.world q bs.toNat 0 bytes) (some { Counts.zero.tally rs with used := false }) := by
    have hdrain : s.dev.matrixRun s.ctx q cmd = d.matrixDrain s.ctx q acc.toNat bs.toNat fl { cmd with record := some r } r := by
      simp only [Dev.matrixRun, hfault, hi, hrec]
    have hslot := drainSlot_eq (Run.start d cmd) cmd.issuer.world q bs.toNat ((d.quad q).acc acc.toNat) hwidth
    have h1 : bit fl 1 = false := hfl
    rw [hdrain, Dev.matrixDrain]
    simp only [if_neg h12, hfmt, h1, Bool.false_eq_true, if_false]
    rw [if_neg hguard, show Run.start d { cmd with record := some r } = Run.start d cmd from rfl, hslot]
    rfl
  obtain ⟨hend, hleft⟩ := endMatrix_spec (s := s) (cmd := cmd) (c := { cmd with record := some r }) (q := q)
    (r := (Run.start d cmd).writeSlot cmd.issuer.world q bs.toNat 0 bytes) d (some { Counts.zero.tally rs with used := false })
    (by rw [Run.waits, hmiss]; simp [Run.start, Run.of]) rfl rfl (by rw [Dev.engine, Dev.quad, hquads]; rfl)
  refine ⟨_, ⟨matrix_runs hr hw, by rw [hrun, ← herr]; exact hend⟩, ?_⟩
  rw [hrun, hleft.mem, landed, landCounts_used]

end

end Sys2Proof.Proofs
end

section
/-! PROOFS. Counts that reach the statistics port (R67, R68), and the ends of engine operations together. -/

namespace Sys2Proof.Proofs

open Sys2Proof Sys2Proof.Machine Sys2Proof.Laws

/-! ## Fields that are added to, as bytes -/

theorem getRun_setRun_same (m : SMap 8) (k : Nat) (bs : Bytes) : SMap.getRun (SMap.setRun m k bs) k bs.length = bs := by
  refine List.ext_getElem (by simp [SMap.getRun]) fun i h h' => ?_
  simp only [SMap.getRun, List.getElem_map, List.getElem_range]
  exact get_setRun bs m k i h'

theorem getRun_setRun_other (m : SMap 8) {k j n : Nat} {bs : Bytes} (h : j + n ≤ k ∨ k + bs.length ≤ j) :
    SMap.getRun (SMap.setRun m k bs) j n = SMap.getRun m j n := by
  refine List.map_congr_left fun i hi => ?_
  have := List.mem_range.1 hi
  exact get_setRun_other _ _ _ _ (by omega)

theorem length_bytesOfNat (n x : Nat) : (bytesOfNat n x).length = n := by
  induction n generalizing x with
  | zero => rfl
  | succ n ih => rw [bytesOfNat, List.length_cons, ih]

/-- A field of eight bytes after an addition. -/
def addField (pa : Nat) (m : SMap 8) (f : Nat × Nat) : SMap 8 :=
  SMap.setRun m (pa + f.1) (bytesOfNat 8 (natOfBytes (SMap.getRun m (pa + f.1) 8) + f.2))

theorem addField_same (pa : Nat) (m : SMap 8) (f : Nat × Nat) :
    SMap.getRun (addField pa m f) (pa + f.1) 8 = bytesOfNat 8 (natOfBytes (SMap.getRun m (pa + f.1) 8) + f.2) := by
  have h := getRun_setRun_same m (pa + f.1) (bytesOfNat 8 (natOfBytes (SMap.getRun m (pa + f.1) 8) + f.2))
  rwa [length_bytesOfNat] at h

/-- Additions to fields that follow one another: each has been made to its field as it was, and no other byte has changed. -/
theorem addFields_spec (pa : Nat) {fs : List (Nat × Nat)} (hfs : fs.Pairwise fun f g => f.1 + 8 ≤ g.1) (m : SMap 8) :
    (∀ f ∈ fs, SMap.getRun (fs.foldl (addField pa) m) (pa + f.1) 8 = bytesOfNat 8 (natOfBytes (SMap.getRun m (pa + f.1) 8) + f.2)) ∧
    ∀ a, (∀ f ∈ fs, a < pa + f.1 ∨ pa + f.1 + 8 ≤ a) → SMap.get (fs.foldl (addField pa) m) a = SMap.get m a := by
  induction fs generalizing m with
  | nil => exact ⟨fun f hf => absurd hf List.not_mem_nil, fun _ _ => rfl⟩
  | cons g fs ih =>
    obtain ⟨hg, hfs⟩ := List.pairwise_cons.1 hfs
    obtain ⟨hfields, hothers⟩ := ih hfs (addField pa m g)
    refine ⟨fun f hf => ?_, fun a ha => ?_⟩
    · rcases List.mem_cons.1 hf with rfl | hf
      · rw [List.foldl_cons, ← addField_same pa m f]
        refine List.map_congr_left fun i hi => hothers _ fun h hh => .inl ?_
        have := hg h hh
        have := List.mem_range.1 hi
        omega
      · rw [List.foldl_cons, hfields f hf, addField, getRun_setRun_other _ (.inr _)]
        rw [length_bytesOfNat]
        have := hg f hf
        omega
    · rw [List.foldl_cons, hothers a fun f hf => ha f (List.mem_cons_of_mem g hf), addField, get_setRun_other]
      rw [length_bytesOfNat]
      exact ha g List.mem_cons_self

/-! ## The additions of the port -/

section
variable {x : Ctx} {world pa : Nat} {r : Rec}

theorem addCount_lands {s : Run} (herr : s.err = none) (hstale : s.d.stale = []) {f : Nat × Nat} (hline : r.base % 128 + f.1 + 8 ≤ 128)
    (htr : s.d.translate x.seq (portReq world r) (r.base + f.1) = .mem (pa + f.1)) :
    (addCount x world r s f.1 f.2).err = none ∧ (addCount x world r s f.1 f.2).d.mem = addField pa s.d.mem f ∧
      (addCount x world r s f.1 f.2).d.tokens = s.d.tokens ∧ Alike s.d (addCount x world r s f.1 f.2).d := by
  obtain ⟨d1, t1, hread, hmem1, htok1, halike1⟩ := read_line (n := 8) (pinned := true) herr hstale htr (by decide) (by omega)
  obtain ⟨d2, t2, ls, hwrite, hmem2, htok2, halike2⟩ := write_line (r := { s with d := d1, t := t1, got := s.got + 8 }) (x := x) (pinned := true)
    (bs := bytesOfNat 8 (natOfBytes (s.d.bytesAt (pa + f.1) 8) + f.2)) herr (halike1.stale.trans hstale) ((halike1.translate _ _ _).trans htr)
    (by rw [length_bytesOfNat]; decide) (by rw [length_bytesOfNat]; omega)
  rw [addCount, hread]
  dsimp only
  rw [hwrite]
  exact ⟨herr, hmem2.trans (congrArg (fun m => SMap.setRun m _ _) hmem1), htok2.trans htok1, halike1.trans halike2⟩

theorem addCounts_land {fs : List (Nat × Nat)} (hline : ∀ f ∈ fs, r.base % 128 + f.1 + 8 ≤ 128) {s : Run} (herr : s.err = none)
    (hstale : s.d.stale = []) (htr : ∀ f ∈ fs, s.d.translate x.seq (portReq world r) (r.base + f.1) = .mem (pa + f.1)) :
    (fs.foldl (fun s f => addCount x world r s f.1 f.2) s).d.mem = fs.foldl (addField pa) s.d.mem ∧
      (fs.foldl (fun s f => addCount x world r s f.1 f.2) s).d.tokens = s.d.tokens := by
  induction fs generalizing s with
  | nil => exact ⟨rfl, rfl⟩
  | cons f fs ih =>
    obtain ⟨herr', hmem, htok, halike⟩ := addCount_lands herr hstale (hline f List.mem_cons_self) (htr f List.mem_cons_self)
    obtain ⟨hmem', htok'⟩ := ih (fun g hg => hline g (List.mem_cons_of_mem f hg)) herr' (halike.stale.trans hstale)
      fun g hg => (halike.translate _ _ _).trans (htr g (List.mem_cons_of_mem f hg))
    rw [List.foldl_cons, List.foldl_cons]
    exact ⟨by rw [hmem', hmem], htok'.trans htok⟩

end

/-! ## Token groups under way change no record -/

theorem peek_tokens (d : Dev) (ts : List Tokens) (seq : Nat) (req : Req) (va n : Nat) :
    Dev.peek { d with tokens := ts } seq req va n = d.peek seq req va n := by
  induction n generalizing va with
  | zero => rfl
  | succ n ih =>
    rw [Dev.peek, Dev.peek, ih]
    rfl

theorem useKind_tokens (d : Dev) (ts : List Tokens) (seq die world tid : Nat) (kinds : List Nat) :
    (Dev.useKind { d with tokens := ts } seq die world tid kinds).2 = (d.useKind seq die world tid kinds).2 := by
  have hbytes : Dev.recordBytes { d with tokens := ts } seq die world tid = d.recordBytes seq die world tid := peek_tokens d ts seq _ _ 192
  have hversions : Dev.recordVersions { d with tokens := ts } seq die world tid = d.recordVersions seq die world tid := by
    unfold Dev.recordVersions
    rw [hbytes]
    rfl
  unfold Dev.useKind Dev.useRecord
  dsimp only
  rw [hversions]
  cases d.recordVersions seq die world tid <;> rfl

theorem statsRefused_event (d : Dev) (now : Now) (kind world die : Nat) (payload : Bytes) (v : Nat) :
    ((d.event now kind world die payload).world v).statsRefused = (d.world v).statsRefused := by
  have hset : ∀ (d : Dev) (x : World), x.statsRefused = (d.world world).statsRefused →
      ((d.setWorld world x).world v).statsRefused = (d.world v).statsRefused := by
    intro d x hx
    by_cases hv : v = world
    · subst hv
      rw [world_setWorld, hx]
    · rw [world_setWorld_other _ _ hv]
  unfold Dev.event
  dsimp only
  split
  · rfl
  · split
    · exact hset d _ rfl
    · exact hset _ _ rfl

/-! ## A group of tokens reaches the port -/

section
variable {s : State} {i : Nat} {x : Tokens}

theorem tokens_land (hx : s.dev.tokens[i]? = some x) : exec (.statsTokensLand i) s = .next { s with
    dev := Dev.landCounts { s.dev with tokens := dropAt s.dev.tokens i } s.ctx x.world x.counts } := by
  rw [show exec (.statsTokensLand i) s = execStatsTokensLand i s from rfl, execStatsTokensLand, run_next]
  simp only [hx]

theorem tokens_refused (hx : s.dev.tokens[i]? = some x)
    (hno : (s.dev.useKind s.seq 0 x.world (s.dev.world x.world).statsTid [5]).2 = none) :
    ∃ t, exec (.statsTokensLand i) s = .next t ∧ t.dev.tokens = dropAt s.dev.tokens i ∧ t.dev.mem = s.dev.mem ∧
      (t.dev.world x.world).statsRefused = true ∧ ((s.dev.world x.world).statsRefused = true → t.dev.hostMem = s.dev.hostMem) := by
  refine ⟨_, tokens_land hx, ?_⟩
  set d0 : Dev := { s.dev with tokens := dropAt s.dev.tokens i }
  rcases h : d0.useKind s.ctx.seq 0 x.world (d0.world x.world).statsTid [5] with ⟨d', o⟩
  obtain ⟨ds, rfl⟩ := useKind_eq h
  obtain rfl : o = none := (congrArg Prod.snd h).symm.trans ((useKind_tokens s.dev _ _ _ _ _ _).trans hno)
  have hland := landCounts_none x.counts h
  split at hland
  · next href => rw [hland]; exact ⟨rfl, rfl, href, fun _ => rfl⟩
  · next href =>
    rw [hland]
    refine ⟨?_, mem_event _ _ _ _ _ _, ?_, fun h' => absurd h' href⟩
    · obtain ⟨ws, hm, he⟩ := event_eq
        (Dev.setWorld { d0 with dies := ds } x.world { d0.world x.world with statsRefused := true }) s.ctx.now 8 0 0
          (items [68, x.world, (d0.world x.world).statsTid])
      rw [he]
      rfl
    · rw [statsRefused_event, world_setWorld]

theorem tokens_added {d : Dev} {r : Rec} {pa : Nat} (hx : s.dev.tokens[i]? = some x)
    (huse : s.dev.useKind s.seq 0 x.world (s.dev.world x.world).statsTid [5] = (d, some r)) (hbase : r.base % 128 ≤ 88) (hstale : s.dev.stale = [])
    (htr : ∀ o, o < 40 → s.dev.translate s.seq (portReq x.world r) (r.base + o) = .mem (pa + o)) :
    ∃ t, exec (.statsTokensLand i) s = .next t ∧ t.dev.tokens = dropAt s.dev.tokens i ∧
      (∀ f ∈ countFields x.counts, t.dev.bytesAt (pa + f.1) 8 = bytesOfNat 8 (natOfBytes (s.dev.bytesAt (pa + f.1) 8) + f.2)) ∧
      ∀ a, ¬ (pa ≤ a ∧ a < pa + 40) → SMap.get t.dev.mem a = SMap.get s.dev.mem a := by
  have hplace : ∀ f ∈ countFields x.counts, f.1 ≤ 32 := by simp [countFields]
  refine ⟨_, tokens_land hx, ?_⟩
  set d0 : Dev := { s.dev with tokens := dropAt s.dev.tokens i }
  rcases h : d0.useKind s.ctx.seq 0 x.world (d0.world x.world).statsTid [5] with ⟨d', o⟩
  obtain ⟨ds, rfl⟩ := useKind_eq h
  obtain rfl : o = some r := (congrArg Prod.snd h).symm.trans ((useKind_tokens s.dev _ _ _ _ _ _).trans (congrArg Prod.snd huse))
  obtain ⟨hmem, htok⟩ := addCounts_land (x := s.ctx) (world := x.world) (r := r) (pa := pa) (fs := countFields x.counts)
    (fun f hf => by have := hplace f hf; omega) (s := Run.of { d0 with dies := ds } 0) rfl hstale
    fun f hf => htr f.1 (by have := hplace f hf; omega)
  obtain ⟨hfields, hothers⟩ := addFields_spec pa (fs := countFields x.counts) (by simp [countFields]) s.dev.mem
  rw [landCounts_some x.counts h]
  refine ⟨htok, fun f hf => ?_, fun a ha => ?_⟩
  · exact (congrArg (fun m => SMap.getRun m (pa + f.1) 8) hmem).trans (hfields f hf)
  · refine (congrArg (fun m => SMap.get m a) hmem).trans (hothers a fun f hf => ?_)
    have := hplace f hf
    omega

end

/-- Settles O48: each operation by the rule of its end, and the counts by the additions of the port. -/
theorem engineOperationsEnd : Obligations.EngineOperationsEnd := by
  unfold Obligations.EngineOperationsEnd
  refine ⟨fun s q seq f cmd hf hw => ⟨fun a b c tid acc hi hfind ht => cpys_faults hf hw hi hfind ht, fun rest hr => ?_⟩, ?_, ?_, ?_, ?_⟩
  · obtain ⟨t, hexec, hend, hmem⟩ := matrix_faults hf hw hr
    refine ⟨t, hexec, hend, hmem.trans ?_⟩
    cases cmd.converted with
    | none => rw [ite_self]; rfl
    | some n => by_cases h : f = 0x0C <;> simp only [h, if_true, if_false, landed]
  · rintro s q seq cmd a b c bs tid fl d r from_ to_ hi rfl hf hw ht hlanded - hfind hn hb ha hstale hrec hro hfrom hto
    exact copy_line hi hf hw ht hlanded hfind hn hb ha hstale hrec hro hfrom hto
  · intro s q cmd rest hr hf hw w done same
    refine ⟨fun acc hi => mzero_clears hr hf hw hi, fun bs tid d r hi hrec hfmt => mldb_loads hr hf hw hi hrec hfmt, ?_, ?_⟩
    · intro acc bs tid zero d r b kt hi hrec hb hk hpair A B macs
      obtain ⟨t, hdone, hmem, hcounters, hstat, hacc⟩ := mma_accumulates hr hf hw hi hrec hb hk hpair
      refine ⟨t, hdone, hmem, hcounters, hstat, fun n hn => by rw [hacc, if_neg hn], fun i j hi hj => ?_⟩
      rw [hacc, if_pos rfl]
      exact get_mma _ _ _ _ _ _ hi hj
    · intro acc b bs tid fl d r f hi hfl hrec h5 h12 hfmt hwidth
      exact mdrain_drains hr hf hw hi hfl hrec h5 h12 hfmt hwidth
  · exact fun s q cmd rest n hr hw hf hi hn => aclear_clears hr hw hf hi hn
  · exact fun s i x hx => ⟨fun hno => tokens_refused hx hno, fun d r pa huse hbase hstale htr => tokens_added hx huse hbase hstale htr⟩

end Sys2Proof.Proofs
end

section
/-! PROOFS. The encoder and the decoder agree (R84 to R89). -/

namespace Sys2Proof.Proofs

open Sys2Proof Sys2Proof.Machine Sys2Proof.Laws

theorem encode_eq_none_iff (i : Instr) : encode i = none ↔ isEvent i = true := by
  cases i <;> simp [encode, isEvent]

/-- The laws of the single instructions together: whatever has a word decodes from it. -/
theorem coded (i : Instr) : Coded.Statement i := by
  cases hev : isEvent i with
  | true =>
    intro _ w hw
    exact nomatch ((encode_eq_none_iff i).2 hev).symm.trans hw
  | false =>
    cases i <;> simp only [isEvent, reduceCtorEq,
    Coded.nop, Coded.halt, Coded.brk, Coded.trap, Coded.eret, Coded.wfe, Coded.phase, Coded.ncnt, Coded.srd, Coded.swr, Coded.tlbi,
    Coded.add, Coded.sub, Coded.mul, Coded.mulh, Coded.mulhu, Coded.div, Coded.divu, Coded.rem, Coded.remu, Coded.and, Coded.or,
    Coded.xor, Coded.andn, Coded.shl, Coded.shr, Coded.sar, Coded.rol, Coded.min, Coded.max, Coded.minu, Coded.maxu, Coded.clz,
    Coded.popc, Coded.sext, Coded.zext, Coded.sel, Coded.cmp, Coded.addi, Coded.andi, Coded.ori, Coded.xori, Coded.shli, Coded.shri,
    Coded.sari, Coded.cmpi, Coded.movi, Coded.movhi, Coded.br, Coded.bz, Coded.bnz, Coded.bcmp, Coded.bbead, Coded.bstat,
    Coded.loop, Coded.jmpr, Coded.call, Coded.callr, Coded.ret, Coded.vadd, Coded.vsub, Coded.vmul, Coded.vmulh, Coded.vand,
    Coded.vor, Coded.vxor, Coded.vshl, Coded.vshr, Coded.vsar, Coded.vmin, Coded.vmax, Coded.vabs, Coded.vsel, Coded.vsplat,
    Coded.viota, Coded.vmov, Coded.vclz, Coded.vfadd, Coded.vfsub, Coded.vfmul, Coded.vfma, Coded.vfmin, Coded.vfmax, Coded.vfabs,
    Coded.vfneg, Coded.vfcvt, Coded.vexp2, Coded.vlog2, Coded.vrcp, Coded.vrsq, Coded.vfscl, Coded.vcmp, Coded.vfcmp, Coded.mand,
    Coded.mor, Coded.mxor, Coded.mnot, Coded.mpopc, Coded.mfirst, Coded.mfromg, Coded.mtog, Coded.vshuf, Coded.vrot, Coded.vbcast,
    Coded.vext, Coded.vins, Coded.vredadd, Coded.vredmax, Coded.vredmin, Coded.vargmax, Coded.vscan, Coded.vcompact, Coded.vrng,
    Coded.ld, Coded.vld, Coded.vldg, Coded.vldb, Coded.pref, Coded.st, Coded.vst, Coded.vsts, Coded.aadd, Coded.amin, Coded.amax,
    Coded.aand, Coded.aor, Coded.axor, Coded.axchg, Coded.acas, Coded.vaadd, Coded.vamax, Coded.fence, Coded.bar, Coded.bara,
    Coded.barw, Coded.barx, Coded.barset, Coded.lgfence, Coded.cbind, Coded.cwait, Coded.cresv, Coded.cpush, Coded.cpeek,
    Coded.cpadv, Coded.ccadv, Coded.cmark, Coded.cstat, Coded.ksend, Coded.kpoll, Coded.cpy, Coded.cpym, Coded.cpys, Coded.bfwait,
    Coded.bfrel, Coded.bfstat, Coded.bfarm, Coded.bfarmDisarm, Coded.mma, Coded.mmaz, Coded.mdrain, Coded.mldb, Coded.mzero,
    Coded.mstat, Coded.sopen, Coded.sclose, Coded.sstat, Coded.sdrain, Coded.aload, Coded.abindMaskSink, Coded.abindEventSink,
    Coded.abindTreeSink, Coded.abindSpillArea, Coded.abindLimits, Coded.abindUnbind, Coded.arun, Coded.astep, Coded.away,
    Coded.aresume, Coded.astat, Coded.aclear, Coded.glaunch, Coded.gdone, Coded.gparam, Coded.fork, Coded.join, Coded.pqpush,
    Coded.pqpop, Coded.trigbindStoreWatch, Coded.trigbindRingWatch, Coded.trigbindUnbind, Coded.trigfire, Coded.twbind,
    Coded.twbindUnbind, Coded.twget, Coded.twrel, Coded.twstat, Coded.tickarm, Coded.tickarmDisarm, Coded.tnow] at hev ⊢

/-- A word decodes to a well-formed instruction exactly where the encoder gives the instruction that word. -/
theorem decode_eq_ok_iff (w : Word) (i : Instr) : decode w = .ok i ↔ wellFormed i = true ∧ encode i = some w := by
  refine ⟨fun h => ?_, fun ⟨hw, he⟩ => coded i hw w he⟩
  unfold decode at h
  split at h
  · exact nomatch h
  · split at h
    · exact nomatch h
    · next j hj =>
      split at h
      · exact nomatch h
      · split at h
        · exact nomatch h
        · next he hw =>
          cases h
          exact ⟨by simpa using hw, by simpa using he⟩

/-- Settles O2: an event has no word, and every other instruction's word decodes to it by the law of its constructor. -/
theorem encodedInstructionsDecodeBack : Obligations.EncodedInstructionsDecodeBack := by
  unfold Obligations.EncodedInstructionsDecodeBack
  intro i hw
  cases he : encode i with
  | none => exact .inl ⟨(encode_eq_none_iff i).1 he, rfl⟩
  | some w => exact .inr ⟨w, rfl, (decode_eq_ok_iff w i).2 ⟨hw, he⟩⟩

/-- Settles O3: decoding succeeds only where the encoder gives the word back and the instruction is well-formed. -/
theorem decodedWordsAreCanonical : Obligations.DecodedWordsAreCanonical := by
  unfold Obligations.DecodedWordsAreCanonical
  exact fun w i h => (decode_eq_ok_iff w i).1 h

/-- Settles O1: both directions compute. -/
theorem wordsOfTheSpecDecode : Obligations.WordsOfTheSpecDecode := by
  unfold Obligations.WordsOfTheSpecDecode
  exact ⟨rfl, rfl, rfl, rfl, rfl, rfl, rfl, rfl, rfl, rfl⟩

end Sys2Proof.Proofs
end

section
/-! PROOFS. Whose turn it is, what the agent fetches, and the step (R84, R89, R90, R130). -/

namespace Sys2Proof.Proofs

open Sys2Proof Sys2Proof.Machine Sys2Proof.Laws

/-! ## Meanings change the device and time alone -/

theorem exec_answers (i : Instr) (s : State) : ∃ d n, exec i s = .next { s with dev := d, now := n } := by
  cases i with
  | timeAdj n =>
    rw [show exec (.timeAdj n) s = execTimeAdj n s from rfl, execTimeAdj]
    split
    · exact ⟨_, _, rfl⟩
    · dsimp only
      split <;> exact ⟨_, _, rfl⟩
  | ptmRefresh n =>
    rw [show exec (.ptmRefresh n) s = execPtmRefresh n s from rfl, execPtmRefresh]
    split <;> exact ⟨_, _, rfl⟩
  | _ => exact ⟨_, _, rfl⟩

/-! ## The turn of an agent -/

section
variable {s : State}

theorem turn_issue (hs : s.schedule = []) (hp : s.phase = .issue) : turn s = issueTurn s := by
  simp [turn, hs, hp]

/-- A scheduled agent that comes later in the round than the last one issues in the same clock. -/
theorem turn_scheduled {a : Actor} {rest : List Turn} (hs : s.schedule = .issue a :: rest) (hplace : s.actor.place < a.place) :
    turn s = issueTurn { s with schedule := rest, actor := a } := by
  simp [turn, hs, hplace]

theorem issueTurn_async {k : Nat} (h : s.dev.takesAsync s.now s.actor = some k) : issueTurn s = exec (.asyncTrapTaken k) s := by
  rw [issueTurn, h]
  rfl

theorem issueTurn_decoded {w : Word} {i : Instr} (ha : s.dev.takesAsync s.now s.actor = none)
    (hf : s.dev.fetch s.now s.actor = some w) (hd : decode w = .ok i) : issueTurn s = exec i s := by
  simp only [issueTurn, ha, hf, hd]

theorem issueTurn_undecoded {w : Word} {e : DecodeFault} (ha : s.dev.takesAsync s.now s.actor = none)
    (hf : s.dev.fetch s.now s.actor = some w) (hd : decode w = .error e) :
    issueTurn s = .next { s with dev := s.dev.badFetch s.now s.actor w } := by
  simp only [issueTurn, ha, hf, hd]

theorem issueTurn_outside (ha : s.dev.takesAsync s.now s.actor = none) (hf : s.dev.fetch s.now s.actor = none) :
    issueTurn s = .next { s with dev := s.dev.badFetch s.now s.actor 0 } := by
  simp only [issueTurn, ha, hf]

/-- A core outside the handler takes a pending asynchronous cause where it would issue (R130). -/
theorem takesAsync_pending {d : Dev} {now : Now} {k : Nat} {c : AsyncCause} {cs : List AsyncCause} (hi : d.coreIssues now k = true)
    (hh : (d.core k).inHandler = false) (hc : (d.core k).async = c :: cs) : d.takesAsync now (.core k) = some k := by
  simp [Dev.takesAsync, hi, hh, hc]

/-! ## The step -/

theorem settle_issue {t : State} (h : t.phase = .issue) : t.settle false = { t with phase := .events, seq := t.seq + 1 } := by
  simp [State.settle, State.handOver, h]

theorem step_of_turn {t : State} (hh : s.dev.stopped = false) (ht : turn s = .next t) :
    step s = .next (t.settle (!s.schedule.isEmpty)) := by
  simp only [step, oneStep, hh, ht, Bool.false_and, Bool.false_eq_true, if_false]

/-- A step of the round in which an agent's turn leaves the phase. -/
theorem step_of_issueTurn {t : State} (hh : s.dev.stopped = false) (hs : s.schedule = []) (hp : s.phase = .issue)
    (ht : issueTurn s = .next t) (hphase : t.phase = .issue) : step s = .next { t with phase := .events, seq := t.seq + 1 } := by
  rw [step_of_turn hh ((turn_issue hs hp).trans ht), hs, ← settle_issue hphase]
  rfl

end

/-- Settles O5: each of the three turns runs one meaning, and no meaning moves the phase. -/
theorem stepRunsTheDecodedInstruction : Obligations.StepRunsTheDecodedInstruction := by
  unfold Obligations.StepRunsTheDecodedInstruction
  intro s w i hh hd
  refine ⟨fun hs hp ha hf => ?_, fun a rest hs hplace ha hf => ?_, fun k c cs hs hp hact hi hin hc => ?_⟩
  · obtain ⟨d, n, he⟩ := exec_answers i s
    rw [he]
    exact step_of_issueTurn hh hs hp ((issueTurn_decoded ha hf hd).trans he) hp
  · obtain ⟨d, n, he⟩ := exec_answers i { s with schedule := rest, actor := a }
    rw [he, step_of_turn hh ((turn_scheduled hs hplace).trans ((issueTurn_decoded ha hf hd).trans he)), hs]
    rfl
  · obtain ⟨d, n, he⟩ := exec_answers (.asyncTrapTaken k) s
    rw [he]
    exact step_of_issueTurn hh hs hp ((issueTurn_async (hact ▸ takesAsync_pending hi hin hc)).trans he) hp

/-! ## Words that are no instruction -/

section
variable {d : Dev} {now : Now}

theorem coreIssues_of_fetch {k : Nat} {w : Word} (hf : d.fetch now (.core k) = some w) : d.coreIssues now k = true := by
  by_contra h
  rw [Dev.fetch, if_neg h] at hf
  exact nomatch hf

theorem fetch_outside {k : Nat} (h : (d.core k).cur.inCode (d.core k).pc = false) : d.fetch now (.core k) = none := by
  simp [Dev.fetch, Plane.fetch, h]

theorem fetch_prog_outside {q e : Nat} {p : Prog} (hp : d.progIssues q e = some p) (h : (d.core p.core).cur.inCode p.pc = false) :
    d.fetch now (.engine q e) = none := by
  simp [Dev.fetch, hp, Plane.fetch, h]

theorem badFetch_core {k : Nat} (info : Word) (h : d.coreIssues now k = true) :
    d.badFetch now (.core k) info = (d.issued k).takeTrap now k Cause.illegal info (d.core k).pc := by
  simp [Dev.badFetch, h]

theorem badFetch_engine {q e : Nat} {p : Prog} (info : Word) (h : d.progIssues q e = some p) :
    d.badFetch now (.engine q e) info = (d.issuedBy q e).progFault q e 0x01 := by
  simp [Dev.badFetch, h]

end

/-- Settles O7: the failed fetch or decoding is the whole turn of its agent. -/
theorem undecodableWordsTrapIllegal : Obligations.UndecodableWordsTrapIllegal := by
  unfold Obligations.UndecodableWordsTrapIllegal
  intro s hh hs hp
  refine ⟨fun k w e hact ha hf hd => ?_, fun k hact ha hi hout => ?_, fun q e p w r hact hprog hf hd => ?_, fun q e p hact hprog hout => ?_⟩
  · have hbad := badFetch_core w (coreIssues_of_fetch hf)
    rw [← hact] at ha hf hbad
    rw [step_of_issueTurn hh hs hp (issueTurn_undecoded ha hf hd) hp, hbad]
    rfl
  · have hbad := badFetch_core 0 hi
    have hf := fetch_outside (now := s.now) hout
    rw [← hact] at ha hf hbad
    rw [step_of_issueTurn hh hs hp (issueTurn_outside ha hf) hp, hbad]
    rfl
  · have hbad := badFetch_engine (now := s.now) w hprog
    rw [← hact] at hf hbad
    rw [step_of_issueTurn hh hs hp (issueTurn_undecoded (hact ▸ rfl) hf hd) hp, hbad]
  · have hbad := badFetch_engine (now := s.now) 0 hprog
    have hf := fetch_prog_outside (now := s.now) hprog hout
    rw [← hact] at hf hbad
    rw [step_of_issueTurn hh hs hp (issueTurn_outside (hact ▸ rfl) hf) hp, hbad]

/-! ## Reset -/

/-- Settles O8: the parts of the package at reset are empty, and its cores fresh. -/
theorem resetHoldsNothing : Obligations.ResetHoldsNothing := by
  unfold Obligations.ResetHoldsNothing
  exact ⟨rfl, rfl, rfl, rfl, rfl, rfl, rfl, fun _ _ => ite_self _, fun _ _ _ => rfl, fun _ => ⟨rfl, rfl, rfl⟩⟩

end Sys2Proof.Proofs
end

section
/-! PROOFS. The register file: windows, reads after writes, and what completing an instruction leaves (R33, R75 to R78, R87, R329). -/

namespace Sys2Proof.Proofs

open Sys2Proof Sys2Proof.Machine Sys2Proof.Laws

/-! ## Windows (R78) -/

/-- The 64 registers of one window have places of their own. -/
theorem gPlace_injective {depth i j : Nat} (hi : i < 64) (hj : j < 64) (h : gPlace depth i = gPlace depth j) : i = j := by
  unfold gPlace at h
  split_ifs at h <;> omega

/-- The outs of a window are the ins of the next one. -/
theorem gPlace_outs {i : Nat} (depth : Nat) (hi : i < 16) : gPlace depth (48 + i) = gPlace (depth + 1) (16 + i) := by
  unfold gPlace
  split_ifs <;> omega

/-- Settles O15: the arithmetic of `gPlace`. -/
theorem windowsChain : Obligations.WindowsChain := by
  unfold Obligations.WindowsChain
  exact fun depth => ⟨fun i hi => gPlace_outs depth hi, fun i hi => if_pos hi, fun i j => gPlace_injective⟩

/-! ## Scalar registers -/

theorem gAt_injective {c : Core} {q r : Reg} (h : c.gAt q = c.gAt r) : q = r :=
  BitVec.eq_of_toNat_eq (gPlace_injective q.isLt r.isLt h)

@[simp] theorem readG_zero (c : Core) : c.readG 0 = 0 := if_pos rfl
@[simp] theorem writeG_zero (c : Core) (x : Word) : c.writeG 0 x = c := if_pos rfl

theorem writeG_of_ne {r : Reg} (c : Core) (x : Word) (h : r ≠ 0) :
    c.writeG r x = { c with g := SMap.set c.g (c.gAt r) x, pend := killDst (.g (c.gAt r)) c.pend } := if_neg h

@[simp] theorem gAt_writeG (c : Core) (r q : Reg) (x : Word) : (c.writeG r x).gAt q = c.gAt q := by
  simp [Core.gAt, Core.depth]

theorem readG_writeG_same {r : Reg} (c : Core) (x : Word) (h : r ≠ 0) : (c.writeG r x).readG r = x := by
  rw [Core.readG, if_neg h, gAt_writeG, writeG_of_ne c x h]
  exact get_set_same _ _

theorem readG_writeG_other {r q : Reg} (c : Core) (x : Word) (h : q ≠ r) : (c.writeG r x).readG q = c.readG q := by
  by_cases hr : r = 0
  · rw [hr, writeG_zero]
  · rw [Core.readG, Core.readG, gAt_writeG, writeG_of_ne c x hr]
    exact congrArg _ (get_set_other _ fun e => h (gAt_injective e))

/-- No result in flight for a destination is live once a write has discarded it. -/
theorem any_live_killDst (dst : Dst) (ps : List Landing) : ((killDst dst ps).any fun p => p.live && p.dst == dst) = false := by
  rw [killDst, List.any_map, List.any_eq_false]
  intro p _
  by_cases h : p.dst = dst <;> simp [h]

theorem pendingG_writeG {r : Reg} (c : Core) (x : Word) (h : r ≠ 0) : (c.writeG r x).pendingG r = false := by
  rw [Core.pendingG, gAt_writeG, writeG_of_ne c x h]
  exact any_live_killDst _ _

theorem wf_writeG {c : Core} (r : Reg) (x : Word) (h : SMap.wf c.g = true) : SMap.wf (c.writeG r x).g = true := by
  by_cases hr : r = 0
  · rwa [hr, writeG_zero]
  · rw [writeG_of_ne c x hr]
    exact wf_set _ _ h

/-! ## Vector and mask registers -/

theorem activeLanes_eq_nil_iff {mask : Lane} : activeLanes mask = [] ↔ mask = 0 := by
  refine ⟨fun h => ?_, fun h => by rw [h]; rfl⟩
  refine BitVec.eq_of_getLsbD_eq fun i hi => (Bool.eq_false_iff.2 fun hm => ?_).trans BitVec.getLsbD_zero.symm
  exact List.not_mem_nil (h ▸ (mem_activeLanes mask i).2 ⟨hi, hm⟩)

theorem writeV_zero (c : Core) (r : Reg) (f : Nat → Lane) : c.writeV r 0 f = c := rfl

theorem writeV_of_ne {mask : Lane} (c : Core) (r : Reg) (f : Nat → Lane) (h : mask ≠ 0) :
    c.writeV r mask f =
      { c with v := setLanes c.v r.toNat ((activeLanes mask).map fun i => (i, f i)), pend := killDst (.v r.toNat) c.pend } :=
  if_neg fun e => h (activeLanes_eq_nil_iff.1 (List.map_eq_nil_iff.1 (List.isEmpty_iff.1 e)))

/-- A lane write sets the active lanes of its register. -/
theorem lane_writeV (c : Core) (r q : Reg) (mask : Lane) (f : Nat → Lane) {i : Nat} (hi : i < 32) :
    (c.writeV r mask f).lane q i = if q = r ∧ mask.getLsbD i = true then f i else c.lane q i := by
  by_cases hm : mask = 0
  · rw [hm, writeV_zero, if_neg fun h => Bool.false_ne_true (BitVec.getLsbD_zero.symm.trans h.2)]
  · rw [writeV_of_ne c r f hm]
    exact get_setLanes_active _ _ _ _ _ _ hi

theorem pendingV_writeV {mask : Lane} (c : Core) (r : Reg) (f : Nat → Lane) (h : mask ≠ 0) : (c.writeV r mask f).pendingV r = false := by
  rw [writeV_of_ne c r f h]
  exact any_live_killDst _ _

@[simp] theorem readM_zero (c : Core) : c.readM 0 = 0xFFFFFFFF := if_pos rfl
@[simp] theorem writeM_zero (c : Core) (mask x : Lane) : c.writeM 0 mask x = c := if_pos rfl

theorem writeM_of_ne {r : Nat} (c : Core) (mask x : Lane) (h : r ≠ 0) :
    c.writeM r mask x = { c with m := SMap.set c.m r ((c.readM r &&& ~~~mask) ||| (x &&& mask)) } := if_neg h

theorem readM_writeM_other {r q : Nat} (c : Core) (mask x : Lane) (h : q ≠ r) : (c.writeM r mask x).readM q = c.readM q := by
  by_cases hr : r = 0
  · rw [hr, writeM_zero]
  · rw [writeM_of_ne c mask x hr]
    unfold Core.readM
    rw [get_set_other _ h]

theorem readM_writeM_same {r : Nat} (c : Core) (mask x : Lane) (h : r ≠ 0) :
    (c.writeM r mask x).readM r = (c.readM r &&& ~~~mask) ||| (x &&& mask) := by
  rw [writeM_of_ne c mask x h, Core.readM, if_neg h]
  exact get_set_same _ _

/-- A mask write sets the selected bits of its mask. -/
theorem getLsbD_readM_writeM (c : Core) (r q : Nat) (mask x : Lane) {i : Nat} (hi : i < 32) :
    ((c.writeM r mask x).readM q).getLsbD i =
      if q = r ∧ r ≠ 0 ∧ mask.getLsbD i = true then x.getLsbD i else (c.readM q).getLsbD i := by
  by_cases hq : q = r
  · subst hq
    by_cases h0 : q = 0
    · simp [h0]
    · rw [readM_writeM_same c mask x h0, BitVec.getLsbD_or, BitVec.getLsbD_and, BitVec.getLsbD_and, BitVec.getLsbD_not]
      cases mask.getLsbD i <;> simp [h0, hi]
  · rw [readM_writeM_other c mask x hq, if_neg fun h => hq h.1]

/-- Settles O14: reads after writes of scalar, vector and mask registers. -/
theorem registersHoldTheirWrites : Obligations.RegistersHoldTheirWrites := by
  unfold Obligations.RegistersHoldTheirWrites
  refine ⟨⟨fun c x mask y => ⟨readG_zero c, writeG_zero c x, readM_zero c, writeM_zero c mask y⟩, fun c r q x h => ?_⟩,
    fun c d r mask x f i j hi => ?_⟩
  · exact ⟨readG_writeG_same c x h, readG_writeG_other c x, pendingG_writeG c x h, wf_writeG r x⟩
  · exact ⟨lane_writeV c d r mask f hi, getLsbD_readM_writeM c j d.toNat mask x hi, pendingV_writeV c d f⟩

/-! ## Completing an instruction (R84, R329) -/

/-- Counting one operation raises that counter of that world, and nothing else of it. -/
theorem world_count_one (d : Dev) (w i : Nat) :
    (d.count w i 1).world w =
      { d.world w with counters := SMap.set (d.world w).counters i (SMap.get (d.world w).counters i + 1) } := by
  rw [Dev.count, if_neg one_ne_zero]
  exact world_setWorld _ _ _

theorem world_count_other (d : Dev) {w v : Nat} (i n : Nat) (h : v ≠ w) : (d.count w i n).world v = d.world v := by
  unfold Dev.count
  split
  · rfl
  · exact world_setWorld_other _ _ h

theorem completedCore_eq (s : State) (k : Nat) (c : Core) :
    s.completedCore k c = { s with
      dev := (s.dev.setCore k { c with pc := (s.dev.core k).pc + 8, wait := none, stage := .none }).count c.world 1 1 } := by
  simp [State.completedCore, State.completed, Dev.retire]

/-- Settles O16: a completion sets its core and counts one in the core's world. -/
theorem completionChangesNothingElse : Obligations.CompletionChangesNothingElse := by
  unfold Obligations.CompletionChangesNothingElse
  intro s k c j t
  obtain ⟨ws, hws⟩ := count_eq (s.dev.setCore k { c with pc := (s.dev.core k).pc + 8, wait := none, stage := .none }) c.world 1 1
  have ht : t = { s with dev := _ } := completedCore_eq s k c
  rw [ht]
  refine ⟨by simp, fun hj => by simp [core_setCore_other _ _ hj], fun a => by simp, ?_, fun w hw => ?_, _, ?_, rfl⟩
  · rw [hws]
    exact ⟨_, _, rfl⟩
  · exact world_count_other _ 1 1 hw
  · exact world_count_one _ _ 1

end Sys2Proof.Proofs
end

section
/-! PROOFS. Special registers and TLBI (R80, R89, R111 to R113, Table 5.2). -/

namespace Sys2Proof.Proofs

open Sys2Proof Sys2Proof.Machine Sys2Proof.Laws

/-! ## The outcome of an instruction of a core -/

theorem any_pending {α : Type} {f : α → Bool} {rs : List α} (h : ∀ r ∈ rs, f r = false) : rs.any f = false :=
  List.any_eq_false.2 fun r hr => Bool.not_eq_true _ ▸ h r hr

section
variable {s : State} {k : Nat}

theorem onCore_done {f : Ctx → Nat → Dev → Res} {d : Dev} (ha : s.actor = .core k) (h : f s.ctx k s.dev = .done d) :
    onCore f s = .next (s.completed k d ((s.dev.core k).pc + 8)) := by
  rw [onCore_core f ha, h]
  rfl

theorem onCore_trap {f : Ctx → Nat → Dev → Res} {cause : Nat} {info : Word} (ha : s.actor = .core k)
    (h : f s.ctx k s.dev = .trap cause info) : onCore f s = .next (s.trapped k cause info) := by
  rw [onCore_core f ha, h]
  rfl

/-! ## SRD (R111) -/

theorem spillBase_eq (k : Nat) : spillBase k = BitVec.ofNat 64 (vaLocal + 0x8000 * (63 - k % 4)) := rfl

theorem ctxStatus_eq (c : Core) : c.ctxStatus =
    BitVec.ofNat 64 ((if c.inHandler then 4 else 0) + (if c.rngWrap then 2 else 0) + (if c.scopeClamped then 1 else 0)) := by
  unfold Core.ctxStatus b2n
  cases c.inHandler <;> cases c.rngWrap <;> cases c.scopeClamped <;> rfl

theorem special_param (d : Dev) (now : Now) (k : Nat) {n : Nat} (h : 0x050 ≤ n ∧ n ≤ 0x08F) :
    d.special now k n = some (SMap.get (d.core k).cur.params (n - 0x050)) := if_pos h

/-- Apart from the parameters, a special register is one of Table 5.2, and reads what the table says. -/
theorem special_eq_some_iff {n : Nat} (h : ¬ (0x050 ≤ n ∧ n ≤ 0x08F)) (v : Word) :
    s.dev.special s.now k n = some v ↔ (n, v) ∈ specialSpec s k := by
  unfold Dev.special
  rw [if_neg h]
  split
  case h_19 => simp_all [specialSpec]
  all_goals simp [specialSpec, ctxStatus_eq, spillBase_eq, BitVec.ofNat_add, Now.word, Now.ns, Core.winDepth, zext64, eq_comm (a := v)]

theorem srd_reads {p : Pred} {rd : Reg} {n : BitVec 32} {v : Word} (ha : s.actor = .core k) (hm : (s.dev.core k).mask p ≠ 0)
    (hv : s.dev.special s.now k n.toNat = some v) :
    exec (.srd p rd n) s = .next (s.completedCore k ((s.dev.core k).writeG rd v)) := by
  rw [show exec (.srd p rd n) s = execSrd p rd n s from rfl, execSrd]
  refine onCore_done ha ?_
  rw [scalarDev_on _ hm rfl, show s.ctx.now = s.now from rfl, hv]

theorem srd_traps {p : Pred} {rd : Reg} {n : BitVec 32} (ha : s.actor = .core k) (hm : (s.dev.core k).mask p ≠ 0)
    (hv : s.dev.special s.now k n.toNat = none) :
    exec (.srd p rd n) s = .next (s.trapped k 0x01 ((encode (.srd p rd n)).getD 0)) := by
  rw [show exec (.srd p rd n) s = execSrd p rd n s from rfl, execSrd]
  refine onCore_trap ha ?_
  rw [scalarDev_on _ hm rfl, show s.ctx.now = s.now from rfl, hv]
  rfl

/-- A number that Table 5.2 does not list. -/
theorem special_eq_none {n : Nat} (h : ∀ v, (n, v) ∉ specialSpec s k) (hp : ¬ (0x050 ≤ n ∧ n ≤ 0x08F)) :
    s.dev.special s.now k n = none :=
  Option.eq_none_iff_forall_ne_some.2 fun v hv => h v ((special_eq_some_iff hp v).1 hv)

/-- A number that Table 5.2 lists. -/
theorem special_isSome {n : Nat} (h : (∃ x, (n, x) ∈ specialSpec s k) ∨ (0x050 ≤ n ∧ n ≤ 0x08F)) :
    ∃ v, s.dev.special s.now k n = some v := by
  by_cases hp : 0x050 ≤ n ∧ n ≤ 0x08F
  · exact ⟨_, special_param _ _ _ hp⟩
  · obtain ⟨x, hx⟩ := h.resolve_right hp
    exact ⟨x, (special_eq_some_iff hp x).2 hx⟩

/-- No register of Table 5.2's list lies among the parameters. -/
theorem not_param_of_mem {n : Nat} {v : Word} (h : (n, v) ∈ specialSpec s k) : ¬ (0x050 ≤ n ∧ n ≤ 0x08F) := by
  simp only [specialSpec, List.mem_cons, Prod.mk.injEq, List.not_mem_nil, or_false] at h
  omega

end

/-- Settles O27: a listed number by `srd_reads`, another by `srd_traps`. -/
theorem specialRegistersAreRead : Obligations.SpecialRegistersAreRead := by
  unfold Obligations.SpecialRegistersAreRead
  intro s k p rd n ha hm
  refine ⟨fun v hv => srd_reads ha hm ((special_eq_some_iff (not_param_of_mem hv) v).2 hv), fun i hi hn => ?_,
    fun hv hp => srd_traps ha hm (special_eq_none hv hp)⟩
  have hparam := special_param s.dev s.now k (n := n.toNat) ⟨by omega, by omega⟩
  rw [show n.toNat - 0x050 = i by omega] at hparam
  exact srd_reads ha hm hparam

/-! ## SWR (R112) -/

section
variable (c : Core) (v word : Word)

theorem writeSpecial_trapPc :
    c.writeSpecial 0x010 v word = if v &&& 0x3FF8 = v then .done { c with trapPc := v } else .trap Cause.illegal word := rfl

theorem writeSpecial_ctxStatus : c.writeSpecial 0x020 v word =
    if v &&& 7 ≠ v then .trap Cause.illegal word
    else if v.getLsbD 2 then .trap Cause.priv 0x020
    else .done { c with rngWrap := c.rngWrap && !v.getLsbD 1, scopeClamped := c.scopeClamped && !v.getLsbD 0 } := rfl

theorem writeSpecial_fpstat : c.writeSpecial 0x021 v word =
    if v &&& 0x1F ≠ v then .trap Cause.illegal word
    else .done { c with fpstat := (c.fpstat &&& ~~~v.truncate 5) ||| c.newFlags } := rfl

theorem writeSpecial_other {n : Nat} (h1 : n ≠ 0x010) (h2 : n ≠ 0x020) (h3 : n ≠ 0x021) :
    c.writeSpecial n v word = .trap Cause.priv (BitVec.ofNat 64 n) := by
  unfold Core.writeSpecial
  split
  · exact absurd rfl h1
  · exact absurd rfl h2
  · exact absurd rfl h3
  · rfl

end

section
variable {s : State} {k : Nat} {p : Pred} {ra : Reg} {n : BitVec 32}

theorem swr_done {c : Core} {x : Word} (ha : s.actor = .core k) (hi : (s.dev.core k).issues p [ra])
    (hl : s.dev.special s.now k n.toNat = some x)
    (h : (s.dev.core k).writeSpecial n.toNat ((s.dev.core k).readG ra) (wordOfInstr (.swr p ra n)) = .done c) :
    exec (.swr p ra n) s = .next (s.completedCore k c) := by
  rw [show exec (.swr p ra n) s = execSwr p ra n s from rfl, execSwr]
  refine onCore_done ha ?_
  dsimp only
  rw [scalarDev_on _ hi.1 (any_pending hi.2), show s.ctx.now = s.now from rfl, hl]
  exact congrArg (CRes.lift s.dev k) h

theorem swr_trap {cause : Nat} {x info : Word} (ha : s.actor = .core k) (hi : (s.dev.core k).issues p [ra])
    (hl : s.dev.special s.now k n.toNat = some x)
    (h : (s.dev.core k).writeSpecial n.toNat ((s.dev.core k).readG ra) (wordOfInstr (.swr p ra n)) = .trap cause info) :
    exec (.swr p ra n) s = .next (s.trapped k cause info) := by
  rw [show exec (.swr p ra n) s = execSwr p ra n s from rfl, execSwr]
  refine onCore_trap ha ?_
  dsimp only
  rw [scalarDev_on _ hi.1 (any_pending hi.2), show s.ctx.now = s.now from rfl, hl]
  exact congrArg (CRes.lift s.dev k) h

theorem swr_unlisted (ha : s.actor = .core k) (hi : (s.dev.core k).issues p [ra]) (hl : s.dev.special s.now k n.toNat = none) :
    exec (.swr p ra n) s = .next (s.trapped k 0x01 (wordOfInstr (.swr p ra n))) := by
  rw [show exec (.swr p ra n) s = execSwr p ra n s from rfl, execSwr]
  refine onCore_trap ha ?_
  dsimp only
  rw [scalarDev_on _ hi.1 (any_pending hi.2), show s.ctx.now = s.now from rfl, hl]
  rfl

end

/-- Settles O28: each register by its branch of `writeSpecial`, an unlisted number by the check before it. -/
theorem specialRegistersAreWritten : Obligations.SpecialRegistersAreWritten := by
  unfold Obligations.SpecialRegistersAreWritten
  intro s k p ra n ha hi c v word
  have hpc := writeSpecial_trapPc c v word
  have hctx := writeSpecial_ctxStatus c v word
  have hfp := writeSpecial_fpstat c v word
  refine ⟨?_, ?_, ?_, ?_, ?_, ?_, ?_, fun h1 h2 h3 hl => ?_, fun hl hp => swr_unlisted ha hi (special_eq_none hl hp)⟩
  · rintro rfl hv
    exact swr_done ha hi rfl (hpc.trans (if_pos hv))
  · rintro rfl hv
    exact swr_trap ha hi rfl (hpc.trans (if_neg hv))
  · rintro rfl hv h2
    exact swr_done ha hi rfl (hctx.trans ((if_neg (not_not.2 hv)).trans (if_neg (Bool.eq_false_iff.1 h2))))
  · rintro rfl hv h2
    exact swr_trap ha hi rfl (hctx.trans ((if_neg (not_not.2 hv)).trans (if_pos h2)))
  · rintro rfl hv
    exact swr_trap ha hi rfl (hctx.trans (if_pos hv))
  · rintro rfl hv
    exact swr_done ha hi rfl (hfp.trans (if_neg (not_not.2 hv)))
  · rintro rfl hv
    exact swr_trap ha hi rfl (hfp.trans (if_pos hv))
  · have hne {m : BitVec 32} (h : n ≠ m) : n.toNat ≠ m.toNat := fun e => h (BitVec.eq_of_toNat_eq e)
    obtain ⟨x, hx⟩ := special_isSome hl
    refine (swr_trap ha hi hx (writeSpecial_other c v word (hne h1) (hne h2) (hne h3))).trans ?_
    rw [BitVec.ofNat_toNat]
    rfl

/-! ## TLBI (R113) -/

theorem field_eq {w : Nat} (x : BitVec w) (n : Nat) : field x 0 n = x.toNat % 2 ^ n := by
  simp [field]

theorem tlbi_traps {s : State} {k : Nat} (p : Pred) (rd ra : Reg) (kind : BitVec 32) (ha : s.actor = .core k)
    (hw : (s.dev.core k).world ≠ 0) :
    exec (.tlbi p rd ra kind) s = .next (s.trapped k 0x02 ((encode (.tlbi p rd ra kind)).getD 0)) := by
  rw [show exec (.tlbi p rd ra kind) s = execTlbi p rd ra kind s from rfl, execTlbi]
  exact onCore_trap ha (if_pos hw)

theorem tlbi_drops {s : State} {k : Nat} {p : Pred} {rd ra : Reg} (kind : BitVec 32) (ha : s.actor = .core k)
    (hw : (s.dev.core k).world = 0) (hi : (s.dev.core k).issues p [rd, ra]) :
    exec (.tlbi p rd ra kind) s = .next (s.completed k (s.dev.tlbi kind.toNat (((s.dev.core k).readG rd).toNat % 256)
      (((s.dev.core k).readG ra).toNat % 2 ^ 56)) ((s.dev.core k).pc + 8)) := by
  rw [show exec (.tlbi p rd ra kind) s = execTlbi p rd ra kind s from rfl, execTlbi]
  refine onCore_done ha ?_
  rw [if_neg (not_not.2 hw), scalarDev_on _ hi.1 (any_pending hi.2), field_eq, field_eq]
  rfl

/-- The stale translations that a TLBI leaves: those of other worlds than it names, and those of other addresses than it names. -/
theorem mem_stale_tlbi {d : Dev} {kind : BitVec 32} (world va : Nat) (hk : kind.toNat ≤ 2) (e : StaleLeaf) :
    e ∈ (d.tlbi kind.toNat world va).stale ↔ e ∈ d.stale ∧ (kind = 1 → e.world ≠ world) ∧ kind ≠ 0 ∧
      (kind = 2 → e.world = world → ∀ l ∈ [2, 3, 4], leafKeyAt l va ≠ e.key) := by
  have hkinds : kind = 0 ∨ kind = 1 ∨ kind = 2 := by bv_omega
  rcases hkinds with rfl | rfl | rfl <;> simp [Dev.tlbi, imp_iff_not_or (a := e.world = world)]

/-- Settles O29: the privilege check comes first, and the rest is a filter. -/
theorem translationsAreInvalidated : Obligations.TranslationsAreInvalidated := by
  unfold Obligations.TranslationsAreInvalidated
  intro s k p rd ra kind ha
  exact ⟨tlbi_traps p rd ra kind ha, fun hw hi hk => ⟨_, tlbi_drops kind ha hw hi, mem_stale_tlbi _ _ hk⟩⟩

end Sys2Proof.Proofs
end

section
/-! PROOFS. Lane results, reductions and scans (R144 to R146, R149, R156 to R161). -/

namespace Sys2Proof.Proofs

open Sys2Proof Sys2Proof.Machine Sys2Proof.Laws

/-! ## A lane instruction completes -/

section
variable {s : State} {k : Nat} {p : Pred} {gs vs : List Reg} {f : Core → Lane → CRes} {c' : Core}

theorem onRegs_done {f : Core → CRes} (ha : s.actor = .core k) (h : f (s.dev.core k) = .done c') :
    onRegs f s = .next (s.completedCore k c') :=
  onCore_done ha (congrArg (CRes.lift s.dev k) h)

theorem onRegs_lanes (ha : s.actor = .core k) (hi : (s.dev.core k).issuesV p gs vs)
    (h : f (s.dev.core k) ((s.dev.core k).mask p) = .done c') : onRegs (lanes p gs vs f) s = .next (s.completedCore k c') := by
  obtain ⟨⟨hm, hg⟩, hv⟩ := hi
  exact onRegs_done ha ((lanes_on f hm (any_pending hg) (any_pending hv)).trans h)

theorem onRegs_reducing (ha : s.actor = .core k) (hp : p.never = false) (hv : ∀ r ∈ vs, (s.dev.core k).pendingV r = false)
    (h : f (s.dev.core k) ((s.dev.core k).mask p) = .done c') : onRegs (reducing p vs f) s = .next (s.completedCore k c') :=
  onRegs_done ha ((reducing_on f hp (any_pending hv)).trans h)

end

/-! ## Elements, lane selectors and masks -/

theorem perElem2_eq (w : Nat) (f : Nat → Nat → Nat) (a b : Lane) :
    perElem2 w f a b = ofElems w (List.zipWith f (elems w a) (elems w b)) := by
  simp only [perElem2, ofElems, elems, elemOf, List.zipWith_map, List.zipWith_self]

theorem perElem1_eq (w : Nat) (f : Nat → Nat) (a : Lane) : perElem1 w f a = ofElems w ((elems w a).map f) := by
  simp only [perElem1, ofElems, elems, elemOf, List.map_map, Function.comp_def]

/-- A lane selector is its low five bits (R158). -/
theorem sel5_eq {w : Nat} (x : BitVec w) : sel5 x = x.toNat % 32 := by
  simp [sel5, field]

theorem activeLanes_and_one {j : Nat} (mask : Lane) (hj : j < 32) :
    activeLanes (mask &&& ((1 : Lane) <<< j)) = if mask.getLsbD j then [j] else [] := by
  have hbit : ∀ i ∈ List.range 32, (mask &&& ((1 : Lane) <<< j)).getLsbD i = (mask.getLsbD i && decide (i = j)) := by
    intro i hi
    have hi := List.mem_range.1 hi
    have hshift : ((1#32) <<< j).getLsbD i = decide (i = j) := by
      simp only [BitVec.getLsbD_shiftLeft, BitVec.getLsbD_one, hi, decide_true, Bool.true_and, Nat.zero_lt_succ]
      by_cases h : i = j
      · simp [h]
      · simp only [h, decide_false, Bool.and_eq_false_iff, Bool.not_eq_false', decide_eq_true_eq, decide_eq_false_iff_not]
        omega
    exact (BitVec.getLsbD_and).trans (congrArg (mask.getLsbD i && ·) hshift)
  have hone : (List.range 32).filter (fun i => decide (i = j)) = [j] := by
    rw [List.filter_eq, List.count_eq_one_of_mem List.nodup_range (List.mem_range.2 hj)]
    rfl
  calc activeLanes (mask &&& ((1 : Lane) <<< j))
      = (List.range 32).filter (fun i => mask.getLsbD i && decide (i = j)) := List.filter_congr hbit
    _ = [j].filter mask.getLsbD := by rw [← hone, List.filter_filter]
    _ = if mask.getLsbD j then [j] else [] := by cases h : mask.getLsbD j <;> simp [h]

theorem mask_of_never {p : Pred} (c : Core) (h : p.never = true) : c.mask p = 0 := by
  obtain ⟨hm, hpn⟩ : p.m = 0 ∧ p.pn = true := by simpa [Pred.never] using h
  simp [Core.mask, hm, hpn, Core.readM]

theorem never_eq_false {p : Pred} {c : Core} (h : ¬ (p.m = 0 ∧ p.pn = true) ∨ c.mask p ≠ 0) : p.never = false := by
  by_contra hn
  have hn : p.never = true := by simpa using hn
  rcases h with h | h
  · exact h (by simpa [Pred.never] using hn)
  · exact h (mask_of_never c hn)

/-! ## The tables (R149, R156 to R158) -/

section
variable {s : State} {k : Nat} {p : Pred} {rd ra rb : Reg}

theorem laneInt2_completes {w : Nat} {f : Nat → Nat → Nat} (ha : s.actor = .core k) (hi : (s.dev.core k).issuesV p [] [ra, rb]) :
    onRegs (laneInt2 p rd ra rb w f) s = .next (s.completedCore k ((s.dev.core k).writeV rd ((s.dev.core k).mask p) fun i =>
      ofElems w (List.zipWith f (elems w ((s.dev.core k).lane ra i)) (elems w ((s.dev.core k).lane rb i))))) := by
  simp only [← perElem2_eq]
  exact onRegs_lanes ha hi rfl

theorem laneInt1_completes {w : Nat} {f : Nat → Nat} (ha : s.actor = .core k) (hi : (s.dev.core k).issuesV p [] [ra]) :
    onRegs (laneInt1 p rd ra w f) s = .next (s.completedCore k ((s.dev.core k).writeV rd ((s.dev.core k).mask p) fun i =>
      ofElems w ((elems w ((s.dev.core k).lane ra i)).map f))) := by
  simp only [← perElem1_eq]
  exact onRegs_lanes ha hi rfl

end

theorem exec_laneSpec {i : Instr} {s : State} {k : Nat} {p : Pred} {d : Reg} {gs vs : List Reg} {f : Nat → Lane} (ha : s.actor = .core k)
    (hi : (s.dev.core k).issuesV p gs vs) (h : laneSpec (s.dev.core k) i = some (p, d, gs, vs, f)) :
    exec i s = .next (s.completedCore k ((s.dev.core k).writeV d ((s.dev.core k).mask p) f)) := by
  cases i with
  | vadd | vsub | vmul | vmulh | vshl | vshr | vsar | vmin | vmax =>
    cases h
    exact laneInt2_completes ha hi
  | vabs | vclz =>
    cases h
    exact laneInt1_completes ha hi
  | vand | vor | vxor | vsel | vsplat | viota | vmov =>
    cases h
    exact onRegs_lanes ha hi rfl
  | vshuf | vrot | vbcast =>
    cases h
    simp only [← sel5_eq]
    exact onRegs_lanes ha hi rfl
  | _ => cases h

theorem exec_maskSpec {i : Instr} {s : State} {k : Nat} {p : Pred} {d : Reg} {gs vs : List Reg} {x : Lane} (ha : s.actor = .core k)
    (hi : (s.dev.core k).issuesV p gs vs) (h : maskSpec (s.dev.core k) i = some (p, d, gs, vs, x)) :
    exec i s = .next (s.completedCore k ((s.dev.core k).writeM d.toNat ((s.dev.core k).mask p) x)) := by
  cases i with
  | mand | mor | mxor | mnot | mfromg | vcmp | vfcmp =>
    cases h
    exact onRegs_lanes ha hi rfl
  | _ => cases h

/-- Settles O33: each instruction of the two tables is a lane instruction whose element or lane values are the table's. -/
theorem laneResultsAreTheTables : Obligations.LaneResultsAreTheTables :=
  fun _ _ _ _ _ _ _ ha hi => ⟨fun _ h => exec_laneSpec ha hi h, fun _ h => exec_maskSpec ha hi h⟩

/-! ## Reductions, scans and one-lane moves (R146, R159 to R161) -/

/-- VINS writes the one lane that its selector names, where the predicate selects it. -/
theorem writeV_one_lane (c : Core) (rd : Reg) (mask x : Lane) {j : Nat} (hj : j < 32) :
    c.writeLanes rd (if mask.getLsbD j then [(j, x)] else []) = c.writeV rd (mask &&& ((1 : Lane) <<< j)) fun _ => x := by
  rw [Core.writeV, activeLanes_and_one mask hj]
  cases mask.getLsbD j <;> rfl

/-- A reducing instruction that its predicate does not turn off completes, whatever lanes are active. -/
theorem exec_reduces {i : Instr} {s : State} {k : Nat} {p : Pred} {gs vs : List Reg} {c' : Core} (ha : s.actor = .core k)
    (h : reduceSpec (s.dev.core k) i = some (p, gs, vs, c')) (hv : ∀ r ∈ vs, (s.dev.core k).pendingV r = false)
    (hr : reduces i = true) (hp : p.never = false) : exec i s = .next (s.completedCore k c') := by
  cases i with
  | mpopc | mfirst | vredadd | vredmax | vredmin | vcompact =>
    cases h
    exact onRegs_reducing ha hp hv rfl
  | vargmax q d a =>
    simp only [reduceSpec] at h
    split at h <;> cases h
    case h_1 j hj =>
      exact onRegs_reducing ha hp hv (by simp only [hj]; rfl)
    case h_2 hj =>
      exact onRegs_reducing ha hp hv (by simp only [hj])
  | _ => cases hr

/-- A scan or one-lane move completes where some lane is active. -/
theorem exec_scans {i : Instr} {s : State} {k : Nat} {p : Pred} {gs vs : List Reg} {c' : Core} (ha : s.actor = .core k)
    (h : reduceSpec (s.dev.core k) i = some (p, gs, vs, c')) (hi : (s.dev.core k).issuesV p gs vs) (hr : reduces i = false) :
    exec i s = .next (s.completedCore k c') := by
  cases i with
  | vext =>
    cases h
    simp only [← sel5_eq]
    exact onRegs_lanes ha hi rfl
  | vins =>
    cases h
    rw [← writeV_one_lane _ _ _ _ (Nat.mod_lt _ (by decide)), ← sel5_eq]
    exact onRegs_lanes ha hi rfl
  | vscan =>
    cases h
    exact onRegs_lanes ha hi (by simp only [Core.writeV, writeLanes_fpstat])
  | vrng =>
    cases h
    rw [Bool.or_assoc]
    exact onRegs_lanes ha hi rfl
  | mpopc | mfirst | vredadd | vredmax | vredmin | vargmax | vcompact => cases hr
  | _ => cases h

/-- Settles O36: the reducing instructions act unless their predicate is m0 negated, the others where some lane is active. -/
theorem reductionsAreTheTables : Obligations.ReductionsAreTheTables := by
  intro i s k p gs vs c' ha h hg hv hact
  cases hr : reduces i with
  | true => exact exec_reduces ha h hv hr (never_eq_false (hact.imp And.right id))
  | false => exact exec_scans ha h ⟨⟨(hact.resolve_left fun e => by simp [hr] at e), hg⟩, hv⟩ hr

end Sys2Proof.Proofs
end

section
/-! PROOFS. Instructions that their predicate turns off (R87). -/

namespace Sys2Proof.Proofs

open Sys2Proof Sys2Proof.Machine Sys2Proof.Laws

/-- A core put back as it stands changes nothing that retiring it keeps. -/
theorem completedCore_self (s : State) (k : Nat) :
    s.completedCore k (s.dev.core k) = s.completed k s.dev ((s.dev.core k).pc + 8) := by
  simp [State.completedCore, State.completed, Dev.retire]

theorem count_none (d : Dev) (w i : Nat) : d.count w i 0 = d := if_pos rfl

theorem scalarDev_off {p : Pred} {d : Dev} {k : Nat} (gs : List Reg) (f : Core → Res) (hm : (d.core k).mask p = 0) :
    scalarDev p gs f d k = .done d := if_pos hm

theorem lanes_off {p : Pred} {c : Core} (gs vs : List Reg) (f : Core → Lane → CRes) (hm : c.mask p = 0) :
    lanes p gs vs f c = .done c := if_pos hm

/-! ## Each shape of instruction, turned off -/

section
variable {s : State} {k : Nat} {p : Pred}

theorem onCore_off {gs : List Reg} {f : Ctx → Nat → Dev → Core → Res} (ha : s.actor = .core k) (hm : (s.dev.core k).mask p = 0) :
    onCore (fun x k d => scalarDev p gs (f x k d) d k) s = .next (s.completedCore k (s.dev.core k)) := by
  rw [completedCore_self]
  exact onCore_done ha (scalarDev_off _ _ hm)

theorem memory_off {gs vs : List Reg} {f : Core → Lane → Access} (ha : s.actor = .core k) (hm : (s.dev.core k).mask p = 0) :
    memory p gs vs f s = .next (s.completedCore k (s.dev.core k)) := onCore_off ha hm

theorem atomic_off {op : AtomicOp} {sz : BitVec 3} {rd base idx : Reg} {disp : BitVec 24} (ha : s.actor = .core k)
    (hm : (s.dev.core k).mask p = 0) : atomic op p sz rd base idx disp s = .next (s.completedCore k (s.dev.core k)) :=
  memory_off ha hm

theorem laneAtomic_off {op : AtomicOp} {rd base idx : Reg} {disp : BitVec 24} (ha : s.actor = .core k)
    (hm : (s.dev.core k).mask p = 0) : laneAtomic op p rd base idx disp s = .next (s.completedCore k (s.dev.core k)) :=
  memory_off ha hm

theorem channel_off {h : BitVec 4} {gs : List Reg} {producer : Option Bool} {f : Ctx → Nat → Dev → Core → Nat → Chan → Res}
    (ha : s.actor = .core k) (hm : (s.dev.core k).mask p = 0) :
    channel p h gs producer f s = .next (s.completedCore k (s.dev.core k)) := onCore_off ha hm

theorem onCoreSync_off {gs : List Reg} {f : Ctx → Nat → Dev → Core → Res} (ha : s.actor = .core k)
    (hb : (s.dev.core k).blocked = false) (hm : (s.dev.core k).mask p = 0) :
    onCoreSync (fun x k d => scalarDev p gs (f x k d) d k) s = .next (s.completedCore k (s.dev.core k)) := by
  rw [completedCore_self, onCoreSync_core _ ha hb, scalarDev_off _ _ hm]
  rfl

theorem onRegs_scalar_off {gs : List Reg} {f : Core → CRes} (ha : s.actor = .core k) (hm : (s.dev.core k).mask p = 0) :
    onRegs (scalar p gs f) s = .next (s.completedCore k (s.dev.core k)) :=
  onRegs_done ha (scalar_off _ _ hm)

theorem onBoth_scalar_off {gs regs : List Reg} {f : Core → CRes} {g : Plane → Prog → Option Prog} (ha : s.actor = .core k)
    (hm : (s.dev.core k).mask p = 0) : onBoth regs p (scalar p gs f) g s = .next (s.completedCore k (s.dev.core k)) := by
  rw [onBoth_core _ _ _ _ ha, scalar_off _ _ hm]
  rfl

theorem onRegs_lanes_off {gs vs : List Reg} {f : Core → Lane → CRes} (ha : s.actor = .core k) (hm : (s.dev.core k).mask p = 0) :
    onRegs (lanes p gs vs f) s = .next (s.completedCore k (s.dev.core k)) :=
  onRegs_done ha (lanes_off _ _ _ hm)

theorem laneFloat_off {vs : List Reg} {rd : Reg} {n : Nat} {f : Core → Nat → Lane × BitVec 5} (ha : s.actor = .core k)
    (hm : (s.dev.core k).mask p = 0) : laneFloat p vs rd n f s = .next (s.completedCore k (s.dev.core k)) := by
  refine onCore_done ha ?_
  dsimp only
  rw [lanes_off _ _ _ hm, hm, activeLanes_eq_nil_iff.2 rfl, List.length_nil, Nat.mul_zero, count_none]
  rfl

theorem laneUnit_off {md : BitVec 4} {rd ra : Reg} {f : FOp1} (ha : s.actor = .core k) (hm : (s.dev.core k).mask p = 0) :
    laneUnit p md rd ra f s = .next (s.completedCore k (s.dev.core k)) := by
  refine onCore_done ha ?_
  dsimp only
  rw [lanes_off _ _ _ hm, hm, activeLanes_eq_nil_iff.2 rfl, List.length_nil, count_none]
  rfl

theorem vfcvt_off {dst md : BitVec 4} {rd ra src part : Reg} {x y : NumFmt} (ha : s.actor = .core k)
    (hm : (s.dev.core k).mask p = 0) (hx : numFmt src.toNat = some x) (hy : numFmt dst.toNat = some y) :
    execVfcvt p dst md rd ra src part s = .next (s.completedCore k (s.dev.core k)) := by
  refine onCore_done ha ?_
  dsimp only
  rw [hx, hy]
  dsimp only
  rw [lanes_off _ _ _ hm, hm, activeLanes_eq_nil_iff.2 rfl, List.length_nil, Nat.mul_zero, count_none]
  rfl

end

/-- The conversions of Table 9.4 that are well-formed name listed formats. -/
theorem numFmt_of_cvtFormat {n : Nat} (h : cvtFormat n = true) : ∃ x, numFmt n = some x := by
  match n with
  | 0 | 1 | 2 | 3 | 4 | 5 | 6 | 7 | 8 | 9 | 10 | 11 => exact ⟨_, rfl⟩
  | n + 12 => cases h

/-- Settles O20: the shape of each predicated instruction does nothing under an empty mask. -/
theorem predicatedOffDoesNothing : Obligations.PredicatedOffDoesNothing := by
  intro i p s k ha hb hwf hp hr hm
  cases i with
  | srd | swr | cbind | ksend =>
    cases hp
    unfold exec
    exact onCore_off ha hm
  | ld | vld | vldg | vldb | st | vst | vsts | acas =>
    cases hp
    unfold exec
    exact memory_off ha hm
  | aadd | amin | amax | aand | aor | axor | axchg =>
    cases hp
    unfold exec
    exact atomic_off ha hm
  | vaadd | vamax =>
    cases hp
    unfold exec
    exact laneAtomic_off ha hm
  | cwait | cresv | cpush | cpeek | cpadv | ccadv | cmark | cstat =>
    cases hp
    unfold exec
    exact channel_off ha hm
  | bar | bara | barw | barx | barset =>
    cases hp
    unfold exec
    exact onCoreSync_off ha hb hm
  | add | addi =>
    cases hp
    unfold exec
    exact onBoth_scalar_off ha hm
  | sub | mul | mulh | mulhu | div | divu | rem | remu | and | or | xor | andn | shl | shr | sar | rol | min | max | minu | maxu
  | clz | popc | sext | zext | sel | cmp | andi | ori | xori | shli | shri | sari | cmpi | movi | movhi | mtog | pref | kpoll =>
    cases hp
    exact onRegs_scalar_off ha hm
  | vadd | vsub | vmul | vmulh | vand | vor | vxor | vshl | vshr | vsar | vmin | vmax | vabs | vsel | vsplat | viota | vmov | vclz
  | vcmp | vfcmp | mand | mor | mxor | mnot | mfromg | vshuf | vrot | vbcast | vext | vins | vscan | vrng =>
    cases hp
    exact onRegs_lanes_off ha hm
  | vfadd | vfsub | vfmul | vfma | vfmin | vfmax | vfabs | vfneg | vfscl =>
    cases hp
    exact laneFloat_off ha hm
  | vexp2 | vlog2 | vrcp | vrsq =>
    cases hp
    exact laneUnit_off ha hm
  | vfcvt q dst md d a src part =>
    cases hp
    simp only [wellFormed, Bool.and_eq_true] at hwf
    obtain ⟨⟨⟨⟨⟨hdst, hsrc⟩, -⟩, -⟩, -⟩, -⟩ := hwf
    obtain ⟨x, hx⟩ := numFmt_of_cvtFormat hsrc
    obtain ⟨y, hy⟩ := numFmt_of_cvtFormat hdst
    exact vfcvt_off ha hm hx hy
  | vredadd | vredmax | vredmin | vargmax | mpopc | mfirst | vcompact => cases hr
  | _ => cases hp

end Sys2Proof.Proofs
end

section
/-! PROOFS. The frame of the register-only instructions (R87, R114, R116, R145). -/

namespace Sys2Proof.Proofs

open Sys2Proof Sys2Proof.Machine Sys2Proof.Laws

/-! ## What an instruction keeps of its core -/

/-- What instruction `i`, with scalar destinations `ds`, keeps of its core whether it completes, stalls or traps. -/
structure Frames (i : Instr) (ds : List Reg) (c c' : Core) : Prop where
  g : ∀ r : Reg, r ∉ ds → c'.readG r = c.readG r
  v : ∀ (r : Reg) n, n < 32 → r ∉ lanesWritten i → c'.lane r n = c.lane r n
  m : ∀ r : Reg, r ∉ masksWritten i → c'.readM r.toNat = c.readM r.toNat
  fpstat : setsFpstat i = false → c'.fpstat = c.fpstat
  rngWrap : (∀ p d a b e, i ≠ .vrng p d a b e) → c'.rngWrap = c.rngWrap
  rets : c'.rets = c.rets
  resident : c'.resident = c.resident
  spilled : c'.spilled = c.spilled
  planes : c'.planes = c.planes
  handles : c'.handles = c.handles
  ports : c'.ports = c.ports
  latch : c'.latch = c.latch
  ltime : c'.ltime = c.ltime
  scopeClamped : c'.scopeClamped = c.scopeClamped

/-- What it keeps besides, unless it traps. -/
structure SameTraps (c c' : Core) : Prop where
  trapPc : c'.trapPc = c.trapPc
  trapCause : c'.trapCause = c.trapCause
  trapInfo : c'.trapInfo = c.trapInfo
  inHandler : c'.inHandler = c.inHandler
  halted : c'.halted = c.halted

/-- A core as the instruction leaves it when it completes. -/
def Completes (i : Instr) (ds : List Reg) (c c' : Core) : Prop := Frames i ds c c' ∧ SameTraps c c'

section
variable {i : Instr} {ds : List Reg} {c c' c'' : Core}

theorem Completes.refl (i : Instr) (ds : List Reg) (c : Core) : Completes i ds c c := by
  constructor <;> constructor <;> intros <;> rfl

theorem Completes.trans (h : Completes i ds c c') (h' : Completes i ds c' c'') : Completes i ds c c'' := by
  obtain ⟨hf, ht⟩ := h
  obtain ⟨hf', ht'⟩ := h'
  exact ⟨⟨fun r hr => (hf'.g r hr).trans (hf.g r hr), fun r n hn hr => (hf'.v r n hn hr).trans (hf.v r n hn hr),
      fun r hr => (hf'.m r hr).trans (hf.m r hr), fun e => (hf'.fpstat e).trans (hf.fpstat e),
      fun e => (hf'.rngWrap e).trans (hf.rngWrap e), hf'.rets.trans hf.rets, hf'.resident.trans hf.resident,
      hf'.spilled.trans hf.spilled, hf'.planes.trans hf.planes, hf'.handles.trans hf.handles, hf'.ports.trans hf.ports,
      hf'.latch.trans hf.latch, hf'.ltime.trans hf.ltime, hf'.scopeClamped.trans hf.scopeClamped⟩,
    ⟨ht'.trapPc.trans ht.trapPc, ht'.trapCause.trans ht.trapCause, ht'.trapInfo.trans ht.trapInfo,
      ht'.inHandler.trans ht.inHandler, ht'.halted.trans ht.halted⟩⟩

/-! ## The writes of a core -/

theorem completes_writeG {d : Reg} (x : Word) (hd : d ∈ ds) : Completes i ds c (c.writeG d x) := by
  constructor <;> constructor <;> intros
  case left.g r hr => exact readG_writeG_other c x fun e => hr (e ▸ hd)
  all_goals simp [Core.lane, Core.readM]

theorem lane_writeLanes_other {d r : Reg} {xs : List (Nat × Lane)} {n : Nat} (c : Core) (hxs : ∀ x ∈ xs, x.1 < 32) (hn : n < 32)
    (h : r ≠ d) : (c.writeLanes d xs).lane r n = c.lane r n := by
  unfold Core.writeLanes
  split
  · rfl
  · refine get_setLanes_other xs c.v d.toNat _ fun x hx e => h (BitVec.eq_of_toNat_eq ?_)
    have := hxs x hx
    omega

theorem completes_writeLanes {d : Reg} {xs : List (Nat × Lane)} (hd : d ∈ lanesWritten i) (hxs : ∀ x ∈ xs, x.1 < 32) :
    Completes i ds c (c.writeLanes d xs) := by
  constructor <;> constructor <;> intros
  case left.v r n hn hr => exact lane_writeLanes_other c hxs hn fun e => hr (e ▸ hd)
  all_goals simp [Core.readG, Core.gAt, Core.depth, Core.readM]

theorem fst_lt_of_activeLanes {α : Type} (mask : Lane) (f : Nat → α) (g : α → Lane) :
    ∀ x ∈ ((activeLanes mask).map fun j => (j, f j)).map fun x => (x.1, g x.2), x.1 < 32 := by
  intro x hx
  simp only [List.map_map, List.mem_map, Function.comp_apply] at hx
  obtain ⟨j, hj, rfl⟩ := hx
  exact ((mem_activeLanes mask j).1 hj).1

theorem completes_writeV {d : Reg} {mask : Lane} {f : Nat → Lane} (hd : d ∈ lanesWritten i) : Completes i ds c (c.writeV d mask f) := by
  refine completes_writeLanes hd fun x hx => ?_
  obtain ⟨j, hj, rfl⟩ := List.mem_map.1 hx
  exact ((mem_activeLanes mask j).1 hj).1

theorem completes_writeM {d : Reg} {mask x : Lane} (hd : d ∈ masksWritten i) : Completes i ds c (c.writeM d.toNat mask x) := by
  constructor <;> constructor <;> intros
  case left.m r hr => exact readM_writeM_other c mask x fun e => hr (BitVec.eq_of_toNat_eq e ▸ hd)
  all_goals simp [Core.readG, Core.gAt, Core.depth, Core.lane]

theorem completes_launch {dst : Dst} {vals : List (Nat × Word)} {flags : BitVec 5} {timer : Option Nat} :
    Completes i ds c (c.launch dst vals flags timer) := by
  constructor <;> constructor <;> intros <;> rfl

theorem completes_fpstat {x : BitVec 5} (h : setsFpstat i = true) : Completes i ds c { c with fpstat := x } := by
  constructor <;> constructor <;> intros
  case left.fpstat e => exact absurd (h.symm.trans e) (by decide)
  all_goals rfl

theorem completes_counts {x : BitVec 5} {n : Counts} (h : setsFpstat i = true) : Completes i ds c { c with fpstat := x, counts := n } := by
  constructor <;> constructor <;> intros
  case left.fpstat e => exact absurd (h.symm.trans e) (by decide)
  all_goals rfl

theorem completes_rngWrap {p : Pred} {d a b e : Reg} {x : Bool} : Completes (.vrng p d a b e) ds c { c with rngWrap := x } := by
  constructor <;> constructor <;> intros
  case left.rngWrap h => exact absurd rfl (h p d a b e)
  all_goals rfl

end

/-! ## The outcomes of an instruction -/

/-- An outcome for the core alone that keeps the frame. -/
def FramedC (i : Instr) (ds : List Reg) (c : Core) : CRes → Prop
  | .done c' => Completes i ds c c'
  | .jump _ _ => False
  | .trap _ _ => mayTrap i = true
  | .stall _ => True

/-- The same for the device, of which the counters of the worlds alone may change besides. -/
def FramedD (i : Instr) (ds : List Reg) (k : Nat) (d : Dev) : Res → Prop
  | .done d' => ∃ ws c', d' = { d.setCore k c' with worlds := ws } ∧ Completes i ds (d.core k) c'
  | .trap _ _ => mayTrap i = true
  | .stall _ => True
  | .jump _ _ | .trapNext _ _ _ | .trapPart _ _ _ | .wait _ _ _ => False

/-- What an instruction keeps of the device. -/
structure DevFrame (i : Instr) (ds : List Reg) (k : Nat) (d d' : Dev) : Prop where
  mem : d'.mem = d.mem
  core : ∀ j, j ≠ k → d'.core j = d.core j
  quad : ∀ q, d'.quad q = d.quad q
  frames : Frames i ds (d.core k) (d'.core k)
  traps : mayTrap i = false → SameTraps (d.core k) (d'.core k)

section
variable {i : Instr} {ds : List Reg} {k : Nat} {d : Dev}

/-- A core's wait, stage and pc are outside the frame. -/
theorem Completes.waits {c c' : Core} (h : Completes i ds c c') (pc : Word) (st : Stage) (w : Option Wait) :
    Completes i ds c { c' with pc := pc, stage := st, wait := w } :=
  h.trans (by constructor <;> constructor <;> intros <;> rfl)

theorem devFrame_retire {ws : Tab World} {c' : Core} (pc : Word) (h : Completes i ds (d.core k) c') :
    DevFrame i ds k d (({ d.setCore k c' with worlds := ws } : Dev).retire k pc) := by
  have hcore : ({ d.setCore k c' with worlds := ws } : Dev).core k = c' := core_setCore d k c'
  have hkeeps : Completes i ds (d.core k) ((({ d.setCore k c' with worlds := ws } : Dev).retire k pc).core k) := by
    rw [core_retire, hcore]
    exact h.waits _ _ _
  exact ⟨by rw [mem_retire]; rfl, fun j hj => by rw [core_retire_other _ _ hj]; exact core_setCore_other d c' hj,
    fun q => by rw [quad_retire]; rfl, hkeeps.1, fun _ => hkeeps.2⟩

/-- The trap registers, the halt and the handler's pc are outside the frame of an instruction that traps. -/
theorem frames_trap (c : Core) (cause : Nat) (info pc pc' : Word) (handler halted : Bool) :
    Frames i ds c { c.setTrap cause info pc with pc := pc', inHandler := handler, halted := halted } := by
  constructor <;> intros <;> rfl

theorem frames_halt (c : Core) (h : Bool) : Frames i ds c { c with halted := h, wait := none, stage := .none } := by
  constructor <;> intros <;> rfl

theorem devFrame_setCore {c' : Core} (hf : Frames i ds (d.core k) c') (ht : mayTrap i = false → SameTraps (d.core k) c') :
    DevFrame i ds k d (d.setCore k c') :=
  ⟨rfl, fun _ hj => core_setCore_other d c' hj, fun _ => rfl, by rwa [core_setCore], by rwa [core_setCore]⟩

/-- A core that halts is reported to the host, which is outside the frame. -/
theorem DevFrame.trapEvent {d' : Dev} (h : DevFrame i ds k d d') (now : Now) (j cause : Nat) (info pc : Word) :
    DevFrame i ds k d (d'.trapEvent now j cause info pc) := by
  obtain ⟨hm, hc, hq, hf, ht⟩ := h
  exact ⟨by rwa [mem_trapEvent], by simpa using hc, fun q => by rw [Dev.trapEvent, quad_event]; exact hq q, by rwa [core_trapEvent],
    by rwa [core_trapEvent]⟩

theorem DevFrame.issued {d' : Dev} (h : DevFrame i ds k (d.issued k) d') : DevFrame i ds k d d' := by
  obtain ⟨hm, hc, hq, hf, ht⟩ := h
  simp only [Dev.issued, mem_count, core_count, quad_count] at hm hc hq hf ht
  exact ⟨hm, hc, hq, hf, ht⟩

theorem devFrame_takeTrap (now : Now) (cause : Nat) (info pc : Word) (h : mayTrap i = true) :
    DevFrame i ds k d (d.takeTrap now k cause info pc) := by
  have hno : ∀ {P : Prop}, mayTrap i = false → P := fun e => absurd (h.symm.trans e) (by decide)
  rcases takeTrapAt_cases d now k cause info pc pc with ⟨-, e⟩ | ⟨-, -, e⟩ | ⟨-, -, -, e⟩ <;> rw [Dev.takeTrap, e]
  · exact (devFrame_setCore (frames_halt _ _) hno).trapEvent _ _ _ _ _
  · exact (devFrame_setCore (frames_trap _ _ _ _ _ _ _) hno).trapEvent _ _ _ _ _
  · exact devFrame_setCore (frames_trap _ _ _ _ _ _ _) hno

theorem devFrame_finish {r : Res} (now : Now) (h : FramedD i ds k d r) : DevFrame i ds k d (d.finish now k r) := by
  cases r with
  | done d' =>
    obtain ⟨ws, c', rfl, hc⟩ := h
    exact devFrame_retire _ hc
  | trap cause info => exact (devFrame_takeTrap now cause info _ h).issued
  | stall w =>
    have hkeeps := (Completes.refl i ds (d.core k)).waits (d.core k).pc (d.core k).stage (some (w.getD Wait.stalled))
    exact devFrame_setCore hkeeps.1 fun _ => hkeeps.2
  | jump | trapNext | trapPart | wait => exact h.elim

theorem framedD_lift {r : CRes} (h : FramedC i ds (d.core k) r) : FramedD i ds k d (r.lift d k) := by
  cases r with
  | done c' => exact ⟨d.worlds, c', rfl, h⟩
  | trap | stall => exact h
  | jump => exact h.elim

end

/-! ## The shapes of the register-only instructions -/

section
variable {i : Instr} {ds : List Reg} {s t : State} {k : Nat} {p : Pred} {gs vs : List Reg}

theorem onCore_frame {f : Ctx → Nat → Dev → Res} (ha : s.actor = .core k) (ht : onCore f s = .next t)
    (hf : FramedD i ds k s.dev (f s.ctx k s.dev)) : DevFrame i ds k s.dev t.dev := by
  rw [onCore_core _ ha] at ht
  cases ht
  exact devFrame_finish _ hf

theorem onRegs_frame {f : Core → CRes} (ha : s.actor = .core k) (ht : onRegs f s = .next t)
    (hf : FramedC i ds (s.dev.core k) (f (s.dev.core k))) : DevFrame i ds k s.dev t.dev :=
  onCore_frame ha ht (framedD_lift hf)

theorem onBoth_frame {regs : List Reg} {f : Core → CRes} {g : Plane → Prog → Option Prog} (ha : s.actor = .core k)
    (ht : onBoth regs p f g s = .next t) (hf : FramedC i ds (s.dev.core k) (f (s.dev.core k))) : DevFrame i ds k s.dev t.dev := by
  rw [onBoth_core _ _ _ _ ha] at ht
  cases ht
  exact devFrame_finish _ (framedD_lift hf)

theorem framedC_scalar {f : Core → CRes} {c : Core} (h : FramedC i ds c (f c)) : FramedC i ds c (scalar p gs f c) := by
  unfold scalar
  split_ifs
  exacts [Completes.refl i ds c, trivial, h]

/-- The three ways of a lane instruction: nothing is selected, it stalls, or it acts. -/
theorem lanes_cases (p : Pred) (gs vs : List Reg) (f : Core → Lane → CRes) (c : Core) :
    lanes p gs vs f c = .done c ∨ lanes p gs vs f c = .stall none ∨ lanes p gs vs f c = f c (c.mask p) := by
  unfold lanes
  split_ifs <;> simp

theorem framedC_lanes {f : Core → Lane → CRes} {c : Core} (h : FramedC i ds c (f c (c.mask p))) :
    FramedC i ds c (lanes p gs vs f c) := by
  rcases lanes_cases p gs vs f c with e | e | e <;> rw [e]
  exacts [Completes.refl i ds c, trivial, h]

theorem framedC_reducing {f : Core → Lane → CRes} {c : Core} (h : FramedC i ds c (f c (c.mask p))) :
    FramedC i ds c (reducing p vs f c) := by
  unfold reducing
  split_ifs
  exacts [Completes.refl i ds c, trivial, h]

/-- Counting operations is outside the frame. -/
theorem framedD_count {c' : Core} (w j n : Nat) (h : Completes i ds (s.dev.core k) c') :
    FramedD i ds k s.dev (.done ((s.dev.count w j n).setCore k c')) := by
  obtain ⟨ws, hws⟩ := count_eq s.dev w j n
  exact ⟨ws, c', by rw [hws]; rfl, h⟩

theorem laneFloat_frame {rd : Reg} {n : Nat} {f : Core → Nat → Lane × BitVec 5} (ha : s.actor = .core k) (hd : rd ∈ lanesWritten i)
    (hfp : setsFpstat i = true) (ht : laneFloat p vs rd n f s = .next t) : DevFrame i ds k s.dev t.dev := by
  refine onCore_frame ha ht ?_
  dsimp only
  generalize hres : lanes p [] vs _ (s.dev.core k) = res
  have hr : FramedC i ds (s.dev.core k) res := by
    rw [← hres]
    refine framedC_lanes (Completes.trans (completes_writeLanes hd ?_) (completes_fpstat hfp))
    exact fst_lt_of_activeLanes _ _ Prod.fst
  cases res with
  | done c' => exact framedD_count _ _ _ hr
  | _ => exact framedD_lift hr

theorem laneUnit_frame {md : BitVec 4} {rd ra : Reg} {f : FOp1} (ha : s.actor = .core k) (ht : laneUnit p md rd ra f s = .next t) :
    DevFrame i ds k s.dev t.dev := by
  refine onCore_frame ha ht ?_
  dsimp only
  generalize hres : lanes p [] [ra] _ (s.dev.core k) = res
  have hr : FramedC i ds (s.dev.core k) res := by
    rw [← hres]
    exact framedC_lanes completes_launch
  cases res with
  | done c' => exact framedD_count _ _ _ hr
  | _ => exact framedD_lift hr

theorem vfcvt_frame {dst md : BitVec 4} {rd ra src part : Reg} (ha : s.actor = .core k)
    (ht : execVfcvt p dst md rd ra src part s = .next t) : DevFrame (.vfcvt p dst md rd ra src part) ds k s.dev t.dev := by
  refine onCore_frame ha ht ?_
  dsimp only
  split
  · generalize hres : lanes p [] [ra] _ (s.dev.core k) = res
    have hr : FramedC (.vfcvt p dst md rd ra src part) ds (s.dev.core k) res := by
      rw [← hres]
      refine framedC_lanes (Completes.trans (completes_writeLanes (List.mem_singleton_self rd) ?_) (completes_counts rfl))
      exact fst_lt_of_activeLanes _ _ Prod.fst
    cases res with
    | done c' => exact framedD_count _ _ _ hr
    | _ => exact framedD_lift hr
  · next h =>
    change ((numFmt src.toNat).isNone || (numFmt dst.toNat).isNone) = true
    rw [Bool.or_eq_true, Option.isNone_iff_eq_none, Option.isNone_iff_eq_none]
    by_contra hn
    obtain ⟨hx, hy⟩ := not_or.1 hn
    obtain ⟨x, hx⟩ := Option.ne_none_iff_exists'.1 hx
    obtain ⟨y, hy⟩ := Option.ne_none_iff_exists'.1 hy
    exact h x y hx hy

theorem shiftImm_frame {rd ra : Reg} {imm : BitVec 32} {f : Word → Nat → Word} (ha : s.actor = .core k) (hd : rd ∈ ds)
    (hi : mayTrap i = decide (63 < imm.toNat)) (ht : onRegs (shiftImm p rd ra imm i f) s = .next t) : DevFrame i ds k s.dev t.dev := by
  refine onRegs_frame ha ht (framedC_scalar ?_)
  split_ifs with h
  · exact completes_writeG _ hd
  · exact hi.trans (decide_eq_true (by omega))

end

/-! ## The instructions -/

theorem exec_frame {i : Instr} {ds : List Reg} {s t : State} {k : Nat} (ha : s.actor = .core k) (hds : regWrites i = some ds)
    (ht : exec i s = .next t) : DevFrame i ds k s.dev t.dev := by
  cases i with
  | add | addi =>
    cases hds
    unfold exec at ht
    exact onBoth_frame ha ht (framedC_scalar (completes_writeG _ (List.mem_singleton_self _)))
  | sub | mul | mulh | mulhu | and | or | xor | andn | shl | shr | sar | rol | min | max | minu | maxu | clz | popc | sext | zext
  | sel | cmp | andi | ori | xori | cmpi | movi | movhi | mtog =>
    cases hds
    exact onRegs_frame ha ht (framedC_scalar (completes_writeG _ (List.mem_singleton_self _)))
  | div | divu | rem | remu =>
    cases hds
    exact onRegs_frame ha ht (framedC_scalar completes_launch)
  | shli | shri | sari =>
    cases hds
    exact shiftImm_frame ha (List.mem_singleton_self _) rfl ht
  | vadd | vsub | vmul | vmulh | vand | vor | vxor | vshl | vshr | vsar | vmin | vmax | vabs | vsel | vsplat | viota | vmov | vclz
  | vshuf | vrot | vbcast =>
    cases hds
    exact onRegs_frame ha ht (framedC_lanes (completes_writeV (List.mem_singleton_self _)))
  | vcmp | vfcmp | mand | mor | mxor | mnot | mfromg =>
    cases hds
    exact onRegs_frame ha ht (framedC_lanes (completes_writeM (List.mem_singleton_self _)))
  | vfadd | vfsub | vfmul | vfma | vfmin | vfmax | vfabs | vfneg | vfscl =>
    cases hds
    exact laneFloat_frame ha (List.mem_singleton_self _) rfl ht
  | vexp2 | vlog2 | vrcp | vrsq =>
    cases hds
    exact laneUnit_frame ha ht
  | vfcvt =>
    cases hds
    exact vfcvt_frame ha ht
  | vext =>
    cases hds
    exact onRegs_frame ha ht (framedC_lanes (completes_writeG _ (List.mem_singleton_self _)))
  | vins p d a b =>
    cases hds
    refine onRegs_frame ha ht (framedC_lanes (completes_writeLanes (List.mem_singleton_self d) ?_))
    split_ifs
    · exact fun x hx => (List.mem_singleton.1 hx) ▸ Nat.mod_lt _ (by decide)
    · exact fun x hx => absurd hx List.not_mem_nil
  | vscan =>
    cases hds
    exact onRegs_frame ha ht (framedC_lanes (Completes.trans (completes_writeV (List.mem_singleton_self _)) (completes_fpstat rfl)))
  | vrng =>
    cases hds
    exact onRegs_frame ha ht (framedC_lanes (Completes.trans (completes_writeV (List.mem_singleton_self _)) completes_rngWrap))
  | mpopc | mfirst =>
    cases hds
    exact onRegs_frame ha ht (framedC_reducing (completes_writeG _ (List.mem_singleton_self _)))
  | vredadd | vredmax | vredmin =>
    cases hds
    exact onRegs_frame ha ht (framedC_reducing (Completes.trans (completes_writeG _ (List.mem_singleton_self _)) (completes_fpstat rfl)))
  | vargmax p d a =>
    cases hds
    exact onRegs_frame ha ht (framedC_reducing (Completes.trans (completes_writeG _ List.mem_cons_self)
      (completes_writeG _ (List.mem_cons_of_mem _ (List.mem_singleton_self _)))))
  | vcompact p d a b =>
    cases hds
    refine onRegs_frame ha ht (framedC_reducing (Completes.trans (completes_writeLanes (List.mem_singleton_self d) fun x hx => ?_)
      (completes_writeG _ (List.mem_singleton_self _))))
    have hlt := List.mem_range.1 (List.of_mem_zip hx).1
    rw [List.length_map] at hlt
    exact hlt.trans_le ((List.length_filter_le _ _).trans (List.length_range ▸ le_rfl))
  | _ => cases hds

/-- Settles O21: every shape of a register-only instruction keeps its frame, whether it completes, stalls or traps. -/
theorem registerInstructionsFrame : Obligations.RegisterInstructionsFrame := by
  intro i ds s t k ha hds ht
  obtain ⟨hmem, hcore, hquad, hf, htraps⟩ := exec_frame ha hds ht
  exact ⟨fun _ => by rw [hmem], hcore, hquad, hf.g, hf.rets, hf.resident, hf.spilled, hf.planes, hf.handles, hf.ports, hf.latch,
    hf.ltime, hf.v, hf.m, hf.fpstat, hf.rngWrap, hf.scopeClamped,
    fun h => ⟨(htraps h).trapPc, (htraps h).trapCause, (htraps h).trapInfo, (htraps h).inHandler, (htraps h).halted⟩⟩

end Sys2Proof.Proofs
end

section
/-! PROOFS. Files, re-admission and the management of the device (R101, R103, R275, R307, R314, R322, R324, R327, R328). -/

namespace Sys2Proof.Proofs

open Sys2Proof Sys2Proof.Machine Sys2Proof.Laws

/-! ## What events and mappings keep of a world -/

/-- What the loader alone changes: the program table, the code pages and the record of measurements. -/
structure SameCode (x y : World) : Prop where
  programs : y.programs = x.programs
  code : y.code = x.code
  measurement : y.measurement = x.measurement
  extensions : y.extensions = x.extensions

theorem SameCode.refl (x : World) : SameCode x x := ⟨rfl, rfl, rfl, rfl⟩

theorem SameCode.trans {x y z : World} (h : SameCode x y) (h' : SameCode y z) : SameCode x z :=
  ⟨h'.programs.trans h.programs, h'.code.trans h.code, h'.measurement.trans h.measurement, h'.extensions.trans h.extensions⟩

/-- An event moves the event registers of its world alone. -/
theorem world_event (d : Dev) (now : Now) (kind world die : Nat) (payload : Bytes) (v : Nat) :
    ∃ tail seq lost, (d.event now kind world die payload).world v =
      { d.world v with evTail := tail, evSeq := seq, evLost := lost } := by
  unfold Dev.event
  dsimp only
  by_cases hv : v = world
  · subst hv
    split_ifs
    exacts [⟨_, _, _, rfl⟩, ⟨_, _, _, world_setWorld _ _ _⟩, ⟨_, _, _, world_setWorld _ _ _⟩]
  · split_ifs
    exacts [⟨_, _, _, rfl⟩, ⟨_, _, _, world_setWorld_other _ _ hv⟩, ⟨_, _, _, world_setWorld_other _ _ hv⟩]

theorem sameCode_event (d : Dev) (now : Now) (kind world die : Nat) (payload : Bytes) (v : Nat) :
    SameCode (d.world v) ((d.event now kind world die payload).world v) := by
  obtain ⟨_, _, _, h⟩ := world_event d now kind world die payload v
  rw [h]
  exact ⟨rfl, rfl, rfl, rfl⟩

theorem sameCode_setLeaves (x : World) (t : Tab Word) : SameCode x (x.setLeaves t) := by
  unfold World.setLeaves
  split <;> exact ⟨rfl, rfl, rfl, rfl⟩

theorem sameCode_markExec (x : World) (va : Nat) : SameCode x (x.markExec va) := by
  unfold World.markExec
  split
  exacts [.refl x, sameCode_setLeaves _ _]

theorem sameCode_setWrite (x : World) (va : Nat) (write : Bool) : SameCode x (x.setWrite va write) := by
  unfold World.setWrite
  split
  exacts [.refl x, sameCode_setLeaves _ _]

theorem sameCode_foldl {α : Type} {f : World → α → World} (h : ∀ x a, SameCode x (f x a)) (l : List α) (x : World) :
    SameCode x (l.foldl f x) :=
  foldl_related SameCode.refl SameCode.trans h l x

/-! ## The loader (R99, R101, R103) -/

theorem worlds_loaderStore (d : Dev) (world va : Nat) (bs : Bytes) : (d.loaderStore world va bs).worlds = d.worlds := by
  unfold Dev.loaderStore
  refine foldl_keeps Dev.worlds (fun d a _ => ?_) d
  dsimp only
  split <;> rfl

theorem worlds_rebase (d : Dev) (seq world base va : Nat) : (d.rebase seq world base va).worlds = d.worlds := by
  unfold Dev.rebase
  split
  · rfl
  · dsimp only
    rw [worlds_loaderStore]
    refine foldl_keeps Dev.worlds (fun d i _ => ?_) d
    split
    · split_ifs
      exacts [worlds_loaderStore _ _ _ _, rfl]
    · rfl

theorem sameCode_ensurePage {d d' : Dev} {seq world slot va i : Nat} {write : Bool} (h : d.ensurePage seq world slot va i write = some d') :
    SameCode (d.world world) (d'.world world) := by
  unfold Dev.ensurePage at h
  dsimp only at h
  split at h
  · cases h
    exact .refl _
  · obtain ⟨f, -, rfl⟩ := Option.map_eq_some_iff.1 h
    rw [world_setWorld]
    exact sameCode_setLeaves _ _

theorem sameCode_ensurePages {seq world slot : Nat} (pages : List (Nat × Bool)) {d d' : Dev} {i : Nat}
    (h : d.ensurePages seq world slot pages i = some d') : SameCode (d.world world) (d'.world world) := by
  induction pages generalizing d i with
  | nil =>
    cases h
    exact .refl _
  | cons page pages ih =>
    unfold Dev.ensurePages at h
    split at h
    · next d₁ hd₁ => exact (sameCode_ensurePage hd₁).trans (ih h)
    · cases h

/-- Each segment that is measured extends the record once. -/
theorem extend_all (now : Nat) (value : Seg → Bytes) (segs : List Seg) (x : World) :
    let y := segs.foldl (fun (x : World) s => x.extend now (value s)) x
    y.programs = x.programs ∧ y.code = x.code ∧ y.extensions = x.extensions + BitVec.ofNat 32 segs.length := by
  induction segs generalizing x with
  | nil => exact ⟨rfl, rfl, by simp⟩
  | cons s segs ih =>
    obtain ⟨hp, hc, he⟩ := ih (x.extend now (value s))
    refine ⟨hp, hc, he.trans ?_⟩
    simp only [World.extend, List.length_cons, BitVec.ofNat_add, BitVec.add_assoc]
    rw [BitVec.add_comm (BitVec.ofNat 32 segs.length)]
    rfl

theorem admitFile_spec (d : Dev) (x : Ctx) (w : Nat) (f : Bytes) (p : Parsed) :
    ((d.admitFile x w f p).world w).programs = (d.world w).programs ++ p.programs ∧
    ((d.admitFile x w f p).world w).extensions = (d.world w).extensions + BitVec.ofNat 32 (p.segs.filter Seg.code).length ∧
    ((d.admitFile x w f p).world w).code = (d.world w).code ++ codePages p (d.world w).programs.length := by
  unfold Dev.admitFile
  dsimp only
  generalize hd₁ : (p.segs.filter Seg.load).foldl _ d = d₁
  generalize hd₂ : p.legend.foldl _ d₁ = d₂
  have hx : d₂.world w = d.world w := by
    refine congrArg (Tab.getD · w World.fresh) ?_
    rw [← hd₂, ← hd₁, foldl_keeps Dev.worlds fun d e _ => worlds_loaderStore _ _ _ _,
      foldl_keeps Dev.worlds fun d e _ => worlds_loaderStore _ _ _ _]
  rw [hx]
  generalize hy : (p.segs.filter Seg.code).foldl _ (d.world w) = y
  obtain ⟨hyp, hyc, hye⟩ := hy ▸ extend_all x.now.ns (fun s => sha512 (s.bytes f)) (p.segs.filter Seg.code) (d.world w)
  generalize hz : ((p.segs.filter Seg.code).flatMap Seg.pages).foldl World.markExec y = z
  have hyz : SameCode y z := hz ▸ sameCode_foldl sameCode_markExec _ y
  have hrebase : ∀ (vas : List Nat) (first : Nat) (d : Dev), (vas.foldl (fun d va => d.rebase x.seq w first va) d).world w = d.world w :=
    fun vas first d => congrArg (Tab.getD · w World.fresh) (foldl_keeps Dev.worlds (fun d va _ => worlds_rebase _ _ _ _ _) d)
  rw [hrebase, world_setWorld]
  exact ⟨by rw [hyz.programs, hyp], hyz.extensions.trans hye, by rw [hyz.code, hyc]⟩

section
variable {s : State} {w : Nat} {file : Bytes}

/-- A refusal is told to the host, and admits nothing. -/
theorem refusalEvent_spec (d : Dev) (now : Now) (w reason object : Nat) :
    let d' := d.refusalEvent now w reason object
    d'.mem = d.mem ∧ d'.frames = d.frames ∧ (d'.world w).programs = (d.world w).programs ∧
      (d'.world w).measurement = (d.world w).measurement ∧ (d'.world w).code = (d.world w).code := by
  have h := sameCode_event d now 8 w 0 (items [reason, object]) w
  obtain ⟨ws, hm, he⟩ := event_eq d now 8 w 0 (items [reason, object])
  exact ⟨mem_event _ _ _ _ _ _, (congrArg Dev.frames (show d.refusalEvent now w reason object = _ from he)).trans rfl,
    h.programs, h.measurement, h.code⟩

theorem loaderAdmit_eq (hl : (s.dev.world w).live = true) :
    let slot := pick s.seq 301 0 (s.dev.world w).keySlots
    let refused := fun (why : Nat × Nat) => Host.Outcome.next { s with dev := s.dev.refusalEvent s.now w why.1 why.2 }
    (∀ why, parseFile file w slot = .error why → exec (.loaderAdmit w file) s = refused why) ∧
    ∀ p, parseFile file w slot = .ok p →
      (∀ why, s.dev.refuses s.seq w file p = some why → exec (.loaderAdmit w file) s = refused why) ∧
      ∀ d, s.dev.refuses s.seq w file p = none → s.dev.ensurePages s.seq w slot ((s.dev.world w).filePages p) 0 = some d →
        exec (.loaderAdmit w file) s = .next { s with dev := d.admitFile s.ctx w file p } := by
  intro slot refused
  have hexec : exec (.loaderAdmit w file) s = execLoaderAdmit w file s := rfl
  rw [hexec, execLoaderAdmit, run_next]
  refine ⟨fun why h => ?_, fun p h => ⟨fun why hr => ?_, fun d hr hd => ?_⟩⟩
  · simp [hl, State.ctx, h, slot, refused]
  · simp [hl, State.ctx, h, hr, slot, refused]
  · simp [hl, State.ctx, h, hr, hd, slot]

end

/-! ## Re-admission (R307) -/

/-- What a change of a segment's pages makes of one of them. -/
theorem getElem_setCode {x : World} {page : Nat} {c : CodePage} (f : CodePage → CodePage) (h : x.code[page]? = some c) :
    (x.setCode c f).code[page]? = some (f c) := by
  simp [World.setCode, CodePage.sameSeg, h]

/-- A page that is measured becomes read only, with the note that the world presents. -/
theorem getElem_measure {x : World} {page : Nat} {c : CodePage} (n : Note) (h : x.code[page]? = some c) (hst : c.state = .writable) :
    (x.measure c n).code[page]? =
      some { c with state := .measuring, measurement := n.measurement, signer := n.signer, signature := n.signature } := by
  unfold World.measure
  dsimp only
  generalize hy : List.foldl _ x _ = y
  have hxy : SameCode x y := hy ▸ sameCode_foldl (fun _ _ => sameCode_setWrite _ _ _) _ x
  rw [getElem_setCode (c := c) _ (by rw [hxy.code, h])]
  simp [hst]

/-- The note that a page carries. -/
def noteOf (c : CodePage) : Note :=
  { index := c.segIndex, measurement := c.measurement, signer := c.signer, signature := c.signature }

section
variable {s : State} {w page : Nat} {note : Bytes} {c : CodePage}

theorem codeReadmit_eq (h : (s.dev.world w).code[page]? = some c) : exec (.codeReadmit w page note) s =
    match c.state with
    | .exec => .next s
    | .writable => .next { s with dev := s.dev.setWorld w ((s.dev.world w).measure c (parseNote note)) }
    | .measuring => .next { s with dev := s.dev.measured s.ctx w c } := by
  rw [show exec (.codeReadmit w page note) s = execCodeReadmit w page note s from rfl, execCodeReadmit, run_next]
  simp only [h]
  cases c.state <;> rfl

/-- The measurement of a page ends as its note says. -/
theorem getElem_measured {d : Dev} (x : Ctx) {bs : Bytes} (h : (d.world w).code[page]? = some c) (hst : c.state = .measuring)
    (himg : d.image x.seq w none c.segVa.toNat c.segLen = some bs) :
    ((d.measured x w c).world w).code[page]? =
      some { c with state := if (d.world w).noteOk (noteOf c) bs then .exec else .writable } := by
  unfold Dev.measured
  simp only [himg]
  split <;> rw [world_setWorld]
  · next hok =>
    generalize hy : List.foldl _ _ _ = y
    have hy : y.code = (d.world w).code := by
      rw [← hy, (sameCode_foldl (fun _ _ => sameCode_markExec _ _) _ _).code]
      rfl
    rw [getElem_setCode (c := c) _ (by rw [hy, h]), if_pos hst, if_pos (show (d.world w).noteOk (noteOf c) bs = true from hok)]
  · next hok =>
    generalize hy : List.foldl _ _ _ = y
    have hy : y.code = (d.world w).code := by rw [← hy, (sameCode_foldl (fun _ _ => sameCode_setWrite _ _ _) _ _).code]
    rw [getElem_setCode (c := c) _ (by rw [hy, h]), if_pos hst, if_neg (show ¬ (d.world w).noteOk (noteOf c) bs = true from hok)]

end

/-! ## Clock and time (R275, R322, R328) -/

theorem tick_clock (n : Now) : n.tick.clock = n.clock + 1 := by
  unfold Now.tick
  dsimp only
  split_ifs <;> rfl

theorem tick_exact (n : Now) (h : n.slew = 0) : n.tick.time = n.time + n.perClock ∧ n.tick.slew = 0 := by
  simp [Now.tick, h]

theorem tick_faster (n : Now) (h : Int.ofNat (n.perClock / 1000) ≤ n.slew) :
    n.tick.time = n.time + n.perClock + n.perClock / 1000 ∧ n.tick.slew = n.slew - Int.ofNat (n.perClock / 1000) := by
  rw [Int.ofNat_eq_natCast] at h
  unfold Now.tick
  dsimp only
  split_ifs with hpos
  · have hmin : Nat.min (n.perClock / 1000) n.slew.toNat = n.perClock / 1000 := Nat.min_eq_left (by omega)
    rw [hmin]
    exact ⟨rfl, rfl⟩
  · have hpart : n.perClock / 1000 = 0 := by omega
    rw [hpart]
    simp

theorem tick_slower (n : Now) (h : n.slew ≤ -Int.ofNat (n.perClock / 1000)) :
    n.tick.time = n.time + n.perClock - n.perClock / 1000 ∧ n.tick.slew = n.slew + Int.ofNat (n.perClock / 1000) := by
  rw [Int.ofNat_eq_natCast] at h
  have hneg : ¬ 0 < n.slew := by omega
  have hmin : Nat.min (n.perClock / 1000) (-n.slew).toNat = n.perClock / 1000 := Nat.min_eq_left (by omega)
  unfold Now.tick
  dsimp only
  rw [if_neg hneg, hmin]
  exact ⟨(Nat.add_sub_assoc (Nat.div_le_self _ _) _).symm, rfl⟩

theorem refresh_far (n : Now) {offset : Int} (h : 1000000 < offset) :
    n.refresh offset = { n with slew := 0, refreshed := n.time, time := n.time + offset.toNat * 2 ^ 32 } := if_pos h

theorem refresh_near (n : Now) {offset : Int} (h : offset ≤ 1000000) :
    n.refresh offset = { n with refreshed := n.time, slew := offset * 2 ^ 32 } := by
  unfold Now.refresh Now.correct
  rw [if_neg (not_lt.2 h), Int.zero_add]

theorem forceRefresh_early (n : Now) (seq : Nat) (h : n.time < n.refreshed + 10000000 * 2 ^ 32) : n.forceRefresh seq true = n := by
  unfold Now.forceRefresh refreshPeriod
  rw [Bool.true_and, decide_eq_false (not_le.2 h)]
  rfl

theorem forceRefresh_due (n : Now) (seq : Nat) (h : n.refreshed + 10000000 * 2 ^ 32 ≤ n.time) :
    ∃ offset : Int, -40 ≤ offset ∧ offset ≤ 40 ∧
      n.forceRefresh seq true = { n with refreshed := n.time, slew := offset * 2 ^ 32 } := by
  have hlt : Config.choice seq 500 % 81 < 81 := Nat.mod_lt _ (by decide)
  refine ⟨((Config.choice seq 500 % 81 : Nat) : Int) - 40, by omega, by omega, ?_⟩
  unfold Now.forceRefresh refreshPeriod
  rw [Bool.true_and, decide_eq_true h, if_pos rfl]
  exact refresh_near n (show ((Config.choice seq 500 % 81 : Nat) : Int) - 40 ≤ 1000000 by omega)

theorem ptmRefresh_eq (s : State) (host : Nat) : exec (.ptmRefresh host) s =
    .next (if s.dev.ptm then { s with now := s.now.refresh (Int.ofNat host - Int.ofNat s.now.ns) } else s) := rfl

/-! ## Pod links, firmware and uncontainable errors (R314, R324, R327) -/

theorem receive_passed (p : PodPort) : p.receive true = { p with retries := 0 } := rfl

theorem receive_retry {p : PodPort} (h : p.retries < 16) : p.receive false = { p with retries := p.retries + 1 } := if_neg (not_le.2 h)

theorem receive_down {p : PodPort} (h : 16 ≤ p.retries) : p.receive false = { p with up := false, retries := 0 } := if_pos h

theorem podFlitReceive_up {s : State} {port : Nat} {p y : PodPort} {ok : Bool} (h : Tab.get? s.dev.ports port = some p)
    (hup : p.up = true) (hy : p.receive ok = y) :
    exec (.podFlitReceive port ok) s = .next { s with dev := { s.dev with ports := Tab.put s.dev.ports port y } } := by
  rw [show exec (.podFlitReceive port ok) s = execPodFlitReceive port ok s from rfl, execPodFlitReceive, run_next]
  simp [h, hup, hy]

theorem firmwareStage_eq (s : State) (image sig : Bytes) : exec (.firmwareStage image sig) s =
    .next (if ed25519Verify Config.vendorKey (sha512 image) sig then { s with dev := { s.dev with staged := image } } else s) := by
  rw [show exec (.firmwareStage image sig) s = execFirmwareStage image sig s from rfl, execFirmwareStage, run_next]
  split <;> rfl

/-- A function in the ERROR state. -/
def InError (d : Dev) (w : Nat) : Prop := (d.world w).tdisp = .error

/-- A function put in the ERROR state, as an uncontainable error does with every function. -/
def toError (d : Dev) (w : Nat) : Dev := d.setWorld w { d.world w with tdisp := .error }

theorem inError_toError (d : Dev) (w : Nat) : InError (toError d w) w := congrArg World.tdisp (world_setWorld _ _ _)

theorem InError.toError {d : Dev} {w : Nat} (h : InError d w) (v : Nat) : InError (toError d v) w := by
  by_cases hv : w = v
  · exact hv ▸ inError_toError d w
  · exact (congrArg World.tdisp (world_setWorld_other _ _ hv)).trans h

theorem fatal_eq (d : Dev) (now : Now) (code : Nat) : d.fatal now code =
    { ((List.range 256).foldl toError (d.event now 10 0 0 (items [code]))).resetFabric with stopped := true, up := false } := by
  unfold Dev.fatal
  generalize List.range 256 = functions
  rfl

theorem fatal_spec (d : Dev) (now : Now) (code : Nat) :
    (d.fatal now code).mem = d.mem ∧ (d.fatal now code).firmware = d.firmware ∧ ∀ w, w < 256 → InError (d.fatal now code) w := by
  obtain ⟨ws, hm, he⟩ := event_eq d now 10 0 0 (items [code])
  have hfunctions : ∀ w, w < 256 → w ∈ List.range 256 := fun _ => List.mem_range.2
  rw [fatal_eq, he]
  generalize List.range 256 = functions at hfunctions
  refine ⟨foldl_keeps (f := toError) Dev.mem (fun _ _ _ => rfl) _, foldl_keeps (f := toError) Dev.firmware (fun _ _ _ => rfl) _,
    fun w hw => ?_⟩
  exact (foldl_brings (f := toError) (P := fun _ => True) (Q := fun w d => InError d w) (fun _ _ _ _ => trivial)
    (fun d v _ _ => inError_toError d v) (fun _ _ v _ _ h => h.toError v) trivial).2.2 w (hfunctions w hw)

theorem ptmRefresh_settles (s : State) (host : Nat) (h : s.dev.ptm = true) :
    (s.now.ns + 1000000 < host → exec (.ptmRefresh host) s = .next { s with
      now := { s.now with slew := 0, refreshed := s.now.time, time := s.now.time + (host - s.now.ns) * 2 ^ 32 } }) ∧
    (host ≤ s.now.ns + 1000000 → exec (.ptmRefresh host) s = .next { s with
      now := { s.now with refreshed := s.now.time, slew := ((host : Int) - (s.now.ns : Int)) * 2 ^ 32 } }) := by
  rw [ptmRefresh_eq, if_pos h, Int.ofNat_eq_natCast, Int.ofNat_eq_natCast]
  refine ⟨fun hfar => ?_, fun hnear => by rw [refresh_near _ (by omega)]⟩
  rw [refresh_far _ (by omega), Int.toNat_sub]

/-! ## The statement -/

/-- Settles O60: the loader and re-admission by what each of their steps keeps of the world's code, the rest by the equation of
each operation. -/
theorem filesAreAdmittedAndTheDeviceIsManaged : Obligations.FilesAreAdmittedAndTheDeviceIsManaged := by
  unfold Obligations.FilesAreAdmittedAndTheDeviceIsManaged
  refine ⟨fun s w file hl => ?_, fun s w page note c h => ?_, fun s port host code image sig => ?_⟩
  · obtain ⟨herror, hok⟩ := loaderAdmit_eq (file := file) hl
    refine ⟨fun why h => ⟨_, herror why h, refusalEvent_spec _ _ _ _ _⟩, fun p h => ?_⟩
    obtain ⟨hrefused, hadmitted⟩ := hok p h
    refine ⟨fun why hr => ⟨_, hrefused why hr, refusalEvent_spec _ _ _ _ _⟩, fun d hr hd => ⟨_, hadmitted d hr hd, ?_⟩⟩
    have hkept := sameCode_ensurePages _ hd
    have hadmit := admitFile_spec d s.ctx w file p
    rw [hkept.programs, hkept.code, hkept.extensions] at hadmit
    exact hadmit
  · have hexec := codeReadmit_eq (note := note) h
    refine ⟨fun hst => ?_, fun hst => ?_, fun bs hst himg => ?_⟩ <;> rw [hst] at hexec
    · exact hexec
    · have hpage := getElem_measure (parseNote note) h hst
      exact ⟨_, _, hexec, (congrArg (fun x : World => x.code[page]?) (world_setWorld _ _ _)).trans hpage, rfl, rfl, rfl, rfl⟩
    · have hpage := getElem_measured s.ctx h hst himg
      exact ⟨fun hok => ⟨_, _, hexec, hpage, by rw [if_pos (show (s.dev.world w).noteOk (noteOf c) bs = true from hok)]⟩,
        fun hbad => ⟨_, _, hexec, hpage, by rw [show (s.dev.world w).noteOk (noteOf c) bs = false from hbad]; rfl⟩⟩
  · refine ⟨rfl, rfl, ⟨tick_clock s.now, tick_exact s.now, tick_faster s.now, tick_slower s.now⟩, fun h => ?_, ptmRefresh_settles s host,
      forceRefresh_early s.now s.seq, forceRefresh_due s.now s.seq, fun p h hup => ⟨?_, fun hr => ?_, fun hr => ?_⟩, fun h => ?_,
      fun h => ?_, ?_⟩
    · rw [ptmRefresh_eq, h]
      rfl
    · exact podFlitReceive_up h hup (receive_passed p)
    · exact podFlitReceive_up h hup (receive_retry hr)
    · exact podFlitReceive_up h hup (receive_down hr)
    · rw [firmwareStage_eq, if_pos h]
    · rw [firmwareStage_eq, h]
      rfl
    · obtain ⟨hmem, hfirmware, herror⟩ := fatal_spec s.dev s.now code
      exact ⟨_, rfl, rfl, rfl, rfl, rfl, herror, hmem, hfirmware⟩

end Sys2Proof.Proofs
end

section
/-! PROOFS. Scalar results and divisions (R87, R104, R105, R114 to R116, R156, R213). -/

namespace Sys2Proof.Proofs

open Sys2Proof Sys2Proof.Machine Sys2Proof.Laws

/-! ## A scalar instruction completes or traps -/

section
variable {s : State} {k : Nat} {p : Pred} {gs : List Reg} {f : Core → CRes} {c' : Core}

theorem scalar_issues {c : Core} (hi : c.issues p gs) : scalar p gs f c = f c := scalar_on f hi.1 (any_pending hi.2)

theorem onRegs_scalar (ha : s.actor = .core k) (hi : (s.dev.core k).issues p gs) (h : f (s.dev.core k) = .done c') :
    onRegs (scalar p gs f) s = .next (s.completedCore k c') :=
  onRegs_done ha ((scalar_issues hi).trans h)

theorem onBoth_scalar {regs : List Reg} {pred : Pred} {g : Plane → Prog → Option Prog} (ha : s.actor = .core k)
    (hi : (s.dev.core k).issues p gs) (h : f (s.dev.core k) = .done c') :
    onBoth regs pred (scalar p gs f) g s = .next (s.completedCore k c') := by
  rw [onBoth_core _ _ _ _ ha, scalar_issues hi, h]
  rfl

theorem onRegs_trap {f : Core → CRes} {cause : Nat} {info : Word} (ha : s.actor = .core k)
    (h : f (s.dev.core k) = .trap cause info) : onRegs f s = .next (s.trapped k cause info) :=
  onCore_trap ha (congrArg (CRes.lift s.dev k) h)

theorem shiftImm_small {rd ra : Reg} {imm : BitVec 32} {i : Instr} {op : Word → Nat → Word} (ha : s.actor = .core k)
    (hi : (s.dev.core k).issues p [ra]) (hn : imm.toNat ≤ 63) : onRegs (shiftImm p rd ra imm i op) s =
      .next (s.completedCore k ((s.dev.core k).writeG rd (op ((s.dev.core k).readG ra) imm.toNat))) :=
  onRegs_scalar ha hi (if_pos (Nat.lt_succ_of_le hn))

theorem shiftImm_large {rd ra : Reg} {imm : BitVec 32} {i : Instr} {op : Word → Nat → Word} (ha : s.actor = .core k)
    (hi : (s.dev.core k).issues p [ra]) (hn : 64 ≤ imm.toNat) :
    onRegs (shiftImm p rd ra imm i op) s = .next (s.trapped k 0x01 ((encode i).getD 0)) :=
  onRegs_trap ha ((scalar_issues hi).trans (if_neg (Nat.not_lt.2 hn)))

end

/-! ## The operations of Tables 7.3 and 7.4 as the tables state them -/

theorem amount_eq (b : Word) : amount b = b.toNat % 64 := by simp [amount, field]

/-- The halves of MOVHI's result. -/
theorem movhi_eq (imm : BitVec 32) (a : Word) :
    (imm ++ a.truncate 32 : Word) = BitVec.ofNat 64 (imm.toNat * 2 ^ 32 + a.toNat % 2 ^ 32) := by
  refine BitVec.eq_of_toNat_eq ?_
  have hi := imm.isLt
  have hlo : a.toNat % 2 ^ 32 < 2 ^ 32 := Nat.mod_lt _ (by decide)
  rw [BitVec.toNat_append, BitVec.truncate_eq_setWidth, BitVec.toNat_setWidth, ← Nat.shiftLeft_add_eq_or_of_lt hlo, Nat.shiftLeft_eq,
    BitVec.toNat_ofNat]
  omega

theorem kpolled_eq (o : Option Bool) : (match o with | none => (0 : Word) | some b => BitVec.ofNat 64 (2 + b2n b)) =
    match o with | none => 0 | some b => if b then 3 else 2 := by
  rcases o with _ | _ | _ <;> rfl

/-- An instruction of the two tables, MTOG or KPOLL completes with its table's result. -/
theorem exec_scalarSpec {i : Instr} {s : State} {k : Nat} {p : Pred} {d : Reg} {gs : List Reg} {x : Word} (ha : s.actor = .core k)
    (hi : (s.dev.core k).issues p gs) (h : scalarSpec (s.dev.core k) i = some (p, d, gs, x)) :
    exec i s = .next (s.completedCore k ((s.dev.core k).writeG d x)) := by
  cases i with
  | add | addi =>
    cases h
    unfold exec
    exact onBoth_scalar ha hi rfl
  | sub | mul | mulh | mulhu | and | or | xor | andn | clz | popc | sext | zext | cmp | andi | ori | xori | cmpi | movi | mtog =>
    cases h
    exact onRegs_scalar ha hi rfl
  | shl | shr | sar | rol =>
    cases h
    simp only [← amount_eq]
    exact onRegs_scalar ha hi rfl
  | min | max =>
    cases h
    simp only [← BitVec.slt_iff_toInt_lt]
    exact onRegs_scalar ha hi rfl
  | minu | maxu =>
    cases h
    simp only [← BitVec.lt_def, ← BitVec.ult_iff_lt]
    exact onRegs_scalar ha hi rfl
  | sel =>
    cases h
    simp only [ne_eq, ite_not]
    exact onRegs_scalar ha hi rfl
  | movhi =>
    cases h
    rw [← movhi_eq]
    exact onRegs_scalar ha hi rfl
  | kpoll =>
    cases h
    exact onRegs_scalar ha hi (congrArg (fun x => CRes.done (Core.writeG _ _ x)) (kpolled_eq _))
  | shli | shri | sari =>
    obtain ⟨hn, h⟩ := Option.ite_none_right_eq_some.1 h
    cases h
    exact shiftImm_small ha hi hn
  | _ => cases h

/-- Settles O17: each instruction completes with its table's result, and the shift immediates by their range. -/
theorem scalarResultsAreTheTables : Obligations.ScalarResultsAreTheTables := by
  unfold Obligations.ScalarResultsAreTheTables
  refine ⟨fun i s k p d gs x ha h hi => exec_scalarSpec ha hi h, fun i p d a imm s k ha h hn hi => ?_⟩
  rcases h with rfl | rfl | rfl
  · exact shiftImm_large ha hi hn
  · exact shiftImm_large ha hi hn
  · exact shiftImm_large ha hi hn

/-! ## Divisions (R115) -/

theorem sdiv_eq (a b : Word) : BitVec.ofInt 64 (a.toInt.tdiv b.toInt) = a.sdiv b :=
  BitVec.eq_of_toInt_eq (by rw [BitVec.toInt_ofInt, BitVec.toInt_sdiv])
theorem srem_eq (a b : Word) : BitVec.ofInt 64 (a.toInt.tmod b.toInt) = a.srem b := by
  rw [← BitVec.toInt_srem, BitVec.ofInt_toInt]
theorem udiv_eq (a b : Word) : BitVec.ofNat 64 (a.toNat / b.toNat) = a.udiv b := by
  rw [← BitVec.toNat_udiv, BitVec.ofNat_toNat, BitVec.setWidth_eq]; rfl
theorem umod_eq (a b : Word) : BitVec.ofNat 64 (a.toNat % b.toNat) = a.umod b := by
  rw [← BitVec.toNat_umod, BitVec.ofNat_toNat, BitVec.setWidth_eq]; rfl

/-- Settles O18: the quotients and remainders of the table, as they are put in flight. -/
theorem divisionsPutTheirResultInFlight : Obligations.DivisionsPutTheirResultInFlight := by
  unfold Obligations.DivisionsPutTheirResultInFlight
  intro i s k p d gs x ha h hi
  cases i with
  | div =>
    cases h
    rw [← sdiv_eq]
    exact onRegs_scalar ha hi rfl
  | divu =>
    cases h
    rw [← udiv_eq]
    exact onRegs_scalar ha hi rfl
  | rem =>
    cases h
    rw [← srem_eq]
    exact onRegs_scalar ha hi rfl
  | remu =>
    cases h
    rw [← umod_eq]
    exact onRegs_scalar ha hi rfl
  | _ => cases h

end Sys2Proof.Proofs
end

section
/-! PROOFS. Traps, the system instructions, and WFE (R106 to R108, R127 to R135). -/

namespace Sys2Proof.Proofs

open Sys2Proof Sys2Proof.Machine Sys2Proof.Laws

/-! ## What a trap does (R127, R131, R132, R135) -/

/-- A core as a trap leaves it: halted in its handler, halted without one or for ACCESS, or in its handler. -/
def trapCore (c : Core) (cause : Nat) (info pc : Word) : Core :=
  if c.inHandler = true then { c with halted := true, wait := none, stage := .none }
  else if cause = Cause.access ∨ c.cur.handler = 0xFFFF then { c.setTrap cause info pc with halted := true }
  else handling c cause info pc

section
variable {c : Core} {cause : Nat} (info pc : Word)

theorem trapCore_inside (h : c.inHandler = true) : trapCore c cause info pc = { c with halted := true, wait := none, stage := .none } :=
  if_pos h

theorem trapCore_halts (h : c.inHandler = false) (hx : cause = Cause.access ∨ c.cur.handler = 0xFFFF) :
    trapCore c cause info pc = { c.setTrap cause info pc with halted := true } := by
  rw [trapCore, if_neg (by simp [h]), if_pos hx]

theorem trapCore_enters (h : c.inHandler = false) (hc : cause ≠ Cause.access) (hx : c.cur.handler ≠ 0xFFFF) :
    trapCore c cause info pc = handling c cause info pc := by
  rw [trapCore, if_neg (by simp [h]), if_neg (not_or.2 ⟨hc, hx⟩)]

end

/-- What a trap leaves of its core: the registers, the calls, the handles, the ports and the planes. -/
theorem trapCore_keeps (c : Core) (cause : Nat) (info pc : Word) :
    let c' := trapCore c cause info pc
    c'.g = c.g ∧ c'.v = c.v ∧ c'.m = c.m ∧ c'.rets = c.rets ∧ c'.resident = c.resident ∧ c'.spilled = c.spilled ∧
    c'.fpstat = c.fpstat ∧ c'.handles = c.handles ∧ c'.ports = c.ports ∧ c'.planes = c.planes ∧ c'.pend = c.pend := by
  intro c'
  unfold c' trapCore
  split
  · exact ⟨rfl, rfl, rfl, rfl, rfl, rfl, rfl, rfl, rfl, rfl, rfl⟩
  · split
    · exact ⟨rfl, rfl, rfl, rfl, rfl, rfl, rfl, rfl, rfl, rfl, rfl⟩
    · exact ⟨rfl, rfl, rfl, rfl, rfl, rfl, rfl, rfl, rfl, rfl, rfl⟩

section
variable (d : Dev) (now : Now) (k cause : Nat) (info pc this : Word)

/-- A trap changes its core, and may tell the host. -/
theorem takeTrapAt_eq : d.takeTrapAt now k cause info pc this = d.setCore k (trapCore (d.core k) cause info pc) ∨
    ∃ at_, d.takeTrapAt now k cause info pc this = (d.setCore k (trapCore (d.core k) cause info pc)).trapEvent now k cause info at_ := by
  rcases takeTrapAt_cases d now k cause info pc this with ⟨hh, h⟩ | ⟨hh, hx, h⟩ | ⟨hh, hc, hx, h⟩
  · exact .inr ⟨this, by rw [h, trapCore_inside info pc hh]⟩
  · exact .inr ⟨pc, by rw [h, trapCore_halts info pc hh hx]⟩
  · exact .inl (by rw [h, trapCore_enters info pc hh hc hx, handling])

@[simp] theorem core_takeTrapAt : (d.takeTrapAt now k cause info pc this).core k = trapCore (d.core k) cause info pc := by
  obtain h | ⟨at_, h⟩ := takeTrapAt_eq d now k cause info pc this <;> simp [h]

theorem core_takeTrapAt_other {j : Nat} (hj : j ≠ k) : (d.takeTrapAt now k cause info pc this).core j = d.core j := by
  obtain h | ⟨at_, h⟩ := takeTrapAt_eq d now k cause info pc this <;> simp [h, core_setCore_other d _ hj]

@[simp] theorem mem_takeTrapAt : (d.takeTrapAt now k cause info pc this).mem = d.mem := by
  obtain h | ⟨at_, h⟩ := takeTrapAt_eq d now k cause info pc this <;> simp [h]

@[simp] theorem quad_takeTrapAt (q : Nat) : (d.takeTrapAt now k cause info pc this).quad q = d.quad q := by
  obtain h | ⟨at_, h⟩ := takeTrapAt_eq d now k cause info pc this <;> simp [h, Dev.trapEvent]

end

/-! ## What the host is told (R131, R132, R135, R323) -/

/-- An event stands in the world's event ring, unless the ring is full. -/
theorem hostMem_event {d : Dev} (now : Now) (kind : Nat) {world : Nat} (die : Nat) (payload : Bytes) (h : (d.world world).tdisp ≠ .error) :
    (d.event now kind world die payload).hostMem =
      if (d.world world).evSize.toNat ≤ ((d.world world).evTail - (d.world world).evHead).toNat then d.hostMem else
      SMap.setRun d.hostMem ((d.world world).evBase.toNat + 128 * ((d.world world).evTail.toNat % (d.world world).evSize.toNat))
        (eventBytes kind world die (d.world world).evSeq now.word payload) := by
  unfold Dev.event
  dsimp only
  rw [if_neg h, apply_ite Dev.hostMem, setWorld_hostMem, setWorld_hostMem]

theorem trapEvent_reports {d : Dev} (now : Now) {k : Nat} (cause : Nat) (info pc : Word) {c' : Core} (hw : c'.world = (d.core k).world) :
    TrapReported d ((d.setCore k c').trapEvent now k cause info pc) now k cause info pc := by
  intro hx
  have hdie : dieOfQuad (quadOfCore k) = k / 1024 := Nat.div_div_eq_div_mul k 4 256
  rw [Dev.trapEvent, core_setCore, hw, hostMem_event (d := d.setCore k c') _ _ _ _ hx, hdie]
  rfl

section
variable (d : Dev) (now : Now) (k cause : Nat) (info pc : Word)

theorem takeTrap_enters {d : Dev} {k cause : Nat} (h : (d.core k).inHandler = false) (hc : cause ≠ Cause.access)
    (hx : (d.core k).cur.handler ≠ 0xFFFF) : d.takeTrap now k cause info pc = d.setCore k (handling (d.core k) cause info pc) :=
  takeTrapAt_handled now info pc pc h hc hx

theorem takeTrap_reports (h : (d.core k).inHandler = true ∨ cause = Cause.access ∨ (d.core k).cur.handler = 0xFFFF) :
    TrapReported d (d.takeTrap now k cause info pc) now k cause info pc := by
  rw [Dev.takeTrap]
  rcases takeTrapAt_cases d now k cause info pc pc with ⟨-, e⟩ | ⟨-, -, e⟩ | ⟨hh, hc, hx, -⟩
  · rw [e]
    exact trapEvent_reports now cause info pc rfl
  · rw [e]
    exact trapEvent_reports now cause info pc rfl
  · exact absurd h (by simp [hh, hc, hx])

end

/-! ## BRK and TRAP (R106) -/

/-- An instruction that completes and then traps into the handler. -/
theorem onCore_trapNext {s : State} {k cause : Nat} {info : Word} {f : Ctx → Nat → Dev → Res} (ha : s.actor = .core k)
    (hf : f s.ctx k s.dev = .trapNext s.dev cause info) (hh : (s.dev.core k).inHandler = false) (hc : cause ≠ Cause.access)
    (hx : (s.dev.core k).cur.handler ≠ 0xFFFF) :
    ∃ t, onCore f s = .next t ∧ t.dev.core k = handling { s.dev.core k with pc := (s.dev.core k).pc + 8 } cause info ((s.dev.core k).pc + 8) ∧
      (∀ j, j ≠ k → t.dev.core j = s.dev.core j) ∧ t.dev.mem = s.dev.mem := by
  refine ⟨_, onCore_core f ha, ?_⟩
  rw [hf]
  dsimp only [Dev.finish]
  refine ⟨?_, fun j hj => ?_, ?_⟩
  · rw [core_takeTrapAt, core_retire]
    exact trapCore_enters _ _ hh hc hx
  · rw [core_takeTrapAt_other _ _ _ _ _ _ _ hj, core_retire_other _ _ hj]
  · rw [mem_takeTrapAt, mem_retire]

/-- Settles O23: the three ways of a trap, and BRK and TRAP, which complete before theirs. -/
theorem trapsEnterTheHandlerOrHalt : Obligations.TrapsEnterTheHandlerOrHalt := by
  unfold Obligations.TrapsEnterTheHandlerOrHalt
  refine ⟨fun d now k cause info pc => ?_, fun s k code i cause ha hi hh hx => ?_⟩
  · intro c c'
    have hcore : c' = trapCore c cause info pc := core_takeTrapAt d now k cause info pc pc
    obtain ⟨hg, hv, hm, hrets, hres, hsp, hfp, hhan, hports, hplanes, -⟩ := trapCore_keeps c cause info pc
    rw [hcore]
    refine ⟨fun hh hc hx => takeTrap_enters now info pc hh hc hx, fun hh hx => ?_, fun hh => ?_, hg, hv, hm, hrets, hres, hsp, hfp, hhan, hports,
      hplanes, fun j hj => core_takeTrapAt_other d now k cause info pc pc hj, fun a => congrArg (SMap.get · a) (mem_takeTrapAt d now k cause info pc pc)⟩
    · rw [trapCore_halts info pc hh hx]
      exact ⟨rfl, rfl, rfl, rfl, hh, rfl, takeTrap_reports d now k cause info pc (.inr hx)⟩
    · rw [trapCore_inside info pc hh]
      exact ⟨rfl, rfl, rfl, rfl, rfl, takeTrap_reports d now k cause info pc (.inl hh)⟩
  · rcases hi with ⟨rfl, rfl⟩ | ⟨rfl, rfl⟩
    · obtain ⟨t, ht, hcore, hothers, hmem⟩ := onCore_trapNext (f := fun _ _ d => .trapNext d Cause.brk (zext64 code)) ha rfl hh (by decide) hx
      exact ⟨t, ht, hcore, hothers, fun a => by rw [hmem]⟩
    · obtain ⟨t, ht, hcore, hothers, hmem⟩ := onCore_trapNext (f := fun _ _ d => .trapNext d Cause.trap (zext64 code)) ha rfl hh (by decide) hx
      exact ⟨t, ht, hcore, hothers, fun a => by rw [hmem]⟩

/-! ## NOP, HALT and ERET (R106, R107, R133) -/

theorem onRegs_jump {s : State} {k : Nat} {f : Core → CRes} {c : Core} {pc : Word} (ha : s.actor = .core k)
    (h : f (s.dev.core k) = .jump c pc) : onRegs f s = .next (s.completed k (s.dev.setCore k c) pc) := by
  rw [onRegs_core f ha, h]
  rfl

theorem eret_returns {s : State} {k : Nat} (ha : s.actor = .core k) (hh : (s.dev.core k).inHandler = true) :
    exec .eret s = .next (s.completed k (s.dev.setCore k (s.dev.core k).eret) (s.dev.core k).trapPc) := by
  unfold exec
  exact onRegs_jump ha (if_pos hh)

theorem eret_traps {s : State} {k : Nat} (ha : s.actor = .core k) (hh : (s.dev.core k).inHandler = false) :
    exec .eret s = .next (s.trapped k 0x01 (wordOfInstr .eret)) := by
  unfold exec
  exact onRegs_trap ha (if_neg (by simp [hh]))

/-- Settles O22: each of the three by its outcome. -/
theorem nopHaltAndEretComplete : Obligations.NopHaltAndEretComplete := by
  unfold Obligations.NopHaltAndEretComplete
  exact fun s k ha => ⟨onRegs_done ha rfl, onRegs_done (f := fun c => .done { c with halted := true }) ha rfl, eret_returns ha, eret_traps ha⟩

/-! ## WFE (R108) -/

section
variable {s : State} {k : Nat} {n : BitVec 32} {f : Ctx → Nat → Dev → Res}

theorem onCore_stall {w : Option Wait} (ha : s.actor = .core k) (h : f s.ctx k s.dev = .stall w) :
    onCore f s = .next (s.stalled k (w.getD Wait.stalled)) := by
  rw [onCore_core f ha, h]
  rfl

theorem onCore_wait {d : Dev} {stage : Stage} {w : Option Wait} (ha : s.actor = .core k) (h : f s.ctx k s.dev = .wait d stage w) :
    onCore f s = .next { s with dev := d.setCore k { d.core k with stage := stage, wait := some (w.getD Wait.stalled) } } := by
  rw [onCore_core f ha, h]
  rfl

theorem wfe_zero (ha : s.actor = .core k) : exec (.wfe 0) s = .next (s.trapped k 0x01 0x0105000000000000) := by
  unfold exec execWfe
  exact onCore_trap ha rfl

theorem wfe_latched (ha : s.actor = .core k) (hn : n ≠ 0) (hl : (s.dev.core k).latch = true) :
    exec (.wfe n) s = .next (s.completedCore k { s.dev.core k with latch := false }) := by
  unfold exec execWfe
  exact onCore_done ha (by dsimp only; rw [if_neg hn, if_pos hl])

/-- WFE begins to wait. -/
theorem wfe_begins (ha : s.actor = .core k) (hn : n ≠ 0) (hl : (s.dev.core k).latch = false) (hs : (s.dev.core k).stage = .none) :
    exec (.wfe n) s = .next { s with dev := s.dev.setCore k { s.dev.core k with
      stage := .wfe (s.now.clock + n.toNat), wait := some Wait.stalled } } := by
  unfold exec execWfe
  exact onCore_wait (w := none) ha (by dsimp only; rw [if_neg hn, if_neg (by simp [hl]), hs]; rfl)

theorem wfe_due {deadline : Nat} (ha : s.actor = .core k) (hn : n ≠ 0) (hl : (s.dev.core k).latch = false)
    (hs : (s.dev.core k).stage = .wfe deadline) (ht : deadline ≤ s.now.clock) :
    exec (.wfe n) s = .next (s.completedCore k { s.dev.core k with latch := false }) := by
  unfold exec execWfe
  exact onCore_done ha (by dsimp only; rw [if_neg hn, if_neg (by simp [hl]), hs]; exact if_pos ht)

theorem wfe_waits {deadline : Nat} (ha : s.actor = .core k) (hn : n ≠ 0) (hl : (s.dev.core k).latch = false)
    (hs : (s.dev.core k).stage = .wfe deadline) (ht : s.now.clock < deadline) :
    exec (.wfe n) s = .next (s.stalled k Wait.stalled) := by
  unfold exec execWfe
  exact onCore_stall (w := none) ha (by dsimp only; rw [if_neg hn, if_neg (by simp [hl]), hs]; exact if_neg (Nat.not_le.2 ht))

theorem wfeTimeout_due {deadline : Nat} (hs : (s.dev.core k).stage = .wfe deadline) (ht : deadline ≤ s.now.clock) :
    exec (.wfeTimeout k) s = .next (s.completedCore k { s.dev.core k with latch := false }) := by
  rw [show exec (.wfeTimeout k) s = execWfeTimeout k s from rfl, execWfeTimeout, run_next]
  dsimp only
  rw [hs]
  exact congrArg (fun d => Host.Outcome.next { s with dev := d }) (if_pos ht)

end

/-- Settles O24: the latch, the beginning of the wait, and the deadline as the instruction and the event see it. -/
theorem wfeWaitsForTheLatchOrItsDeadline : Obligations.WfeWaitsForTheLatchOrItsDeadline := by
  unfold Obligations.WfeWaitsForTheLatchOrItsDeadline
  intro s k n ha c
  refine ⟨fun hn => ?_, wfe_latched ha, wfe_begins ha, fun at_ hn hl hs => ⟨wfe_due ha hn hl hs, wfe_waits ha hn hl hs, wfeTimeout_due hs⟩⟩
  rw [hn]
  exact wfe_zero ha

end Sys2Proof.Proofs
end

section
/-! PROOFS. Branches, on cores and on the sequencers of engines (R90, R117 to R119, R121, R143). -/

namespace Sys2Proof.Proofs

open Sys2Proof Sys2Proof.Machine Sys2Proof.Laws

/-! ## Branches of a core -/

section
variable {s : State} {k : Nat} {gs : List Reg} {f : Core → CRes} {c : Core}

theorem plain_ready {c : Core} (h : ∀ r ∈ gs, c.pendingG r = false) : plain gs f c = f c := by
  rw [plain, any_pending h]
  rfl

/-- Where a branch goes on. -/
def afterBranch (pc : Word) (off : BitVec 32) (taken : Bool) : Word := if taken then pc + 8 * off.signExtend 64 else pc + 8

/-- A branch leaves its core, and goes on at its target or at the next instruction. -/
theorem onCore_branch {f : Ctx → Nat → Dev → Res} {off : BitVec 32} {taken : Bool} (ha : s.actor = .core k) (hpc : c.pc = (s.dev.core k).pc)
    (h : f s.ctx k s.dev = (branchIf c off taken).lift s.dev k) :
    onCore f s = .next (s.completed k (s.dev.setCore k c) (afterBranch (s.dev.core k).pc off taken)) := by
  rw [onCore_core f ha, h, ← hpc]
  cases taken
  · exact congrArg (fun pc => Host.Outcome.next (s.completed k (s.dev.setCore k c) (pc + 8))) hpc.symm
  · rfl

theorem onRegs_branch {off : BitVec 32} {taken : Bool} (ha : s.actor = .core k) (hg : ∀ r ∈ gs, (s.dev.core k).pendingG r = false)
    (hpc : c.pc = (s.dev.core k).pc) (h : f (s.dev.core k) = branchIf c off taken) :
    onRegs (plain gs f) s = .next (s.completed k (s.dev.setCore k c) (afterBranch (s.dev.core k).pc off taken)) :=
  onCore_branch ha hpc (congrArg (CRes.lift s.dev k) ((plain_ready hg).trans h))

theorem onBoth_branch {regs : List Reg} {p : Pred} {g : Plane → Prog → Option Prog} {off : BitVec 32} {taken : Bool} (ha : s.actor = .core k)
    (hpc : c.pc = (s.dev.core k).pc) (h : f (s.dev.core k) = branchIf c off taken) :
    onBoth regs p f g s = .next (s.completed k (s.dev.setCore k c) (afterBranch (s.dev.core k).pc off taken)) :=
  (onBoth_core regs p f g ha).trans ((onRegs_core f ha).symm.trans (onCore_branch ha hpc (congrArg (CRes.lift s.dev k) h)))

end

theorem exec_branchSpec {i : Instr} {s : State} {k : Nat} {gs : List Reg} {c : Core} {taken : Bool} {off : BitVec 32}
    (ha : s.actor = .core k) (h : branchSpec s.now.clock (s.dev.core k) i = some (gs, c, taken, off))
    (hg : ∀ r ∈ gs, (s.dev.core k).pendingG r = false) :
    exec i s = .next (s.completed k (s.dev.setCore k c) (afterBranch (s.dev.core k).pc off taken)) := by
  cases i with
  | br =>
    cases h
    unfold exec
    exact onBoth_branch ha rfl rfl
  | bz | bcmp =>
    cases h
    exact onRegs_branch ha hg rfl rfl
  | bnz a =>
    cases h
    rw [decide_not]
    exact onRegs_branch ha hg rfl rfl
  | loop a =>
    obtain ⟨h0, h⟩ := Option.ite_none_left_eq_some.1 h
    cases h
    rw [decide_not]
    unfold exec
    exact onBoth_branch ha (writeG_pc _ _ _) ((if_neg h0).trans (plain_ready hg))
  | bbead port =>
    unfold exec execBbead
    rcases hp : Tab.get? (s.dev.core k).ports port.toNat with _ | b
    · simp [branchSpec, hp] at h
    · simp only [branchSpec, hp] at h
      cases h
      exact onCore_branch ha rfl (by simp only [hp]; rfl)
  | _ => cases h

/-! ## Instructions on the sequencer of an engine -/

section
variable {s : State} {q e : Nat} {p : Prog}

theorem run_to {f : Ctx → Dev → Dev} {d : Dev} (h : f s.ctx s.dev = d) : run f s = .next { s with dev := d } := by rw [run, h]

section
variable {regs : List Reg} {f : Core → CRes} {g : Plane → Prog → Option Prog} (ha : s.actor = .engine q e)
  (hp : (s.dev.engine q e).prog = some p) (hr : ∀ r ∈ regs, r.toNat ≤ 15)

include ha hp hr

/-- The program of an engine runs an instruction of R143, and goes on. -/
theorem onBoth_runs {p' : Prog} (h : g (s.dev.core p.core).cur p = some p') : onBoth regs Pred.all f g s = .next (s.ranOn q e p') := by
  have hregs : (regs.any fun r => decide (15 < r.toNat)) = false := any_pending fun r h => by simp [hr r h]
  exact run_to (by simp only [State.ctx, ha, Dev.onProg, hregs, engine_issuedBy, hp, h]; rfl)

/-- The program of an engine runs an instruction of R143, and ends. -/
theorem onBoth_fails (h : g (s.dev.core p.core).cur p = none) : onBoth regs Pred.all f g s = .next (s.endedOn q e) := by
  have hregs : (regs.any fun r => decide (15 < r.toNat)) = false := any_pending fun r h => by simp [hr r h]
  exact run_to (by simp only [State.ctx, ha, Dev.onProg, hregs, engine_issuedBy, hp, h]; rfl)

end

theorem pc_writeProg (p : Prog) (r : Reg) (x : Word) : (p.writeG r x).pc = p.pc := by unfold Prog.writeG; split <;> rfl

theorem next_writeProg (p : Prog) (r : Reg) (x : Word) : (p.writeG r x).next = { p.writeG r x with pc := p.pc + 8 } := by
  rw [Prog.next, pc_writeProg]

section
variable {pl : Plane} {g : Prog} {off : BitVec 32} {goal : Word} (hg : target g.pc off = goal)

include hg

theorem progBranch_inside (h : pl.inCode goal = true) : progBranch pl g off true = some { g with pc := goal } := by
  simp [progBranch, hg, h]
theorem progBranch_outside (h : pl.inCode goal = false) : progBranch pl g off true = none := by
  simp [progBranch, hg, h]

end

/-- A predicate or a register above g15 ends the program. -/
theorem onBoth_engine_ends {regs : List Reg} {m : Pred} {f : Core → CRes} {g : Plane → Prog → Option Prog} (ha : s.actor = .engine q e)
    (h : m ≠ Pred.all ∨ ∃ r ∈ regs, 15 < r.toNat) : onBoth regs m f g s = .next (s.endedOn q e) := by
  have hbad : ((regs.any fun r => decide (15 < r.toNat)) || m.m != 0 || m.pn) = true := by
    rcases h with h | ⟨r, hr, h15⟩
    · rcases m with ⟨m, pn⟩
      by_contra hn
      simp only [Bool.not_eq_true, Bool.or_eq_false_iff, bne_eq_false_iff_eq] at hn
      obtain ⟨⟨-, rfl⟩, rfl⟩ := hn
      exact h rfl
    · rw [List.any_eq_true.2 ⟨r, hr, by simpa using h15⟩]
      rfl
  exact run_to (by simp only [State.ctx, ha, Dev.onProg, hbad, if_true])

section
variable {off : BitVec 32} {a : Reg} (ha : s.actor = .engine q e) (hp : (s.dev.engine q e).prog = some p)

include ha hp

theorem br_inside (h : (s.dev.core p.core).cur.inCode (p.pc + 8 * off.signExtend 64) = true) :
    exec (.br off) s = .next (s.ranOn q e { p with pc := p.pc + 8 * off.signExtend 64 }) := by
  unfold exec execBr
  exact onBoth_runs ha hp (by simp) (progBranch_inside rfl h)

theorem br_outside (h : (s.dev.core p.core).cur.inCode (p.pc + 8 * off.signExtend 64) = false) :
    exec (.br off) s = .next (s.endedOn q e) := by
  unfold exec execBr
  exact onBoth_fails ha hp (by simp) (progBranch_outside rfl h)

theorem loop_falls (hr : a.toNat ≤ 15) (h0 : a ≠ 0) (hn : p.readG a - 1 = 0) :
    exec (.loop a off) s = .next (s.ranOn q e { p.writeG a (p.readG a - 1) with pc := p.pc + 8 }) := by
  unfold exec execLoop
  exact onBoth_runs ha hp (by simpa using hr) (by rw [if_neg h0, hn, ← next_writeProg]; rfl)

theorem loop_goes (hr : a.toNat ≤ 15) (h0 : a ≠ 0) (hn : p.readG a - 1 ≠ 0)
    (h : (s.dev.core p.core).cur.inCode (p.pc + 8 * off.signExtend 64) = true) :
    exec (.loop a off) s = .next (s.ranOn q e { p.writeG a (p.readG a - 1) with pc := p.pc + 8 * off.signExtend 64 }) := by
  unfold exec execLoop
  refine onBoth_runs ha hp (by simpa using hr) ?_
  rw [if_neg h0, bne_iff_ne.2 hn]
  exact progBranch_inside (congrArg (target · off) (pc_writeProg p a _)) h

end

/-- An instruction of another engine ends the program. -/
theorem onX_engine_ends {eng : Nat} {reads writes : List Reg} {f : Ctx → Who → Dev → Res} (ha : s.actor = .engine q e)
    (hp : (s.dev.engine q e).prog = some p) (h : eng ≠ e) : onX eng reads writes f s = .next (s.endedOn q e) := by
  exact run_to (by simp only [State.ctx, ha, hp]; exact if_pos (.inl h.symm))

theorem onCore_engine_ends {f : Ctx → Nat → Dev → Res} (ha : s.actor = .engine q e) : onCore f s = .next (s.endedOn q e) :=
  onCore_engine f ha
theorem onRegs_engine_ends {f : Core → CRes} (ha : s.actor = .engine q e) : onRegs f s = .next (s.endedOn q e) := onCore_engine_ends ha

theorem onCoreSync_engine_ends {f : Ctx → Nat → Dev → Res} (ha : s.actor = .engine q e) : onCoreSync f s = .next (s.endedOn q e) :=
  onCore_engine_ends ha
theorem memory_engine_ends {m : Pred} {gs vs : List Reg} {f : Core → Lane → Access} (ha : s.actor = .engine q e) :
    memory m gs vs f s = .next (s.endedOn q e) := onCore_engine_ends ha
theorem atomic_engine_ends {op : AtomicOp} {m : Pred} {sz : BitVec 3} {rd base idx : Reg} {disp : BitVec 24} (ha : s.actor = .engine q e) :
    atomic op m sz rd base idx disp s = .next (s.endedOn q e) := memory_engine_ends ha
theorem laneAtomic_engine_ends {op : AtomicOp} {m : Pred} {rd base idx : Reg} {disp : BitVec 24} (ha : s.actor = .engine q e) :
    laneAtomic op m rd base idx disp s = .next (s.endedOn q e) := memory_engine_ends ha
theorem channel_engine_ends {m : Pred} {h : BitVec 4} {gs : List Reg} {producer : Option Bool} {f : Ctx → Nat → Dev → Core → Nat → Chan → Res}
    (ha : s.actor = .engine q e) : channel m h gs producer f s = .next (s.endedOn q e) := onCore_engine_ends ha
theorem laneFloat_engine_ends {m : Pred} {vs : List Reg} {rd : Reg} {n : Nat} {f : Core → Nat → Lane × BitVec 5} (ha : s.actor = .engine q e) :
    laneFloat m vs rd n f s = .next (s.endedOn q e) := onCore_engine_ends ha
theorem laneUnit_engine_ends {m : Pred} {md : BitVec 4} {rd ra : Reg} {f : FOp1} (ha : s.actor = .engine q e) :
    laneUnit m md rd ra f s = .next (s.endedOn q e) := onCore_engine_ends ha

/-- Every shape of an instruction that only a core issues ends the program (R90). -/
theorem exec_coreAlone {i : Instr} (ha : s.actor = .engine q e) (h : coreAlone i = true) : exec i s = .next (s.endedOn q e) := by
  cases i with
  | brk | trap | wfe | phase | ncnt | srd | swr | tlbi | bbead | bstat | call | callr | ret | fence | vfcvt | cbind | ksend =>
    unfold exec
    exact onCore_engine_ends ha
  | ld | vld | vldg | vldb | st | vst | vsts | acas =>
    unfold exec
    exact memory_engine_ends ha
  | aadd | amin | amax | aand | aor | axor | axchg =>
    unfold exec
    exact atomic_engine_ends ha
  | vaadd | vamax =>
    unfold exec
    exact laneAtomic_engine_ends ha
  | cwait | cresv | cpush | cpeek | cpadv | ccadv | cmark | cstat =>
    unfold exec
    exact channel_engine_ends ha
  | lgfence | bar | bara | barw | barx | barset =>
    unfold exec
    exact onCoreSync_engine_ends ha
  | vfadd | vfsub | vfmul | vfma | vfmin | vfmax | vfabs | vfneg | vfscl =>
    unfold exec
    exact laneFloat_engine_ends ha
  | vexp2 | vlog2 | vrcp | vrsq =>
    unfold exec
    exact laneUnit_engine_ends ha
  | nop | halt | eret | sub | mul | mulh | mulhu | div | divu | rem | remu | and | or | xor | andn | shl | shr | sar | rol
  | min | max | minu | maxu | clz | popc | sext | zext | sel | cmp | andi | ori | xori | shli | shri | sari | cmpi | movi | movhi | mtog
  | pref | kpoll | bz | bnz | bcmp | jmpr
  | vadd | vsub | vmul | vmulh | vand | vor | vxor | vshl | vshr | vsar | vmin | vmax | vabs | vsel | vsplat | viota | vmov | vclz
  | vcmp | vfcmp | mand | mor | mxor | mnot | mfromg | vshuf | vrot | vbcast | vext | vins | vscan | vrng
  | vredadd | vredmax | vredmin | vargmax | mpopc | mfirst | vcompact =>
    unfold exec
    exact onRegs_engine_ends ha
  | _ => cases h

theorem issueMatrix_engine_ends {reads : List Reg} {i : Instr} {tid : BitVec 11} {f : Dev → Who → Cmd → Cmd} {ops : Cmd → Rec → List Operand}
    (ha : s.actor = .engine q e) (hp : (s.dev.engine q e).prog = some p) (h : 1 ≠ e) :
    issueMatrix reads i tid f ops s = .next (s.endedOn q e) := onX_engine_ends ha hp h
theorem issuePush_engine_ends {reads : List Reg} {i : Instr} {rec_ : Option (BitVec 11 × Nat)} {vals : Dev → Who → Word × Word}
    {ops : Dev → Cmd → Option Rec → List Operand} (ha : s.actor = .engine q e) (hp : (s.dev.engine q e).prog = some p) (h : 2 ≠ e) :
    issuePush reads i rec_ vals ops s = .next (s.endedOn q e) := onX_engine_ends ha hp h

theorem exec_otherEngine {i : Instr} {f : Nat} (ha : s.actor = .engine q e) (hp : (s.dev.engine q e).prog = some p)
    (h : engineOf i = some f) (hf : f ≠ e) : exec i s = .next (s.endedOn q e) := by
  cases i with
  | cpy | cpym | cpys | bfwait | bfrel | bfstat | bfarm | bfarmDisarm | mzero | mstat | astat =>
    cases h
    unfold exec
    exact onX_engine_ends ha hp hf
  | mma | mmaz | mldb | mdrain =>
    cases h
    unfold exec
    exact issueMatrix_engine_ends ha hp hf
  | aload | abindMaskSink | abindEventSink | abindTreeSink | abindSpillArea | abindLimits | abindUnbind | arun | astep | away | aresume
  | aclear =>
    cases h
    unfold exec
    exact issuePush_engine_ends ha hp hf
  | _ => cases h

/-- What the end of a program in fault leaves (R34, R90). -/
theorem endedOn_spec (hp : (s.dev.engine q e).prog = some p) :
    ((s.endedOn q e).dev.engine q e).prog = some { p with ended := some 0x01, joined := true, wait := none } ∧
    ((s.endedOn q e).dev.engine q e).fault = some (0x01, (s.dev.engine q e).seq, some p.core) ∧ (s.endedOn q e).dev.mem = s.dev.mem := by
  have hp' : ((s.dev.issuedBy q e).engine q e).prog = some p := by rw [engine_issuedBy, hp]
  simp only [State.endedOn, progFault_eq 0x01 hp', engine_latchQuad, dev_engine_setEngine, mem_latchQuad, engine_issuedBy]
  exact ⟨trivial, trivial, mem_issuedBy _ _ _⟩

end

/-! ## BBEAD on an empty port, and LOOP on g0 -/

theorem bbead_waits {s : State} {k : Nat} {port : BitVec 4} (off : BitVec 32) (ha : s.actor = .core k)
    (h : Tab.get? (s.dev.core k).ports port.toNat = none) :
    exec (.bbead port off) s = .next (s.stalled k ⟨3, port.toNat, 1, 0, 0⟩) := by
  unfold exec execBbead
  exact onCore_stall (w := some ⟨3, port.toNat, 1, 0, 0⟩) ha (by simp only [h]; rfl)

theorem loop_zero {s : State} {k : Nat} (off : BitVec 32) (ha : s.actor = .core k) :
    exec (.loop 0 off) s = .next (s.trapped k 0x01 ((encode (.loop 0 off)).getD 0)) := by
  unfold exec execLoop
  exact onBoth_core _ _ _ _ ha

/-- Settles O30: a core's branches by `exec_branchSpec`, and an engine's instructions by what its program makes of them. -/
theorem branchesGoToTheirTarget : Obligations.BranchesGoToTheirTarget := by
  unfold Obligations.BranchesGoToTheirTarget
  refine ⟨fun i s k gs c taken off ha h hg => exec_branchSpec ha h hg, fun s k off port ha => ⟨loop_zero off ha, bbead_waits off ha⟩,
    fun s q e p d a b imm off ha hp hd hra hb => ?_, fun s q e p i ha hp h => ⟨?_, endedOn_spec hp⟩⟩
  · intro n goal
    refine ⟨?_, ?_, br_inside ha hp, br_outside ha hp, loop_falls ha hp hra, loop_goes ha hp hra, ?_⟩
    · unfold exec execAdd
      exact onBoth_runs ha hp (by simp [hd, hra, hb]) (congrArg some (next_writeProg p d _))
    · unfold exec execAddi
      exact onBoth_runs ha hp (by simp [hd, hra]) (congrArg some (next_writeProg p d _))
    · unfold exec execLoop
      exact onBoth_fails ha hp (by simp) (if_pos rfl)
  · rcases h with h | ⟨f, hf, hne⟩ | ⟨m, d, a, b, rfl, h⟩
    · exact exec_coreAlone ha h
    · exact exec_otherEngine ha hp hf hne
    · unfold exec execAdd
      exact onBoth_engine_ends ha (h.imp_right fun h => ⟨d, List.mem_cons_self, h⟩)

end Sys2Proof.Proofs
end

section
/-! PROOFS. BSTAT: reading the status word of an engine (R120, R217, R218). -/

namespace Sys2Proof.Proofs

open Sys2Proof Sys2Proof.Machine Sys2Proof.Laws

/-! ## What reading a status word observes -/

/-- The device once a core has read the status word of an engine: done is a join, and a fault of its own is observed. -/
def statusRead (d : Dev) (k e : Nat) : Dev :=
  if (d.engine (quadOfCore k) e).stateCode = 2 then d.joinEngine k e
  else if (d.engine (quadOfCore k) e).faultedBy k = true then d.observeFault k e else d

theorem statusRead_kept (d : Dev) (k e : Nat) : JoinKept k d (statusRead d k e) := by
  unfold statusRead
  split
  · exact (joinEngine_spec d k e).1
  · split
    · exact observeFault_kept d k e
    · exact JoinKept.refl k d

/-- Done joins the core's operations of the engine. -/
theorem statusRead_joins {d : Dev} {k e : Nat} (h : (d.engine (quadOfCore k) e).stateCode = 2) :
    ∀ o ∈ ((statusRead d k e).core k).ops, ¬ (o.eng = e ∧ o.done = true) := by
  rw [statusRead, if_pos h]
  exact fun o ho hd => (joinEngine_spec d k e).2 o ho hd.2 hd.1

theorem stateCode_of_faultedBy {g : Engine} {k : Nat} (h : g.faultedBy k = true) : g.stateCode = 3 := by
  unfold Engine.faultedBy at h
  split at h
  · next hf => simp [Engine.stateCode, hf]
  · cases h

theorem fault_observe {g : Engine} {k : Nat} (h : g.faultedBy k = true) : (g.observe k).fault = none := by
  unfold Engine.faultedBy at h
  split at h
  · next k' hf =>
    rw [Engine.observe, hf]
    simp [eq_of_beq h]
  · cases h

/-- A fault of the core's own operation leaves the status word. -/
theorem statusRead_observes {d : Dev} {k e : Nat} (h : (d.engine (quadOfCore k) e).faultedBy k = true) :
    ((statusRead d k e).engine (quadOfCore k) e).fault = none := by
  rw [statusRead, if_neg (by rw [stateCode_of_faultedBy h]; decide), if_pos h, Dev.observeFault, if_pos h, engine_setCore, engine_latchQuad, dev_engine_setEngine]
  exact fault_observe h

/-! ## The instruction -/

/-- What BSTAT leaves before it goes on or traps: the word in its register, and the status word read. -/
def statusTaken (d : Dev) (k : Nat) (ra : Reg) (e : Nat) : Dev :=
  statusRead (d.setCore k ((d.core k).writeG ra (d.engine (quadOfCore k) e).status)) k e

theorem core_statusTaken (d : Dev) (k : Nat) (ra : Reg) (e : Nat) : ∃ l t os, (statusTaken d k ra e).core k =
    { (d.core k).writeG ra (d.engine (quadOfCore k) e).status with latch := l, ltime := t, ops := os } := by
  obtain ⟨-, -, l, t, os, hc, -⟩ := statusRead_kept (d.setCore k ((d.core k).writeG ra (d.engine (quadOfCore k) e).status)) k e
  rw [core_setCore] at hc
  exact ⟨l, t, os, hc⟩

/-- What reading the status word keeps of the core, and what it writes. -/
theorem statusTaken_keeps (d : Dev) (k : Nat) (ra : Reg) (e : Nat) :
    ((statusTaken d k ra e).core k).g = ((d.core k).writeG ra (d.engine (quadOfCore k) e).status).g ∧
    ((statusTaken d k ra e).core k).inHandler = (d.core k).inHandler ∧ ((statusTaken d k ra e).core k).cur = (d.core k).cur := by
  obtain ⟨l, t, os, h⟩ := core_statusTaken d k ra e
  rw [h]
  exact ⟨rfl, writeG_inHandler _ _ _, by simp [Core.cur, Core.plane]⟩

theorem mem_statusTaken (d : Dev) (k : Nat) (ra : Reg) (e : Nat) : (statusTaken d k ra e).mem = d.mem :=
  (statusRead_kept _ k e).1

section
variable {s : State} {k : Nat} {st : BitVec 4} {ra : Reg} {e : BitVec 4} (off : BitVec 32) (ha : s.actor = .core k)

include ha

theorem onCore_jump {f : Ctx → Nat → Dev → Res} {d : Dev} {pc : Word} (h : f s.ctx k s.dev = .jump d pc) :
    onCore f s = .next (s.completed k d pc) := by
  rw [onCore_core f ha, h]
  rfl

theorem onCore_trapsNext {f : Ctx → Nat → Dev → Res} {d : Dev} {cause : Nat} {info : Word} (h : f s.ctx k s.dev = .trapNext d cause info) :
    onCore f s = .next { s with dev :=
      (d.retire k ((s.dev.core k).pc + 8)).takeTrapAt s.now k cause info ((s.dev.core k).pc + 8) (s.dev.core k).pc } := by
  rw [onCore_core f ha, h]
  rfl

/-- A fault of the core's own operation traps unless the fault state is named. -/
theorem bstat_traps (hf : (s.dev.engine (quadOfCore k) e.toNat).faultedBy k = true) (hst : st ≠ 3) :
    exec (.bstat st ra e off) s = .next { s with
      dev := ((statusTaken s.dev k ra e.toNat).retire k ((s.dev.core k).pc + 8)).takeTrapAt s.now k Cause.engineFault
        (s.dev.engine (quadOfCore k) e.toNat).status ((s.dev.core k).pc + 8) (s.dev.core k).pc } := by
  unfold exec execBstat
  exact onCore_trapsNext ha (if_pos (Bool.and_eq_true_iff.2 ⟨hf, bne_iff_ne.2 hst⟩))

/-- Otherwise BSTAT branches on the state. -/
theorem bstat_goes (h : (s.dev.engine (quadOfCore k) e.toNat).faultedBy k = false ∨ st = 3) :
    exec (.bstat st ra e off) s = .next (s.completed k (statusTaken s.dev k ra e.toNat)
      (if (s.dev.engine (quadOfCore k) e.toNat).stateCode = st.toNat then (s.dev.core k).pc + 8 * off.signExtend 64
       else (s.dev.core k).pc + 8)) := by
  have hno : ¬ ((s.dev.engine (quadOfCore k) e.toNat).faultedBy k && st != 3) = true := by
    rcases h with h | h <;> simp [h]
  unfold exec execBstat
  by_cases hs : (s.dev.engine (quadOfCore k) e.toNat).stateCode = st.toNat
  · rw [if_pos hs]
    exact onCore_jump ha ((if_neg hno).trans (if_pos hs))
  · rw [if_neg hs]
    exact onCore_done ha ((if_neg hno).trans (if_neg hs))

end

/-- Settles O31: a fault of the core's own that is not asked for by `bstat_traps`, and the branch by `bstat_goes`. -/
theorem statusBranchesReadTheWord : Obligations.StatusBranchesReadTheWord := by
  unfold Obligations.StatusBranchesReadTheWord
  intro s k st ra e off ha _ g c
  set d := statusTaken s.dev k ra e.toNat with hd
  obtain ⟨hg, hhandler, hcur⟩ := statusTaken_keeps s.dev k ra e.toNat
  have hmem : d.mem = s.dev.mem := mem_statusTaken s.dev k ra e.toNat
  have hgone : g.faultedBy k = true → (d.engine (k / 4) e.toNat).fault = none := fun h => statusRead_observes h
  by_cases h : g.faultedBy k = true ∧ st ≠ 3
  · obtain ⟨hf, hst⟩ := h
    set c' := (d.retire k (c.pc + 8)).core k with hc'
    have hretired : c' = { d.core k with pc := c.pc + 8, wait := none, stage := .none } := core_retire d k _
    have hhandler' : c'.inHandler = c.inHandler := by rw [hretired]; exact hhandler
    have hcur' : c'.cur = c.cur := by rw [hretired]; exact hcur
    refine ⟨_, bstat_traps off ha hf hst, ?_, ?_, fun h2 => ?_, fun h => ?_, fun _ _ hh hx => ?_, fun _ _ hh => ?_, fun _ => ?_⟩
    · rw [core_takeTrapAt]
      exact (trapCore_keeps c' _ _ _).1.trans (by rw [hretired]; exact hg)
    · rw [mem_takeTrapAt, mem_retire, hmem]
    · rw [stateCode_of_faultedBy hf] at h2
      cases h2
    · rcases h with h | h
      · exact absurd hf (Bool.eq_false_iff.1 h)
      · exact absurd h hst
    · rw [core_takeTrapAt, trapCore_enters _ _ (hhandler'.trans hh) (by decide) (by rw [hcur']; exact hx)]
      exact ⟨rfl, rfl, rfl, by rw [handling, hcur']⟩
    · rw [core_takeTrapAt, trapCore_inside _ _ (hhandler'.trans hh)]
      exact ⟨rfl, congrArg Core.pc hretired⟩
    · rw [Dev.engine, quad_takeTrapAt, quad_retire]
      exact hgone hf
  · have hgo : g.faultedBy k = false ∨ st = 3 := by
      by_contra hn
      obtain ⟨hf, hst⟩ := not_or.1 hn
      exact h ⟨Bool.not_eq_false _ ▸ hf, hst⟩
    refine ⟨_, bstat_goes off ha hgo, ?_, ?_, fun h2 => ?_, fun _ => ?_, fun hf hst => absurd ⟨hf, hst⟩ h, fun hf hst => absurd ⟨hf, hst⟩ h,
      fun hf => ?_⟩
    · rw [State.completed, core_retire]
      exact hg
    · rw [State.completed, mem_retire, hmem]
    · rw [State.completed, core_retire]
      exact statusRead_joins h2
    · rw [State.completed, core_retire]
      rfl
    · rw [State.completed, Dev.engine, quad_retire]
      exact hgone hf

end Sys2Proof.Proofs
end

section
/-! PROOFS. Words in memory, as calls and returns write and read them (R6, R124, R125). -/

namespace Sys2Proof.Proofs

open Sys2Proof Sys2Proof.Machine Sys2Proof.Laws

/-! ## A word as bytes -/

theorem natOfBytes_bytesOfNat (n x : Nat) : natOfBytes (bytesOfNat n x) = x % 256 ^ n := by
  induction n generalizing x with
  | zero => simp [bytesOfNat, natOfBytes, Nat.mod_one]
  | succ n ih =>
    rw [bytesOfNat, natOfBytes, ih, pow_succ', Nat.mod_mul, BitVec.toNat_ofNat]

theorem wordOf_bytesOf (x : Word) : wordOf (bytesOf 8 x) = x := by
  rw [wordOf, bytesOf, natOfBytes_bytesOfNat, Nat.mod_eq_of_lt (by have := x.isLt; omega), BitVec.ofNat_toNat, BitVec.setWidth_eq]

theorem length_bytesOf (n : Nat) (x : Word) : (bytesOf n x).length = n := length_bytesOfNat n x.toNat

/-! ## Words written one after another -/

/-- Memory after words have been stored one after another from an address. -/
def putWords (m : SMap 8) (pa : Nat) : List Word → SMap 8
  | [] => m
  | x :: xs => putWords (SMap.setRun m pa (bytesOf 8 x)) (pa + 8) xs

theorem get_putWords_other {m : SMap 8} {pa : Nat} {ws : List Word} {b : Nat} (h : b < pa ∨ pa + 8 * ws.length ≤ b) :
    SMap.get (putWords m pa ws) b = SMap.get m b := by
  induction ws generalizing m pa with
  | nil => rfl
  | cons x xs ih =>
    rw [List.length_cons] at h
    rw [putWords, ih (by omega), get_setRun_other _ _ _ _ (by rw [length_bytesOf]; omega)]

theorem getRun_putWords {m : SMap 8} {pa : Nat} {ws : List Word} {i : Nat} (hi : i < ws.length) :
    SMap.getRun (putWords m pa ws) (pa + 8 * i) 8 = bytesOf 8 ws[i] := by
  induction ws generalizing m pa i with
  | nil => simp at hi
  | cons x xs ih =>
    cases i with
    | zero =>
      have h : SMap.getRun (putWords (SMap.setRun m pa (bytesOf 8 x)) (pa + 8) xs) pa 8 = SMap.getRun (SMap.setRun m pa (bytesOf 8 x)) pa 8 :=
        List.map_congr_left fun j hj => get_putWords_other (.inl (by have := List.mem_range.1 hj; omega))
      have hx := getRun_setRun_same m pa (bytesOf 8 x)
      rw [length_bytesOf] at hx
      exact h.trans hx
    | succ i =>
      rw [show pa + 8 * (i + 1) = pa + 8 + 8 * i by omega]
      exact ih (by simpa using hi)

/-- A core's stores of words change memory, and of the core its time alone. -/
theorem storeWords_spec (d : Dev) (k pa : Nat) (ws : List Word) :
    (d.storeWords k pa ws).mem = putWords d.mem pa ws ∧ ∃ t, (d.storeWords k pa ws).core k = { d.core k with ltime := t } := by
  induction ws generalizing d pa with
  | nil => exact ⟨rfl, _, rfl⟩
  | cons x xs ih =>
    set p := d.storePa (d.core k).orderTime pa (bytesOf 8 x) with hp
    obtain ⟨ts, hts⟩ := fireStores_eq (p.1.setCore k { p.1.core k with ltime := p.2 }) (d.core k).world pa 8
    obtain ⟨hmem, t, hcore⟩ := ih ((p.1.setCore k { p.1.core k with ltime := p.2 }).fireStores (d.core k).world pa 8) (pa + 8)
    have hstep : d.storeWords k pa (x :: xs) =
        Dev.storeWords ((p.1.setCore k { p.1.core k with ltime := p.2 }).fireStores (d.core k).world pa 8) k (pa + 8) xs := rfl
    rw [hstep]
    refine ⟨hmem.trans ?_, t, hcore.trans ?_⟩
    · rw [hts]
      rfl
    · rw [hts, show ({ p.1.setCore k { p.1.core k with ltime := p.2 } with triggers := ts } : Dev).core k = { p.1.core k with ltime := p.2 }
        from core_setCore _ _ _]
      rfl

/-- A core's loads of words read them, and change of the core its time alone, and no byte. -/
theorem loadWords_spec (d : Dev) (seq k pa n : Nat) :
    (d.loadWords seq k pa n).2 = (List.range n).map (fun i => wordOf (SMap.getRun d.mem (pa + 8 * i) 8)) ∧
    (d.loadWords seq k pa n).1.mem = d.mem ∧ ∃ t, (d.loadWords seq k pa n).1.core k = { d.core k with ltime := t } := by
  induction n generalizing d pa with
  | zero => exact ⟨rfl, rfl, _, rfl⟩
  | succ n ih =>
    set p := d.loadPa seq none (d.core k).orderTime pa 8 with hp
    obtain ⟨hwords, hmem, t, hcore⟩ := ih (p.1.setCore k { d.core k with ltime := p.2.1 }) (pa + 8)
    refine ⟨?_, hmem, t, hcore.trans (by rw [core_setCore])⟩
    have hstep : (d.loadWords seq k pa (n + 1)).2 =
        wordOf (d.bytesAt pa 8) :: ((p.1.setCore k { d.core k with ltime := p.2.1 }).loadWords seq k (pa + 8) n).2 := rfl
    rw [hstep, hwords, List.range_succ_eq_map, List.map_cons, List.map_map]
    refine congrArg (_ :: ·) (List.map_congr_left fun i _ => ?_)
    rw [Function.comp_apply, show pa + 8 * (i + 1) = pa + 8 + 8 * i by omega]
    rfl

end Sys2Proof.Proofs
end

section
/-! PROOFS. Jumps to a register, calls and returns, with their register windows (R78, R122 to R126). -/

namespace Sys2Proof.Proofs

open Sys2Proof Sys2Proof.Machine Sys2Proof.Laws

/-! ## The window that a call enters (R78, R124) -/

/-- The registers of a window whose locals and outs have been set to 0. -/
def freshWindow (g : SMap 64) (depth : Nat) : SMap 64 :=
  SMap.setRun (SMap.setRun g (gPlace depth 32) (List.replicate 16 0)) (gPlace depth 48) (List.replicate 16 0)

/-- Three runs of 16 registers of a window lie in their places in order. -/
theorem gPlace_run {r i : Nat} (depth : Nat) (hr : r = 16 ∨ r = 32 ∨ r = 48) (hi : i < 16) : gPlace depth (r + i) = gPlace depth r + i := by
  unfold gPlace
  rcases hr with rfl | rfl | rfl <;> split_ifs <;> omega

theorem get_setRun_zeros {w : Nat} (m : SMap w) (p n j : Nat) :
    SMap.get (SMap.setRun m p (List.replicate n 0)) j = if p ≤ j ∧ j < p + n then 0 else SMap.get m j := by
  split
  · next h =>
    obtain ⟨i, rfl⟩ := Nat.exists_eq_add_of_le h.1
    rw [get_setRun _ _ _ _ (by rw [List.length_replicate]; omega), List.getElem_replicate]
  · next h => exact get_setRun_other _ _ _ _ (by rw [List.length_replicate]; omega)

theorem get_freshWindow_kept (g : SMap 64) (depth : Nat) {r : Nat} (h : r < 32) :
    SMap.get (freshWindow g depth) (gPlace depth r) = SMap.get g (gPlace depth r) := by
  rw [freshWindow, get_setRun_zeros, if_neg, get_setRun_zeros, if_neg]
  · unfold gPlace
    split_ifs <;> omega
  · unfold gPlace
    split_ifs <;> omega

theorem get_freshWindow_zero (g : SMap 64) (depth : Nat) {r : Nat} (h : 32 ≤ r) (h' : r < 64) :
    SMap.get (freshWindow g depth) (gPlace depth r) = 0 := by
  rw [freshWindow, get_setRun_zeros, get_setRun_zeros]
  by_cases hr : r < 48
  · have hp := gPlace_run depth (.inr (.inl rfl)) (show r - 32 < 16 by omega)
    rw [show 32 + (r - 32) = r by omega] at hp
    have h32 : gPlace depth 32 ≤ gPlace depth r ∧ gPlace depth r < gPlace depth 32 + 16 := ⟨by omega, by omega⟩
    rw [if_pos h32, ite_self]
  · have hp := gPlace_run depth (.inr (.inr rfl)) (show r - 48 < 16 by omega)
    rw [show 48 + (r - 48) = r by omega] at hp
    rw [if_pos ⟨by omega, by omega⟩]

theorem readG_of_ne {q : Reg} (c : Core) (h : q ≠ 0) : c.readG q = SMap.get c.g (gPlace c.depth q.toNat) := if_neg h

theorem ne_zero_of_le {q : Reg} {n : Nat} (hn : 0 < n) (h : n ≤ q.toNat) : q ≠ 0 := fun e => by
  rw [e] at h
  exact absurd h (Nat.not_le.2 hn)

/-- A core has the globals of another. -/
def SameGlobals (c c' : Core) : Prop := ∀ q : Reg, q.toNat < 16 → c'.readG q = c.readG q

theorem sameGlobals_of {c c' : Core} (h : ∀ r, r < 16 → SMap.get c'.g r = SMap.get c.g r) : SameGlobals c c' := by
  intro q hq
  by_cases h0 : q = 0
  · rw [h0, readG_zero, readG_zero]
  · rw [readG_of_ne c' h0, readG_of_ne c h0, gPlace, gPlace, if_pos hq, if_pos hq, h _ hq]

/-- A core has entered the next window. -/
def EntersWindow (c c' : Core) : Prop :=
  SameGlobals c c' ∧ (∀ q : Reg, 32 ≤ q.toNat → c'.readG q = 0) ∧
    ∀ q : Reg, 16 ≤ q.toNat → q.toNat < 32 → c'.readG q = c.readG (q + 32)

theorem entersWindow_of {c c' : Core} (hd : c'.depth = c.depth + 1) (hg : c'.g = freshWindow c.g (c.depth + 1)) : EntersWindow c c' := by
  refine ⟨sameGlobals_of fun r hr => ?_, fun q hq => ?_, fun q hq hq' => ?_⟩
  · have h := get_freshWindow_kept c.g (c.depth + 1) (show r < 32 by omega)
    rw [gPlace, if_pos hr] at h
    rw [hg, h]
  · rw [readG_of_ne c' (ne_zero_of_le (by decide) hq), hd, hg]
    exact get_freshWindow_zero _ _ hq q.isLt
  · have hsum : (q + 32).toNat = 48 + (q.toNat - 16) := by
      rw [BitVec.toNat_add, show (32 : Reg).toNat = 32 from rfl]
      omega
    have hne : q + 32 ≠ 0 := ne_zero_of_le (n := 48) (by decide) (by omega)
    rw [readG_of_ne c' (ne_zero_of_le (by decide) hq), readG_of_ne c hne, hd, hg, get_freshWindow_kept _ _ hq', hsum, gPlace_outs _ (by omega),
      show 16 + (q.toNat - 16) = q.toNat by omega]

theorem enter_g (c : Core) (ret : Word) : (c.enter ret).g = freshWindow c.g (c.depth + 1) := by simp only [Core.enter, Core.dropPend, freshWindow]

theorem enter_resident (c : Core) (ret : Word) : (c.enter ret).resident = c.resident + 1 := by simp only [Core.enter, Core.dropPend]

theorem enter_spilled (c : Core) (ret : Word) : (c.enter ret).spilled = c.spilled := by simp only [Core.enter, Core.dropPend]

theorem enter_rets (c : Core) (ret : Word) : (c.enter ret).rets = ret :: c.rets := by simp only [Core.enter, Core.dropPend]

theorem depth_enter {c : Core} (ret : Word) (h : 1 ≤ c.resident) : (c.enter ret).depth = c.depth + 1 := by
  rw [Core.depth, Core.depth, enter_resident, enter_spilled]
  omega

/-! ## What a call does (R124) -/

section
variable {d : Dev} {k : Nat} (pc : Word)

theorem call_enters (h : (d.core k).resident < 8) : d.call k pc = .jump (d.setCore k ((d.core k).enter ((d.core k).pc + 8))) pc := if_pos h

theorem call_tooDeep (h : (d.core k).resident = 8) (hs : (d.core k).spilled = (d.core k).cur.spillWindows) :
    d.call k pc = .trap Cause.callDepth (BitVec.ofNat 64 ((d.core k).spilled * 2 ^ 16 + (d.core k).resident)) := by
  simp only [Dev.call]
  rw [if_neg (by omega), if_pos hs]
  rfl

/-- The device once the oldest window has been spilled. -/
def spilledDev (d : Dev) (k : Nat) : Dev := d.storeWords k (d.spillPa k (d.core k).spilled) (d.core k).spillRecord

/-- A core whose oldest window has been spilled. -/
def spillsOldest (c : Core) : Core :=
  { c with spilled := c.spilled + 1, resident := 7, rets := if c.spilled = 0 then c.rets else c.rets.dropLast }

theorem depth_spillsOldest (c : Core) (h : c.resident = 8) : (spillsOldest c).depth = c.depth := by
  have hr : (spillsOldest c).resident = 7 := rfl
  have hs : (spillsOldest c).spilled = c.spilled + 1 := rfl
  rw [Core.depth, Core.depth, hr, hs, h]
  omega

theorem call_spills (h : (d.core k).resident = 8) (hs : (d.core k).spilled ≠ (d.core k).cur.spillWindows) (hheld : (d.core k).held = [])
    (hpend : (d.core k).pend = []) :
    ∃ t, d.call k pc = .jump ((spilledDev d k).setCore k ((spillsOldest { d.core k with ltime := t }).enter ((d.core k).pc + 8))) pc ∧
      (spilledDev d k).mem = putWords d.mem (d.spillPa k (d.core k).spilled) (d.core k).spillRecord := by
  obtain ⟨hmem, t, hcore⟩ := storeWords_spec d k (d.spillPa k (d.core k).spilled) (d.core k).spillRecord
  refine ⟨t, ?_, hmem⟩
  simp only [Dev.call]
  rw [if_neg (by omega), if_neg hs, if_neg (by simp [Core.blocked, hheld, hpend]), hcore]
  rfl

end

/-- The words of the spill record (R124). -/
theorem length_spillRecord (c : Core) : c.spillRecord.length = 33 := by
  simp [Core.spillRecord, Core.windowWords, SMap.getRun]

theorem spillRecord_window (c : Core) {i : Nat} (hi : i < 32) (h : i < c.spillRecord.length) :
    c.spillRecord[i] = SMap.get c.g (gPlace c.spilled (16 + i)) := by
  simp only [Core.spillRecord, Core.windowWords, SMap.getRun, List.append_assoc]
  by_cases h16 : i < 16
  · rw [List.getElem_append_left (by simpa using h16)]
    simp [gPlace_run c.spilled (.inl rfl) h16]
  · rw [List.getElem_append_right (by simpa using h16), List.getElem_append_left (by simp; omega)]
    simp only [List.length_map, List.length_range, List.getElem_map, List.getElem_range]
    rw [← gPlace_run c.spilled (.inr (.inl rfl)) (by omega), show 32 + (i - 16) = 16 + i by omega]

theorem spillRecord_return (c : Core) (h : 32 < c.spillRecord.length) :
    c.spillRecord[32] = if c.spilled = 0 then BitVec.allOnes 64 else c.rets.getLastD 0 := by
  simp only [Core.spillRecord]
  rw [List.getElem_append_right (by simp [Core.windowWords, SMap.getRun])]
  simp [Core.windowWords, SMap.getRun]

/-! ## The instructions -/

theorem aligned_iff (x : Word) : field x 0 3 = 0 ↔ x.toNat % 8 = 0 := by simp [field]

section
variable {s : State} {k : Nat} {a : Reg} {off : BitVec 32} (ha : s.actor = .core k)

include ha

theorem exec_call : exec (.call off) s =
    .next { s with dev := s.dev.finish s.now k (s.dev.call k ((s.dev.core k).pc + 8 * off.signExtend 64)) } := by
  unfold exec execCall
  exact onCore_core _ ha

theorem exec_callr (hp : (s.dev.core k).pendingG a = false) (hr : ((s.dev.core k).readG a + 8 * off.signExtend 64).toNat % 8 = 0) :
    exec (.callr a off) s = .next { s with dev := s.dev.finish s.now k (s.dev.call k ((s.dev.core k).readG a + 8 * off.signExtend 64)) } := by
  unfold exec execCallr
  refine (onCore_core _ ha).trans ?_
  simp only [hp, Bool.false_eq_true, if_false]
  rw [Core.absTarget, sext64, if_pos ((aligned_iff _).2 hr)]

theorem exec_callr_misaligned (hp : (s.dev.core k).pendingG a = false) (hr : ((s.dev.core k).readG a + 8 * off.signExtend 64).toNat % 8 ≠ 0) :
    exec (.callr a off) s = .next (s.trapped k 0x03 ((s.dev.core k).readG a + 8 * off.signExtend 64)) := by
  unfold exec execCallr
  refine onCore_trap ha ?_
  simp only [hp, Bool.false_eq_true, if_false]
  exact if_neg fun h => hr ((aligned_iff _).1 h)

theorem jmpr_goes (hp : (s.dev.core k).pendingG a = false) (hr : ((s.dev.core k).readG a + 8 * off.signExtend 64).toNat % 8 = 0) :
    exec (.jmpr a off) s = .next (s.completed k s.dev ((s.dev.core k).readG a + 8 * off.signExtend 64)) := by
  unfold exec execJmpr
  refine (onRegs_jump ha ((plain_ready (List.forall_mem_singleton.2 hp)).trans (if_pos ((aligned_iff _).2 hr)))).trans ?_
  simp only [State.completed, Dev.retire, core_setCore, setCore_setCore]
  rfl

theorem jmpr_misaligned (hp : (s.dev.core k).pendingG a = false) (hr : ((s.dev.core k).readG a + 8 * off.signExtend 64).toNat % 8 ≠ 0) :
    exec (.jmpr a off) s = .next (s.trapped k 0x03 ((s.dev.core k).readG a + 8 * off.signExtend 64)) := by
  unfold exec execJmpr
  exact onRegs_trap ha ((plain_ready (List.forall_mem_singleton.2 hp)).trans (if_neg fun h => hr ((aligned_iff _).1 h)))

end

/-! ## Where calls go on -/

theorem jumped_to (d : Dev) (k : Nat) (c : Core) (pc : Word) :
    ((d.setCore k c).retire k pc).core k = { c with pc := pc, wait := none, stage := .none } ∧ ((d.setCore k c).retire k pc).mem = d.mem :=
  ⟨by rw [core_retire, core_setCore], mem_retire _ _ _⟩

/-- A call of an instruction: it does what the device's call does. -/
def Calls (i : Instr) (s : State) (k : Nat) (pc : Word) : Prop := exec i s = .next { s with dev := s.dev.finish s.now k (s.dev.call k pc) }

section
variable {i : Instr} {s : State} {k : Nat} {pc : Word} (hx : Calls i s k pc)

include hx

/-- A call with room for another window enters it. -/
theorem calls_enter (h1 : 1 ≤ (s.dev.core k).resident) (h8 : (s.dev.core k).resident < 8) :
    ∃ t, exec i s = .next t ∧ ((t.dev.core k).pc = pc ∧ EntersWindow (s.dev.core k) (t.dev.core k)) ∧
      (t.dev.core k).resident = (s.dev.core k).resident + 1 ∧ (t.dev.core k).spilled = (s.dev.core k).spilled ∧
      (t.dev.core k).rets = ((s.dev.core k).pc + 8) :: (s.dev.core k).rets ∧ t.dev.mem = s.dev.mem := by
  have hcall := call_enters (d := s.dev) (k := k) pc h8
  have he := entersWindow_of (depth_enter ((s.dev.core k).pc + 8) h1) (enter_g (s.dev.core k) _)
  have hres := enter_resident (s.dev.core k) ((s.dev.core k).pc + 8)
  have hspilled := enter_spilled (s.dev.core k) ((s.dev.core k).pc + 8)
  have hrets := enter_rets (s.dev.core k) ((s.dev.core k).pc + 8)
  generalize (s.dev.core k).enter ((s.dev.core k).pc + 8) = e at *
  obtain ⟨hcore, hmem⟩ := jumped_to s.dev k e pc
  refine ⟨s.completed k (s.dev.setCore k e) pc, hx.trans (by rw [hcall]; rfl), ?_⟩
  rw [State.completed, hcore]
  exact ⟨⟨rfl, he⟩, hres, hspilled, hrets, hmem⟩

/-- A call that finds no window left to spill traps. -/
theorem calls_tooDeep (h8 : (s.dev.core k).resident = 8) (hs : (s.dev.core k).spilled = (s.dev.core k).cur.spillWindows) :
    exec i s = .next (s.trapped k 0x04 (BitVec.ofNat 64 ((s.dev.core k).spilled * 2 ^ 16 + (s.dev.core k).resident))) :=
  hx.trans (by rw [call_tooDeep pc h8 hs]; rfl)

/-- A call that finds the window store full spills the oldest window and enters the next. -/
theorem calls_spill (h8 : (s.dev.core k).resident = 8) (hs : (s.dev.core k).spilled ≠ (s.dev.core k).cur.spillWindows)
    (hheld : (s.dev.core k).held = []) (hpend : (s.dev.core k).pend = []) :
    ∃ t, exec i s = .next t ∧ ((t.dev.core k).pc = pc ∧ EntersWindow (s.dev.core k) (t.dev.core k)) ∧
      (t.dev.core k).resident = 8 ∧ (t.dev.core k).spilled = (s.dev.core k).spilled + 1 ∧
      (t.dev.core k).rets = ((s.dev.core k).pc + 8) ::
        (if (s.dev.core k).spilled = 0 then (s.dev.core k).rets else (s.dev.core k).rets.dropLast) ∧
      t.dev.mem = putWords s.dev.mem (s.dev.spillPa k (s.dev.core k).spilled) (s.dev.core k).spillRecord := by
  obtain ⟨time, hcall, hmem⟩ := call_spills pc h8 hs hheld hpend
  have hdepth := (depth_spillsOldest { s.dev.core k with ltime := time } h8).trans (show _ = (s.dev.core k).depth from rfl)
  have h7 : 1 ≤ (spillsOldest { s.dev.core k with ltime := time }).resident := Nat.le_add_left 1 6
  have he := entersWindow_of (c := s.dev.core k) ((depth_enter ((s.dev.core k).pc + 8) h7).trans (by rw [hdepth]))
    ((enter_g (spillsOldest { s.dev.core k with ltime := time }) _).trans (by rw [hdepth]; rfl))
  have hres := enter_resident (spillsOldest { s.dev.core k with ltime := time }) ((s.dev.core k).pc + 8)
  have hspilled := enter_spilled (spillsOldest { s.dev.core k with ltime := time }) ((s.dev.core k).pc + 8)
  have hrets := enter_rets (spillsOldest { s.dev.core k with ltime := time }) ((s.dev.core k).pc + 8)
  generalize (spillsOldest { s.dev.core k with ltime := time }).enter ((s.dev.core k).pc + 8) = e at *
  obtain ⟨hnew, hkept⟩ := jumped_to (spilledDev s.dev k) k e pc
  refine ⟨s.completed k ((spilledDev s.dev k).setCore k e) pc, hx.trans (by rw [hcall]; rfl), ?_⟩
  rw [State.completed, hnew]
  exact ⟨⟨rfl, he⟩, hres, hspilled, hrets, hkept.trans hmem⟩

end

/-- Where the words of a spill record lie once they have been written. -/
theorem spillRecord_written (m : SMap 8) (pa : Nat) (c : Core) :
    (∀ i, i < 32 → wordOf (SMap.getRun (putWords m pa c.spillRecord) (pa + 8 * i) 8) = SMap.get c.g (gPlace c.spilled (16 + i))) ∧
    wordOf (SMap.getRun (putWords m pa c.spillRecord) (pa + 256) 8) = (if c.spilled = 0 then BitVec.allOnes 64 else c.rets.getLastD 0) ∧
    ∀ b, (b < pa ∨ pa + 264 ≤ b) → SMap.get (putWords m pa c.spillRecord) b = SMap.get m b := by
  have hlen := length_spillRecord c
  refine ⟨fun i hi => ?_, ?_, fun b hb => get_putWords_other (by omega)⟩
  · rw [getRun_putWords (by omega), wordOf_bytesOf, spillRecord_window c hi]
  · rw [show pa + 256 = pa + 8 * 32 from rfl, getRun_putWords (by omega), wordOf_bytesOf, spillRecord_return]

/-! ## Returns (R125) -/

section
variable {s : State} {k : Nat} (ha : s.actor = .core k)

include ha

theorem ret_resident (h : 1 < (s.dev.core k).resident) : exec .ret s = .next (s.completed k
    (s.dev.setCore k { s.dev.core k with resident := (s.dev.core k).resident - 1, rets := (s.dev.core k).rets.drop 1 })
      ((s.dev.core k).rets.headD 0)) := by
  unfold exec execRet
  refine onCore_jump ha ?_
  simp only
  rw [if_neg (by omega), if_pos h]

theorem ret_empty (h : (s.dev.core k).resident = 1) (hs : (s.dev.core k).spilled = 0) : exec .ret s = .next (s.trapped k 0x05 0) := by
  unfold exec execRet
  exact onCore_trap ha (if_pos ⟨h.le, hs⟩)

end

/-- The registers of a window filled with the words of its record. -/
def filledWindow (g : SMap 64) (depth : Nat) (ws : List Word) : SMap 64 :=
  SMap.setRun (SMap.setRun g (gPlace depth 16) (ws.take 16)) (gPlace depth 32) ((ws.drop 16).take 16)

/-- A core whose caller's window has been filled from its record. -/
def refilled (c : Core) (n : Nat) (ws : List Word) : Core :=
  let c' := (c.dropPend (gPlace n 16)).dropPend (gPlace n 32)
  { c' with g := filledWindow c'.g n ws, spilled := n, rets := if n = 0 then [] else [ws.getD 32 0] }

theorem refilled_resident (c : Core) (n : Nat) (ws : List Word) : (refilled c n ws).resident = c.resident := by
  simp only [refilled, Core.dropPend]

theorem refilled_spilled (c : Core) (n : Nat) (ws : List Word) : (refilled c n ws).spilled = n := by simp only [refilled]

theorem refilled_g (c : Core) (n : Nat) (ws : List Word) : (refilled c n ws).g = filledWindow c.g n ws := by simp only [refilled, Core.dropPend]

theorem refilled_rets (c : Core) (n : Nat) (ws : List Word) : (refilled c n ws).rets = if n = 0 then [] else [ws.getD 32 0] := by
  simp only [refilled]

theorem gPlace_ins_locals_apart (depth depth' : Nat) : gPlace depth 16 + 16 ≤ gPlace depth' 32 := by
  simp only [gPlace]
  norm_num
  omega

section
variable {g : SMap 64} {n : Nat} {ws : List Word} (hws : ws.length = 33)

include hws

theorem get_filledWindow_word {i : Nat} (hi : i < 32) : SMap.get (filledWindow g n ws) (gPlace n (16 + i)) = ws[i] := by
  have hapart := gPlace_ins_locals_apart n n
  rw [filledWindow]
  by_cases h16 : i < 16
  · rw [gPlace_run n (.inl rfl) h16, get_setRun_other _ _ _ _ (by omega), get_setRun _ _ _ _ (by simp; omega)]
    simp
  · rw [show 16 + i = 32 + (i - 16) by omega, gPlace_run n (.inr (.inl rfl)) (by omega), get_setRun _ _ _ _ (by simp; omega)]
    simp [show 16 + (i - 16) = i by omega]

theorem get_filledWindow_kept {j : Nat} (h : j < gPlace n 16 ∨ gPlace n 16 + 16 ≤ j) (h' : j < gPlace n 32 ∨ gPlace n 32 + 16 ≤ j) :
    SMap.get (filledWindow g n ws) j = SMap.get g j := by
  rw [filledWindow, get_setRun_other _ _ _ _ (by simp; omega), get_setRun_other _ _ _ _ (by simp; omega)]

end

/-- A core has returned into a window that was filled from a record. -/
theorem returned_registers {c c' : Core} {n : Nat} {ws : List Word} (hws : ws.length = 33) (hd : c.depth = n + 1) (hd' : c'.depth = n)
    (hg : c'.g = filledWindow c.g n ws) : SameGlobals c c' ∧ (∀ q : Reg, 48 ≤ q.toNat → c'.readG q = c.readG (q - 32)) ∧
      ∀ q : Reg, 16 ≤ q.toNat → q.toNat < 48 → c'.readG q = ws.getD (q.toNat - 16) 0 := by
  refine ⟨sameGlobals_of fun r hr => ?_, fun q hq => ?_, fun q hq hq' => ?_⟩
  · rw [hg, get_filledWindow_kept hws (.inl _) (.inl _)] <;> simp only [gPlace] <;> norm_num <;> omega
  · have hsub : (q - 32).toNat = 16 + (q.toNat - 48) := by
      have := q.isLt
      rw [BitVec.toNat_sub, show (32 : Reg).toNat = 32 from rfl]
      omega
    have hold := gPlace_run (n + 1) (.inl rfl) (show q.toNat - 48 < 16 by have := q.isLt; omega)
    have hnew := gPlace_outs n (show q.toNat - 48 < 16 by have := q.isLt; omega)
    rw [show 48 + (q.toNat - 48) = q.toNat by omega] at hnew
    rw [readG_of_ne c' (ne_zero_of_le (by decide) hq), readG_of_ne c (ne_zero_of_le (n := 16) (by decide) (by omega)), hd, hd', hg, hsub, hnew,
      get_filledWindow_kept hws]
    · rw [hold]
      simp only [gPlace]
      norm_num
      omega
    · have := gPlace_ins_locals_apart (n + 1) n
      have := q.isLt
      omega
  · rw [readG_of_ne c' (ne_zero_of_le (by decide) hq), hd', hg, show q.toNat = 16 + (q.toNat - 16) by omega,
      get_filledWindow_word hws (by omega), Nat.add_sub_cancel_left, List.getD_eq_getElem _ _ (by omega)]

section
variable {s : State} {k n : Nat} (ha : s.actor = .core k)

include ha

/-- A return into a window that had been spilled reads its record back. -/
theorem ret_fills (h : (s.dev.core k).resident = 1) (hs : (s.dev.core k).spilled = n + 1) (hheld : (s.dev.core k).held = []) :
    exec .ret s = .next (s.completed k ((s.dev.loadWords s.seq k (s.dev.spillPa k n) 33).1.setCore k
      (refilled ((s.dev.loadWords s.seq k (s.dev.spillPa k n) 33).1.core k) n (s.dev.loadWords s.seq k (s.dev.spillPa k n) 33).2))
        ((s.dev.core k).rets.headD 0)) := by
  unfold exec execRet
  refine onCore_jump ha ?_
  simp only
  rw [if_neg (by omega), if_neg (by omega), if_neg (by simp [Core.blocked, hheld]), hs, Nat.add_sub_cancel]
  simp only [refilled, filledWindow]
  rfl

/-- What a return that reads a record back leaves. -/
theorem ret_fills_core (h : (s.dev.core k).resident = 1) (hs : (s.dev.core k).spilled = n + 1) (hheld : (s.dev.core k).held = []) :
    ∃ t ws, exec .ret s = .next t ∧ ws = (s.dev.loadWords s.seq k (s.dev.spillPa k n) 33).2 ∧
      (t.dev.core k).pc = (s.dev.core k).rets.headD 0 ∧ (t.dev.core k).resident = 1 ∧ (t.dev.core k).spilled = n ∧ t.dev.mem = s.dev.mem ∧
      (t.dev.core k).g = filledWindow (s.dev.core k).g n ws ∧ (t.dev.core k).rets = if n = 0 then [] else [ws.getD 32 0] := by
  obtain ⟨-, hmem, time, hcore⟩ := loadWords_spec s.dev s.seq k (s.dev.spillPa k n) 33
  have hret := ret_fills ha h hs hheld
  generalize s.dev.loadWords s.seq k (s.dev.spillPa k n) 33 = p at *
  have hres := refilled_resident (p.1.core k) n p.2
  have hspilled := refilled_spilled (p.1.core k) n p.2
  have hg := refilled_g (p.1.core k) n p.2
  have hrets := refilled_rets (p.1.core k) n p.2
  have hres' := hres.trans (congrArg Core.resident hcore)
  have hg' := hg.trans (congrArg (fun c => filledWindow c.g n p.2) hcore)
  generalize refilled (p.1.core k) n p.2 = c at *
  obtain ⟨hnew, hkept⟩ := jumped_to p.1 k c ((s.dev.core k).rets.headD 0)
  refine ⟨_, _, hret, rfl, ?_⟩
  rw [State.completed, hnew]
  exact ⟨rfl, hres'.trans h, hspilled, hkept.trans hmem, hg', hrets⟩

end

/-- Settles O32: calls enter, spill or trap; returns go back, fill or trap. -/
theorem callsAndReturnsMoveTheWindow : Obligations.CallsAndReturnsMoveTheWindow := by
  unfold Obligations.CallsAndReturnsMoveTheWindow
  intro s k a off ha hp c r place globals entered calls spills
  have hcall : Calls (.call off) s k (c.pc + 8 * off.signExtend 64) := exec_call ha
  have hcallr (hr : r.toNat % 8 = 0) : Calls (.callr a off) s k r := exec_callr ha hp hr
  have hplace (n : Nat) : s.dev.spillPa k n = place n := by
    simp only [place, Dev.spillPa, vaultPa, quadOfCore, spillOffset, vaultBase]
    omega
  have hspills {i : Instr} {pc : Word} (hx : Calls i s k pc) (h8 : c.resident = 8) (hs : c.spilled ≠ c.cur.spillWindows)
      (hheld : c.held = []) (hpend : c.pend = []) : ∃ t, exec i s = .next t ∧ spills t pc := by
    obtain ⟨t, ht, he, hres, hspilled, hrets, hmem⟩ := calls_spill hx h8 hs hheld hpend
    rw [hplace] at hmem
    refine ⟨t, ht, he, hres, hspilled, hrets, ?_⟩
    rw [hmem]
    exact spillRecord_written s.dev.mem (place c.spilled) c
  refine ⟨jmpr_goes ha hp, fun hr => ⟨jmpr_misaligned ha hp hr, exec_callr_misaligned ha hp hr⟩,
    fun h1 h8 => ⟨calls_enter hcall h1 h8, fun hr => calls_enter (hcallr hr) h1 h8⟩,
    fun h8 hs => ⟨calls_tooDeep hcall h8 hs, fun hr => calls_tooDeep (hcallr hr) h8 hs⟩,
    fun h8 hs hheld hpend => ⟨hspills hcall h8 hs hheld hpend, fun hr => hspills (hcallr hr) h8 hs hheld hpend⟩,
    ret_resident ha, fun n h hs hheld => ?_, ret_empty ha⟩
  obtain ⟨t, ws, ht, hws, hpc, hres, hspilled, hmem, hg, hrets⟩ := ret_fills_core ha h hs hheld
  rw [(loadWords_spec _ _ _ _ _).1, hplace] at hws
  have hlen : ws.length = 33 := by rw [hws, List.length_map, List.length_range]
  have hword {i : Nat} (hi : i < 33) : ws.getD i 0 = wordOf (SMap.getRun s.dev.mem (place n + 8 * i) 8) := by
    rw [hws]
    simp [List.getD_eq_getElem?_getD, hi]
  obtain ⟨hglobals, houts, hins⟩ := returned_registers (c := c) (c' := t.dev.core k) hlen
    (by rw [Core.depth, h, hs]; omega) (by rw [Core.depth, hres, hspilled]; omega) hg
  exact ⟨t, ht, hpc, hres, hspilled, hmem, hglobals, houts, fun q hq hq' => (hins q hq hq').trans (hword (by omega)),
    hrets.trans (by rw [hword (by decide)])⟩

end Sys2Proof.Proofs
end

section
/-! PROOFS. Beads on their routes and at their ports (R119, R190, R212 to R214). -/

namespace Sys2Proof.Proofs

open Sys2Proof Sys2Proof.Machine Sys2Proof.Laws

/-! ## KSEND -/

/-- Another route's bead is on its way to the port of a route. -/
def AnotherBead (d : Dev) (i : Nat) (r : BeadRoute) : Prop :=
  ∃ e ∈ d.beads, e.1 ≠ i ∧ e.2.dst = r.dst ∧ e.2.port = r.port ∧ e.2.fly.isSome = true

theorem anotherBead_iff (d : Dev) (i : Nat) (r : BeadRoute) :
    (d.beads.any fun (j, o) => j != i && o.dst == r.dst && o.port == r.port && o.fly.isSome) = true ↔ AnotherBead d i r := by
  simp only [AnotherBead, List.any_eq_true, Bool.and_eq_true, bne_iff_ne, beq_iff_eq, and_assoc]

section
variable {s : State} {k i : Nat} {p : Pred} {x : Reg} {route : BitVec 8} {r : BeadRoute} (ha : s.actor = .core k)
  (hi : (s.dev.core k).issues p [x])

include ha hi

theorem ksend_noRoute (h : s.dev.beadRoute k route.toNat = none) :
    exec (.ksend p x route) s = .next (s.trapped k 0x0A (route.zeroExtend 64)) := by
  unfold exec execKsend
  refine onCore_trap ha ((scalarDev_on _ hi.1 (any_pending hi.2)).trans ?_)
  simp only [h]
  rfl

variable (hroute : s.dev.beadRoute k route.toNat = some i) (hr : Tab.get? s.dev.beads i = some r)

include hroute hr

theorem ksend_sends (hfly : r.fly = none) (hport : (Tab.get? (s.dev.core r.dst).ports r.port).isSome = false ∨ AnotherBead s.dev i r) :
    exec (.ksend p x route) s = .next (s.completed k { s.dev with beads := Tab.put s.dev.beads i { r with
      fly := some (((s.dev.core k).readG x).getLsbD 0), flyTime := (s.dev.core k).beadTime k r.dst } } ((s.dev.core k).pc + 8)) := by
  unfold exec execKsend
  refine onCore_done ha ((scalarDev_on _ hi.1 (any_pending hi.2)).trans ?_)
  simp only [hroute, hr]
  refine if_neg ?_
  rw [← anotherBead_iff] at hport
  rcases hport with h | h <;> simp [hfly, h]

theorem ksend_waits (h : r.fly ≠ none ∨ ((Tab.get? (s.dev.core r.dst).ports r.port).isSome = true ∧ ¬ AnotherBead s.dev i r)) :
    exec (.ksend p x route) s = .next (s.stalled k ⟨3, 0x10 + route.toNat, 1, 0, 0⟩) := by
  unfold exec execKsend
  refine onCore_stall (w := waitFor 3 (0x10 + route.toNat) 1 0) ha ((scalarDev_on _ hi.1 (any_pending hi.2)).trans ?_)
  simp only [hroute, hr]
  refine if_pos ?_
  rw [← anotherBead_iff] at h
  rcases h with h | ⟨h, h'⟩
  · simp [Option.isSome_iff_ne_none.2 h]
  · simp only [h, Bool.not_eq_true] at h' ⊢
    simp [h']

end

/-! ## The arrival of a bead -/

/-- The plane of a route's destination runs the route's team. -/
def RunsTeam (c : Core) (team : Nat) : Prop := c.active.isSome = true ∧ c.cur.team = team ∧ c.cur.state = .active

theorem not_runsTeam_iff {c : Core} {team : Nat} :
    (c.active.isNone = true ∨ c.cur.team ≠ team ∨ c.cur.state ≠ .active) ↔ ¬ RunsTeam c team := by
  rw [RunsTeam, Option.isNone_iff_eq_none, Option.isSome_iff_ne_none]
  tauto

section
variable {s : State} {i : Nat} {r : BeadRoute} {b : Bool} (hr : Tab.get? s.dev.beads i = some r) (hfly : r.fly = some b)

include hr hfly

theorem bead_dropped (h : ¬ RunsTeam (s.dev.core r.dst) r.team) :
    exec (.beadArrival i) s = .next { s with dev := { s.dev with beads := Tab.put s.dev.beads i { r with fly := none } } } := by
  unfold exec execBeadArrival
  refine run_to ?_
  simp only [hr, hfly]
  exact if_pos (not_runsTeam_iff.2 h)

variable (h : RunsTeam (s.dev.core r.dst) r.team) (howns : (s.dev.world (s.dev.core r.dst).world).owns (quadOfCore r.dst) = true)

include h howns

theorem bead_waits (hfull : (Tab.get? (s.dev.core r.dst).ports r.port).isSome = true ∨
    Tab.get? (s.dev.core r.dst).portAt r.port = some s.now.clock) : exec (.beadArrival i) s = .next s := by
  unfold exec execBeadArrival
  refine run_to ?_
  simp only [hr, hfly]
  rw [if_neg fun hn => not_runsTeam_iff.1 hn h, if_neg (by simp [howns]), if_pos]
  rcases hfull with hf | hf
  · simp [hf]
  · simp [hf, State.ctx]

theorem bead_enters (hempty : (Tab.get? (s.dev.core r.dst).ports r.port).isSome = false)
    (hclock : Tab.get? (s.dev.core r.dst).portAt r.port ≠ some s.now.clock) :
    exec (.beadArrival i) s = .next { s with dev :=
      ({ s.dev with beads := Tab.put s.dev.beads i { r with fly := none } } : Dev).setCore r.dst { s.dev.core r.dst with
        ports := Tab.put (s.dev.core r.dst).ports r.port b,
        portTimes := Tab.put (s.dev.core r.dst).portTimes r.port r.flyTime, latch := true } } := by
  unfold exec execBeadArrival
  refine run_to ?_
  simp only [hr, hfly]
  rw [if_neg fun hn => not_runsTeam_iff.1 hn h, if_neg (by simp [howns]), if_neg]
  simpa [hempty, State.ctx] using hclock

end

/-- Settles O45: a bead leaves on its route or waits, and arrives at its port, waits or is dropped. -/
theorem beadsTravelToTheirPort : Obligations.BeadsTravelToTheirPort := by
  unfold Obligations.BeadsTravelToTheirPort
  intro s k i p x route r c full another waits
  refine ⟨fun ha hi => ⟨ksend_noRoute ha hi, fun hroute hr => ⟨ksend_sends ha hi hroute hr,
    fun hfly => ksend_waits ha hi hroute hr (.inl hfly), fun hfull hother => ksend_waits ha hi hroute hr (.inr ⟨hfull, hother⟩)⟩⟩, ?_⟩
  intro b hr hfly d runs
  refine ⟨fun h howns => ⟨fun hempty hclock => ⟨_, bead_enters hr hfly h howns hempty hclock, ?_⟩, bead_waits hr hfly h howns⟩,
    bead_dropped hr hfly⟩
  rw [core_setCore]
  exact ⟨tab_get_put _ _ _, tab_get_put _ _ _, rfl, rfl, tab_get_put _ _ _⟩

end Sys2Proof.Proofs
end

section
/-! PROOFS. Memory accesses: what one element does, and the elements of an access in order (R136 to R138, R177, R178). -/

namespace Sys2Proof.Proofs

open Sys2Proof Sys2Proof.Machine Sys2Proof.Laws

/-! ## What an access leaves of the device -/

/-- What an access of a core leaves: devices that translate alike, the quads, and of the cores all but the time of its own. -/
structure Accessed (k : Nat) (d d' : Dev) : Prop where
  alike : Alike d d'
  own : ∃ t, d'.core k = { d.core k with ltime := t }
  others : ∀ j, j ≠ k → d'.core j = d.core j
  quads : d'.quads = d.quads

theorem Accessed.refl (k : Nat) (d : Dev) : Accessed k d d := ⟨Alike.refl d, ⟨_, rfl⟩, fun _ _ => rfl, rfl⟩

theorem Accessed.trans {k : Nat} {a b c : Dev} (h : Accessed k a b) (h' : Accessed k b c) : Accessed k a c := by
  obtain ⟨t, ht⟩ := h.own
  obtain ⟨t', ht'⟩ := h'.own
  exact ⟨h.alike.trans h'.alike, ⟨t', by rw [ht', ht]⟩, fun j hj => (h'.others j hj).trans (h.others j hj), h'.quads.trans h.quads⟩

theorem Accessed.reqOf {k : Nat} {d d' : Dev} (h : Accessed k d d') (kind : MemKind) : d'.reqOf k kind = d.reqOf k kind := by
  obtain ⟨t, ht⟩ := h.own
  rw [Dev.reqOf, ht]
  rfl

/-- Cores, quads and stale translations are no part of what an access changes beside its core's time. -/
theorem accessed_of {k : Nat} {d d' : Dev} (h : Alike d d') (hc : d'.cores = d.cores) (hq : d'.quads = d.quads) : Accessed k d d' := by
  have hcore : ∀ j, d'.core j = d.core j := fun j => by rw [Dev.core, Dev.core, hc]
  exact ⟨h, ⟨_, hcore k⟩, fun j _ => hcore j, hq⟩

theorem traffic_eq (d : Dev) (seq world pa n : Nat) (write : Bool) :
    ∃ ws l2, d.traffic seq world pa n write = { d with worlds := ws, l2 := l2 } := by
  unfold Dev.traffic
  dsimp only
  split
  · exact ⟨_, _, rfl⟩
  · obtain ⟨ws, h⟩ := count_eq d world (if write then 7 else 6) n
    rw [h]
    split
    · split
      · obtain ⟨ws1, h1⟩ := count_eq { d with worlds := ws } world 8 1
        obtain ⟨ws2, h2⟩ := count_eq { d with worlds := ws1 } world 12 n
        exact ⟨ws2, d.l2, by rw [h1]; exact h2⟩
      · obtain ⟨ws1, h1⟩ := count_eq { d with worlds := ws } world 9 1
        obtain ⟨ws2, h2⟩ := count_eq { d with worlds := ws1 } world 12 n
        exact ⟨ws2, d.l2, by rw [h1]; exact h2⟩
    · split
      · obtain ⟨ws1, h1⟩ := count_eq { d with worlds := ws } world 9 1
        exact ⟨ws1, d.l2, h1⟩
      · next share _ =>
        obtain ⟨ws1, h1⟩ := count_eq { d with worlds := ws, l2 := _ } world _ 1
        exact ⟨ws1, _, h1⟩

theorem leases_traffic (d : Dev) (seq world pa n : Nat) (write : Bool) : (d.traffic seq world pa n write).leases = d.leases := by
  obtain ⟨ws, l2, h⟩ := traffic_eq d seq world pa n write
  rw [h]

theorem accessed_traffic (k : Nat) (d : Dev) (seq world pa n : Nat) (write : Bool) : Accessed k d (d.traffic seq world pa n write) := by
  refine accessed_of (alike_traffic d seq world pa n write) ?_ ?_ <;> obtain ⟨ws, l2, h⟩ := traffic_eq d seq world pa n write <;> rw [h]

theorem loadPa_eq (d : Dev) (seq : Nat) (lease : Option Nat) (t pa n : Nat) :
    ∃ ln ls, (d.loadPa seq lease t pa n).1 = { d with lines := ln, leases := ls } := by
  unfold Dev.loadPa
  dsimp only
  split
  · exact ⟨_, _, rfl⟩
  · split
    · exact ⟨_, _, rfl⟩
    · split <;> split <;> exact ⟨_, _, rfl⟩

theorem accessed_loadPa (k : Nat) (d : Dev) (seq : Nat) (lease : Option Nat) (t pa n : Nat) : Accessed k d (d.loadPa seq lease t pa n).1 := by
  obtain ⟨ln, ls, h⟩ := loadPa_eq d seq lease t pa n
  rw [h]
  exact accessed_of ⟨rfl, fun _ _ _ => rfl⟩ rfl rfl

theorem accessed_setTime (k : Nat) (d : Dev) (t : Nat) : Accessed k d (d.setCore k { d.core k with ltime := t }) :=
  ⟨⟨rfl, fun _ _ _ => rfl⟩, ⟨t, core_setCore _ _ _⟩, fun _ hj => core_setCore_other _ _ hj, rfl⟩

/-- A core's store of one element: the traffic, the bytes, and the watches on them. -/
def storedAt (d : Dev) (seq world t pa n : Nat) (v : Word) : Dev × Nat :=
  let p := (d.traffic seq world pa n true).storePa t pa (bytesOf n v)
  (p.1.fireStores world pa n, p.2)

theorem storedAt_spec (k : Nat) (d : Dev) (seq world t pa n : Nat) (v : Word) :
    Accessed k d (storedAt d seq world t pa n v).1 ∧ (storedAt d seq world t pa n v).1.mem = SMap.setRun d.mem pa (bytesOf n v) := by
  have htraffic := accessed_traffic k d seq world pa n true
  have hmem := mem_traffic d seq world pa n true
  simp only [storedAt]
  generalize d.traffic seq world pa n true = d1 at *
  obtain ⟨ts, h⟩ := fireStores_eq (d1.storePa t pa (bytesOf n v)).1 world pa n
  rw [h]
  refine ⟨htraffic.trans ?_, congrArg (SMap.setRun · pa (bytesOf n v)) hmem⟩
  exact accessed_of (alike_caches d1 d1.dies d1.l2 _ ts _ d1.tokens) rfl rfl

/-! ## One element -/

section
variable (d : Dev) (x : Ctx) (k : Nat) {a : Access} (e : Elem) (pa : Nat)

theorem element_load (h : a.kind = .load) : d.element x k a e (.mem pa) =
    let r := (d.traffic x.seq (d.core k).world pa a.bytes false).loadPa x.seq (some (quadOfCore k))
      ((d.core k).loadTime e.va.toNat pa a.bytes) pa a.bytes
    (r.1.setCore k { r.1.core k with ltime := r.2.1 }, wordOf r.2.2) := by
  simp only [Dev.element, h, Access.new]

theorem element_store (h : a.kind = .store) : d.element x k a e (.mem pa) =
    let r := storedAt d x.seq (d.core k).world (d.core k).orderTime pa a.bytes e.data
    (r.1.setCore k { r.1.core k with ltime := r.2 }, wordOf []) := by
  simp only [Dev.element, h, Access.new, storedAt]

theorem element_atomic {op : AtomicOp} (h : a.kind = .atomic op) : d.element x k a e (.mem pa) =
    let l := (d.traffic x.seq (d.core k).world pa a.bytes false).loadPa x.seq none (d.core k).orderTime pa a.bytes
    let r := storedAt l.1 x.seq (d.core k).world l.2.1 pa a.bytes (atomicNew op a.bytes (wordOf l.2.2) e.data e.cmp)
    (r.1.setCore k { r.1.core k with ltime := r.2 }, wordOf l.2.2) := by
  simp only [Dev.element, h, Access.new, storedAt]

theorem element_accessed : Accessed k d (d.element x k a e (.mem pa)).1 := by
  cases h : a.kind with
  | load =>
    rw [element_load d x k e pa h]
    exact ((accessed_traffic k d _ _ _ _ _).trans (accessed_loadPa k _ _ _ _ _ _)).trans (accessed_setTime k _ _)
  | store =>
    rw [element_store d x k e pa h]
    exact (storedAt_spec k d _ _ _ _ _ _).1.trans (accessed_setTime k _ _)
  | atomic op =>
    rw [element_atomic d x k e pa h]
    exact (((accessed_traffic k d _ _ _ _ _).trans (accessed_loadPa k _ _ _ _ _ _)).trans (storedAt_spec k _ _ _ _ _ _ _).1).trans
      (accessed_setTime k _ _)

theorem mem_element_load (h : a.kind = .load) : (d.element x k a e (.mem pa)).1.mem = d.mem :=
  (element_read k d x h e (.mem pa)).mem_eq

theorem mem_element_store (h : a.kind = .store) : (d.element x k a e (.mem pa)).1.mem = SMap.setRun d.mem pa (bytesOf a.bytes e.data) := by
  rw [element_store d x k e pa h]
  exact (storedAt_spec k d _ _ _ _ _ _).2

/-- A read-modify-write reads memory. -/
theorem element_atomic_spec {op : AtomicOp} (h : a.kind = .atomic op) :
    (d.element x k a e (.mem pa)).2 = wordOf (d.bytesAt pa a.bytes) ∧
    (d.element x k a e (.mem pa)).1.mem =
      SMap.setRun d.mem pa (bytesOf a.bytes (atomicNew op a.bytes (wordOf (d.bytesAt pa a.bytes)) e.data e.cmp)) := by
  have hmem := mem_traffic d x.seq (d.core k).world pa a.bytes false
  have hread : ((d.traffic x.seq (d.core k).world pa a.bytes false).loadPa x.seq none (d.core k).orderTime pa a.bytes).2.2 =
      d.bytesAt pa a.bytes := congrArg (SMap.getRun · pa a.bytes) hmem
  rw [element_atomic d x k e pa h]
  refine ⟨congrArg wordOf hread, ((storedAt_spec k _ _ _ _ _ _ _).2).trans ?_⟩
  rw [hread, loadPa_mem, hmem]

end

/-! ## What a load returns (R177, R178) -/

/-- The lease copies of a device are those that it had, or copies of its present memory. -/
def LeasesFrom (d0 d : Dev) : Prop := ∀ l ∈ d.leases, l ∈ d0.leases ∨ l.bytes = d0.bytesAt (l.line * 128) 128

theorem LeasesFrom.refl (d : Dev) : LeasesFrom d d := fun _ hl => .inl hl

theorem sliceB_bytesAt (d : Dev) {pa n : Nat} (h : pa % 128 + n ≤ 128) : sliceB (d.bytesAt (pa / 128 * 128) 128) (pa % 128) n = d.bytesAt pa n := by
  have hlen : ((d.bytesAt (pa / 128 * 128) 128).drop (pa % 128)).take n = d.bytesAt pa n := by
    refine List.ext_getElem (by simp [length_bytesAt]; omega) fun i h1 h2 => ?_
    rw [List.getElem_take, List.getElem_drop]
    simp only [Dev.bytesAt, SMap.getRun, List.getElem_map, List.getElem_range]
    rw [show pa / 128 * 128 + (pa % 128 + i) = pa + i by omega]
  rw [sliceB, hlen, length_bytesAt]
  simp

/-- The load of one element takes memory's bytes, or those of a copy that the quad holds, and may leave the quad a new copy. -/
theorem loadPa_spec (d : Dev) (seq q t pa n : Nat) :
    ((d.loadPa seq (some q) t pa n).2.2 = d.bytesAt pa n ∨
      (isHbm pa = true ∧ ∃ l ∈ d.leases, l.quad = q ∧ l.line = pa / 128 ∧
        (d.loadPa seq (some q) t pa n).2.2 = sliceB l.bytes (pa % 128) n)) ∧
    ∀ l ∈ (d.loadPa seq (some q) t pa n).1.leases, l ∈ d.leases ∨ l.bytes = d.bytesAt (l.line * 128) 128 := by
  unfold Dev.loadPa
  dsimp only
  split
  · exact ⟨.inl rfl, fun l hl => .inl hl⟩
  · next hhbm =>
    split
    · next l hfind =>
      split
      · have hl := List.find?_some hfind
        simp only [Bool.and_eq_true, beq_iff_eq] at hl
        exact ⟨.inr ⟨by simpa using hhbm, l, List.mem_of_find?_eq_some hfind, hl.1.1, hl.1.2, rfl⟩, fun l hl => .inl hl⟩
      · exact ⟨.inl rfl, fun l hl => .inl hl⟩
    · split
      · refine ⟨.inl rfl, fun l hl => ?_⟩
        rcases List.mem_cons.1 hl with rfl | hl
        · exact .inr rfl
        · exact .inl (List.mem_of_mem_filter hl)
      · exact ⟨.inl rfl, fun l hl => .inl hl⟩

/-- One element of a load, after others, returns what memory or a copy of it holds. -/
theorem element_load_spec {d0 d : Dev} (x : Ctx) (k : Nat) {a : Access} (e : Elem) {pa : Nat} (h : a.kind = .load) (hmem : d.mem = d0.mem)
    (hl : LeasesFrom d0 d) (hline : pa % 128 + a.bytes ≤ 128) :
    d0.mayRead (quadOfCore k) pa a.bytes (d.element x k a e (.mem pa)).2 ∧ LeasesFrom d0 (d.element x k a e (.mem pa)).1 := by
  rw [element_load d x k e pa h]
  set d1 := d.traffic x.seq (d.core k).world pa a.bytes false with hd1
  have hmem1 : d1.mem = d0.mem := (mem_traffic ..).trans hmem
  have hbytes : ∀ p n, d1.bytesAt p n = d0.bytesAt p n := fun p n => congrArg (SMap.getRun · p n) hmem1
  have hleases : LeasesFrom d0 d1 := by
    intro l hl1
    rw [leases_traffic] at hl1
    exact hl l hl1
  obtain ⟨hval, hnew⟩ := loadPa_spec d1 x.seq (quadOfCore k) ((d.core k).loadTime e.va.toNat pa a.bytes) pa a.bytes
  refine ⟨?_, fun l hl' => ?_⟩
  · rcases hval with hv | ⟨hhbm, l, hl1, hq, hli, hv⟩
    · exact .inl (congrArg wordOf (hv.trans (hbytes _ _)))
    · rcases hleases l hl1 with h0 | h0
      · exact .inr ⟨hhbm, l, h0, hq, hli, congrArg wordOf hv⟩
      · exact .inl (congrArg wordOf (hv.trans (by rw [h0, hli, sliceB_bytesAt d0 hline])))
  · rcases hnew l hl' with h1 | h1
    · exact hleases l h1
    · exact .inr (h1.trans (hbytes _ _))

/-! ## A translated address keeps its place in its line -/

theorem pageBits_line (level : Nat) : ∃ m, 2 ^ pageBits level = 128 * m := by
  obtain ⟨h, -⟩ := pageBits_lines level
  exact ⟨_, (Nat.mul_div_cancel' (Nat.dvd_of_mod_eq_zero h)).symm⟩

theorem useLeaf_line {d : Dev} {r : Req} {va level pa : Nat} {e : Word} (h : d.useLeaf r va level e = .mem pa) : pa % 128 = va % 128 := by
  have hpa : pa = leafBase e + va % 2 ^ pageBits level := by
    unfold Dev.useLeaf at h
    dsimp only at h
    split_ifs at h
    exact (Xlate.mem.inj h).symm
  obtain ⟨m, hm⟩ := pageBits_line level
  rw [hpa, leafBase, hm, Nat.add_mod, Nat.mod_mul_right_mod]
  omega

theorem aperture_line {d : Dev} {r : Req} {va pa : Nat} (hva : vaWindow ≤ va) (h : d.aperture r va = .mem pa) : pa % 128 = va % 128 := by
  unfold Dev.aperture at h
  dsimp only at h
  split at h
  · split_ifs at h
    have hpa := Xlate.mem.inj h
    simp only [vaultPa, vaultBase, vaWindow] at hpa hva
    omega
  · split at h
    · next hl =>
      split at h
      · split_ifs at h
        have hpa := Xlate.mem.inj h
        simp only [vaultPa, vaultBase, vaLocal] at hpa hl
        omega
      · cases h
    · cases h

theorem translate_line {d : Dev} {seq va pa : Nat} {r : Req} (h : d.translate seq r va = .mem pa) : pa % 128 = va % 128 := by
  unfold Dev.translate at h
  split at h
  · cases h
  · split at h
    · next hva => exact aperture_line hva h
    · split at h
      · split at h <;> cases h
      · split at h
        · exact useLeaf_line h
        · cases h

end Sys2Proof.Proofs
end

section
/-! PROOFS. The elements of an access in order (R138), and the instructions that access memory (R136 to R142). -/

namespace Sys2Proof.Proofs

open Sys2Proof Sys2Proof.Machine Sys2Proof.Laws

/-! ## Elements in order -/

/-- The device and the values once elements have been done at physical addresses, in order. -/
def performed (x : Ctx) (k : Nat) (a : Access) (pa : Elem → Nat) : Dev → List Elem → Dev × List Word
  | d, [] => (d, [])
  | d, e :: es =>
    let r := d.element x k a e (.mem (pa e))
    ((performed x k a pa r.1 es).1, r.2 :: (performed x k a pa r.1 es).2)

section
variable {x : Ctx} {k : Nat} {a : Access} {pa : Elem → Nat}

theorem performed_accessed (d : Dev) (es : List Elem) : Accessed k d (performed x k a pa d es).1 := by
  induction es generalizing d with
  | nil => exact Accessed.refl k d
  | cons e es ih => exact (element_accessed d x k e (pa e)).trans (ih _)

theorem length_performed (d : Dev) (es : List Elem) : (performed x k a pa d es).2.length = es.length := by
  induction es generalizing d with
  | nil => rfl
  | cons e es ih => rw [performed, List.length_cons, List.length_cons, ih]

theorem mem_performed_load (h : a.kind = .load) (d : Dev) (es : List Elem) : (performed x k a pa d es).1.mem = d.mem := by
  induction es generalizing d with
  | nil => rfl
  | cons e es ih => exact (ih _).trans (mem_element_load d x k e (pa e) h)

theorem mem_performed_store (h : a.kind = .store) (d : Dev) (es : List Elem) :
    (performed x k a pa d es).1.mem = storeAll a.bytes d.mem (es.map fun e => (pa e, e.data)) := by
  induction es generalizing d with
  | nil => rfl
  | cons e es ih =>
    have hstep := mem_element_store d x k e (pa e) h
    refine (ih _).trans ?_
    rw [hstep]
    rfl

theorem performed_atomic {op : AtomicOp} {cmp : Word} (h : a.kind = .atomic op) (d : Dev) {es : List Elem} (hcmp : ∀ e ∈ es, e.cmp = cmp) :
    (performed x k a pa d es).1.mem = (atomicAll op a.bytes cmp d.mem (es.map fun e => (pa e, e.data))).1 ∧
    (performed x k a pa d es).2 = (atomicAll op a.bytes cmp d.mem (es.map fun e => (pa e, e.data))).2 := by
  induction es generalizing d with
  | nil => exact ⟨rfl, rfl⟩
  | cons e es ih =>
    obtain ⟨hval, hmem⟩ := element_atomic_spec d x k e (pa e) h
    rw [hcmp e List.mem_cons_self] at hmem
    obtain ⟨ih1, ih2⟩ := ih (d.element x k a e (.mem (pa e))).1 fun e' he' => hcmp e' (List.mem_cons_of_mem _ he')
    rw [hmem] at ih1 ih2
    exact ⟨ih1, (congrArg₂ (· :: ·) hval ih2 :)⟩

theorem performed_load_reads (h : a.kind = .load) {d0 d : Dev} {es : List Elem} (hmem : d.mem = d0.mem) (hl : LeasesFrom d0 d)
    (hline : ∀ e ∈ es, pa e % 128 + a.bytes ≤ 128) {j : Nat} {e : Elem} {w : Word} (he : es[j]? = some e)
    (hw : (performed x k a pa d es).2[j]? = some w) : d0.mayRead (quadOfCore k) (pa e) a.bytes w := by
  induction es generalizing d j with
  | nil => cases he
  | cons e' es ih =>
    obtain ⟨hread, hleases⟩ := element_load_spec x k e' h hmem hl (hline e' List.mem_cons_self)
    cases j with
    | zero =>
      cases he
      cases hw
      exact hread
    | succ j => exact ih ((mem_element_load d x k e' (pa e') h).trans hmem) hleases (fun e he => hline e (List.mem_cons_of_mem _ he)) he hw

/-- Elements that translate are done in order; those after them follow. -/
theorem elements_performed {d : Dev} {pre : List Elem} (post : List Elem) (vals : List (Nat × Word)) (hstale : d.stale = [])
    (h : ∀ e ∈ pre, d.translate x.seq (d.reqOf k a.kind) e.va.toNat = .mem (pa e)) :
    d.elements x k a (pre ++ post) vals =
      (performed x k a pa d pre).1.elements x k a post (((pre.map Elem.lane).zip (performed x k a pa d pre).2).reverse ++ vals) := by
  induction pre generalizing d vals with
  | nil => rfl
  | cons e es ih =>
    have hstep := element_accessed d x k (a := a) e (pa e)
    have hfirst : d.elements x k a (e :: es ++ post) vals =
        (d.element x k a e (.mem (pa e))).1.elements x k a (es ++ post) ((e.lane, (d.element x k a e (.mem (pa e))).2) :: vals) := by
      rw [List.cons_append, Dev.elements]
      simp only [h e List.mem_cons_self, walked_fresh _ _ _ _ _ hstale]
    rw [hfirst, ih _ (hstep.alike.stale.trans hstale) fun e' he' => by
      rw [hstep.alike.translate, hstep.reqOf]
      exact h e' (List.mem_cons_of_mem _ he')]
    simp only [performed, List.map_cons, List.zip_cons_cons, List.reverse_cons, List.append_assoc, List.singleton_append]

end

/-! ## The checks at issue (R136) and at translation (R137) -/

theorem elemCheck_form {n : Nat} {es : List Elem} {e : Elem} (h : es.find? (fun e => decide (2 ^ 56 ≤ e.va.toNat)) = some e) :
    elemCheck n es = some (Cause.access, e.va) := by
  have h' : (es.find? fun e => badForm e.va) = some e := h
  rw [elemCheck, h']

theorem find_badForm {es : List Elem} (h : ∀ e ∈ es, e.va.toNat < 2 ^ 56) : (es.find? fun e => badForm e.va) = none :=
  List.find?_eq_none.2 fun e he => by simpa [badForm] using h e he

theorem elemCheck_align {n : Nat} {es : List Elem} {e : Elem} (h : ∀ e ∈ es, e.va.toNat < 2 ^ 56)
    (hfind : es.find? (fun e => decide (e.va.toNat % n ≠ 0)) = some e) : elemCheck n es = some (Cause.align, e.va) := by
  have hsame : (fun e : Elem => misaligned n e.va) = fun e => decide (e.va.toNat % n ≠ 0) := funext fun e => by
    simp [misaligned, bne, beq_eq_decide]
  rw [elemCheck, find_badForm h, hsame, hfind]
  rfl

theorem elemCheck_passes {n : Nat} {es : List Elem} (h : ∀ e ∈ es, e.va.toNat < 2 ^ 56 ∧ e.va.toNat % n = 0) : elemCheck n es = none := by
  have halign : (es.find? fun e => misaligned n e.va) = none := List.find?_eq_none.2 fun e he => by simp [misaligned, (h e he).2]
  rw [elemCheck, find_badForm fun e he => (h e he).1, halign]
  rfl

/-- What of an element's translation stops its access: no page (true), or a refusal (false). -/
def accessStop (va : Word) : Xlate → Option (Bool × Word)
  | .miss _ => some (true, va)
  | .deny _ => some (false, va)
  | .drop _ _ => some (false, va)
  | _ => none

theorem access_eq (d : Dev) (x : Ctx) (k : Nat) (a : Access) : d.access x k a =
    match (a.elems.filterMap fun e => accessStop e.va (d.translate x.seq (d.reqOf k a.kind) e.va.toNat)).head? with
    | some (true, va) => .fault va
    | _ => d.elements x k a a.elems [] := rfl

section
variable {d : Dev} {x : Ctx} {k : Nat} {a : Access}

theorem stops_of_mem {es : List Elem} (h : ∀ e ∈ es, ∃ pa, d.translate x.seq (d.reqOf k a.kind) e.va.toNat = .mem pa) :
    (es.filterMap fun e => accessStop e.va (d.translate x.seq (d.reqOf k a.kind) e.va.toNat)) = [] :=
  List.filterMap_eq_nil_iff.2 fun e he => by
    obtain ⟨pa, hpa⟩ := h e he
    rw [hpa]
    rfl

/-- The first element that does not translate decides how an access stops. -/
theorem stops_first {pre post : List Elem} {e : Elem} {stop : Bool × Word}
    (h : ∀ e ∈ pre, ∃ pa, d.translate x.seq (d.reqOf k a.kind) e.va.toNat = .mem pa)
    (he : accessStop e.va (d.translate x.seq (d.reqOf k a.kind) e.va.toNat) = some stop) :
    ((pre ++ e :: post).filterMap fun e => accessStop e.va (d.translate x.seq (d.reqOf k a.kind) e.va.toNat)).head? = some stop := by
  rw [List.filterMap_append, stops_of_mem h, List.nil_append, List.filterMap_cons, he]
  rfl

theorem access_elements (h : ∀ e ∈ a.elems, ∃ pa, d.translate x.seq (d.reqOf k a.kind) e.va.toNat = .mem pa) :
    d.access x k a = d.elements x k a a.elems [] := by
  rw [access_eq, stops_of_mem h]
  rfl

end

/-! ## The access of an instruction -/

/-- An instruction's accesses as its core issues them. -/
def issuedAs (x : Accesses) (pc : Word) (tag : Nat) : Access :=
  { pc := pc, kind := x.kind, bytes := x.bytes, elems := x.elems, dst := x.dst, spread := x.spread, tag := tag }

/-- An instruction does what the issue of its accesses does. -/
theorem onCore_of_memory {p : Pred} {gs vs : List Reg} {f : Core → Lane → Access} {s : State} {k : Nat} {a : Access} (ha : s.actor = .core k)
    (hi : (s.dev.core k).issuesV p gs vs) (h : f (s.dev.core k) ((s.dev.core k).mask p) = a) :
    memory p gs vs f s = .next { s with dev := s.dev.finish s.now k (s.dev.issueAccess s.ctx k a) } := by
  obtain ⟨hi, hv⟩ := hi
  have hvs : vs.any (s.dev.core k).pendingV = false := List.any_eq_false.2 fun r hr => by simp [hv r hr]
  rw [memory, onCore_core _ ha, scalarDev_on _ hi.1 (any_pending hi.2), if_neg (by simp [hvs]), h]

theorem exec_memSpec {i : Instr} {s : State} {k : Nat} {p : Pred} {gs vs : List Reg} {x : Accesses} (ha : s.actor = .core k)
    (hx : memSpec (s.dev.core k) i = some (p, gs, vs, x)) (hi : (s.dev.core k).issuesV p gs vs) :
    exec i s = .next { s with dev := s.dev.finish s.now k (s.dev.issueAccess s.ctx k (issuedAs x 0 0)) } := by
  cases i with
  | ld | vld | vldg | vldb | st | vst | vsts | aadd | amin | amax | aand | aor | axor | axchg | acas | vaadd | vamax =>
    cases hx
    unfold exec
    simp only [execLd, execVld, execVldg, execVldb, execSt, execVst, execVsts, execAadd, execAmin, execAmax, execAand, execAor, execAxor,
      execAxchg, execAcas, execVaadd, execVamax, atomic, laneAtomic]
    exact onCore_of_memory ha hi rfl
  | _ => cases hx

/-! ## An access that goes through -/

section
variable {d : Dev} {k : Nat} {x : Accesses}

/-- The accesses that a core issues now. -/
def issuedBy (x : Accesses) (c : Core) : Access := issuedAs x c.pc c.nextTag

theorem issueAccess_done {ctx : Ctx} {d' : Dev} {vals : List (Nat × Word)} (hcheck : elemCheck x.bytes x.elems = none)
    (hb : (d.core k).blocked = false) (h : d.access ctx k (issuedBy x (d.core k)) = .done d' vals) :
    d.issueAccess ctx k (issuedAs x 0 0) = .done (if x.kind = .store then d' else
      d'.setCore k ((d'.core k).launchReply (issuedBy x (d.core k)) ((issuedBy x (d.core k)).result vals) true)) := by
  have hcheck' : elemCheck (issuedAs x 0 0).bytes (issuedAs x 0 0).elems = none := hcheck
  have h' : d.access ctx k { issuedAs x 0 0 with pc := (d.core k).pc, tag := (d.core k).nextTag } = .done d' vals := h
  unfold Dev.issueAccess
  simp only [hcheck', hb, h']
  rfl

end

section
variable {s : State} {k : Nat} {x : Accesses} {pa : Elem → Nat}

/-- What the elements of an access whose pages are all present do, in order. -/
def reached (s : State) (k : Nat) (x : Accesses) (pa : Elem → Nat) (stale : List StaleLeaf) : Dev × List Word :=
  performed s.ctx k (issuedBy x (s.dev.core k)) pa { s.dev with stale := stale } x.elems

/-- An access whose elements all translate does them in order. -/
theorem access_reached (h : s.reach k x pa) : ∃ stale, s.dev.access s.ctx k (issuedBy x (s.dev.core k)) =
    .done (reached s k x pa stale).1 ((x.elems.map Elem.lane).zip (reached s k x pa stale).2) := by
  obtain ⟨hone, hall⟩ := h
  have hmem : ∀ e ∈ x.elems, s.dev.translate s.ctx.seq (s.dev.reqOf k x.kind) e.va.toNat = .mem (pa e) := fun e he => (hall e he).2.2
  have helems : s.dev.access s.ctx k (issuedBy x (s.dev.core k)) = s.dev.elements s.ctx k (issuedBy x (s.dev.core k)) x.elems [] :=
    access_elements fun e he => ⟨pa e, hmem e he⟩
  rcases hone with hstale | hlen
  · refine ⟨s.dev.stale, ?_⟩
    have h := elements_performed (x := s.ctx) (k := k) (a := issuedBy x (s.dev.core k)) (pa := pa) (pre := x.elems) [] [] hstale hmem
    rw [List.append_nil] at h
    rw [helems, h, List.append_nil, Dev.elements, List.reverse_reverse]
    rfl
  · obtain ⟨e, he⟩ := List.length_eq_one_iff.1 hlen
    have hfirst := hmem e (by rw [he]; exact List.mem_singleton_self e)
    set d1 := s.dev.walked s.ctx.seq (s.dev.reqOf k x.kind).die (s.dev.reqOf k x.kind).world e.va.toNat with hd1
    have hwalked : d1 = { s.dev with stale := d1.stale } := by
      rw [hd1]
      unfold Dev.walked
      split <;> rfl
    refine ⟨d1.stale, ?_⟩
    rw [helems, reached, he, ← hwalked, Dev.elements]
    simp only [show (issuedBy x (s.dev.core k)).kind = x.kind from rfl, hfirst]
    rfl

/-- What an access that goes through leaves of the device. -/
theorem reached_accessed (stale : List StaleLeaf) : (∃ t, (reached s k x pa stale).1.core k = { s.dev.core k with ltime := t }) ∧
    (∀ j, j ≠ k → (reached s k x pa stale).1.core j = s.dev.core j) ∧ (reached s k x pa stale).1.quads = s.dev.quads := by
  have h := performed_accessed (x := s.ctx) (k := k) (a := issuedBy x (s.dev.core k)) (pa := pa) { s.dev with stale := stale } x.elems
  exact ⟨h.own, h.others, h.quads⟩

end

section
variable {i : Instr} {s : State} {k : Nat} {p : Pred} {gs vs : List Reg} {x : Accesses} {pa : Elem → Nat} (ha : s.actor = .core k)
  (hb : (s.dev.core k).blocked = false) (hx : memSpec (s.dev.core k) i = some (p, gs, vs, x)) (hi : (s.dev.core k).issuesV p gs vs)
  (hr : s.reach k x pa)

include ha hb hx hi hr

/-- An access that goes through completes its instruction. -/
theorem exec_reached : ∃ stale, exec i s = .next (s.completed k (if x.kind = .store then (reached s k x pa stale).1 else
    (reached s k x pa stale).1.setCore k (((reached s k x pa stale).1.core k).launchReply (issuedBy x (s.dev.core k))
      ((issuedBy x (s.dev.core k)).result ((x.elems.map Elem.lane).zip (reached s k x pa stale).2)) true)) ((s.dev.core k).pc + 8)) := by
  obtain ⟨stale, haccess⟩ := access_reached hr
  have hcheck : elemCheck x.bytes x.elems = none := elemCheck_passes fun e he => ⟨(hr.2 e he).1, (hr.2 e he).2.1⟩
  exact ⟨stale, (exec_memSpec ha hx hi).trans (by rw [issueAccess_done hcheck hb haccess]; rfl)⟩

/-- A load or atomic that goes through puts its values in flight. -/
theorem exec_replies (hk : x.kind ≠ .store) : ∃ stale t time, exec i s = .next t ∧ t.dev.mem = (reached s k x pa stale).1.mem ∧
    t.dev.core k = { s.dev.core k with
      pend := killDst x.dst (s.dev.core k).pend ++ [inFlight (s.dev.core k) x.dst
        ((issuedBy x (s.dev.core k)).result ((x.elems.map Elem.lane).zip (reached s k x pa stale).2))],
      nextTag := (s.dev.core k).nextTag + 1, ltime := time, pc := (s.dev.core k).pc + 8, wait := none, stage := .none } ∧
    ∀ j, j ≠ k → t.dev.core j = s.dev.core j := by
  obtain ⟨stale, hexec⟩ := exec_reached ha hb hx hi hr
  obtain ⟨⟨time, hown⟩, hothers, -⟩ := reached_accessed (s := s) (k := k) (x := x) (pa := pa) stale
  rw [if_neg hk] at hexec
  obtain ⟨hcore, hmem⟩ := jumped_to (reached s k x pa stale).1 k (((reached s k x pa stale).1.core k).launchReply (issuedBy x (s.dev.core k))
    ((issuedBy x (s.dev.core k)).result ((x.elems.map Elem.lane).zip (reached s k x pa stale).2)) true) ((s.dev.core k).pc + 8)
  refine ⟨stale, _, time, hexec, hmem, hcore.trans ?_, fun j hj => ?_⟩
  · rw [hown]
    rfl
  · rw [State.completed, core_retire_other _ _ hj, core_setCore_other _ _ hj, hothers j hj]

end

end Sys2Proof.Proofs
end

section
/-! PROOFS. Loads, stores and atomics whose pages are all present (R136 to R142, R177, R178). -/

namespace Sys2Proof.Proofs

open Sys2Proof Sys2Proof.Machine Sys2Proof.Laws

/-! ## The accesses of Tables 7.9 and 7.10 -/

/-- The elements of an access have 1 to 128 bytes, a power of two, and compare with one value; a load alone may write its value to
several lanes. -/
structure Shaped (x : Accesses) : Prop where
  bytes : ∃ n, n < 8 ∧ x.bytes = 2 ^ n
  cmp : ∀ e ∈ x.elems, e.cmp = (x.elems.map Elem.cmp).headD 0
  spread : x.kind ≠ .load → x.spread = 0

theorem shaped_perLane (kind : MemKind) (m : Lane) (va : Nat → Word) (data : Nat → Lane) (dst : Dst) : Shaped (perLane kind m va data dst) := by
  refine ⟨⟨2, by decide, rfl⟩, fun e he => ?_, fun _ => rfl⟩
  obtain ⟨j, -, rfl⟩ := List.mem_map.1 he
  rw [perLane, List.map_map]
  cases activeLanes m <;> rfl

theorem shaped_one (kind : MemKind) (sz : BitVec 3) (va data cmp : Word) (dst : Dst) : Shaped (one kind (2 ^ sz.toNat) va data cmp dst) :=
  ⟨⟨sz.toNat, sz.isLt, rfl⟩, fun e he => by rw [List.mem_singleton.1 he]; rfl, fun _ => rfl⟩

theorem memSpec_shape {c : Core} {i : Instr} {p : Pred} {gs vs : List Reg} {x : Accesses} (h : memSpec c i = some (p, gs, vs, x)) : Shaped x := by
  cases i with
  | ld | st | aadd | amin | amax | aand | aor | axor | axchg | acas =>
    cases h
    exact shaped_one _ _ _ _ _ _
  | vld | vldg | vst | vsts | vaadd | vamax =>
    cases h
    exact shaped_perLane _ _ _ _ _
  | vldb _ d =>
    cases h
    exact ⟨⟨2, by decide, rfl⟩, (shaped_one .load 2 _ 0 0 (.v d.toNat)).cmp, fun hk => absurd rfl hk⟩
  | _ => cases h

/-- An aligned element lies in one line. -/
theorem element_line {n a b : Nat} (hn : n < 8) (ha : a % 2 ^ n = 0) (hb : b % 128 = a % 128) : b % 128 + 2 ^ n ≤ 128 := by
  rw [hb]
  interval_cases n <;> omega

theorem result_own {x : Accesses} {c : Core} {vals : List (Nat × Word)} (h : x.spread = 0) : (issuedBy x c).result vals = vals := if_pos h

theorem result_spread {x : Accesses} {c : Core} {vals : List (Nat × Word)} (h : x.spread ≠ 0) :
    (issuedBy x c).result vals = (activeLanes x.spread).map fun i => (i, (vals.headD (0, 0)).2) := if_neg h

/-! ## Values and memory of an access that goes through -/

section
variable {s : State} {k : Nat} {x : Accesses} {pa : Elem → Nat} (stale : List StaleLeaf)

theorem length_reached : (reached s k x pa stale).2.length = x.elems.length := length_performed _ _

theorem reached_lanes : ((x.elems.map Elem.lane).zip (reached s k x pa stale).2).map Prod.fst = x.elems.map Elem.lane :=
  List.map_fst_zip (by rw [length_reached, List.length_map])

theorem reached_reads (hk : x.kind = .load) (hline : ∀ e ∈ x.elems, pa e % 128 + x.bytes ≤ 128) {j : Nat} {e : Elem} {w : Word}
    (he : x.elems[j]? = some e) (hw : (reached s k x pa stale).2[j]? = some w) : s.dev.mayRead (quadOfCore k) (pa e) x.bytes w :=
  performed_load_reads (a := issuedBy x (s.dev.core k)) hk (d0 := { s.dev with stale := stale }) rfl (LeasesFrom.refl _) hline he hw

theorem mem_reached_store (hk : x.kind = .store) :
    (reached s k x pa stale).1.mem = storeAll x.bytes s.dev.mem (x.elems.map fun e => (pa e, e.data)) :=
  mem_performed_store (a := issuedBy x (s.dev.core k)) hk _ _

theorem reached_atomic {op : AtomicOp} (hk : x.kind = .atomic op) (hcmp : ∀ e ∈ x.elems, e.cmp = (x.elems.map Elem.cmp).headD 0) :
    let r := atomicAll op x.bytes ((x.elems.map Elem.cmp).headD 0) s.dev.mem (x.elems.map fun e => (pa e, e.data))
    (reached s k x pa stale).1.mem = r.1 ∧ (reached s k x pa stale).2 = r.2 :=
  performed_atomic (a := issuedBy x (s.dev.core k)) hk _ hcmp

end

theorem get_storeAll_other {n : Nat} {m : SMap 8} {xs : List (Nat × Word)} {b : Nat} (h : ∀ y ∈ xs, b < y.1 ∨ y.1 + n ≤ b) :
    SMap.get (storeAll n m xs) b = SMap.get m b := by
  induction xs generalizing m with
  | nil => rfl
  | cons y ys ih =>
    refine (ih fun z hz => h z (List.mem_cons_of_mem _ hz)).trans (get_setRun_other _ _ _ _ ?_)
    rw [length_bytesOf]
    exact h y List.mem_cons_self

theorem get_atomicAll_other {op : AtomicOp} {n : Nat} {cmp : Word} {m : SMap 8} {xs : List (Nat × Word)} {b : Nat}
    (h : ∀ y ∈ xs, b < y.1 ∨ y.1 + n ≤ b) : SMap.get (atomicAll op n cmp m xs).1 b = SMap.get m b := by
  induction xs generalizing m with
  | nil => rfl
  | cons y ys ih =>
    refine (ih fun z hz => h z (List.mem_cons_of_mem _ hz)).trans (get_setRun_other _ _ _ _ ?_)
    rw [length_bytesOf]
    exact h y List.mem_cons_self

theorem forall_placed {x : Accesses} {pa : Elem → Nat} {b : Nat} (h : ∀ e ∈ x.elems, b < pa e ∨ pa e + x.bytes ≤ b) :
    ∀ y ∈ x.elems.map fun e => (pa e, e.data), b < y.1 ∨ y.1 + x.bytes ≤ b := by
  intro y hy
  obtain ⟨e, he, rfl⟩ := List.mem_map.1 hy
  exact h e he

/-! ## Loads (R136, R138 to R140) -/

theorem pref_completes {s : State} {k : Nat} {p : Pred} {b x : Reg} {disp : BitVec 24} (ha : s.actor = .core k)
    (hi : (s.dev.core k).issues p [b, x]) : exec (.pref p b x disp) s = .next (s.completedCore k (s.dev.core k)) := by
  unfold exec execPref
  exact onRegs_scalar ha hi rfl

/-- Settles O38: a load's values are `reached_reads`, and its bytes those before. -/
theorem loadsPutTheirResultInFlight : Obligations.LoadsPutTheirResultInFlight := by
  unfold Obligations.LoadsPutTheirResultInFlight
  refine ⟨?_, fun s k p b x disp ha hi => pref_completes ha hi⟩
  intro i s k p gs vs x pa ha hb hx hk hi hr c
  obtain ⟨n, hn, hbytes⟩ := (memSpec_shape hx).bytes
  have hline : ∀ e ∈ x.elems, pa e % 128 + x.bytes ≤ 128 := fun e he => by
    obtain ⟨-, halign, htr⟩ := hr.2 e he
    rw [hbytes] at halign ⊢
    exact element_line hn halign (translate_line htr)
  obtain ⟨stale, t, time, hexec, hmem, hcore, -⟩ := exec_replies ha hb hx hi hr (by rw [hk]; exact MemKind.noConfusion)
  have hsame : t.dev.mem = s.dev.mem := hmem.trans (mem_performed_load (a := issuedBy x c) hk _ _)
  refine ⟨t, _, time, hexec, fun b => by rw [hsame], hcore, fun h0 => ?_, fun h0 => ?_, fun h0 j e v he hv => ?_, fun h0 e v he hv => ?_⟩
  · rw [result_own h0]
    exact reached_lanes stale
  · rw [result_spread h0, List.map_map]
    exact List.map_id _
  · rw [result_own h0] at hv
    obtain ⟨_, hw⟩ := List.getElem?_zip_eq_some.1 hv
    exact reached_reads stale hk hline he hw
  · rw [result_spread h0] at hv
    obtain ⟨l, -, rfl⟩ := List.mem_map.1 hv
    obtain ⟨w, hw⟩ := List.length_eq_one_iff.1 (show (reached s k x pa stale).2.length = 1 by rw [length_reached, he]; rfl)
    have hval : (((x.elems.map Elem.lane).zip (reached s k x pa stale).2).headD (0, 0)).2 = w := by rw [hw, he]; rfl
    rw [hval]
    exact reached_reads stale hk hline (j := 0) (by rw [he]; rfl) (by rw [hw]; rfl)

/-! ## Stores (R136, R138, R139) -/

/-- Settles O39: a store's memory is `mem_reached_store`. -/
theorem storesWriteTheirElementsAlone : Obligations.StoresWriteTheirElementsAlone := by
  unfold Obligations.StoresWriteTheirElementsAlone
  intro i s k p gs vs x pa ha hb hx hk hi hr
  obtain ⟨stale, hexec⟩ := exec_reached ha hb hx hi hr
  obtain ⟨⟨time, hown⟩, hothers, hquads⟩ := reached_accessed (s := s) (k := k) (x := x) (pa := pa) stale
  have hmem := mem_reached_store (s := s) (k := k) (pa := pa) stale hk
  rw [if_pos hk] at hexec
  have hmem' := (mem_retire (reached s k x pa stale).1 k ((s.dev.core k).pc + 8)).trans hmem
  refine ⟨_, time, hexec, hmem', fun b hb' => ?_, fun e he => ?_, ?_, fun j hj => ?_, fun q => ?_⟩
  · exact (congrArg (SMap.get · b) hmem').trans (get_storeAll_other (forall_placed hb'))
  · rw [he] at hmem'
    have hsame := getRun_setRun_same s.dev.mem (pa e) (bytesOf x.bytes e.data)
    rw [length_bytesOf] at hsame
    exact (congrArg (SMap.getRun · (pa e) x.bytes) hmem').trans hsame
  · exact (core_retire _ _ _).trans (by rw [hown])
  · exact (core_retire_other _ _ hj).trans (hothers j hj)
  · exact (quad_retire _ _ _ _).trans (by rw [Dev.quad, Dev.quad, hquads])

/-! ## Atomics (R141, R142) -/

/-- Settles O40: an atomic's memory and values are `reached_atomic`. -/
theorem atomicsReadModifyAndWrite : Obligations.AtomicsReadModifyAndWrite := by
  unfold Obligations.AtomicsReadModifyAndWrite
  intro i s k p gs vs x op pa ha hb hx hk hi hr c r
  obtain ⟨stale, t, time, hexec, hmem, hcore, hothers⟩ := exec_replies ha hb hx hi hr (by rw [hk]; exact MemKind.noConfusion)
  obtain ⟨hmem', hvals⟩ := reached_atomic (s := s) (k := k) (pa := pa) stale hk (memSpec_shape hx).cmp
  have hspread := (memSpec_shape hx).spread (by rw [hk]; exact MemKind.noConfusion)
  refine ⟨t, time, hexec, hmem.trans hmem', fun b hb' => ?_, ?_, hothers⟩
  · exact (congrArg (SMap.get · b) (hmem.trans hmem')).trans (get_atomicAll_other (forall_placed hb'))
  · rw [hcore, result_own hspread, hvals]

end Sys2Proof.Proofs
end

section
/-! PROOFS. Memory accesses that fail a check, wait for a page or are denied (R135 to R138, R295). -/

namespace Sys2Proof.Proofs

open Sys2Proof Sys2Proof.Machine Sys2Proof.Laws

/-! ## The issue of an access that does not go through -/

section
variable {d : Dev} {ctx : Ctx} {k : Nat} {x : Accesses} {va : Word}

theorem issueAccess_trap {cause : Nat} (hcheck : elemCheck x.bytes x.elems = some (cause, va)) :
    d.issueAccess ctx k (issuedAs x 0 0) = .trap cause va := by
  have hcheck' : elemCheck (issuedAs x 0 0).bytes (issuedAs x 0 0).elems = some (cause, va) := hcheck
  simp only [Dev.issueAccess, hcheck']

/-- The core that holds an access in flight behind others. -/
def holds (c : Core) (x : Accesses) : Core := { c.launchReply (issuedBy x c) [] false with held := c.held ++ [.access (issuedBy x c)] }

theorem issueAccess_held (hcheck : elemCheck x.bytes x.elems = none) (hh : (d.core k).held ≠ []) :
    d.issueAccess ctx k (issuedAs x 0 0) = .done (d.setCore k (holds (d.core k) x)) := by
  have hcheck' : elemCheck (issuedAs x 0 0).bytes (issuedAs x 0 0).elems = none := hcheck
  have hb : (d.core k).blocked = true := by simp [Core.blocked, hh]
  unfold Dev.issueAccess
  simp only [hcheck', hb]
  rfl

variable (hcheck : elemCheck x.bytes x.elems = none) (hh : (d.core k).held = [])

include hcheck hh

theorem issueAccess_fault (h : d.access ctx k (issuedBy x (d.core k)) = .fault va) :
    d.issueAccess ctx k (issuedAs x 0 0) = .done ((d.setCore k (holds (d.core k) x)).recordFault ctx.now (.core k) (d.core k).world
      (some (quadOfCore k)) va (x.kind != .load)) := by
  have hcheck' : elemCheck (issuedAs x 0 0).bytes (issuedAs x 0 0).elems = none := hcheck
  have hb : (d.core k).blocked = false := by simp [Core.blocked, hh]
  have h' : d.access ctx k { issuedAs x 0 0 with pc := (d.core k).pc, tag := (d.core k).nextTag } = .fault va := h
  unfold Dev.issueAccess
  simp only [hcheck', hb, h', holds, hh]
  rfl

theorem issueAccess_denied {d' : Dev} (h : d.access ctx k (issuedBy x (d.core k)) = .deny d' va) :
    d.issueAccess ctx k (issuedAs x 0 0) = .trapPart d' Cause.access va := by
  have hcheck' : elemCheck (issuedAs x 0 0).bytes (issuedAs x 0 0).elems = none := hcheck
  have hb : (d.core k).blocked = false := by simp [Core.blocked, hh]
  have h' : d.access ctx k { issuedAs x 0 0 with pc := (d.core k).pc, tag := (d.core k).nextTag } = .deny d' va := h
  unfold Dev.issueAccess
  simp only [hcheck', hb, h']
  rfl

end

theorem recordFault_eq (d : Dev) (now : Now) (party : Party) (world : Nat) (quad : Option Nat) (va : Word) (write : Bool) :
    ∃ ws hm, d.recordFault now party world quad va write = { d with
      faults := d.faults ++ [{ party := party, world := world, va := va, write := write, invalid := false }], worlds := ws, hostMem := hm } := by
  unfold Dev.recordFault Dev.faultEvent
  exact event_eq _ _ _ _ _ _

/-! ## Where an access stops -/

section
variable {d : Dev} {x : Ctx} {k : Nat} {a : Access} {pre post : List Elem} {e : Elem} (helems : a.elems = pre ++ e :: post)

include helems

theorem access_misses {cause : Nat} (hpre : ∀ e ∈ pre, ∃ pa, d.translate x.seq (d.reqOf k a.kind) e.va.toNat = .mem pa)
    (he : d.translate x.seq (d.reqOf k a.kind) e.va.toNat = .miss cause) : d.access x k a = .fault e.va := by
  rw [access_eq, helems, stops_first (stop := (true, e.va)) hpre (by rw [he]; rfl)]

/-- An access whose first element that does not translate is refused does those before it. -/
theorem access_refused (hpre : ∀ e ∈ pre, ∃ pa, d.translate x.seq (d.reqOf k a.kind) e.va.toNat = .mem pa)
    (he : accessStop e.va (d.translate x.seq (d.reqOf k a.kind) e.va.toNat) = some (false, e.va)) :
    d.access x k a = d.elements x k a (pre ++ e :: post) [] := by
  rw [access_eq, helems, stops_first hpre he]

theorem access_denied {why : Bool} {pa : Elem → Nat} (hstale : d.stale = [])
    (hpre : ∀ e ∈ pre, d.translate x.seq (d.reqOf k a.kind) e.va.toNat = .mem (pa e))
    (he : d.translate x.seq (d.reqOf k a.kind) e.va.toNat = .deny why) : d.access x k a = .deny (performed x k a pa d pre).1 e.va := by
  have hkept := performed_accessed (x := x) (k := k) (a := a) (pa := pa) d pre
  rw [access_refused helems (fun e he => ⟨_, hpre e he⟩) (by rw [he]; rfl), elements_performed _ _ hstale hpre, Dev.elements]
  simp only [hkept.alike.translate, hkept.reqOf, he]

end

section
variable {d : Dev} {x : Ctx} {k : Nat} {a : Access} {post : List Elem} {e : Elem} (helems : a.elems = e :: post)

include helems

theorem access_denied_first {why : Bool} (he : d.translate x.seq (d.reqOf k a.kind) e.va.toNat = .deny why) : d.access x k a = .deny d e.va := by
  rw [access_refused (pre := []) helems (by simp) (by rw [he]; rfl), List.nil_append, Dev.elements]
  simp only [he]

theorem access_dropped_first {die router : Nat} (he : d.translate x.seq (d.reqOf k a.kind) e.va.toNat = .drop die router) :
    d.access x k a = .deny (d.foreignDrop x.now die (d.reqOf k a.kind).world (d.reqOf k a.kind).gen router) e.va := by
  rw [access_refused (pre := []) helems (by simp) (by rw [he]; rfl), List.nil_append, Dev.elements]
  simp only [he]
  rfl

end

/-! ## What an access that does not go through leaves -/

theorem trapCore_access (c : Core) (info pc : Word) : (trapCore c Cause.access info pc).halted = true ∧
    (trapCore c Cause.access info pc).pc = c.pc ∧
    (c.inHandler = false → (trapCore c Cause.access info pc).trapCause = 0x0C ∧ (trapCore c Cause.access info pc).trapInfo = info ∧
      (trapCore c Cause.access info pc).trapPc = pc) := by
  cases h : c.inHandler with
  | true =>
    rw [trapCore_inside info pc h]
    exact ⟨rfl, rfl, fun h' => absurd h' (by decide)⟩
  | false =>
    rw [trapCore_halts info pc h (.inl rfl)]
    exact ⟨rfl, rfl, fun _ => ⟨rfl, rfl, rfl⟩⟩

section
variable {i : Instr} {s : State} {k : Nat} {p : Pred} {gs vs : List Reg} {x : Accesses} (ha : s.actor = .core k)
  (hx : memSpec (s.dev.core k) i = some (p, gs, vs, x)) (hi : (s.dev.core k).issuesV p gs vs)

include ha hx hi

theorem exec_checkFails {cause : Nat} {va : Word} (hcheck : elemCheck x.bytes x.elems = some (cause, va)) :
    exec i s = .next (s.trapped k cause va) := (exec_memSpec ha hx hi).trans (by rw [issueAccess_trap hcheck]; rfl)

variable (hform : ∀ e ∈ x.elems, e.va.toNat < 2 ^ 56 ∧ e.va.toNat % x.bytes = 0)

include hform

theorem exec_behindHeld (hh : (s.dev.core k).held ≠ []) : ∃ t a, exec i s = .next t ∧ t.dev.mem = s.dev.mem ∧
    (t.dev.core k).pc = (s.dev.core k).pc + 8 ∧ (t.dev.core k).held = (s.dev.core k).held ++ [.access a] ∧
    a.elems = x.elems ∧ a.kind = x.kind ∧ a.dst = x.dst := by
  obtain ⟨hcore, hmem⟩ := jumped_to s.dev k (holds (s.dev.core k) x) ((s.dev.core k).pc + 8)
  refine ⟨s.completed k (s.dev.setCore k (holds (s.dev.core k) x)) ((s.dev.core k).pc + 8), issuedBy x (s.dev.core k),
    (exec_memSpec ha hx hi).trans (by rw [issueAccess_held (elemCheck_passes hform) hh]; rfl), hmem, ?_, ?_, rfl, rfl, rfl⟩
  · rw [State.completed, hcore]
  · rw [State.completed, hcore]
    rfl

variable (hh : (s.dev.core k).held = []) {pre post : List Elem} {e : Elem} (helems : x.elems = pre ++ e :: post)

include hh helems

/-- A missing page holds the access whole, and is reported. -/
theorem exec_misses {cause : Nat} (hpre : ∀ e ∈ pre, ∃ pa, s.dev.translate s.seq (s.dev.reqOf k x.kind) e.va.toNat = .mem pa)
    (he : s.dev.translate s.seq (s.dev.reqOf k x.kind) e.va.toNat = .miss cause) :
    ∃ t a l, exec i s = .next t ∧ (t.dev.core k).held = [.access a] ∧ a.elems = x.elems ∧ a.kind = x.kind ∧ a.dst = x.dst ∧
      (t.dev.core k).pc = (s.dev.core k).pc + 8 ∧ (t.dev.core k).g = (s.dev.core k).g ∧ (t.dev.core k).v = (s.dev.core k).v ∧
      t.dev.mem = s.dev.mem ∧ (t.dev.core k).pend = killDst x.dst (s.dev.core k).pend ++ [l] ∧ l.dst = x.dst ∧ l.ready = false ∧
      ∃ f, t.dev.faults = s.dev.faults ++ [f] ∧ f.va = e.va ∧ f.world = (s.dev.core k).world ∧ f.write = (x.kind != .load) := by
  have hmiss := access_misses (x := s.ctx) (a := issuedBy x (s.dev.core k)) helems hpre he
  have hexec := (exec_memSpec ha hx hi).trans (by rw [issueAccess_fault (elemCheck_passes hform) hh hmiss])
  have hheld : (holds (s.dev.core k) x).held = [.access (issuedBy x (s.dev.core k))] := by rw [holds, hh]; rfl
  obtain ⟨l, hpend, hl⟩ : ∃ l, (holds (s.dev.core k) x).pend = killDst x.dst (s.dev.core k).pend ++ [l] ∧ l.dst = x.dst ∧ l.ready = false :=
    ⟨_, rfl, rfl, rfl⟩
  have hg : (holds (s.dev.core k) x).g = (s.dev.core k).g := rfl
  have hv : (holds (s.dev.core k) x).v = (s.dev.core k).v := rfl
  generalize holds (s.dev.core k) x = c at *
  obtain ⟨ws, hm, hfault⟩ := recordFault_eq (s.dev.setCore k c) s.now (.core k) (s.dev.core k).world (some (quadOfCore k)) e.va (x.kind != .load)
  set d1 := (s.dev.setCore k c).recordFault s.now (.core k) (s.dev.core k).world (some (quadOfCore k)) e.va (x.kind != .load) with hd1
  have hcore1 : d1.core k = c := by
    rw [hfault]
    exact core_setCore s.dev k c
  have hmem1 : d1.mem = s.dev.mem := by rw [hfault]; rfl
  obtain ⟨ws', hretire⟩ := retire_eq d1 k ((s.dev.core k).pc + 8)
  have hcore := core_retire d1 k ((s.dev.core k).pc + 8)
  rw [hcore1] at hcore
  refine ⟨s.completed k d1 ((s.dev.core k).pc + 8), issuedBy x (s.dev.core k), l, hexec, ?_, rfl, rfl, rfl, ?_⟩
  · exact (congrArg Core.held hcore).trans hheld
  · refine ⟨congrArg Core.pc hcore, (congrArg Core.g hcore).trans hg, (congrArg Core.v hcore).trans hv, (mem_retire _ _ _).trans hmem1,
      (congrArg Core.pend hcore).trans hpend, hl.1, hl.2,
      { party := .core k, world := (s.dev.core k).world, va := e.va, write := x.kind != .load, invalid := false }, ?_, rfl, rfl, rfl⟩
    rw [State.completed, hretire, hfault]
    rfl

/-- A refusal of a later element takes effect after those before it. -/
theorem exec_denied {why : Bool} {pa : Elem → Nat} (hstale : s.dev.stale = [])
    (hpre : ∀ e ∈ pre, s.dev.translate s.seq (s.dev.reqOf k x.kind) e.va.toNat = .mem (pa e))
    (he : s.dev.translate s.seq (s.dev.reqOf k x.kind) e.va.toNat = .deny why) :
    ∃ t time, exec i s = .next t ∧ t.dev.mem = (performed s.ctx k (issuedBy x (s.dev.core k)) pa s.dev pre).1.mem ∧
      t.dev.core k = trapCore { s.dev.core k with ltime := time } Cause.access e.va (s.dev.core k).pc := by
  have hdeny := access_denied (x := s.ctx) (a := issuedBy x (s.dev.core k)) helems hstale hpre he
  have hexec := (exec_memSpec ha hx hi).trans (by rw [issueAccess_denied (elemCheck_passes hform) hh hdeny])
  obtain ⟨time, hown⟩ := (performed_accessed (x := s.ctx) (k := k) (a := issuedBy x (s.dev.core k)) (pa := pa) s.dev pre).own
  generalize (performed s.ctx k (issuedBy x (s.dev.core k)) pa s.dev pre).1 = d at *
  refine ⟨_, time, hexec, ?_, ?_⟩
  · exact (mem_takeTrapAt _ _ _ _ _ _ _).trans (mem_issued _ _)
  · refine (core_takeTrapAt _ _ _ _ _ _ _).trans ?_
    rw [core_issued, hown]

end

section
variable {i : Instr} {s : State} {k : Nat} {p : Pred} {gs vs : List Reg} {x : Accesses} (ha : s.actor = .core k)
  (hx : memSpec (s.dev.core k) i = some (p, gs, vs, x)) (hi : (s.dev.core k).issuesV p gs vs)
  (hform : ∀ e ∈ x.elems, e.va.toNat < 2 ^ 56 ∧ e.va.toNat % x.bytes = 0)
  (hh : (s.dev.core k).held = []) {post : List Elem} {e : Elem} (helems : x.elems = e :: post)

include ha hx hi hform hh helems

theorem exec_denied_first {why : Bool} (he : s.dev.translate s.seq (s.dev.reqOf k x.kind) e.va.toNat = .deny why) :
    exec i s = .next (s.trapped k 0x0C e.va) :=
  (exec_memSpec ha hx hi).trans (by
    rw [issueAccess_denied (elemCheck_passes hform) hh (access_denied_first (x := s.ctx) (a := issuedBy x (s.dev.core k)) helems he)]
    rfl)

theorem exec_dropped_first {die router : Nat} (he : s.dev.translate s.seq (s.dev.reqOf k x.kind) e.va.toNat = .drop die router) :
    exec i s = .next ({ s with dev := s.dev.foreignDrop s.now die (s.dev.reqOf k x.kind).world (s.dev.reqOf k x.kind).gen router }.trapped
      k 0x0C e.va) := by
  have hdrop := access_dropped_first (x := s.ctx) (a := issuedBy x (s.dev.core k)) helems he
  have hcore : (s.dev.foreignDrop s.now die (s.dev.reqOf k x.kind).world (s.dev.reqOf k x.kind).gen router).core k = s.dev.core k := by
    obtain ⟨-, -, -, ds, ws, hm, h⟩ := foreignDrop_spec s.dev s.now die (s.dev.reqOf k x.kind).world (s.dev.reqOf k x.kind).gen router
    rw [h]
    rfl
  refine (exec_memSpec ha hx hi).trans ?_
  rw [issueAccess_denied (elemCheck_passes hform) hh hdrop, State.trapped]
  simp only [hcore]
  rfl

end

end Sys2Proof.Proofs
end

section
/-! PROOFS. Translation: the apertures, and what a leaf allows (R163, R164, R295, R299, R302, R321). -/

namespace Sys2Proof.Proofs

open Sys2Proof Sys2Proof.Machine Sys2Proof.Laws

/-! ## The apertures (Table 11.2) -/

section
variable {d : Dev} {seq va : Nat} {r : Req}

/-- The place of a quad's vault, where the world owns the quad. -/
def vaultPlace (d : Dev) (r : Req) (q o : Nat) : Xlate :=
  if (d.world r.world).owns q then .mem (d.pkgId * 2 ^ 44 + 0x010000000000 + q * 2 ^ 21 + o) else .drop (q / 256) (q % 256)

theorem translate_aperture (h : vaWindow ≤ va) (h56 : va < 2 ^ 56) : d.translate seq r va = d.aperture r va := by
  rw [Dev.translate, if_neg (Nat.not_le.2 h56), if_pos h]

theorem translate_window {q o : Nat} (hq : q < 1024) (ho : o < 2 ^ 21) :
    d.translate seq r (0xFF000000000000 + q * 2 ^ 21 + o) = vaultPlace d r q o := by
  have hquad : (0xFF000000000000 + q * 2 ^ 21 + o - vaWindow) / 0x200000 = q := by
    rw [vaWindow]
    omega
  have hoff : (0xFF000000000000 + q * 2 ^ 21 + o - vaWindow) % 0x200000 = o := by
    rw [vaWindow]
    omega
  rw [translate_aperture (by rw [vaWindow]; omega) (by omega), Dev.aperture]
  simp only
  rw [if_pos (by rw [vaWindow]; omega), hquad, hoff]
  rfl

theorem translate_local {q o : Nat} (hq : r.quad = some q) (ho : o < 2 ^ 21) :
    d.translate seq r (0xFFF00000000000 + o) = vaultPlace d r q o := by
  rw [translate_aperture (by rw [vaWindow]; omega) (by omega), Dev.aperture]
  simp only [hq]
  rw [if_neg (by rw [vaWindow]; omega), if_pos (by rw [vaLocal]; omega), vaLocal, Nat.add_sub_cancel_left]
  rfl

theorem translate_outside (h : 0xFF000000000000 + 2 ^ 31 ≤ va) (hl : ¬ (0xFFF00000000000 ≤ va ∧ va < 0xFFF00000000000 + 2 ^ 21)) :
    d.translate seq r va = .deny false := by
  by_cases h56 : 2 ^ 56 ≤ va
  · rw [Dev.translate, if_pos h56]
  · rw [translate_aperture (by rw [vaWindow]; omega) (by omega), Dev.aperture]
    simp only
    rw [if_neg (by rw [vaWindow]; omega), if_neg (by rw [vaLocal]; omega)]

/-! ## The leaf that translates (R169, R321) -/

variable (hstale : d.stale = []) (hva : va < 0xFF000000000000)

include hstale

theorem leafFor_fresh (die : Nat) : d.leafFor seq die r.world va = (d.world r.world).leafOf va := by
  rw [Dev.leafFor, Dev.leavesFor, hstale]
  rfl

include hva

theorem translate_unmapped (hleaf : (d.world r.world).leafOf va = none) (hw : r.world ≠ 0) : d.translate seq r va = .miss 2 := by
  rw [Dev.translate, if_neg (by omega), if_neg (by rw [vaWindow]; omega), leafFor_fresh hstale, hleaf]
  simp only [registerView]
  rw [if_neg fun h => hw h.1]

theorem translate_leaf {level : Nat} {e : Word} (hleaf : (d.world r.world).leafOf va = some (level, e)) (hvalid : leafValid e = true) :
    d.translate seq r va = d.useLeaf r va level e := by
  rw [Dev.translate, if_neg (by omega), if_neg (by rw [vaWindow]; omega), leafFor_fresh hstale, hleaf]
  simp only
  rw [if_pos hvalid]

end

/-! ## What a leaf allows (R295, R299, R302, R307) -/

section
variable {d : Dev} {r : Req} {va level : Nat} {e : Word}

/-- The frame of a leaf may be named by a world. -/
def NamesFrame (f : Frame) (world : Nat) : Prop := f.state = .clean ∨ f.state = .inUse ∧ f.world = world

theorem serves_iff (f : Frame) (world : Nat) : f.serves world = true ↔ NamesFrame f world := by
  unfold Frame.serves NamesFrame
  cases f.state <;> simp

/-- The world has the key slot of a leaf. -/
def Keyed (d : Dev) (r : Req) (e : Word) : Prop := leafSlot e ∈ (d.world r.world).keySlots ∧ (d.keySlot (leafSlot e)).state = .assigned

/-- The key slot of the record that a request goes through is the leaf's. -/
def SlotAgrees (r : Req) (e : Word) : Prop := r.slot = none ∨ r.slot = some (leafSlot e)

/-- A write is allowed by the leaf's own bits. -/
def LeafWrites (r : Req) (e : Word) : Prop := r.write = true → leafWrite e = true ∧ leafExec e = false

theorem leafWrites_iff : (r.write && (!leafWrite e || leafExec e)) = true ↔ ¬ LeafWrites r e := by
  unfold LeafWrites
  cases r.write <;> cases leafWrite e <;> cases leafExec e <;> simp

theorem slotAgrees_iff : (match r.slot with | some s => s != leafSlot e | none => false) = true ↔ ¬ SlotAgrees r e := by
  unfold SlotAgrees
  cases r.slot <;> simp

theorem keyed_iff : (!((d.world r.world).keySlots.contains (leafSlot e) && (d.keySlot (leafSlot e)).state == .assigned)) = true ↔
    ¬ Keyed d r e := by
  simp [Keyed, ← not_and_or]

/-- What a present leaf of a page of memory whose frame the world may name allows at an address. -/
def leafAllows (d : Dev) (r : Req) (pa : Nat) (e : Word) : Xlate :=
  if r.write && (!leafWrite e || leafExec e) then .deny true
  else if (match r.slot with | some s => s != leafSlot e | none => false) then .deny true
  else if !((d.world r.world).keySlots.contains (leafSlot e) && (d.keySlot (leafSlot e)).state == .assigned) then
    .drop (homeDie pa) (portRouter pa)
  else if r.write && d.execAt r.world pa then .deny true
  else if d.paOk r.world pa then .mem pa else .deny false

theorem useLeaf_absent (hp : leafPresent e = false) : d.useLeaf r va level e = .miss 1 := if_pos (by simp [hp])

theorem useLeaf_unnamed (hp : leafPresent e = true) (hport : leafPort e = false)
    (hf : ¬ NamesFrame (d.frame ((leafBase e + va % 2 ^ pageBits level) / 65536)) r.world) : d.useLeaf r va level e = .miss 2 := by
  rw [← serves_iff] at hf
  unfold Dev.useLeaf
  simp only
  rw [if_neg (by simp [hp]), if_neg (by simp [hport]), if_pos (by simpa using hf)]

theorem useLeaf_named (hp : leafPresent e = true) (hport : leafPort e = false)
    (hf : NamesFrame (d.frame ((leafBase e + va % 2 ^ pageBits level) / 65536)) r.world) :
    d.useLeaf r va level e = leafAllows d r (leafBase e + va % 2 ^ pageBits level) e := by
  rw [← serves_iff] at hf
  unfold Dev.useLeaf
  simp only
  rw [if_neg (by simp [hp]), if_neg (by simp [hport]), if_neg (by simp [hf])]
  rfl

variable {pa : Nat}

theorem leafAllows_maps (hk : Keyed d r e) (ha : SlotAgrees r e) (hw : LeafWrites r e) (hx : r.write = true → d.execAt r.world pa = false)
    (hpa : d.paOk r.world pa = true) : leafAllows d r pa e = .mem pa := by
  have hexec : ¬ (r.write && d.execAt r.world pa) = true := by
    rw [Bool.and_eq_true]
    exact fun h => by simp [hx h.1] at h
  rw [leafAllows, if_neg (mt leafWrites_iff.1 (not_not.2 hw)), if_neg (mt slotAgrees_iff.1 (not_not.2 ha)),
    if_neg (mt keyed_iff.1 (not_not.2 hk)), if_neg hexec, if_pos hpa]

/-- Under its key, a leaf denies a request of another slot, and a write that it or an executable page does not allow. -/
theorem leafAllows_denies (hk : Keyed d r e) (h : ¬ (SlotAgrees r e ∧ LeafWrites r e ∧ (r.write = true → d.execAt r.world pa = false))) :
    leafAllows d r pa e = .deny true := by
  by_cases hw : LeafWrites r e
  · by_cases ha : SlotAgrees r e
    · have hexec : (r.write && d.execAt r.world pa) = true := by
        rw [Bool.and_eq_true]
        by_contra hn
        exact h ⟨ha, hw, fun hr => by simpa [hr] using hn⟩
      rw [leafAllows, if_neg (mt leafWrites_iff.1 (not_not.2 hw)), if_neg (mt slotAgrees_iff.1 (not_not.2 ha)),
        if_neg (mt keyed_iff.1 (not_not.2 hk)), if_pos hexec]
    · rw [leafAllows, if_neg (mt leafWrites_iff.1 (not_not.2 hw)), if_pos (slotAgrees_iff.2 ha)]
  · rw [leafAllows, if_pos (leafWrites_iff.2 hw)]

theorem leafAllows_drops (hk : ¬ Keyed d r e) (ha : SlotAgrees r e) (hw : LeafWrites r e) :
    leafAllows d r pa e = .drop (pa % 2 ^ 44 / 2 ^ 37 % 4) (256 + pa % 2 ^ 44 / 2 ^ 36) := by
  rw [leafAllows, if_neg (mt leafWrites_iff.1 (not_not.2 hw)), if_neg (mt slotAgrees_iff.1 (not_not.2 ha)), if_pos (keyed_iff.2 hk)]
  rfl

end

/-- A write that its leaf and no executable page forbids. -/
theorem writes_iff {d : Dev} {r : Req} {e : Word} {pa : Nat} :
    (r.write = true → leafWrite e = true ∧ leafExec e = false ∧ d.execAt r.world pa = false) ↔
      LeafWrites r e ∧ (r.write = true → d.execAt r.world pa = false) := by
  unfold LeafWrites
  tauto

/-! ## O41 -/

/-- What a denied access leaves: its core halted, and the elements below the denied one done. -/
theorem exec_denied_spec {i : Instr} {s : State} {k : Nat} {p : Pred} {gs vs : List Reg} {x : Accesses} (ha : s.actor = .core k)
    (hx : memSpec (s.dev.core k) i = some (p, gs, vs, x)) (hi : (s.dev.core k).issuesV p gs vs)
    (hform : ∀ e ∈ x.elems, e.va.toNat < 2 ^ 56 ∧ e.va.toNat % x.bytes = 0) (hh : (s.dev.core k).held = [])
    {pre post : List Elem} {e : Elem} (helems : x.elems = pre ++ e :: post) {why : Bool} {pa : Elem → Nat} (hstale : s.dev.stale = [])
    (hpre : ∀ e ∈ pre, s.dev.translate s.seq (s.dev.reqOf k x.kind) e.va.toNat = .mem (pa e))
    (he : s.dev.translate s.seq (s.dev.reqOf k x.kind) e.va.toNat = .deny why) :
    ∃ t, exec i s = .next t ∧ (t.dev.core k).halted = true ∧ (t.dev.core k).pc = (s.dev.core k).pc ∧
      (t.dev.core k).g = (s.dev.core k).g ∧ (t.dev.core k).v = (s.dev.core k).v ∧ (t.dev.core k).pend = (s.dev.core k).pend ∧
      ((s.dev.core k).inHandler = false →
        (t.dev.core k).trapCause = 0x0C ∧ (t.dev.core k).trapInfo = e.va ∧ (t.dev.core k).trapPc = (s.dev.core k).pc) ∧
      (x.kind = .load → t.dev.mem = s.dev.mem) ∧
      (x.kind = .store → t.dev.mem = storeAll x.bytes s.dev.mem (pre.map fun e => (pa e, e.data))) ∧
      (∀ op, x.kind = .atomic op → t.dev.mem =
        (atomicAll op x.bytes ((x.elems.map Elem.cmp).headD 0) s.dev.mem (pre.map fun e => (pa e, e.data))).1) := by
  obtain ⟨t, time, hexec, hmem, hcore⟩ := exec_denied ha hx hi hform hh helems hstale hpre he
  obtain ⟨hhalted, hpc, htrap⟩ := trapCore_access { s.dev.core k with ltime := time } e.va (s.dev.core k).pc
  obtain ⟨hg, hv, -, -, -, -, -, -, -, -, hpend⟩ := trapCore_keeps { s.dev.core k with ltime := time } Cause.access e.va (s.dev.core k).pc
  have hcmp : ∀ e ∈ pre, e.cmp = (x.elems.map Elem.cmp).headD 0 := fun e he =>
    (memSpec_shape hx).cmp e (by rw [helems]; exact List.mem_append_left _ he)
  refine ⟨t, hexec, ?_⟩
  rw [hcore]
  exact ⟨hhalted, hpc, hg, hv, hpend, htrap, fun hk => hmem.trans (mem_performed_load (a := issuedBy x (s.dev.core k)) hk _ _),
    fun hk => hmem.trans (mem_performed_store (a := issuedBy x (s.dev.core k)) hk _ _),
    fun op hk => hmem.trans (performed_atomic (a := issuedBy x (s.dev.core k)) hk _ hcmp).1⟩

/-- Settles O41: the checks at issue, the elements in order up to the first that does not translate, and the tests of a leaf. -/
theorem accessesAreChecked : Obligations.AccessesAreChecked := by
  unfold Obligations.AccessesAreChecked
  refine ⟨?_, ?_⟩
  · intro i s k p gs vs x ha hx hi c req
    refine ⟨fun e he => exec_checkFails ha hx hi (elemCheck_form he), fun e hform he => exec_checkFails ha hx hi (elemCheck_align hform he),
      fun hform => ⟨exec_behindHeld ha hx hi hform, fun hh pre e post helems => ⟨?_, ?_, ?_, ?_⟩⟩⟩
    · exact fun cause hpre he => exec_misses ha hx hi hform hh helems hpre he
    · intro why hpre he
      rw [hpre, List.nil_append] at helems
      exact exec_denied_first ha hx hi hform hh helems he
    · intro die router hpre he
      rw [hpre, List.nil_append] at helems
      exact exec_dropped_first ha hx hi hform hh helems he
    · exact fun why pa hstale hpre he => exec_denied_spec ha hx hi hform hh helems hstale hpre he
  · intro d seq r vault
    refine ⟨fun q o hq ho => translate_window hq ho, fun q o hq ho => translate_local hq ho, fun va h hl => translate_outside h hl,
      fun va hstale hva => ⟨translate_unmapped hstale hva, ?_⟩⟩
    intro level e hleaf hvalid hport pa f names keyed agrees writes
    rw [translate_leaf hstale hva hleaf hvalid]
    refine ⟨useLeaf_absent, fun hp hn => useLeaf_unnamed hp hport hn, fun hp hn hk ha hw hpa => ?_, fun hp hn hk hd => ?_,
      fun hp hn hk ha hw => ?_⟩
    · obtain ⟨hw, hexec⟩ := writes_iff.1 hw
      exact (useLeaf_named hp hport hn).trans (leafAllows_maps hk ha hw hexec hpa)
    · exact (useLeaf_named hp hport hn).trans (leafAllows_denies hk fun h => hd ⟨h.1, writes_iff.2 h.2⟩)
    · exact (useLeaf_named hp hport hn).trans (leafAllows_drops hk ha hw)

end Sys2Proof.Proofs
end
